-- ==== Sys2Proof/Word.lean ====
section
/-! DEFINITION. The word types of the Obique SZ3 (R3, R4, R9) and the sparse table every keyed part of the state is held in. -/

namespace Sys2Proof

/-- R3: a byte. -/
abbrev Byte := BitVec 8
/-- R3: a word of 32 bits. -/
abbrev W32 := BitVec 32
/-- R3: a double word of 64 bits. -/
abbrev W64 := BitVec 64
/-- R3: a line of 64 bytes, byte 0 in bits 7:0 (R5). -/
abbrev Line := BitVec 512

/-- Sparse data by key: a list of key and value pairs; a key that is not listed has the table's default value. -/
abbrev Tab (β : Type) := List (Nat × β)

/-- The first value listed under a key. -/
def Tab.find {β : Type} : Tab β → Nat → Option β
  | [], _ => none
  | (k', v) :: t, k => if k = k' then some v else Tab.find t k

/-- The value under a key, or the default. -/
def Tab.get {β : Type} (t : Tab β) (k : Nat) (d : β) : β :=
  match Tab.find t k with
  | some v => v
  | none => d

/-- Writes a value under a key, keeping rising keys rising. -/
def Tab.put {β : Type} : Tab β → Nat → β → Tab β
  | [], k, v => [(k, v)]
  | (k', v') :: t, k, v =>
    if k < k' then (k, v) :: (k', v') :: t
    else if k = k' then (k, v) :: t
    else (k', v') :: Tab.put t k v

/-- Removes every pair under a key. -/
def Tab.del {β : Type} : Tab β → Nat → Tab β
  | [], _ => []
  | (k', v') :: t, k => if k = k' then Tab.del t k else (k', v') :: Tab.del t k

/-- Changes the value under a key. -/
def Tab.upd {β : Type} (t : Tab β) (k : Nat) (d : β) (f : β → β) : Tab β :=
  Tab.put t k (f (Tab.get t k d))

/-- R10 `x<h:l>` of a 64-bit value, as a number. -/
def bitsN {n : Nat} (x : BitVec n) (h l : Nat) : Nat :=
  x.toNat / 2 ^ l % 2 ^ (h + 1 - l)

/-- R10 `x<i>` as a truth value. -/
def bitB {n : Nat} (x : BitVec n) (i : Nat) : Bool := x.getLsbD i

/-- A double word from a number. -/
def w64 (n : Nat) : W64 := BitVec.ofNat 64 n
/-- A word from a number. -/
def w32 (n : Nat) : W32 := BitVec.ofNat 32 n

end Sys2Proof
end

