-- ==== Sys2Proof/Config.lean ====
section
/-! DEFINITION. What each module fixes for itself, and the values the specification leaves open: constants without a body, so that no proof can see a value. -/

namespace Sys2Proof.Config

/-- R107: the key pair the device generates for key slot 0 at reset and never exports. -/
opaque deviceKey : BitVec 512

/-- R93 word 0: the silicon revision, from 1. -/
opaque revision : BitVec 8

/-- R93 word 3: whether a wing is binned, with a largest gallery N of 192 instead of 256. -/
opaque binned : Nat → Bool

/-- A free value (log 4): what the specification calls undefined or does not state, drawn afresh at each number. -/
opaque freeWord : Nat → W64

/-- R439: the device's measurements, certificates and responses are opaque byte strings (log 4). -/
opaque measurement : Nat → BitVec 256

/-- R131: the exponent of the first root of the flit's code, which the specification does not name (log 4). -/
opaque fecRoot : Nat

end Sys2Proof.Config
end

