-- ==== Sys2Proof/Syntax.lean ====
section
/-! DEFINITION. The syntax: one constructor for each step of spec/opcode_table.json. Landing-core instructions (R73–R77) and bay instructions (R67) carry the fields of their words and act at the unit the state's focus names; stream commands (R79), gallery control words (R270) and tag operations (R202) carry theirs; every other step takes its unit and its operands from the focus. -/

namespace Sys2Proof

/-- The steps of the Obique SZ3. -/
inductive Instr where
  /-- R339: Landing-core integer add of xa and xb into xd. -/
  | add (d a b : BitVec 5)
  /-- R339: Landing-core integer subtract of xb from xa into xd. -/
  | sub (d a b : BitVec 5)
  /-- R339: Landing-core bitwise and into xd. -/
  | and (d a b : BitVec 5)
  /-- R339: Landing-core bitwise or into xd. -/
  | or (d a b : BitVec 5)
  /-- R339: Landing-core bitwise exclusive or into xd. -/
  | xor (d a b : BitVec 5)
  /-- R339: Landing-core left shift of xa by xb, zero when the shift is 64 or more. -/
  | shl (d a b : BitVec 5)
  /-- R339: Landing-core logical right shift of xa by xb. -/
  | shr (d a b : BitVec 5)
  /-- R339: Landing-core arithmetic right shift of xa by min(xb, 63). -/
  | sra (d a b : BitVec 5)
  /-- R339: Landing-core low 64 bits of the signed product. -/
  | mul (d a b : BitVec 5)
  /-- R339: Landing-core high 64 bits of the signed product. -/
  | mulh (d a b : BitVec 5)
  /-- R339: Landing-core high 64 bits of the unsigned product. -/
  | mulhN (d a b : BitVec 5)
  /-- R339: Landing-core signed division truncated toward zero, with fixed results for zero divisor and overflow. -/
  | div (d a b : BitVec 5)
  /-- R339: Landing-core unsigned division. -/
  | divN (d a b : BitVec 5)
  /-- R339: Landing-core signed remainder taking the sign of xa. -/
  | rem (d a b : BitVec 5)
  /-- R339: Landing-core unsigned remainder. -/
  | remN (d a b : BitVec 5)
  /-- R339: Landing-core signed set-if-less-than. -/
  | slt (d a b : BitVec 5)
  /-- R339: Landing-core unsigned set-if-less-than. -/
  | sltN (d a b : BitVec 5)
  /-- R339: Landing-core signed minimum. -/
  | min (d a b : BitVec 5)
  /-- R339: Landing-core signed maximum. -/
  | max (d a b : BitVec 5)
  /-- R339: Landing-core unsigned minimum. -/
  | minN (d a b : BitVec 5)
  /-- R339: Landing-core unsigned maximum. -/
  | maxN (d a b : BitVec 5)
  /-- R339: Landing-core count of leading zero bits of xa. -/
  | clz (d a : BitVec 5)
  /-- R339: Landing-core count of set bits of xa. -/
  | popc (d a : BitVec 5)
  /-- R339: Adds a sign-extended 16-bit immediate to xa. -/
  | addi (d a : BitVec 5) (imm : BitVec 16)
  /-- R339: Bitwise and with a zero-extended immediate. -/
  | andi (d a : BitVec 5) (imm : BitVec 16)
  /-- R339: Bitwise or with a zero-extended immediate. -/
  | ori (d a : BitVec 5) (imm : BitVec 16)
  /-- R339: Bitwise exclusive or with a zero-extended immediate. -/
  | xori (d a : BitVec 5) (imm : BitVec 16)
  /-- R339: Signed set-if-less-than against an immediate. -/
  | slti (d a : BitVec 5) (imm : BitVec 16)
  /-- R339: Unsigned set-if-less-than against an immediate. -/
  | sltiN (d a : BitVec 5) (imm : BitVec 16)
  /-- R339: Left shift by an immediate count. -/
  | shli (d a : BitVec 5) (s : BitVec 6)
  /-- R339: Logical right shift by an immediate count. -/
  | shri (d a : BitVec 5) (s : BitVec 6)
  /-- R339: Arithmetic right shift by an immediate count. -/
  | srai (d a : BitVec 5) (s : BitVec 6)
  /-- R339: Loads a sign-extended immediate shifted left by 16. -/
  | lui (d : BitVec 5) (imm : BitVec 16)
  /-- R339: Replaces bits 47:32 of xa with the immediate. -/
  | luh (d a : BitVec 5) (imm : BitVec 16)
  /-- R339: Replaces bits 63:48 of xa with the immediate. -/
  | luhh (d a : BitVec 5) (imm : BitVec 16)
  /-- R340: Plain sign-extending byte load. -/
  | ldI8 (d a : BitVec 5) (imm : BitVec 16)
  /-- R340: Plain zero-extending byte load. -/
  | ldN8 (d a : BitVec 5) (imm : BitVec 16)
  /-- R340: Plain sign-extending half load. -/
  | ldI16 (d a : BitVec 5) (imm : BitVec 16)
  /-- R340: Plain zero-extending half load. -/
  | ldN16 (d a : BitVec 5) (imm : BitVec 16)
  /-- R340: Plain sign-extending word load. -/
  | ldI32 (d a : BitVec 5) (imm : BitVec 16)
  /-- R340: Plain zero-extending word load. -/
  | ldN32 (d a : BitVec 5) (imm : BitVec 16)
  /-- R340: Plain double-word load. -/
  | ld64 (d a : BitVec 5) (imm : BitVec 16)
  /-- R340: Plain byte store of xb. -/
  | st8 (a b : BitVec 5) (imm : BitVec 16)
  /-- R340: Plain half store of xb. -/
  | st16 (a b : BitVec 5) (imm : BitVec 16)
  /-- R340: Plain word store of xb. -/
  | st32 (a b : BitVec 5) (imm : BitVec 16)
  /-- R340: Plain double-word store of xb. -/
  | st64 (a b : BitVec 5) (imm : BitVec 16)
  /-- R341: Load followed by an acquire at the named scope. -/
  | ldAcq (d a : BitVec 5) (size : BitVec 2) (scope : BitVec 3) (sx : BitVec 1)
  /-- R341: Release at the named scope followed by a store. -/
  | stRel (a b : BitVec 5) (size : BitVec 2) (scope : BitVec 3)
  /-- R341: Landing-core synchronising read of a scratchpad granule, waiting until full, optionally emptying it. -/
  | ldSync (d a : BitVec 5) (size : BitVec 2) (clr sx : BitVec 1)
  /-- R341: Landing-core synchronising read that also acquires at the named scope. -/
  | ldSyncAcq (d a : BitVec 5) (size : BitVec 2) (scope : BitVec 3) (clr sx : BitVec 1)
  /-- R342: Loads 1 to 16 double words into consecutive registers after translating every page. -/
  | ldm (d a : BitVec 5) (n : BitVec 4)
  /-- R342: Stores 1 to 16 consecutive registers after checking every source and page. -/
  | stm (d a : BitVec 5) (n : BitVec 4)
  /-- R343: Indivisible read-modify-write at the owning memory edge, returning the old value. -/
  | amo (d a b : BitVec 5) (dbl : BitVec 1) (scope : BitVec 3) (order : BitVec 2) (op : BitVec 4)
  /-- R343: Indivisible compare-and-swap at the owning memory edge. -/
  | cas (d a b : BitVec 5) (dbl : BitVec 1) (scope : BitVec 3) (order : BitVec 2)
  /-- R344: Holds later accesses and issues until earlier accesses are performed at the scope. -/
  | fence (scope : BitVec 3)
  /-- R345: Unconditional PC-relative branch. -/
  | br (imm : BitVec 26)
  /-- R345: PC-relative branch saving the return address in x31. -/
  | call (imm : BitVec 26)
  /-- R345: Register-indirect jump and link. -/
  | jl (d a : BitVec 5) (imm : BitVec 16)
  /-- R346: Sets a predicate from a register comparison. -/
  | setp (p cond : BitVec 3) (a b : BitVec 5)
  /-- R346: Sets a predicate from a comparison with an immediate. -/
  | setpi (p cond : BitVec 3) (a : BitVec 5) (imm : BitVec 15)
  /-- R345: Branch on a predicate of the given sense. -/
  | bp (p : BitVec 3) (sense : BitVec 1) (imm : BitVec 22)
  /-- R346: Logical combination of two predicates. -/
  | plog (p : BitVec 3) (op : BitVec 2) (pa pb : BitVec 3)
  /-- R347: Writes one 32-bit quarter of a command register. -/
  | cmov (c : BitVec 3) (quarter : BitVec 2) (a : BitVec 5) (imm : BitVec 16)
  /-- R347: Loads a 16-byte command register from memory. -/
  | cld (c : BitVec 3) (a : BitVec 5) (imm : BitVec 16)
  /-- R347: Stores a 16-byte command register to memory. -/
  | cst (c : BitVec 3) (a : BitVec 5) (imm : BitVec 16)
  /-- R348: Checks a stream command and hands it to the dispatcher, returning its ticket. -/
  | issue (c : BitVec 3) (a : BitVec 5)
  /-- R349: Reads, or waits for, the retirement status of a ticket. -/
  | cstat (a : BitVec 5) (wait : BitVec 1)
  /-- R350: Requests a gallery or vector shape and writes the grant into a shape register. -/
  | shape (d : BitVec 2) (a b : BitVec 5) (kind : BitVec 2)
  /-- R352: Reads a shape register field, optionally clearing rev. -/
  | shrd (d sh : BitVec 5) (clr : BitVec 1) (f : BitVec 2)
  /-- R353: Arms a watch-table entry on a line registered at its owning edge. -/
  | watch (m a : BitVec 5)
  /-- R355: Waits for a latched watch cause or a timeout. -/
  | mwait (d a : BitVec 5)
  /-- R353: Disarms a watch-table entry. -/
  | unwatch (m : BitVec 5)
  /-- R357: Releases and sends an arrival at a hardware barrier, returning a phase token. -/
  | arrive (d n : BitVec 5)
  /-- R357: Waits until a barrier phase has passed, then acquires. -/
  | await (a : BitVec 5)
  /-- R358: Releases and enqueues a child region in the pending-launch pool. -/
  | launch (d a b : BitVec 5)
  /-- R358: Waits for a child's completion and returns its completion word. -/
  | lwait (d a : BitVec 5)
  /-- R359: Reads a control register. -/
  | csrr (d : BitVec 5) (csr : BitVec 8)
  /-- R359: Writes a control register. -/
  | csrw (a : BitVec 5) (csr : BitVec 8)
  /-- R92: Reads a feature word. -/
  | feat (d : BitVec 5) (n : BitVec 8)
  /-- R333: Software trap into pl1 with a code. -/
  | trap (code : BitVec 8)
  /-- R333: Returns from pl1 to the saved privilege and epc. -/
  | eret
  /-- R360: Drops every TLB entry of the thread's root. -/
  | invalTlb
  /-- R360: Drops the TLB entry that translates xa. -/
  | invalTlbva (a : BitVec 5)
  /-- R360: Drops every instruction-cache line. -/
  | invalIcache
  /-- R360: Drops the instruction-cache line holding xa. -/
  | invalIline (a : BitVec 5)
  /-- R359: Waits until the token queue is nonempty or a report can be taken. -/
  | wfi
  /-- R220: Bay wrapping 32-bit add. -/
  | bayAddI32 (t u : BitVec 6) (f : BitVec 13)
  /-- R220: Bay wrapping 32-bit subtract. -/
  | baySubI32 (t u : BitVec 6) (f : BitVec 13)
  /-- R220: Bay signed saturating add. -/
  | bayAddsI32 (t u : BitVec 6) (f : BitVec 13)
  /-- R220: Bay signed saturating subtract. -/
  | baySubsI32 (t u : BitVec 6) (f : BitVec 13)
  /-- R220: Bay unsigned saturating add. -/
  | bayAddsN32 (t u : BitVec 6) (f : BitVec 13)
  /-- R220: Bay unsigned saturating subtract. -/
  | baySubsN32 (t u : BitVec 6) (f : BitVec 13)
  /-- R220: Bay low 32 bits of the product. -/
  | bayMulI32 (t u : BitVec 6) (f : BitVec 13)
  /-- R220: Bay high 32 bits of the signed product. -/
  | bayMulhI32 (t u : BitVec 6) (f : BitVec 13)
  /-- R220: Bay high 32 bits of the unsigned product. -/
  | bayMulhN32 (t u : BitVec 6) (f : BitVec 13)
  /-- R220: Bay signed minimum. -/
  | bayMinI32 (t u : BitVec 6) (f : BitVec 13)
  /-- R220: Bay signed maximum. -/
  | bayMaxI32 (t u : BitVec 6) (f : BitVec 13)
  /-- R220: Bay unsigned minimum. -/
  | bayMinN32 (t u : BitVec 6) (f : BitVec 13)
  /-- R220: Bay unsigned maximum. -/
  | bayMaxN32 (t u : BitVec 6) (f : BitVec 13)
  /-- R220: Bay bitwise and. -/
  | bayAnd (t u : BitVec 6) (f : BitVec 13)
  /-- R220: Bay bitwise or. -/
  | bayOr (t u : BitVec 6) (f : BitVec 13)
  /-- R220: Bay bitwise exclusive or. -/
  | bayXor (t u : BitVec 6) (f : BitVec 13)
  /-- R220: Bay left shift. -/
  | bayShl (t u : BitVec 6) (f : BitVec 13)
  /-- R220: Bay logical right shift. -/
  | bayShr (t u : BitVec 6) (f : BitVec 13)
  /-- R220: Bay arithmetic right shift. -/
  | baySra (t u : BitVec 6) (f : BitVec 13)
  /-- R220: Bay integer compare under a condition code. -/
  | bayCmpI32 (t u : BitVec 6) (f : BitVec 13)
  /-- R220: Bay unsigned compare. -/
  | bayCmpN32 (t u : BitVec 6) (f : BitVec 13)
  /-- R220: Bay count of leading zeros. -/
  | bayClz (t u : BitVec 6) (f : BitVec 13)
  /-- R220: Bay count of set bits. -/
  | bayPopc (t u : BitVec 6) (f : BitVec 13)
  /-- R220: Bay select by predicate bit 0. -/
  | baySel (t u : BitVec 6) (f : BitVec 13)
  /-- R221: Bay fp32 add. -/
  | bayAddFp32 (t u : BitVec 6) (f : BitVec 13)
  /-- R221: Bay fp32 subtract. -/
  | baySubFp32 (t u : BitVec 6) (f : BitVec 13)
  /-- R221: Bay fp32 multiply. -/
  | bayMulFp32 (t u : BitVec 6) (f : BitVec 13)
  /-- R221: Bay fp32 divide. -/
  | bayDivFp32 (t u : BitVec 6) (f : BitVec 13)
  /-- R221: Bay fp32 square root. -/
  | baySqrtFp32 (t u : BitVec 6) (f : BitVec 13)
  /-- R221: Bay fp32 minimum. -/
  | bayMinFp32 (t u : BitVec 6) (f : BitVec 13)
  /-- R221: Bay fp32 maximum. -/
  | bayMaxFp32 (t u : BitVec 6) (f : BitVec 13)
  /-- R221: Bay fp32 compare. -/
  | bayCmpFp32 (t u : BitVec 6) (f : BitVec 13)
  /-- R221: Bay correctly rounded reciprocal. -/
  | bayRcpFp32 (t u : BitVec 6) (f : BitVec 13)
  /-- R221: Bay correctly rounded reciprocal square root. -/
  | bayRsqrtFp32 (t u : BitVec 6) (f : BitVec 13)
  /-- R221: Bay correctly rounded exp2. -/
  | bayExp2Fp32 (t u : BitVec 6) (f : BitVec 13)
  /-- R221: Bay correctly rounded log2. -/
  | bayLog2Fp32 (t u : BitVec 6) (f : BitVec 13)
  /-- R221: Bay signed integer to fp32 conversion. -/
  | bayCvtFp32I32 (t u : BitVec 6) (f : BitVec 13)
  /-- R221: Bay fp32 to signed integer conversion. -/
  | bayCvtI32Fp32 (t u : BitVec 6) (f : BitVec 13)
  /-- R221: Bay unsigned integer to fp32 conversion. -/
  | bayCvtFp32N32 (t u : BitVec 6) (f : BitVec 13)
  /-- R221: Bay fp32 to unsigned integer conversion. -/
  | bayCvtN32Fp32 (t u : BitVec 6) (f : BitVec 13)
  /-- R221: Bay fp32 to bf16 conversion. -/
  | bayCvtBf16Fp32 (t u : BitVec 6) (f : BitVec 13)
  /-- R221: Bay fp32 to fp16 conversion. -/
  | bayCvtFp16Fp32 (t u : BitVec 6) (f : BitVec 13)
  /-- R221: Bay exact bf16 to fp32 widening. -/
  | bayCvtFp32Bf16 (t u : BitVec 6) (f : BitVec 13)
  /-- R221: Bay exact fp16 to fp32 widening. -/
  | bayCvtFp32Fp16 (t u : BitVec 6) (f : BitVec 13)
  /-- R222: Converts 32 fp32 lanes into one MX block and returns its scale. -/
  | bayCvtmx (t u : BitVec 6) (f : BitVec 13)
  /-- R218: Requests a lane count and width and writes the grant to vs. -/
  | bayVshape (t u : BitVec 6) (f : BitVec 13)
  /-- R222: Vector 32-bit integer add. -/
  | bayVaddI32 (t u : BitVec 6) (f : BitVec 13)
  /-- R222: Vector 32-bit integer multiply. -/
  | bayVmulI32 (t u : BitVec 6) (f : BitVec 13)
  /-- R222: Vector fp32 add. -/
  | bayVaddFp32 (t u : BitVec 6) (f : BitVec 13)
  /-- R222: Vector fp32 subtract. -/
  | bayVsubFp32 (t u : BitVec 6) (f : BitVec 13)
  /-- R222: Vector fp32 multiply. -/
  | bayVmulFp32 (t u : BitVec 6) (f : BitVec 13)
  /-- R222: Vector fp32 minimum. -/
  | bayVminFp32 (t u : BitVec 6) (f : BitVec 13)
  /-- R222: Vector fp32 maximum. -/
  | bayVmaxFp32 (t u : BitVec 6) (f : BitVec 13)
  /-- R222: Vector bf16 add. -/
  | bayVaddBf16 (t u : BitVec 6) (f : BitVec 13)
  /-- R222: Vector bf16 multiply. -/
  | bayVmulBf16 (t u : BitVec 6) (f : BitVec 13)
  /-- R222: Vector fp16 add. -/
  | bayVaddFp16 (t u : BitVec 6) (f : BitVec 13)
  /-- R222: Vector fp16 multiply. -/
  | bayVmulFp16 (t u : BitVec 6) (f : BitVec 13)
  /-- R222: Vector 8-bit integer add. -/
  | bayVaddI8 (t u : BitVec 6) (f : BitVec 13)
  /-- R222: Vector 16-bit integer add. -/
  | bayVaddI16 (t u : BitVec 6) (f : BitVec 13)
  /-- R222: Vector fp32 compare into the lane mask. -/
  | bayVcmpFp32 (t u : BitVec 6) (f : BitVec 13)
  /-- R222: Vector select under the lane mask. -/
  | bayVsel (t u : BitVec 6) (f : BitVec 13)
  /-- R222: Broadcasts a value into every active lane. -/
  | bayVbcast (t u : BitVec 6) (f : BitVec 13)
  /-- R222: Extracts one lane. -/
  | bayVext (t u : BitVec 6) (f : BitVec 13)
  /-- R222: Inserts a value into one lane. -/
  | bayVins (t u : BitVec 6) (f : BitVec 13)
  /-- R222: Permutes lanes by indices. -/
  | bayVperm (t u : BitVec 6) (f : BitVec 13)
  /-- R222: Converts vector lanes between 32-bit and 16-bit formats. -/
  | bayVcvt (t u : BitVec 6) (f : BitVec 13)
  /-- R232: Sends the active beats of a vector register as one vector. -/
  | bayVput (t u : BitVec 6) (f : BitVec 13)
  /-- R232: Takes a vector from a receive channel into a vector register. -/
  | bayVget (t u : BitVec 6) (f : BitVec 13)
  /-- R223: Enters one exact block dot product into a long accumulator. -/
  | bayDot (t u : BitVec 6) (f : BitVec 13)
  /-- R223: Enters one structured-sparse block dot product into a long accumulator. -/
  | bayDots (t u : BitVec 6) (f : BitVec 13)
  /-- R224: Enters a scalar contribution into a long accumulator. -/
  | bayLacc (t u : BitVec 6) (f : BitVec 13)
  /-- R224: Enters each active lane as a contribution. -/
  | bayLvacc (t u : BitVec 6) (f : BitVec 13)
  /-- R224: Sets a long accumulator's anchor. -/
  | bayLanchor (t u : BitVec 6) (f : BitVec 13)
  /-- R224: Clears a long-accumulator cell. -/
  | bayLclr (t u : BitVec 6) (f : BitVec 13)
  /-- R224: Reads a long accumulator out into a format, optionally clearing it. -/
  | bayLread (t u : BitVec 6) (f : BitVec 13)
  /-- R224: Returns a raw word or the anchor of a long accumulator. -/
  | bayLraw (t u : BitVec 6) (f : BitVec 13)
  /-- R226: Plain scratchpad read from the quad's bank group. -/
  | bayLd (t u : BitVec 6) (f : BitVec 13)
  /-- R226: Plain scratchpad write. -/
  | baySt (t u : BitVec 6) (f : BitVec 13)
  /-- R226: Synchronising scratchpad read that waits for a full granule. -/
  | bayLdSync (t u : BitVec 6) (f : BitVec 13)
  /-- R226: Vector load of contiguous lanes. -/
  | bayVld (t u : BitVec 6) (f : BitVec 13)
  /-- R226: Vector store of contiguous lanes. -/
  | bayVst (t u : BitVec 6) (f : BitVec 13)
  /-- R226: Gathers lane-sized elements by lane indices. -/
  | bayVgather (t u : BitVec 6) (f : BitVec 13)
  /-- R226: Indivisible word operation at the bank. -/
  | bayAmo (t u : BitVec 6) (f : BitVec 13)
  /-- R228: Evaluates the LUT patch, optionally updating its state. -/
  | bayLut (t u : BitVec 6) (f : BitVec 13)
  /-- R228: Writes half of a LUT entry. -/
  | bayLutst (t u : BitVec 6) (f : BitVec 13)
  /-- R228: Reads half of a LUT entry. -/
  | bayLutrd (t u : BitVec 6) (f : BitVec 13)
  /-- R229: Routes a value to one target and null to the other by predicate. -/
  | baySteer (t u : BitVec 6) (f : BitVec 13)
  /-- R229: Chooses the non-null or predicated operand. -/
  | bayMerge (t u : BitVec 6) (f : BitVec 13)
  /-- R230: Advances a loop counter against a bound from a slot. -/
  | bayLoop (t u : BitVec 6) (f : BitVec 13)
  /-- R230: Advances a loop counter against a bound taken from a token. -/
  | bayLoopt (t u : BitVec 6) (f : BitVec 13)
  /-- R231: Sends a data or control token on a route class. -/
  | baySend (x : BitVec 8)
  /-- R233: Takes a token from a receive channel or reads token, flag, shape or identity state. -/
  | bayRecv (t u : BitVec 6) (f : BitVec 13)
  /-- R234: Ends the block and selects the next frame or ends the task. -/
  | bayBr (x : BitVec 8)
  /-- R235: Sends a launch token to the hall's landing core. -/
  | bayLaunch (t u : BitVec 6) (f : BitVec 13)
  /-- R229: Tests whether a value is poisoned. -/
  | bayIspois (t u : BitVec 6) (f : BitVec 13)
  /-- R180: Starts a stair's configured pattern or an M-bay port stream. -/
  | bind (port : BitVec 6) (ctx : BitVec 2) (cls flags : BitVec 8) (imm : BitVec 32) (addr : BitVec 64)
  /-- R172: Resuming bind re-issues a stopped stair's recorded element. -/
  | bindResume (port : BitVec 6) (ctx : BitVec 2) (cls flags : BitVec 8) (imm : BitVec 32) (addr : BitVec 64)
  /-- R172: Resuming bind skips the recorded element and continues. -/
  | bindResumeSkip (port : BitVec 6) (ctx : BitVec 2) (cls flags : BitVec 8) (imm : BitVec 32) (addr : BitVec 64)
  /-- R172: Resuming bind abandons a stopped stair's command. -/
  | bindAbandon (port : BitVec 6) (ctx : BitVec 2) (cls flags : BitVec 8) (imm : BitVec 32) (addr : BitVec 64)
  /-- R181: Copies rows between ranges, carrying check values and setting granules full. -/
  | copy (port : BitVec 6) (ctx : BitVec 2) (cls flags : BitVec 8) (imm : BitVec 32) (addr : BitVec 64)
  /-- R182: Writes a pattern over a range and sets full-empty bits as asked. -/
  | fill (port : BitVec 6) (ctx : BitVec 2) (cls flags : BitVec 8) (imm : BitVec 32) (addr : BitVec 64)
  /-- R180: Runs an index-mode read stair. -/
  | gather (port : BitVec 6) (ctx : BitVec 2) (cls flags : BitVec 8) (imm : BitVec 32) (addr : BitVec 64)
  /-- R180: Runs an index-mode write or atomic stair. -/
  | scatter (port : BitVec 6) (ctx : BitVec 2) (cls flags : BitVec 8) (imm : BitVec 32) (addr : BitVec 64)
  /-- R153: Starts a three-party read from an owner into a recipient's window. -/
  | rdfor (port : BitVec 6) (ctx : BitVec 2) (cls flags : BitVec 8) (imm : BitVec 32) (addr : BitVec 64)
  /-- R147: Opens a receive window, emptying its granules. -/
  | rwin (port : BitVec 6) (ctx : BitVec 2) (cls flags : BitVec 8) (imm : BitVec 32) (addr : BitVec 64)
  /-- R148: Closes a receive window, optionally poison-filling empty granules. -/
  | rwclose (port : BitVec 6) (ctx : BitVec 2) (cls flags : BitVec 8) (imm : BitVec 32) (addr : BitVec 64)
  /-- R294: Applies one atomic operation to indexed elements at their owners. -/
  | ramo (port : BitVec 6) (ctx : BitVec 2) (cls flags : BitVec 8) (imm : BitVec 32) (addr : BitVec 64)
  /-- R298: Adds values as contributions into reduction cells, optionally counting a round end. -/
  | rred (port : BitVec 6) (ctx : BitVec 2) (cls flags : BitVec 8) (imm : BitVec 32) (addr : BitVec 64)
  /-- R299: Reads reduction cells out to memory, optionally clearing them. -/
  | rredReadout (port : BitVec 6) (ctx : BitVec 2) (cls flags : BitVec 8) (imm : BitVec 32) (addr : BitVec 64)
  /-- R183: Injects a marker token into a port's stream. -/
  | marker (port : BitVec 6) (ctx : BitVec 2) (cls flags : BitVec 8) (imm : BitVec 32) (addr : BitVec 64)
  /-- R183: Injects a round-end token. -/
  | round (port : BitVec 6) (ctx : BitVec 2) (cls flags : BitVec 8) (imm : BitVec 32) (addr : BitVec 64)
  /-- R183: Injects a swap drain token. -/
  | drain (port : BitVec 6) (ctx : BitVec 2) (cls flags : BitVec 8) (imm : BitVec 32) (addr : BitVec 64)
  /-- R184: Loads a configuration image into a slot through the configuration network. -/
  | cfgload (port : BitVec 6) (ctx : BitVec 2) (cls flags : BitVec 8) (imm : BitVec 32) (addr : BitVec 64)
  /-- R183: Injects a switch marker naming the next slot. -/
  | cfgswitch (port : BitVec 6) (ctx : BitVec 2) (cls flags : BitVec 8) (imm : BitVec 32) (addr : BitVec 64)
  /-- R183: Injects a snapshot token. -/
  | snapshot (port : BitVec 6) (ctx : BitVec 2) (cls flags : BitVec 8) (imm : BitVec 32) (addr : BitVec 64)
  /-- R185: Sends a fence marker into a stair's memory port. -/
  | sfence (port : BitVec 6) (ctx : BitVec 2) (cls flags : BitVec 8) (imm : BitVec 32) (addr : BitVec 64)
  /-- R186: Sends tokens read from memory records into a port. -/
  | inject (port : BitVec 6) (ctx : BitVec 2) (cls flags : BitVec 8) (imm : BitVec 32) (addr : BitVec 64)
  /-- R187: Writes tokens arriving at a port as records in memory. -/
  | collect (port : BitVec 6) (ctx : BitVec 2) (cls flags : BitVec 8) (imm : BitVec 32) (addr : BitVec 64)
  /-- R188: Arms a port's sink counter with a count of done tokens. -/
  | sink (port : BitVec 6) (ctx : BitVec 2) (cls flags : BitVec 8) (imm : BitVec 32) (addr : BitVec 64)
  /-- R189: Performs a shootdown of a virtual range at a scope. -/
  | shoot (port : BitVec 6) (ctx : BitVec 2) (cls flags : BitVec 8) (imm : BitVec 32) (addr : BitVec 64)
  /-- R190: Reads a 64 KiB tile into a gallery operand slot. -/
  | tload (port : BitVec 6) (ctx : BitVec 2) (cls flags : BitVec 8) (imm : BitVec 32) (addr : BitVec 64)
  /-- R191: Requests read windows covering a range. -/
  | prefetch (port : BitVec 6) (ctx : BitVec 2) (cls flags : BitVec 8) (imm : BitVec 32) (addr : BitVec 64)
  /-- R179: A command that retires at start. -/
  | nop (port : BitVec 6) (ctx : BitVec 2) (cls flags : BitVec 8) (imm : BitVec 32) (addr : BitVec 64)
  /-- R192: Retires when earlier commands to the masked ports have retired. -/
  | portwait (port : BitVec 6) (ctx : BitVec 2) (cls flags : BitVec 8) (imm : BitVec 32) (addr : BitVec 64)
  /-- R203: Tag lookup: hit, pending, miss with allocation and emptying, or none. -/
  | tlook (key : BitVec 40)
  /-- R203: Marks a pending tag entry valid. -/
  | tfill (key : BitVec 40)
  /-- R203: Invalidates a tag entry. -/
  | tevict (slot : BitVec 8)
  /-- R203: Pins a valid tag entry. -/
  | tpin (slot : BitVec 8)
  /-- R203: Unpins a valid tag entry. -/
  | tunpin (slot : BitVec 8)
  /-- R203: Marks a valid tag entry dirty. -/
  | tdirty (slot : BitVec 8)
  /-- R203: Returns a tag entry's state. -/
  | tread (slot : BitVec 8)
  /-- R271: Applies a claim of operand slots and accumulator quarters. -/
  | gclaim (mask : BitVec 32) (accm : BitVec 4)
  /-- R271: Queues a release of slots and quarters. -/
  | grelease (mask : BitVec 32) (accm : BitVec 4)
  /-- R273: Records the B binding after checking its slots. -/
  | gbslotB (slot : BitVec 5)
  /-- R274: Appends an A entry capturing the current settings. -/
  | gbslotA (slot : BitVec 5) (rows : BitVec 9) (arow0 : BitVec 8) (keep : BitVec 1)
  /-- R268: Requests K and N and sets the granted shape. -/
  | gshape (kreq nreq : BitVec 9)
  /-- R270: Sets the current anchor. -/
  | ganchor (anchor : BitVec 12)
  /-- R277: Queues a clear of accumulator rows. -/
  | gclear (row0 : BitVec 8) (n : BitVec 9)
  /-- R270: Sets the read-out format, rounding and clear. -/
  | grdfmt (fmt rm : BitVec 3) (clr : BitVec 1)
  /-- R279: Queues a drain capturing read-out settings and route mask. -/
  | gdrain (row0 : BitVec 8) (n : BitVec 9) (dmask tag : BitVec 16)
  /-- R281: Records a pending steer mask for the next drain. -/
  | gsteer (smask : BitVec 16)
  /-- R280: Writes a drain route-table entry. -/
  | groute (entry : BitVec 4) (gk : BitVec 2) (lrow : BitVec 3) (ochan : BitVec 4) (eot : BitVec 1) (q : BitVec 4) (goff : BitVec 20) (rstr : BitVec 13)
  /-- R270: Sets the A and B element formats. -/
  | gfmt (afmt bfmt : BitVec 4)
  /-- R270: Sets the scale slot binding. -/
  | gscale (sslot soff : BitVec 5)
  /-- R282: Queues a fence token. -/
  | gfence (entry : BitVec 4) (tag : BitVec 16)
  /-- R282: Queues a status token. -/
  | gstatus (entry : BitVec 4) (sel clr : BitVec 1)
  /-- R334: A pending report traps a pl0 thread with ie set between two instructions. -/
  | reportTrap
  /-- R213: A block retires once br and every instruction have fired or been nullified, committing register writes. -/
  | blockRetire
  /-- R379: A bay selects a runnable handler for a context and starts its task. -/
  | handlerSelect
  /-- R209: A bay takes a control token at a handler's queue head once no task runs and forwards or acts on it. -/
  | controlTokenTake
  /-- R66: A token arriving at a router is looked up and passed through, delivered locally or discarded. -/
  | linkTokenArrival
  /-- R249: A skip or echo arrives on a return lane and is passed upstream, applied or discarded. -/
  | returnLaneToken
  /-- R250: A galloping probe granule returns and the search advances or closes its bracket. -/
  | gallopProbeReturn
  /-- R246: A scanner takes a reference and emits and closes its fibre. -/
  | scanReference
  /-- R251: An intersecter acts on its input heads, matching, discarding and sending skips. -/
  | isectStep
  /-- R251: A unioner emits the smallest coordinate with fill values. -/
  | unionStep
  /-- R244: An S-bay aligns barriers at every input and acts on them once. -/
  | sbayBarrier
  /-- R253: A repeater pairs a structure token with its fibre's value. -/
  | repeatToken
  /-- R254: A reducer merges a token into a run, fold or key entry. -/
  | reduceToken
  /-- R257: A select unit updates its kept set with an entry. -/
  | selectToken
  /-- R258: A partition unit assigns a row to a part. -/
  | partToken
  /-- R259: A level writer writes an entry or ends a row. -/
  | lwriteToken
  /-- R259: A level writer writes a row's head entry once every write of the row is acknowledged. -/
  | lwriteHeadEntry
  /-- R261: The bump allocator answers a size request with an offset or the sentinel. -/
  | bumpRequest
  /-- R105: A translate-mode S-bay looks up an address token and emits a window or fault token in order. -/
  | translateRequest
  /-- R100: The translation agent walks the page tables and returns a leaf or a fault. -/
  | pageTableWalk
  /-- R117: A page-ready word reaches a translation agent and releases or refuses the spilled entries. -/
  | pageReady
  /-- R122: A shootdown drain reaches a translating part, which invalidates and acknowledges. -/
  | shootdownDrainArrival
  /-- R158: A stair issues the next element access of its flight nest, fibre or index stream. -/
  | stairElementIssue
  /-- R166: A window or fault token arrives on wch and the waiting access issues, spills or faults. -/
  | stairWindowAnswer
  /-- R167: A read line returns into the return buffer and its tokens leave in order after checking. -/
  | stairLineReturn
  /-- R120: The memory edge acknowledges a stair write. -/
  | stairWriteAck
  /-- R169: A token from the bay reaches a stair channel and acts as bound, index, data or control. -/
  | stairTokenArrival
  /-- R119: A fence marker held at a memory port passes once every older access is complete. -/
  | fenceRelease
  /-- R120: A done passes a memory port once every older write is acknowledged. -/
  | memoryPortDone
  /-- R174: The dispatcher starts a queued command when its port and ordering allow. -/
  | commandStart
  /-- R174: A command retires and its status becomes visible to cstat. -/
  | commandRetire
  /-- R188: A sink counter or sinkcnt unit reaches zero and reports to the region controller. -/
  | sinkCountZero
  /-- R197: A bank serves one granule request from a queue in round-robin order. -/
  | bankRequestServe
  /-- R198: A parked synchronising read is served once its granule becomes full. -/
  | parkedReadServe
  /-- R195: A bank applies its mbank word once queued requests complete. -/
  | mbankApply
  /-- R200: A token on an M-bay write stream's input is written or forwarded. -/
  | mportTokenArrival
  /-- R289: A token on an update stream becomes an update or flushes the window. -/
  | updateToken
  /-- R290: A window entry held 16 cycles is applied at its bank. -/
  | updateWindowExpiry
  /-- R306: An owning memory edge performs a read, write or atomic. -/
  | memoryEdgeAccess
  /-- R263: A token crosses the gallery between halls or is taken by its control channel. -/
  | galleryCrossing
  /-- R264: A control token other than a data word is acted on at a gallery control channel. -/
  | galleryMarker
  /-- R271: A waiting claim takes all its resources at once. -/
  | gclaimGrant
  /-- R271: A queued release frees its resources. -/
  | greleaseExecute
  /-- R277: Clears the named accumulator rows one per cycle. -/
  | gclearExecute
  /-- R279: Reads accumulator rows out and sends them to the drain entries. -/
  | gdrainExecute
  /-- R282: Sends the tag token once every earlier entry has retired. -/
  | gfenceExecute
  /-- R282: Sends the status word once every earlier entry has retired. -/
  | gstatusExecute
  /-- R265: A tload line reaches the operand-load port and is written or discarded. -/
  | operandLineWrite
  /-- R276: A present row of an A entry fires and enters its contributions. -/
  | galleryRowFire
  /-- R131: An arcade flit is decoded, CRC-checked, accepted or naked. -/
  | flitReceive
  /-- R134: An arcade lane fails and its port begins to retrain on the healthy half. -/
  | laneFailure
  /-- R134: A port finishes retraining and replays from its buffer. -/
  | portRetrained
  /-- R140: Owner admits a remote read and answers with rresp. -/
  | rreq
  /-- R140: Owner admits and applies a remote write, answering with wack. -/
  | wreq
  /-- R296: Owner applies a remote atomic element and answers with wack. -/
  | areq
  /-- R302: Owner checks the collective record, applies contributions and counts rend. -/
  | cred
  /-- R133: Requester receives read data or a refusal status. -/
  | rresp
  /-- R137: Requester counts a remote write as acknowledged. -/
  | wack
  /-- R153: Owner reads the range and sends rdwr, rdflt and rdsent. -/
  | rdreq
  /-- R149: Recipient admits or refuses a delivery and writes its lines. -/
  | rdwr
  /-- R153: Requester learns the owner has sent its last rdwr and restarts its timer. -/
  | rdsent
  /-- R153: Requester records an owner-side refusal. -/
  | rdflt
  /-- R153: Requester records a recipient acknowledgement and completes the rdfor if done. -/
  | rdack
  /-- R153: Requester records a group acknowledgement. -/
  | gack
  /-- R155: Recipient poison-fills the unwritten lines of a delivery and acknowledges. -/
  | wabort
  /-- R133: A packet of reserved type is discarded and counted. -/
  | reservedPacketDiscard
  /-- R142: An outstanding arcade command times out and the peer is marked dead. -/
  | sourceTimeout
  /-- R142: A hall receives a dead-peer bit and ends outstanding packets to that peer. -/
  | deadPeerBroadcast
  /-- R155: An rdfor's timer runs out and the command completes with deadpeer. -/
  | rdforTimeout
  /-- R365: The hall's launch logic checks and enqueues a launch token from a bay. -/
  | launchToken
  /-- R369: The launch scheduler places a pending launch and starts its threads. -/
  | placement
  /-- R376: An element takes a switch marker, first-switching to the named slot. -/
  | switchMarker
  /-- R377: The switch completes when every sink has reported, handing the thread over. -/
  | switchCompletion
  /-- R384: The region controller finds completion and performs the completion store. -/
  | regionCompletion
  /-- R395: A hall controller stops a context and places drains to start a swap. -/
  | swapStart
  /-- R397: A drain reaches an element input, which saves, records or reports saved. -/
  | drainArrival
  /-- R400: Every element has reported saved and the region becomes swapped. -/
  | saveComplete
  /-- R401: The scheduler restores a swapped-out region onto an eligible placement. -/
  | restore
  /-- R402: A region is restored onto lower maxima with grants revoked at its last invocation. -/
  | revokingRestore
  /-- R404: A waiting context makes no progress for the stall period and is reported. -/
  | watchdogStall
  /-- R405: A save exceeds its limit and the context is lost. -/
  | saveWatchdogExpiry
  /-- R406: A snapshot reaches an element input, which latches and records. -/
  | snapshotArrival
  /-- R407: A hall's snapshot block writes its part and hall 0 writes snapseq. -/
  | snapshotComplete
  /-- R409: A bay fails, is logged, and spare markers are placed. -/
  | bayFailure
  /-- R409: Bay state moves east and the spare column is switched in. -/
  | spareSwitchIn
  /-- R390: A stopped region resumes on fcmd 1. -/
  | fcmdResume
  /-- R390: A stopped region resumes skipping stopped elements on fcmd 2. -/
  | fcmdResumeSkip
  /-- R390: A stopped region and its children are aborted on fcmd 3. -/
  | fcmdAbort
  /-- R357: The home hall counts an arrival for a phase. -/
  | barrierArrival
  /-- R357: A phase's count reaches cnt and the new phase is sent to member halls. -/
  | barrierPhaseComplete
  /-- R357: A member hall receives a new phase and releases waiting awaits. -/
  | barrierPhaseReceive
  /-- R355: A latched watch cause ends an mwait. -/
  | mwaitWake
  /-- R355: An mwait's cycle timeout expires. -/
  | mwaitTimeout
  /-- R334: A write removes the oldest report. -/
  | trpop
  /-- R335: A read returns and removes the head token, acquiring at sys scope. -/
  | tkpay
  /-- R336: A write travels to a bay and changes its handler masks. -/
  | hmskWrite
  /-- R336: A write clears bits of an S-bay's sticky flag word. -/
  | sfrdWrite
  /-- R356: A write configures a hardware barrier and resets its phase. -/
  | barcfgWrite
  /-- R336: A write to a register that has no row of its own. -/
  | registerWrite
  /-- R145: Writing 1 clears a dead-peer bit and resets sequence counters. -/
  | arcDeadWrite
  /-- R141: A write starts an import-cache invalidation. -/
  | arcIinv
  /-- R412: A resync word makes the device write a state summary to host memory. -/
  | resyncRequest
  /-- R436: A write checks and enqueues a root launch. -/
  | rlaunch
  /-- R124: A write retires an HBM channel. -/
  | hbmret
  /-- R435: A write starts a sink-queue descriptor-cache invalidation. -/
  | sqinv
  /-- R438: Loads a key pair into an empty key slot. -/
  | kcmdLoad
  /-- R438: Empties a key slot after admitted accesses are performed. -/
  | kcmdClear
  /-- R440: Selects the run power state. -/
  | pwrRun
  /-- R440: Selects the idle power state in which no launch is placed. -/
  | pwrIdle
  /-- R440: Selects D3hot-ready when no region is live. -/
  | pwrD3hot
  /-- R433: Writes an ingress channel binding, checking its fields. -/
  | ingbWrite
  /-- R434: A host word on an ingress page becomes a token or is dropped. -/
  | ingressWord
  /-- R437: The host writes a sink queue's consumer index. -/
  | consumerIndexWrite
  /-- R437: The device writes a sink-queue entry, the producer index and MSI-X once room exists. -/
  | sinkQueueDelivery
  /-- R432: A host access through the memory aperture reaches a physical address. -/
  | bar4Access
  /-- R440: After PERST# release the device verifies ROM, trains HBM, makes key 0, zeroes memory and trains the link. -/
  | bringUp
  /-- R440: Junction temperature reaches 105 C and halls fire at half rate. -/
  | thermalThrottle
  /-- R440: Temperature falls below 100 C and throttling ends. -/
  | thermalRecover
  /-- R440: Temperature reaches 115 C and shutdown becomes pending. -/
  | thermalShutdown
  /-- R440: 1 ms after shutdown pending the device resets itself. -/
  | thermalReset
  /-- R439: SPDM version request over DOE. -/
  | getVersion
  /-- R439: SPDM capabilities request. -/
  | getCapabilities
  /-- R439: SPDM algorithm negotiation, ML-DSA-44 and SHA3-256 only. -/
  | negotiateAlgorithms
  /-- R439: SPDM digests request. -/
  | getDigests
  /-- R439: SPDM certificate request. -/
  | getCertificate
  /-- R439: SPDM challenge. -/
  | challenge
  /-- R439: SPDM measurements request. -/
  | getMeasurements
  /-- R439: SPDM key exchange. -/
  | keyExchange
  /-- R439: SPDM finish of a secured session. -/
  | finish
  /-- R439: IDE keys are programmed within a secured session. -/
  | ideKm
  /-- R78: A fetched landing-core word with a reserved major, fn, code or nonzero must-be-zero field raises a precise illegal trap with the word in the trap record. -/
  | illegalInstruction
  /-- R354: The owner of a watched peer line reports a write to it, or drops its registration, and the watching entry latches cause 5. -/
  | arcadeInvalidation
  /-- R353: As owner, the device takes a peer's request to register a watched line and later reports writes to that line or drops the registration. -/
  | peerLineRegistration
  /-- R440: The host asserts PERST#, and the device returns to its reset state until the release starts bring-up. -/
  | perstAssertion
  /-- R440: The host moves the function between PCIe D0 and D3hot, and the device power state follows. -/
  | pciePowerStateChange
  deriving DecidableEq, Repr

end Sys2Proof
end

