-- ==== Sys2Proof/WellFormed.lean ====
section
/-! DEFINITION. Well-formed steps: the limits that an encoded instruction's operands must meet beyond the width of their fields (R76, R78, R270). -/

namespace Sys2Proof

/-- R76, R78, R81, R71, R82, R270, R280: the limits of the encoded instructions. The other steps carry no fields. -/
def wellFormed : Instr → Bool
  | .add _ _ _ => true
  | .sub _ _ _ => true
  | .and _ _ _ => true
  | .or _ _ _ => true
  | .xor _ _ _ => true
  | .shl _ _ _ => true
  | .shr _ _ _ => true
  | .sra _ _ _ => true
  | .mul _ _ _ => true
  | .mulh _ _ _ => true
  | .mulhN _ _ _ => true
  | .div _ _ _ => true
  | .divN _ _ _ => true
  | .rem _ _ _ => true
  | .remN _ _ _ => true
  | .slt _ _ _ => true
  | .sltN _ _ _ => true
  | .min _ _ _ => true
  | .max _ _ _ => true
  | .minN _ _ _ => true
  | .maxN _ _ _ => true
  | .clz _ _ => true
  | .popc _ _ => true
  | .addi _ _ _ => true
  | .andi _ _ _ => true
  | .ori _ _ _ => true
  | .xori _ _ _ => true
  | .slti _ _ _ => true
  | .sltiN _ _ _ => true
  | .shli _ _ _ => true
  | .shri _ _ _ => true
  | .srai _ _ _ => true
  | .lui _ _ => true
  | .luh _ _ _ => true
  | .luhh _ _ _ => true
  | .ldI8 _ _ _ => true
  | .ldN8 _ _ _ => true
  | .ldI16 _ _ _ => true
  | .ldN16 _ _ _ => true
  | .ldI32 _ _ _ => true
  | .ldN32 _ _ _ => true
  | .ld64 _ _ _ => true
  | .st8 _ _ _ => true
  | .st16 _ _ _ => true
  | .st32 _ _ _ => true
  | .st64 _ _ _ => true
  | .ldAcq _ _ _ scope _ => scope.toNat ≤ 5
  | .stRel _ _ _ scope => scope.toNat ≤ 5
  | .ldSync _ _ _ _ _ => true
  | .ldSyncAcq _ _ _ scope _ _ => scope.toNat ≤ 5
  | .ldm d _ n => d.toNat + n.toNat ≤ 31
  | .stm d _ n => d.toNat + n.toNat ≤ 31
  | .amo _ _ _ _ scope order op => op.toNat ≤ 8 && scope.toNat ≤ 5 && (order ≠ 0 || scope == 0)
  | .cas _ _ _ _ scope order => scope.toNat ≤ 5 && (order ≠ 0 || scope == 0)
  | .fence scope => scope.toNat ≤ 5
  | .br _ => true
  | .call _ => true
  | .jl _ _ _ => true
  | .setp _ cond _ _ => cond.toNat ≤ 5
  | .setpi _ cond _ _ => cond.toNat ≤ 5
  | .bp _ _ _ => true
  | .plog _ _ _ _ => true
  | .cmov _ _ _ _ => true
  | .cld _ _ _ => true
  | .cst _ _ _ => true
  | .issue _ _ => true
  | .cstat _ _ => true
  | .shape _ _ b kind => kind == 0 || b == 0
  | .shrd _ sh _ f => sh.toNat ≤ 3 && f ≠ 3
  | .watch m _ => m.toNat ≤ 15
  | .mwait _ _ => true
  | .unwatch m => m.toNat ≤ 15
  | .arrive _ _ => true
  | .await _ => true
  | .launch _ _ _ => true
  | .lwait _ _ => true
  | .csrr _ _ => true
  | .csrw _ _ => true
  | .feat _ _ => true
  | .trap _ => true
  | .eret => true
  | .invalTlb => true
  | .invalTlbva _ => true
  | .invalIcache => true
  | .invalIline _ => true
  | .wfi => true
  | .bayAddI32 _ _ _ => true
  | .baySubI32 _ _ _ => true
  | .bayAddsI32 _ _ _ => true
  | .baySubsI32 _ _ _ => true
  | .bayAddsN32 _ _ _ => true
  | .baySubsN32 _ _ _ => true
  | .bayMulI32 _ _ _ => true
  | .bayMulhI32 _ _ _ => true
  | .bayMulhN32 _ _ _ => true
  | .bayMinI32 _ _ _ => true
  | .bayMaxI32 _ _ _ => true
  | .bayMinN32 _ _ _ => true
  | .bayMaxN32 _ _ _ => true
  | .bayAnd _ _ _ => true
  | .bayOr _ _ _ => true
  | .bayXor _ _ _ => true
  | .bayShl _ _ _ => true
  | .bayShr _ _ _ => true
  | .baySra _ _ _ => true
  | .bayCmpI32 _ _ _ => true
  | .bayCmpN32 _ _ _ => true
  | .bayClz _ _ _ => true
  | .bayPopc _ _ _ => true
  | .baySel _ _ _ => true
  | .bayAddFp32 _ _ _ => true
  | .baySubFp32 _ _ _ => true
  | .bayMulFp32 _ _ _ => true
  | .bayDivFp32 _ _ _ => true
  | .baySqrtFp32 _ _ _ => true
  | .bayMinFp32 _ _ _ => true
  | .bayMaxFp32 _ _ _ => true
  | .bayCmpFp32 _ _ _ => true
  | .bayRcpFp32 _ _ _ => true
  | .bayRsqrtFp32 _ _ _ => true
  | .bayExp2Fp32 _ _ _ => true
  | .bayLog2Fp32 _ _ _ => true
  | .bayCvtFp32I32 _ _ _ => true
  | .bayCvtI32Fp32 _ _ _ => true
  | .bayCvtFp32N32 _ _ _ => true
  | .bayCvtN32Fp32 _ _ _ => true
  | .bayCvtBf16Fp32 _ _ _ => true
  | .bayCvtFp16Fp32 _ _ _ => true
  | .bayCvtFp32Bf16 _ _ _ => true
  | .bayCvtFp32Fp16 _ _ _ => true
  | .bayCvtmx _ _ _ => true
  | .bayVshape _ _ _ => true
  | .bayVaddI32 _ _ _ => true
  | .bayVmulI32 _ _ _ => true
  | .bayVaddFp32 _ _ _ => true
  | .bayVsubFp32 _ _ _ => true
  | .bayVmulFp32 _ _ _ => true
  | .bayVminFp32 _ _ _ => true
  | .bayVmaxFp32 _ _ _ => true
  | .bayVaddBf16 _ _ _ => true
  | .bayVmulBf16 _ _ _ => true
  | .bayVaddFp16 _ _ _ => true
  | .bayVmulFp16 _ _ _ => true
  | .bayVaddI8 _ _ _ => true
  | .bayVaddI16 _ _ _ => true
  | .bayVcmpFp32 _ _ _ => true
  | .bayVsel _ _ _ => true
  | .bayVbcast _ _ _ => true
  | .bayVext _ _ _ => true
  | .bayVins _ _ _ => true
  | .bayVperm _ _ _ => true
  | .bayVcvt _ _ _ => true
  | .bayVput _ _ _ => true
  | .bayVget _ _ _ => true
  | .bayDot _ _ _ => true
  | .bayDots _ _ _ => true
  | .bayLacc _ _ _ => true
  | .bayLvacc _ _ _ => true
  | .bayLanchor _ _ _ => true
  | .bayLclr _ _ _ => true
  | .bayLread _ _ _ => true
  | .bayLraw _ _ _ => true
  | .bayLd _ _ _ => true
  | .baySt _ _ _ => true
  | .bayLdSync _ _ _ => true
  | .bayVld _ _ _ => true
  | .bayVst _ _ _ => true
  | .bayVgather _ _ _ => true
  | .bayAmo _ _ _ => true
  | .bayLut _ _ _ => true
  | .bayLutst _ _ _ => true
  | .bayLutrd _ _ _ => true
  | .baySteer _ _ _ => true
  | .bayMerge _ _ _ => true
  | .bayLoop _ _ _ => true
  | .bayLoopt _ _ _ => true
  | .baySend _ => true
  | .bayRecv _ _ _ => true
  | .bayBr _ => true
  | .bayLaunch _ _ _ => true
  | .bayIspois _ _ _ => true
  | .bind _ _ _ flags imm _ => !flags.getLsbD 0 && !imm.getLsbD 31
  | .bindResume _ _ _ flags imm _ => !flags.getLsbD 0 && imm.getLsbD 31 && !imm.getLsbD 30 && !imm.getLsbD 29
  | .bindResumeSkip _ _ _ flags imm _ => !flags.getLsbD 0 && imm.getLsbD 31 && !imm.getLsbD 30 && imm.getLsbD 29
  | .bindAbandon _ _ _ flags imm _ => !flags.getLsbD 0 && imm.getLsbD 31 && imm.getLsbD 30
  | .copy _ _ _ flags _ _ => !flags.getLsbD 0
  | .fill _ _ _ flags _ _ => !flags.getLsbD 0
  | .gather _ _ _ flags _ _ => !flags.getLsbD 0
  | .scatter _ _ _ flags _ _ => !flags.getLsbD 0
  | .rdfor _ _ _ flags _ _ => !flags.getLsbD 0
  | .rwin _ _ _ flags _ _ => !flags.getLsbD 0
  | .rwclose _ _ _ flags _ _ => !flags.getLsbD 0
  | .ramo _ _ _ flags _ _ => !flags.getLsbD 0
  | .rred _ _ _ flags _ _ => !flags.getLsbD 0
  | .rredReadout _ _ _ flags _ _ => !flags.getLsbD 0
  | .marker _ _ _ flags _ _ => !flags.getLsbD 0
  | .round _ _ _ flags _ _ => !flags.getLsbD 0
  | .drain _ _ _ flags _ _ => !flags.getLsbD 0
  | .cfgload _ _ _ flags _ _ => !flags.getLsbD 0
  | .cfgswitch _ _ _ flags _ _ => !flags.getLsbD 0
  | .snapshot _ _ _ flags _ _ => !flags.getLsbD 0
  | .sfence _ _ _ flags _ _ => !flags.getLsbD 0
  | .inject _ _ _ flags _ _ => !flags.getLsbD 0
  | .collect _ _ _ flags _ _ => !flags.getLsbD 0
  | .sink _ _ _ flags _ _ => !flags.getLsbD 0
  | .shoot _ _ _ flags _ _ => !flags.getLsbD 0
  | .tload _ _ _ flags _ _ => !flags.getLsbD 0
  | .prefetch _ _ _ flags _ _ => !flags.getLsbD 0
  | .nop _ _ _ flags _ _ => !flags.getLsbD 0
  | .portwait _ _ _ flags _ _ => !flags.getLsbD 0
  | .tlook _ => true
  | .tfill _ => true
  | .tevict _ => true
  | .tpin _ => true
  | .tunpin _ => true
  | .tdirty _ => true
  | .tread _ => true
  | .gclaim _ _ => true
  | .grelease _ _ => true
  | .gbslotB _ => true
  | .gbslotA _ rows _ _ => 1 ≤ rows.toNat && rows.toNat ≤ 256
  | .gshape _ _ => true
  | .ganchor _ => true
  | .gclear row0 n => 1 ≤ n.toNat && n.toNat ≤ 256 && row0.toNat + n.toNat ≤ 256
  | .grdfmt fmt rm _ => fmt.toNat ≤ 4 && rm.toNat ≤ 4
  | .gdrain row0 n _ _ => 1 ≤ n.toNat && n.toNat ≤ 256 && row0.toNat + n.toNat ≤ 256
  | .gsteer _ => true
  | .groute _ gk _ _ _ q goff rstr => (!(gk == 1 || gk == 2) || (q == 0 && goff == 0 && rstr == 0)) && (!(gk == 3) || (goff.toNat % 16 == 0 && 1 ≤ rstr.toNat))
  | .gfmt af bf => af.toNat ≤ 9 && bf.toNat ≤ 9 && (!(af == 6 || af == 7 || bf == 6 || bf == 7) || af == bf)
  | .gscale _ _ => true
  | .gfence _ _ => true
  | .gstatus _ _ _ => true
  | .reportTrap => true
  | .blockRetire => true
  | .handlerSelect => true
  | .controlTokenTake => true
  | .linkTokenArrival => true
  | .returnLaneToken => true
  | .gallopProbeReturn => true
  | .scanReference => true
  | .isectStep => true
  | .unionStep => true
  | .sbayBarrier => true
  | .repeatToken => true
  | .reduceToken => true
  | .selectToken => true
  | .partToken => true
  | .lwriteToken => true
  | .lwriteHeadEntry => true
  | .bumpRequest => true
  | .translateRequest => true
  | .pageTableWalk => true
  | .pageReady => true
  | .shootdownDrainArrival => true
  | .stairElementIssue => true
  | .stairWindowAnswer => true
  | .stairLineReturn => true
  | .stairWriteAck => true
  | .stairTokenArrival => true
  | .fenceRelease => true
  | .memoryPortDone => true
  | .commandStart => true
  | .commandRetire => true
  | .sinkCountZero => true
  | .bankRequestServe => true
  | .parkedReadServe => true
  | .mbankApply => true
  | .mportTokenArrival => true
  | .updateToken => true
  | .updateWindowExpiry => true
  | .memoryEdgeAccess => true
  | .galleryCrossing => true
  | .galleryMarker => true
  | .gclaimGrant => true
  | .greleaseExecute => true
  | .gclearExecute => true
  | .gdrainExecute => true
  | .gfenceExecute => true
  | .gstatusExecute => true
  | .operandLineWrite => true
  | .galleryRowFire => true
  | .flitReceive => true
  | .laneFailure => true
  | .portRetrained => true
  | .rreq => true
  | .wreq => true
  | .areq => true
  | .cred => true
  | .rresp => true
  | .wack => true
  | .rdreq => true
  | .rdwr => true
  | .rdsent => true
  | .rdflt => true
  | .rdack => true
  | .gack => true
  | .wabort => true
  | .reservedPacketDiscard => true
  | .sourceTimeout => true
  | .deadPeerBroadcast => true
  | .rdforTimeout => true
  | .launchToken => true
  | .placement => true
  | .switchMarker => true
  | .switchCompletion => true
  | .regionCompletion => true
  | .swapStart => true
  | .drainArrival => true
  | .saveComplete => true
  | .restore => true
  | .revokingRestore => true
  | .watchdogStall => true
  | .saveWatchdogExpiry => true
  | .snapshotArrival => true
  | .snapshotComplete => true
  | .bayFailure => true
  | .spareSwitchIn => true
  | .fcmdResume => true
  | .fcmdResumeSkip => true
  | .fcmdAbort => true
  | .barrierArrival => true
  | .barrierPhaseComplete => true
  | .barrierPhaseReceive => true
  | .mwaitWake => true
  | .mwaitTimeout => true
  | .trpop => true
  | .tkpay => true
  | .hmskWrite => true
  | .sfrdWrite => true
  | .barcfgWrite => true
  | .registerWrite => true
  | .arcDeadWrite => true
  | .arcIinv => true
  | .resyncRequest => true
  | .rlaunch => true
  | .hbmret => true
  | .sqinv => true
  | .kcmdLoad => true
  | .kcmdClear => true
  | .pwrRun => true
  | .pwrIdle => true
  | .pwrD3hot => true
  | .ingbWrite => true
  | .ingressWord => true
  | .consumerIndexWrite => true
  | .sinkQueueDelivery => true
  | .bar4Access => true
  | .bringUp => true
  | .thermalThrottle => true
  | .thermalRecover => true
  | .thermalShutdown => true
  | .thermalReset => true
  | .getVersion => true
  | .getCapabilities => true
  | .negotiateAlgorithms => true
  | .getDigests => true
  | .getCertificate => true
  | .challenge => true
  | .getMeasurements => true
  | .keyExchange => true
  | .finish => true
  | .ideKm => true
  | .illegalInstruction => true
  | .arcadeInvalidation => true
  | .peerLineRegistration => true
  | .perstAssertion => true
  | .pciePowerStateChange => true

end Sys2Proof
end

