-- ==== Sys2Proof/Decode.lean ====
section
/-! DEFINITION. Decoding and encoding: landing-core words (R73–R78), bay words (R67–R72), stream commands (R79–R82), gallery control words (R84, R270) and tag operations (R202). Each decoder is total and names why it rejects a pattern. -/

namespace Sys2Proof

/-- Why a pattern is no instruction of a layer (R78, R85). -/
inductive DecodeError where
  /-- R74: a reserved major opcode, R72 a reserved bay opcode, R82 a reserved command opcode, R84 a reserved word -/
  | reservedOpcode
  /-- R75, R76, R77, R71: a reserved function, size, scope, order, operation or condition code -/
  | reservedCode
  /-- R78: a field that must be zero is not -/
  | mustBeZero
  /-- R78: a register field names a register that does not exist -/
  | noRegister
  /-- the bytes end before the instruction does -/
  | tooShort
  /-- R270, R202: a field outside its limits -/
  | outOfLimits
  deriving DecidableEq, Repr

/-- The layers of R31, and the payloads that carry control words and tag operations. -/
inductive Layer where
  | landing | bay | command | gallery | tag
  deriving DecidableEq, Repr

/-- R10 `x<l + n - 1 : l>`. -/
def fld {m : Nat} (w : BitVec m) (l n : Nat) : BitVec n := w.extractLsb' l n

/-! ### Landing core -/

/-- R75: the integer group, by `fn`. -/
def decodeInt (w : W32) : Except DecodeError Instr :=
  let d := fld w 21 5
  let a := fld w 16 5
  let b := fld w 11 5
  match (fld w 0 11).toNat with
  | 0 => .ok (.add d a b)
  | 1 => .ok (.sub d a b)
  | 2 => .ok (.and d a b)
  | 3 => .ok (.or d a b)
  | 4 => .ok (.xor d a b)
  | 5 => .ok (.shl d a b)
  | 6 => .ok (.shr d a b)
  | 7 => .ok (.sra d a b)
  | 8 => .ok (.mul d a b)
  | 9 => .ok (.mulh d a b)
  | 10 => .ok (.mulhN d a b)
  | 11 => .ok (.div d a b)
  | 12 => .ok (.divN d a b)
  | 13 => .ok (.rem d a b)
  | 14 => .ok (.remN d a b)
  | 15 => .ok (.slt d a b)
  | 16 => .ok (.sltN d a b)
  | 17 => .ok (.min d a b)
  | 18 => .ok (.max d a b)
  | 19 => .ok (.minN d a b)
  | 20 => .ok (.maxN d a b)
  | 21 => if b = 0 then .ok (.clz d a) else .error .mustBeZero
  | 22 => if b = 0 then .ok (.popc d a) else .error .mustBeZero
  | _ => .error .reservedCode

/-- R81: codes 6 and 7 are reserved. -/
def scopeOk (s : BitVec 3) : Bool := s.toNat ≤ 5

/-- R76: majors 0x1C–0x23. -/
def decodeSync (major : Nat) (w : W32) : Except DecodeError Instr :=
  let d := fld w 21 5
  let a := fld w 16 5
  let b := fld w 11 5
  let size := fld w 9 2
  let scope := fld w 6 3
  let order := fld w 4 2
  let op := fld w 0 4
  if !scopeOk scope then .error .reservedCode
  else match major with
  | 0x1C =>
    if b ≠ 0 then .error .mustBeZero
    else if order ≠ 1 ∨ fld w 1 3 ≠ 0 then .error .reservedCode
    else .ok (.ldAcq d a size scope (fld w 0 1))
  | 0x1D =>
    if d ≠ 0 then .error .mustBeZero
    else if order ≠ 2 ∨ op ≠ 0 then .error .reservedCode
    else .ok (.stRel a b size scope)
  | 0x1E =>
    if b ≠ 0 then .error .mustBeZero
    else if fld w 2 2 ≠ 0 then .error .reservedCode
    else if order = 0 then
      (if scope = 0 then .ok (.ldSync d a size (fld w 1 1) (fld w 0 1)) else .error .mustBeZero)
    else if order = 1 then .ok (.ldSyncAcq d a size scope (fld w 1 1) (fld w 0 1))
    else .error .reservedCode
  | 0x1F =>
    if b ≠ 0 then .error .mustBeZero
    else if size ≠ 3 ∨ order ≠ 0 ∨ scope ≠ 0 then .error .reservedCode
    else if d.toNat + op.toNat > 31 then .error .noRegister
    else .ok (.ldm d a op)
  | 0x20 =>
    if fld w 10 1 = 0 ∨ op.toNat > 8 then .error .reservedCode
    else if order = 0 ∧ scope ≠ 0 then .error .mustBeZero
    else .ok (.amo d a b (fld w 9 1) scope order op)
  | 0x21 =>
    if fld w 10 1 = 0 ∨ op ≠ 0 then .error .reservedCode
    else if order = 0 ∧ scope ≠ 0 then .error .mustBeZero
    else .ok (.cas d a b (fld w 9 1) scope order)
  | 0x22 =>
    if d ≠ 0 ∨ a ≠ 0 ∨ b ≠ 0 ∨ size ≠ 0 ∨ order ≠ 0 ∨ op ≠ 0 then .error .mustBeZero
    else .ok (.fence scope)
  | _ =>
    if b ≠ 0 then .error .mustBeZero
    else if size ≠ 3 ∨ order ≠ 0 ∨ scope ≠ 0 then .error .reservedCode
    else if d.toNat + op.toNat > 31 then .error .noRegister
    else .ok (.stm d a op)

/-- R71: codes 110 and 111 are reserved. -/
def condOk (c : BitVec 3) : Bool := c.toNat ≤ 5

/-- R77: the system group. -/
def decodeSystem (w : W32) : Except DecodeError Instr :=
  let d := fld w 21 5
  let a := fld w 16 5
  let b := fld w 11 5
  let lo := fld w 0 8
  if b ≠ 0 then .error .mustBeZero
  else match (fld w 8 3).toNat with
  | 0 => if a = 0 then .ok (.csrr d lo) else .error .mustBeZero
  | 1 => if d = 0 then .ok (.csrw a lo) else .error .mustBeZero
  | 2 => if a = 0 then .ok (.feat d lo) else .error .mustBeZero
  | 3 => if d = 0 ∧ a = 0 then .ok (.trap lo) else .error .mustBeZero
  | 4 => if d = 0 ∧ a = 0 ∧ lo = 0 then .ok .eret else .error .mustBeZero
  | 5 =>
    if d ≠ 0 then .error .mustBeZero
    else (match lo.toNat with
      | 0 => if a = 0 then .ok .invalTlb else .error .mustBeZero
      | 1 => .ok (.invalTlbva a)
      | 2 => if a = 0 then .ok .invalIcache else .error .mustBeZero
      | 3 => .ok (.invalIline a)
      | _ => .error .reservedCode)
  | 6 => if d = 0 ∧ a = 0 ∧ lo = 0 then .ok .wfi else .error .mustBeZero
  | _ => .error .reservedCode

/-- R73, R74: a landing-core word. -/
def decodeLanding (w : W32) : Except DecodeError Instr :=
  let d := fld w 21 5
  let a := fld w 16 5
  let b := fld w 11 5
  let imm := fld w 0 16
  let p := fld w 23 3
  match (fld w 26 6).toNat with
  | 0x01 => decodeInt w
  | 0x02 => .ok (.addi d a imm)
  | 0x03 => .ok (.andi d a imm)
  | 0x04 => .ok (.ori d a imm)
  | 0x05 => .ok (.xori d a imm)
  | 0x06 => .ok (.slti d a imm)
  | 0x07 => .ok (.sltiN d a imm)
  | 0x08 => if fld w 6 10 = 0 then .ok (.shli d a (fld w 0 6)) else .error .mustBeZero
  | 0x09 => if fld w 6 10 = 0 then .ok (.shri d a (fld w 0 6)) else .error .mustBeZero
  | 0x0A => if fld w 6 10 = 0 then .ok (.srai d a (fld w 0 6)) else .error .mustBeZero
  | 0x0B => if a = 0 then .ok (.lui d imm) else .error .mustBeZero
  | 0x0C => .ok (.luh d a imm)
  | 0x0D => .ok (.luhh d a imm)
  | 0x10 => .ok (.ldI8 d a imm)
  | 0x11 => .ok (.ldN8 d a imm)
  | 0x12 => .ok (.ldI16 d a imm)
  | 0x13 => .ok (.ldN16 d a imm)
  | 0x14 => .ok (.ldI32 d a imm)
  | 0x15 => .ok (.ldN32 d a imm)
  | 0x16 => .ok (.ld64 d a imm)
  | 0x18 => .ok (.st8 d a imm)
  | 0x19 => .ok (.st16 d a imm)
  | 0x1A => .ok (.st32 d a imm)
  | 0x1B => .ok (.st64 d a imm)
  | 0x1C => decodeSync 0x1C w
  | 0x1D => decodeSync 0x1D w
  | 0x1E => decodeSync 0x1E w
  | 0x1F => decodeSync 0x1F w
  | 0x20 => decodeSync 0x20 w
  | 0x21 => decodeSync 0x21 w
  | 0x22 => decodeSync 0x22 w
  | 0x23 => decodeSync 0x23 w
  | 0x28 => .ok (.br (fld w 0 26))
  | 0x29 => .ok (.call (fld w 0 26))
  | 0x2A => .ok (.jl d a imm)
  | 0x2B =>
    if !condOk (fld w 20 3) then .error .reservedCode
    else if fld w 0 10 ≠ 0 then .error .mustBeZero
    else .ok (.setp p (fld w 20 3) (fld w 15 5) (fld w 10 5))
  | 0x2C =>
    if !condOk (fld w 20 3) then .error .reservedCode
    else .ok (.setpi p (fld w 20 3) (fld w 15 5) (fld w 0 15))
  | 0x2D => .ok (.bp p (fld w 22 1) (fld w 0 22))
  | 0x2E =>
    if fld w 0 15 ≠ 0 then .error .mustBeZero
    else .ok (.plog p (fld w 21 2) (fld w 18 3) (fld w 15 3))
  | 0x30 => .ok (.cmov p (fld w 21 2) a imm)
  | 0x31 => if fld w 21 2 = 0 then .ok (.cld p a imm) else .error .mustBeZero
  | 0x32 => if fld w 21 2 = 0 then .ok (.cst p a imm) else .error .mustBeZero
  | 0x33 => if fld w 21 2 = 0 ∧ imm = 0 then .ok (.issue p a) else .error .mustBeZero
  | 0x34 => if d = 0 ∧ fld w 1 15 = 0 then .ok (.cstat a (fld w 0 1)) else .error .mustBeZero
  | 0x36 =>
    if fld w 2 9 ≠ 0 then .error .mustBeZero
    else if fld w 0 2 ≠ 0 ∧ b ≠ 0 then .error .mustBeZero
    else if d.toNat > 3 then .error .noRegister
    else .ok (.shape (fld w 21 2) a b (fld w 0 2))
  | 0x37 =>
    if b ≠ 0 ∨ fld w 3 8 ≠ 0 then .error .mustBeZero
    else if a.toNat > 3 then .error .noRegister
    else if fld w 0 2 = 3 then .error .reservedCode
    else .ok (.shrd d a (fld w 2 1) (fld w 0 2))
  | 0x38 =>
    if fld w 0 16 ≠ 0 then .error .mustBeZero
    else if d.toNat > 15 then .error .noRegister
    else .ok (.watch d a)
  | 0x39 => if fld w 0 16 = 0 then .ok (.mwait d a) else .error .mustBeZero
  | 0x3A =>
    if fld w 0 21 ≠ 0 then .error .mustBeZero
    else if d.toNat > 15 then .error .noRegister
    else .ok (.unwatch d)
  | 0x3B => if a = 0 ∧ fld w 5 11 = 0 then .ok (.arrive d (fld w 0 5)) else .error .mustBeZero
  | 0x3C => if d = 0 ∧ fld w 0 16 = 0 then .ok (.await a) else .error .mustBeZero
  | 0x3D => if fld w 0 11 = 0 then .ok (.launch d a b) else .error .mustBeZero
  | 0x3E => if fld w 0 16 = 0 then .ok (.lwait d a) else .error .mustBeZero
  | 0x3F => decodeSystem w
  | _ => .error .reservedOpcode

/-! ### Bays -/

/-- R67, R72: a bay word by its opcode alone; what R68–R71 refuse is checked by the loader (R70). -/
def decodeBay (w : W32) : Except DecodeError Instr :=
  let t := fld w 19 6
  let u := fld w 13 6
  let f := fld w 0 13
  match (fld w 25 7).toNat with
  | 0x00 => .ok (.bayAddI32 t u f)
  | 0x01 => .ok (.baySubI32 t u f)
  | 0x02 => .ok (.bayAddsI32 t u f)
  | 0x03 => .ok (.baySubsI32 t u f)
  | 0x04 => .ok (.bayAddsN32 t u f)
  | 0x05 => .ok (.baySubsN32 t u f)
  | 0x06 => .ok (.bayMulI32 t u f)
  | 0x07 => .ok (.bayMulhI32 t u f)
  | 0x08 => .ok (.bayMulhN32 t u f)
  | 0x09 => .ok (.bayMinI32 t u f)
  | 0x0A => .ok (.bayMaxI32 t u f)
  | 0x0B => .ok (.bayMinN32 t u f)
  | 0x0C => .ok (.bayMaxN32 t u f)
  | 0x0D => .ok (.bayAnd t u f)
  | 0x0E => .ok (.bayOr t u f)
  | 0x0F => .ok (.bayXor t u f)
  | 0x10 => .ok (.bayShl t u f)
  | 0x11 => .ok (.bayShr t u f)
  | 0x12 => .ok (.baySra t u f)
  | 0x13 => .ok (.bayCmpI32 t u f)
  | 0x14 => .ok (.bayCmpN32 t u f)
  | 0x15 => .ok (.bayClz t u f)
  | 0x16 => .ok (.bayPopc t u f)
  | 0x17 => .ok (.baySel t u f)
  | 0x18 => .ok (.bayAddFp32 t u f)
  | 0x19 => .ok (.baySubFp32 t u f)
  | 0x1A => .ok (.bayMulFp32 t u f)
  | 0x1B => .ok (.bayDivFp32 t u f)
  | 0x1C => .ok (.baySqrtFp32 t u f)
  | 0x1D => .ok (.bayMinFp32 t u f)
  | 0x1E => .ok (.bayMaxFp32 t u f)
  | 0x1F => .ok (.bayCmpFp32 t u f)
  | 0x20 => .ok (.bayRcpFp32 t u f)
  | 0x21 => .ok (.bayRsqrtFp32 t u f)
  | 0x22 => .ok (.bayExp2Fp32 t u f)
  | 0x23 => .ok (.bayLog2Fp32 t u f)
  | 0x24 => .ok (.bayCvtFp32I32 t u f)
  | 0x25 => .ok (.bayCvtI32Fp32 t u f)
  | 0x26 => .ok (.bayCvtFp32N32 t u f)
  | 0x27 => .ok (.bayCvtN32Fp32 t u f)
  | 0x28 => .ok (.bayCvtBf16Fp32 t u f)
  | 0x29 => .ok (.bayCvtFp16Fp32 t u f)
  | 0x2A => .ok (.bayCvtFp32Bf16 t u f)
  | 0x2B => .ok (.bayCvtFp32Fp16 t u f)
  | 0x2C => .ok (.bayCvtmx t u f)
  | 0x2D => .ok (.bayVshape t u f)
  | 0x2E => .ok (.bayVaddI32 t u f)
  | 0x2F => .ok (.bayVmulI32 t u f)
  | 0x30 => .ok (.bayVaddFp32 t u f)
  | 0x31 => .ok (.bayVsubFp32 t u f)
  | 0x32 => .ok (.bayVmulFp32 t u f)
  | 0x33 => .ok (.bayVminFp32 t u f)
  | 0x34 => .ok (.bayVmaxFp32 t u f)
  | 0x35 => .ok (.bayVaddBf16 t u f)
  | 0x36 => .ok (.bayVmulBf16 t u f)
  | 0x37 => .ok (.bayVaddFp16 t u f)
  | 0x38 => .ok (.bayVmulFp16 t u f)
  | 0x39 => .ok (.bayVaddI8 t u f)
  | 0x3A => .ok (.bayVaddI16 t u f)
  | 0x3B => .ok (.bayVcmpFp32 t u f)
  | 0x3C => .ok (.bayVsel t u f)
  | 0x3D => .ok (.bayVbcast t u f)
  | 0x3E => .ok (.bayVext t u f)
  | 0x3F => .ok (.bayVins t u f)
  | 0x40 => .ok (.bayVperm t u f)
  | 0x41 => .ok (.bayVcvt t u f)
  | 0x42 => .ok (.bayVput t u f)
  | 0x43 => .ok (.bayVget t u f)
  | 0x44 => .ok (.bayDot t u f)
  | 0x45 => .ok (.bayDots t u f)
  | 0x46 => .ok (.bayLacc t u f)
  | 0x47 => .ok (.bayLvacc t u f)
  | 0x48 => .ok (.bayLanchor t u f)
  | 0x49 => .ok (.bayLclr t u f)
  | 0x4A => .ok (.bayLread t u f)
  | 0x4B => .ok (.bayLraw t u f)
  | 0x4C => .ok (.bayLd t u f)
  | 0x4D => .ok (.baySt t u f)
  | 0x4E => .ok (.bayLdSync t u f)
  | 0x4F => .ok (.bayVld t u f)
  | 0x50 => .ok (.bayVst t u f)
  | 0x51 => .ok (.bayVgather t u f)
  | 0x52 => .ok (.bayAmo t u f)
  | 0x53 => .ok (.bayLut t u f)
  | 0x54 => .ok (.bayLutst t u f)
  | 0x55 => .ok (.bayLutrd t u f)
  | 0x56 => .ok (.baySteer t u f)
  | 0x57 => .ok (.bayMerge t u f)
  | 0x58 => .ok (.bayLoop t u f)
  | 0x59 => .ok (.bayLoopt t u f)
  | 0x5A =>
    if t ≠ 0x30 ∨ u ≠ 0x30 ∨ fld w 11 2 ≠ 0 ∨ fld w 0 3 ≠ 0 then .error .mustBeZero
    else .ok (.baySend (fld w 3 8))
  | 0x5B => .ok (.bayRecv t u f)
  | 0x5C =>
    if t ≠ 0x30 ∨ u ≠ 0x30 ∨ fld w 11 2 ≠ 0 ∨ fld w 0 3 ≠ 0 then .error .mustBeZero
    else .ok (.bayBr (fld w 3 8))
  | 0x5D => .ok (.bayLaunch t u f)
  | 0x5E => .ok (.bayIspois t u f)
  | _ => .error .reservedOpcode

/-! ### Stream commands -/

/-- R79, R82: a stream command by its opcode, and for `bind` by `res`, `abn` and `skp` (R172, R180). Reserved bit 0 of the
flags is refused (R85); the flags, ports and operands a command accepts are checked at issue (R179). DESIGN CHOICE (log 56): a `bind` with `res` and
both `abn` and `skp`, for which R172 has no row, abandons the command. -/
def decodeCommand (w : BitVec 128) : Except DecodeError Instr :=
  let port := fld w 114 6
  let ctx := fld w 112 2
  let cls := fld w 104 8
  let flags := fld w 96 8
  let imm := fld w 64 32
  let addr := fld w 0 64
  if fld w 96 1 ≠ 0 then .error .mustBeZero
  else match (fld w 120 8).toNat with
  | 0x01 =>
    if fld w 95 1 = 0 then .ok (.bind port ctx cls flags imm addr)
    else if fld w 94 1 = 1 then .ok (.bindAbandon port ctx cls flags imm addr)
    else if fld w 93 1 = 1 then .ok (.bindResumeSkip port ctx cls flags imm addr)
    else .ok (.bindResume port ctx cls flags imm addr)
  | 0x02 => .ok (.copy port ctx cls flags imm addr)
  | 0x03 => .ok (.fill port ctx cls flags imm addr)
  | 0x04 => .ok (.gather port ctx cls flags imm addr)
  | 0x05 => .ok (.scatter port ctx cls flags imm addr)
  | 0x06 => .ok (.rdfor port ctx cls flags imm addr)
  | 0x07 => .ok (.rwin port ctx cls flags imm addr)
  | 0x08 => .ok (.rwclose port ctx cls flags imm addr)
  | 0x09 => .ok (.ramo port ctx cls flags imm addr)
  | 0x0A => .ok (.rred port ctx cls flags imm addr)
  | 0x0B => .ok (.marker port ctx cls flags imm addr)
  | 0x0C => .ok (.round port ctx cls flags imm addr)
  | 0x0D => .ok (.drain port ctx cls flags imm addr)
  | 0x0E => .ok (.cfgload port ctx cls flags imm addr)
  | 0x0F => .ok (.cfgswitch port ctx cls flags imm addr)
  | 0x10 => .ok (.snapshot port ctx cls flags imm addr)
  | 0x11 => .ok (.sfence port ctx cls flags imm addr)
  | 0x12 => .ok (.inject port ctx cls flags imm addr)
  | 0x13 => .ok (.collect port ctx cls flags imm addr)
  | 0x14 => .ok (.sink port ctx cls flags imm addr)
  | 0x15 => .ok (.shoot port ctx cls flags imm addr)
  | 0x16 => .ok (.tload port ctx cls flags imm addr)
  | 0x17 => .ok (.prefetch port ctx cls flags imm addr)
  | 0x18 => .ok (.nop port ctx cls flags imm addr)
  | 0x19 => .ok (.portwait port ctx cls flags imm addr)
  | _ => .error .reservedOpcode

/-! ### Gallery control words -/

/-- R84, R269, R270, R280: a gallery control word. -/
def decodeGallery (w : W64) : Except DecodeError Instr :=
  let row0 := fld w 52 8
  let n := fld w 43 9
  let rowsOk : Bool := 1 ≤ n.toNat ∧ n.toNat ≤ 256 ∧ row0.toNat + n.toNat ≤ 256
  match (fld w 60 4).toNat with
  | 0x0 => if fld w 0 24 ≠ 0 then .error .mustBeZero else .ok (.gclaim (fld w 28 32) (fld w 24 4))
  | 0x1 => if fld w 0 24 ≠ 0 then .error .mustBeZero else .ok (.grelease (fld w 28 32) (fld w 24 4))
  | 0x2 =>
    if fld w 59 1 = 0 then
      (if fld w 0 54 ≠ 0 then .error .mustBeZero else .ok (.gbslotB (fld w 54 5)))
    else if fld w 0 36 ≠ 0 then .error .mustBeZero
    else if (fld w 45 9).toNat < 1 ∨ (fld w 45 9).toNat > 256 then .error .outOfLimits
    else .ok (.gbslotA (fld w 54 5) (fld w 45 9) (fld w 37 8) (fld w 36 1))
  | 0x3 => if fld w 0 42 ≠ 0 then .error .mustBeZero else .ok (.gshape (fld w 51 9) (fld w 42 9))
  | 0x4 => if fld w 0 48 ≠ 0 then .error .mustBeZero else .ok (.ganchor (fld w 48 12))
  | 0x5 =>
    if fld w 0 43 ≠ 0 then .error .mustBeZero
    else if !rowsOk then .error .outOfLimits else .ok (.gclear row0 n)
  | 0x6 =>
    if fld w 0 53 ≠ 0 then .error .mustBeZero
    else if (fld w 57 3).toNat > 4 ∨ (fld w 54 3).toNat > 4 then .error .outOfLimits
    else .ok (.grdfmt (fld w 57 3) (fld w 54 3) (fld w 53 1))
  | 0x7 =>
    if fld w 0 11 ≠ 0 then .error .mustBeZero
    else if !rowsOk then .error .outOfLimits
    else .ok (.gdrain row0 n (fld w 27 16) (fld w 11 16))
  | 0x8 => if fld w 0 44 ≠ 0 then .error .mustBeZero else .ok (.gsteer (fld w 44 16))
  | 0x9 =>
    if fld w 0 9 ≠ 0 then .error .mustBeZero
    else if (fld w 54 2 = 1 ∨ fld w 54 2 = 2) ∧ fld w 9 37 ≠ 0 then .error .mustBeZero
    else if fld w 54 2 = 3 ∧ (fld w 22 4 ≠ 0 ∨ (fld w 9 13).toNat < 1 ∨ (fld w 9 13).toNat > 8191) then .error .outOfLimits
    else .ok (.groute (fld w 56 4) (fld w 54 2) (fld w 51 3) (fld w 47 4) (fld w 46 1) (fld w 42 4) (fld w 22 20)
      (fld w 9 13))
  | 0xA =>
    let af := fld w 56 4
    let bf := fld w 52 4
    if fld w 0 52 ≠ 0 then .error .mustBeZero
    else if af.toNat > 9 ∨ bf.toNat > 9 then .error .outOfLimits
    else if (af = 6 ∨ af = 7 ∨ bf = 6 ∨ bf = 7) ∧ af ≠ bf then .error .outOfLimits
    else .ok (.gfmt af bf)
  | 0xB => if fld w 0 50 ≠ 0 then .error .mustBeZero else .ok (.gscale (fld w 55 5) (fld w 50 5))
  | 0xC => if fld w 0 40 ≠ 0 then .error .mustBeZero else .ok (.gfence (fld w 56 4) (fld w 40 16))
  | 0xD =>
    if fld w 0 54 ≠ 0 then .error .mustBeZero
    else .ok (.gstatus (fld w 56 4) (fld w 55 1) (fld w 54 1))
  | _ => .error .reservedOpcode

/-! ### Tag operations -/

/-- R202: a tag operation's payload. -/
def decodeTag (w : W64) : Except DecodeError Instr :=
  let slot := fld w 40 8
  let key := fld w 0 40
  if fld w 48 13 ≠ 0 then .error .mustBeZero
  else match (fld w 61 3).toNat with
  | 0 => if slot = 0 then .ok (.tlook key) else .error .mustBeZero
  | 1 => if slot = 0 then .ok (.tfill key) else .error .mustBeZero
  | 2 => if key = 0 then .ok (.tevict slot) else .error .mustBeZero
  | 3 => if key = 0 then .ok (.tpin slot) else .error .mustBeZero
  | 4 => if key = 0 then .ok (.tunpin slot) else .error .mustBeZero
  | 5 => if key = 0 then .ok (.tdirty slot) else .error .mustBeZero
  | 6 => if key = 0 then .ok (.tread slot) else .error .mustBeZero
  | _ => .error .reservedOpcode

/-! ### Bytes -/

/-- R5: the value of little-endian bytes. -/
def leNat : List Byte → Nat
  | [] => 0
  | b :: t => b.toNat + 256 * leNat t

/-- R5: the n low bytes of a number, least significant first. -/
def leBytes : Nat → Nat → List Byte
  | 0, _ => []
  | n + 1, v => BitVec.ofNat 8 v :: leBytes n (v / 256)

/-- R58: bytes of an instruction of a layer. -/
def layerBytes : Layer → Nat
  | .landing | .bay => 4
  | .command => 16
  | .gallery | .tag => 8

/-- Decodes the instruction at the head of a list of bytes and returns the rest. -/
def decode (l : Layer) (bs : List Byte) : Except DecodeError (Instr × List Byte) :=
  if bs.length < layerBytes l then .error .tooShort
  else
    let v := leNat (bs.take (layerBytes l))
    let r : Except DecodeError Instr := match l with
      | .landing => decodeLanding (BitVec.ofNat 32 v)
      | .bay => decodeBay (BitVec.ofNat 32 v)
      | .command => decodeCommand (BitVec.ofNat 128 v)
      | .gallery => decodeGallery (BitVec.ofNat 64 v)
      | .tag => decodeTag (BitVec.ofNat 64 v)
    match r with
    | .ok i => .ok (i, bs.drop (layerBytes l))
    | .error e => .error e

/-! ### Encoding -/

def formA (major : BitVec 6) (d a b : BitVec 5) (fn : BitVec 11) : W32 := major ++ d ++ a ++ b ++ fn
def formI (major : BitVec 6) (d a : BitVec 5) (imm : BitVec 16) : W32 := major ++ d ++ a ++ imm
def formK (major : BitVec 6) (c : BitVec 3) (q : BitVec 2) (a : BitVec 5) (imm : BitVec 16) : W32 :=
  major ++ c ++ q ++ a ++ imm
def fnSync (size : BitVec 2) (scope : BitVec 3) (order : BitVec 2) (op : BitVec 4) : BitVec 11 :=
  size ++ scope ++ order ++ op
def bayWord (op : BitVec 7) (t u : BitVec 6) (f : BitVec 13) : W32 := op ++ t ++ u ++ f
def cmdWord (op : BitVec 8) (port : BitVec 6) (ctx : BitVec 2) (cls flags : BitVec 8) (imm : BitVec 32) (addr : W64) :
    BitVec 128 := op ++ port ++ ctx ++ cls ++ flags ++ imm ++ addr

/-- The landing-core word of an instruction of that layer (R73–R77). -/
def encodeLanding : Instr → Option W32
  | .add d a b => some (formA 0x01 d a b 0)
  | .sub d a b => some (formA 0x01 d a b 1)
  | .and d a b => some (formA 0x01 d a b 2)
  | .or d a b => some (formA 0x01 d a b 3)
  | .xor d a b => some (formA 0x01 d a b 4)
  | .shl d a b => some (formA 0x01 d a b 5)
  | .shr d a b => some (formA 0x01 d a b 6)
  | .sra d a b => some (formA 0x01 d a b 7)
  | .mul d a b => some (formA 0x01 d a b 8)
  | .mulh d a b => some (formA 0x01 d a b 9)
  | .mulhN d a b => some (formA 0x01 d a b 10)
  | .div d a b => some (formA 0x01 d a b 11)
  | .divN d a b => some (formA 0x01 d a b 12)
  | .rem d a b => some (formA 0x01 d a b 13)
  | .remN d a b => some (formA 0x01 d a b 14)
  | .slt d a b => some (formA 0x01 d a b 15)
  | .sltN d a b => some (formA 0x01 d a b 16)
  | .min d a b => some (formA 0x01 d a b 17)
  | .max d a b => some (formA 0x01 d a b 18)
  | .minN d a b => some (formA 0x01 d a b 19)
  | .maxN d a b => some (formA 0x01 d a b 20)
  | .clz d a => some (formA 0x01 d a 0 21)
  | .popc d a => some (formA 0x01 d a 0 22)
  | .addi d a imm => some (formI 0x02 d a imm)
  | .andi d a imm => some (formI 0x03 d a imm)
  | .ori d a imm => some (formI 0x04 d a imm)
  | .xori d a imm => some (formI 0x05 d a imm)
  | .slti d a imm => some (formI 0x06 d a imm)
  | .sltiN d a imm => some (formI 0x07 d a imm)
  | .luh d a imm => some (formI 0x0C d a imm)
  | .luhh d a imm => some (formI 0x0D d a imm)
  | .ldI8 d a imm => some (formI 0x10 d a imm)
  | .ldN8 d a imm => some (formI 0x11 d a imm)
  | .ldI16 d a imm => some (formI 0x12 d a imm)
  | .ldN16 d a imm => some (formI 0x13 d a imm)
  | .ldI32 d a imm => some (formI 0x14 d a imm)
  | .ldN32 d a imm => some (formI 0x15 d a imm)
  | .ld64 d a imm => some (formI 0x16 d a imm)
  | .jl d a imm => some (formI 0x2A d a imm)
  | .shli d a s => some (formI 0x08 d a (0#10 ++ s))
  | .shri d a s => some (formI 0x09 d a (0#10 ++ s))
  | .srai d a s => some (formI 0x0A d a (0#10 ++ s))
  | .lui d imm => some (formI 0x0B d 0 imm)
  | .st8 a b imm => some (formI 0x18 a b imm)
  | .st16 a b imm => some (formI 0x19 a b imm)
  | .st32 a b imm => some (formI 0x1A a b imm)
  | .st64 a b imm => some (formI 0x1B a b imm)
  | .ldAcq d a size scope sx => some (formA 0x1C d a 0 (fnSync size scope 1 (0#3 ++ sx)))
  | .stRel a b size scope => some (formA 0x1D 0 a b (fnSync size scope 2 0))
  | .ldSync d a size clr sx => some (formA 0x1E d a 0 (fnSync size 0 0 (0#2 ++ clr ++ sx)))
  | .ldSyncAcq d a size scope clr sx => some (formA 0x1E d a 0 (fnSync size scope 1 (0#2 ++ clr ++ sx)))
  | .ldm d a n => some (formA 0x1F d a 0 (fnSync 3 0 0 n))
  | .stm d a n => some (formA 0x23 d a 0 (fnSync 3 0 0 n))
  | .amo d a b dbl scope order op => some (formA 0x20 d a b (fnSync (1#1 ++ dbl) scope order op))
  | .cas d a b dbl scope order => some (formA 0x21 d a b (fnSync (1#1 ++ dbl) scope order 0))
  | .fence scope => some (formA 0x22 0 0 0 (fnSync 0 scope 0 0))
  | .br imm => some (0x28#6 ++ imm)
  | .call imm => some (0x29#6 ++ imm)
  | .setp p cond a b => some (0x2B#6 ++ p ++ cond ++ a ++ b ++ 0#10)
  | .setpi p cond a imm => some (0x2C#6 ++ p ++ cond ++ a ++ imm)
  | .bp p sense imm => some (0x2D#6 ++ p ++ sense ++ imm)
  | .plog p op pa pb => some (0x2E#6 ++ p ++ op ++ pa ++ pb ++ 0#15)
  | .cmov c q a imm => some (formK 0x30 c q a imm)
  | .cld c a imm => some (formK 0x31 c 0 a imm)
  | .cst c a imm => some (formK 0x32 c 0 a imm)
  | .issue c a => some (formK 0x33 c 0 a 0)
  | .cstat a wait => some (formK 0x34 0 0 a (0#15 ++ wait))
  | .shape d a b kind => some (formA 0x36 (0#3 ++ d) a b (0#9 ++ kind))
  | .shrd d sh clr f => some (formA 0x37 d sh 0 (0#8 ++ clr ++ f))
  | .watch m a => some (formA 0x38 m a 0 0)
  | .mwait d a => some (formA 0x39 d a 0 0)
  | .unwatch m => some (formA 0x3A m 0 0 0)
  | .arrive d n => some (formI 0x3B d 0 (0#11 ++ n))
  | .await a => some (formA 0x3C 0 a 0 0)
  | .launch d a b => some (formA 0x3D d a b 0)
  | .lwait d a => some (formA 0x3E d a 0 0)
  | .csrr d csr => some (formA 0x3F d 0 0 (0#3 ++ csr))
  | .csrw a csr => some (formA 0x3F 0 a 0 (1#3 ++ csr))
  | .feat d n => some (formA 0x3F d 0 0 (2#3 ++ n))
  | .trap code => some (formA 0x3F 0 0 0 (3#3 ++ code))
  | .eret => some (formA 0x3F 0 0 0 (4#3 ++ 0#8))
  | .invalTlb => some (formA 0x3F 0 0 0 (5#3 ++ 0#8))
  | .invalTlbva a => some (formA 0x3F 0 a 0 (5#3 ++ 1#8))
  | .invalIcache => some (formA 0x3F 0 0 0 (5#3 ++ 2#8))
  | .invalIline a => some (formA 0x3F 0 a 0 (5#3 ++ 3#8))
  | .wfi => some (formA 0x3F 0 0 0 (6#3 ++ 0#8))
  | _ => none

/-- The bay word of an instruction of that layer (R67, R72). -/
def encodeBay : Instr → Option W32
  | .bayAddI32 t u f => some (bayWord 0x00 t u f)
  | .baySubI32 t u f => some (bayWord 0x01 t u f)
  | .bayAddsI32 t u f => some (bayWord 0x02 t u f)
  | .baySubsI32 t u f => some (bayWord 0x03 t u f)
  | .bayAddsN32 t u f => some (bayWord 0x04 t u f)
  | .baySubsN32 t u f => some (bayWord 0x05 t u f)
  | .bayMulI32 t u f => some (bayWord 0x06 t u f)
  | .bayMulhI32 t u f => some (bayWord 0x07 t u f)
  | .bayMulhN32 t u f => some (bayWord 0x08 t u f)
  | .bayMinI32 t u f => some (bayWord 0x09 t u f)
  | .bayMaxI32 t u f => some (bayWord 0x0A t u f)
  | .bayMinN32 t u f => some (bayWord 0x0B t u f)
  | .bayMaxN32 t u f => some (bayWord 0x0C t u f)
  | .bayAnd t u f => some (bayWord 0x0D t u f)
  | .bayOr t u f => some (bayWord 0x0E t u f)
  | .bayXor t u f => some (bayWord 0x0F t u f)
  | .bayShl t u f => some (bayWord 0x10 t u f)
  | .bayShr t u f => some (bayWord 0x11 t u f)
  | .baySra t u f => some (bayWord 0x12 t u f)
  | .bayCmpI32 t u f => some (bayWord 0x13 t u f)
  | .bayCmpN32 t u f => some (bayWord 0x14 t u f)
  | .bayClz t u f => some (bayWord 0x15 t u f)
  | .bayPopc t u f => some (bayWord 0x16 t u f)
  | .baySel t u f => some (bayWord 0x17 t u f)
  | .bayAddFp32 t u f => some (bayWord 0x18 t u f)
  | .baySubFp32 t u f => some (bayWord 0x19 t u f)
  | .bayMulFp32 t u f => some (bayWord 0x1A t u f)
  | .bayDivFp32 t u f => some (bayWord 0x1B t u f)
  | .baySqrtFp32 t u f => some (bayWord 0x1C t u f)
  | .bayMinFp32 t u f => some (bayWord 0x1D t u f)
  | .bayMaxFp32 t u f => some (bayWord 0x1E t u f)
  | .bayCmpFp32 t u f => some (bayWord 0x1F t u f)
  | .bayRcpFp32 t u f => some (bayWord 0x20 t u f)
  | .bayRsqrtFp32 t u f => some (bayWord 0x21 t u f)
  | .bayExp2Fp32 t u f => some (bayWord 0x22 t u f)
  | .bayLog2Fp32 t u f => some (bayWord 0x23 t u f)
  | .bayCvtFp32I32 t u f => some (bayWord 0x24 t u f)
  | .bayCvtI32Fp32 t u f => some (bayWord 0x25 t u f)
  | .bayCvtFp32N32 t u f => some (bayWord 0x26 t u f)
  | .bayCvtN32Fp32 t u f => some (bayWord 0x27 t u f)
  | .bayCvtBf16Fp32 t u f => some (bayWord 0x28 t u f)
  | .bayCvtFp16Fp32 t u f => some (bayWord 0x29 t u f)
  | .bayCvtFp32Bf16 t u f => some (bayWord 0x2A t u f)
  | .bayCvtFp32Fp16 t u f => some (bayWord 0x2B t u f)
  | .bayCvtmx t u f => some (bayWord 0x2C t u f)
  | .bayVshape t u f => some (bayWord 0x2D t u f)
  | .bayVaddI32 t u f => some (bayWord 0x2E t u f)
  | .bayVmulI32 t u f => some (bayWord 0x2F t u f)
  | .bayVaddFp32 t u f => some (bayWord 0x30 t u f)
  | .bayVsubFp32 t u f => some (bayWord 0x31 t u f)
  | .bayVmulFp32 t u f => some (bayWord 0x32 t u f)
  | .bayVminFp32 t u f => some (bayWord 0x33 t u f)
  | .bayVmaxFp32 t u f => some (bayWord 0x34 t u f)
  | .bayVaddBf16 t u f => some (bayWord 0x35 t u f)
  | .bayVmulBf16 t u f => some (bayWord 0x36 t u f)
  | .bayVaddFp16 t u f => some (bayWord 0x37 t u f)
  | .bayVmulFp16 t u f => some (bayWord 0x38 t u f)
  | .bayVaddI8 t u f => some (bayWord 0x39 t u f)
  | .bayVaddI16 t u f => some (bayWord 0x3A t u f)
  | .bayVcmpFp32 t u f => some (bayWord 0x3B t u f)
  | .bayVsel t u f => some (bayWord 0x3C t u f)
  | .bayVbcast t u f => some (bayWord 0x3D t u f)
  | .bayVext t u f => some (bayWord 0x3E t u f)
  | .bayVins t u f => some (bayWord 0x3F t u f)
  | .bayVperm t u f => some (bayWord 0x40 t u f)
  | .bayVcvt t u f => some (bayWord 0x41 t u f)
  | .bayVput t u f => some (bayWord 0x42 t u f)
  | .bayVget t u f => some (bayWord 0x43 t u f)
  | .bayDot t u f => some (bayWord 0x44 t u f)
  | .bayDots t u f => some (bayWord 0x45 t u f)
  | .bayLacc t u f => some (bayWord 0x46 t u f)
  | .bayLvacc t u f => some (bayWord 0x47 t u f)
  | .bayLanchor t u f => some (bayWord 0x48 t u f)
  | .bayLclr t u f => some (bayWord 0x49 t u f)
  | .bayLread t u f => some (bayWord 0x4A t u f)
  | .bayLraw t u f => some (bayWord 0x4B t u f)
  | .bayLd t u f => some (bayWord 0x4C t u f)
  | .baySt t u f => some (bayWord 0x4D t u f)
  | .bayLdSync t u f => some (bayWord 0x4E t u f)
  | .bayVld t u f => some (bayWord 0x4F t u f)
  | .bayVst t u f => some (bayWord 0x50 t u f)
  | .bayVgather t u f => some (bayWord 0x51 t u f)
  | .bayAmo t u f => some (bayWord 0x52 t u f)
  | .bayLut t u f => some (bayWord 0x53 t u f)
  | .bayLutst t u f => some (bayWord 0x54 t u f)
  | .bayLutrd t u f => some (bayWord 0x55 t u f)
  | .baySteer t u f => some (bayWord 0x56 t u f)
  | .bayMerge t u f => some (bayWord 0x57 t u f)
  | .bayLoop t u f => some (bayWord 0x58 t u f)
  | .bayLoopt t u f => some (bayWord 0x59 t u f)
  | .baySend x => some (bayWord 0x5A 0x30 0x30 (0#2 ++ x ++ 0#3))
  | .bayRecv t u f => some (bayWord 0x5B t u f)
  | .bayBr x => some (bayWord 0x5C 0x30 0x30 (0#2 ++ x ++ 0#3))
  | .bayLaunch t u f => some (bayWord 0x5D t u f)
  | .bayIspois t u f => some (bayWord 0x5E t u f)
  | _ => none

/-- The word of a stream command (R79, R82). -/
def encodeCommand : Instr → Option (BitVec 128)
  | .bind p c k f i a => some (cmdWord 0x01 p c k f i a)
  | .bindResume p c k f i a => some (cmdWord 0x01 p c k f i a)
  | .bindResumeSkip p c k f i a => some (cmdWord 0x01 p c k f i a)
  | .bindAbandon p c k f i a => some (cmdWord 0x01 p c k f i a)
  | .copy p c k f i a => some (cmdWord 0x02 p c k f i a)
  | .fill p c k f i a => some (cmdWord 0x03 p c k f i a)
  | .gather p c k f i a => some (cmdWord 0x04 p c k f i a)
  | .scatter p c k f i a => some (cmdWord 0x05 p c k f i a)
  | .rdfor p c k f i a => some (cmdWord 0x06 p c k f i a)
  | .rwin p c k f i a => some (cmdWord 0x07 p c k f i a)
  | .rwclose p c k f i a => some (cmdWord 0x08 p c k f i a)
  | .ramo p c k f i a => some (cmdWord 0x09 p c k f i a)
  | .rred p c k f i a => some (cmdWord 0x0A p c k f i a)
  | .marker p c k f i a => some (cmdWord 0x0B p c k f i a)
  | .round p c k f i a => some (cmdWord 0x0C p c k f i a)
  | .drain p c k f i a => some (cmdWord 0x0D p c k f i a)
  | .cfgload p c k f i a => some (cmdWord 0x0E p c k f i a)
  | .cfgswitch p c k f i a => some (cmdWord 0x0F p c k f i a)
  | .snapshot p c k f i a => some (cmdWord 0x10 p c k f i a)
  | .sfence p c k f i a => some (cmdWord 0x11 p c k f i a)
  | .inject p c k f i a => some (cmdWord 0x12 p c k f i a)
  | .collect p c k f i a => some (cmdWord 0x13 p c k f i a)
  | .sink p c k f i a => some (cmdWord 0x14 p c k f i a)
  | .shoot p c k f i a => some (cmdWord 0x15 p c k f i a)
  | .tload p c k f i a => some (cmdWord 0x16 p c k f i a)
  | .prefetch p c k f i a => some (cmdWord 0x17 p c k f i a)
  | .nop p c k f i a => some (cmdWord 0x18 p c k f i a)
  | .portwait p c k f i a => some (cmdWord 0x19 p c k f i a)
  | _ => none

/-- The word of a gallery control word (R270, R280). -/
def encodeGallery : Instr → Option W64
  | .gclaim mask accm => some (0x0#4 ++ mask ++ accm ++ 0#24)
  | .grelease mask accm => some (0x1#4 ++ mask ++ accm ++ 0#24)
  | .gbslotB slot => some (0x2#4 ++ 0#1 ++ slot ++ 0#54)
  | .gbslotA slot rows arow0 keep => some (0x2#4 ++ 1#1 ++ slot ++ rows ++ arow0 ++ keep ++ 0#36)
  | .gshape k n => some (0x3#4 ++ 0#0 ++ k ++ n ++ 0#42)
  | .ganchor a => some (0x4#4 ++ a ++ 0#48)
  | .gclear row0 n => some (0x5#4 ++ row0 ++ n ++ 0#43)
  | .grdfmt fmt rm clr => some (0x6#4 ++ fmt ++ rm ++ clr ++ 0#53)
  | .gdrain row0 n dmask tag => some (0x7#4 ++ row0 ++ n ++ dmask ++ tag ++ 0#11)
  | .gsteer smask => some (0x8#4 ++ smask ++ 0#44)
  | .groute entry gk lrow ochan eot q goff rstr =>
    some (0x9#4 ++ entry ++ gk ++ lrow ++ ochan ++ eot ++ q ++ goff ++ rstr ++ 0#9)
  | .gfmt af bf => some (0xA#4 ++ af ++ bf ++ 0#52)
  | .gscale sslot soff => some (0xB#4 ++ sslot ++ soff ++ 0#50)
  | .gfence entry tag => some (0xC#4 ++ entry ++ tag ++ 0#40)
  | .gstatus entry sel clr => some (0xD#4 ++ entry ++ sel ++ clr ++ 0#54)
  | _ => none

/-- The payload of a tag operation (R202). -/
def encodeTag : Instr → Option W64
  | .tlook key => some (0#3 ++ 0#13 ++ 0#8 ++ key)
  | .tfill key => some (1#3 ++ 0#13 ++ 0#8 ++ key)
  | .tevict slot => some (2#3 ++ 0#13 ++ slot ++ 0#40)
  | .tpin slot => some (3#3 ++ 0#13 ++ slot ++ 0#40)
  | .tunpin slot => some (4#3 ++ 0#13 ++ slot ++ 0#40)
  | .tdirty slot => some (5#3 ++ 0#13 ++ slot ++ 0#40)
  | .tread slot => some (6#3 ++ 0#13 ++ slot ++ 0#40)
  | _ => none

/-- The layer and bytes of an instruction; none for a step that no word encodes. -/
def encode (i : Instr) : Option (Layer × List Byte) :=
  match encodeLanding i, encodeBay i, encodeCommand i, encodeGallery i, encodeTag i with
  | some w, _, _, _, _ => some (.landing, leBytes 4 w.toNat)
  | none, some w, _, _, _ => some (.bay, leBytes 4 w.toNat)
  | none, none, some w, _, _ => some (.command, leBytes 16 w.toNat)
  | none, none, none, some w, _ => some (.gallery, leBytes 8 w.toNat)
  | none, none, none, none, some w => some (.tag, leBytes 8 w.toNat)
  | none, none, none, none, none => none

/-- The layer in which a word numbered as spec/opcode_table.json numbers it is read: 32-bit words are landing-core
words where that layer assigns them and bay words otherwise (log 7); 128 bits are a command, 64 bits a gallery word. -/
def tableLayer (nbits w : Nat) : Layer :=
  if nbits > 64 then .command
  else if nbits > 32 then .gallery
  else match decodeLanding (BitVec.ofNat 32 w) with
    | .ok _ => .landing
    | .error _ => (match decodeBay (BitVec.ofNat 32 w) with
      | .ok _ => .bay
      | .error _ => .landing)

/-- The instruction the decoder reads from a word of the opcode table, laid out as bytes in memory order. -/
def decodeTableWord (nbits w : Nat) : Option Instr :=
  let l := tableLayer nbits w
  match decode l (leBytes (layerBytes l) (w % 2 ^ nbits)) with
  | .ok r => if wellFormed r.1 then some r.1 else none
  | .error _ => none

end Sys2Proof
end

