-- ==== Sys2Proof/Machine/Types.lean ====
section
/-! DEFINITION. The data types the state is built from: tokens (R59–R62), causes (R385), registers with poison, threads (R330), A-bay contexts (R204), stream units (R245), stairs (R157), banks (R193–R203), galleries (R265–R283), commands (R174), regions (R361–R384), arcade traffic (R132–R156) and the host side (R430–R440). -/

namespace Sys2Proof.Machine

/-- R12, R385: the closed list of fault causes. -/
inductive Cause where
  | none | nopage | prot | range | key | window | deadpeer | peerlevel | poisonuse | shape
  | illegal | cfg | spillfull | watchdog | check | ecc | budget | depth | align
  deriving DecidableEq, Repr

/-- R59: the eight kinds of token. -/
inductive TokKind where
  | data | stop | done | marker | roundEnd | drain | snapshot | skip
  deriving DecidableEq, Repr

/-- R59: a token, its 24-bit header field by field and its payload. -/
structure Token where
  kind    : TokKind := .data
  level   : BitVec 3 := 0
  ctx     : BitVec 2 := 0
  round   : BitVec 4 := 0
  poison  : Bool := false
  chan    : BitVec 4 := 0
  width   : BitVec 3 := 0
  beat    : BitVec 4 := 0
  payload : W64 := 0
  deriving DecidableEq, Repr

/-- R26: a return-lane token: level 0 a skip, level 7 an echo (R248). -/
structure RTok where
  ctx   : Nat
  level : BitVec 3
  coord : W32
  deriving DecidableEq, Repr

/-- R330: a 64-bit register with its poison bit. -/
structure Reg64 where
  v : W64 := 0
  poison : Bool := false
  deriving DecidableEq, Repr

/-- R330: a predicate with its poison bit. -/
structure PBit where
  v : Bool := false
  poison : Bool := false
  deriving DecidableEq, Repr

/-- R330, R347: a command register, its poison bit and the quarters rewritten since the bit was set. -/
structure CReg where
  v : BitVec 128 := 0
  poison : Bool := false
  fresh : BitVec 4 := 0
  deriving DecidableEq, Repr

/-- R204, R211: a 32-bit value with its poison bit. -/
structure PW32 where
  v : W32 := 0
  poison : Bool := false
  deriving DecidableEq, Repr

/-- R211: what a slot of a block holds. -/
inductive SlotVal where
  | null
  | val (w : PW32)
  deriving DecidableEq, Repr

/-- R353: a watch-table entry. -/
structure Watch where
  va : W64 := 0
  pa : Nat := 0
  peer : Option Nat := none
  armed : Bool := false
  cause : Nat := 0
  deriving DecidableEq, Repr

/-- R100: the kind of an access. R98 `ex` governs fetches. -/
inductive AccKind where
  | read | write | atomic | exec
  deriving DecidableEq, Repr

/-- R101: a translation-buffer entry of a translate unit or a landing core. -/
structure TlbEnt where
  root : BitVec 37
  va   : Nat
  psz  : Nat
  pte  : W64
  pin  : Option Nat := none
  deriving DecidableEq, Repr

/-- Who issued an access to memory. -/
inductive Issuer where
  | thread (hall ctx : Nat)
  | stair (hall port ctx : Nat)
  | engine (hall ticket : Nat)
  | host (rid : Nat)
  deriving DecidableEq, Repr

/-- R305, R306: an access issued and not yet performed at its owning memory edge. -/
structure Pend where
  who   : Issuer
  pa    : Nat
  key   : Nat
  rem   : Option Nat := none
  size  : Nat
  data  : List Byte
  /-- an atomic: its operation -/
  atomic : Option Nat := none
  /-- the element of an atomic of a stair -/
  tag : Nat := 0
  filling : Bool := false
  cls   : Nat := 0
  poison : Bool := false
  va    : W64 := 0
  /-- R168: places of the data that a merged write leaves alone -/
  skip  : List Nat := []
  deriving DecidableEq, Repr

/-- R330: a landing-core thread. Every item is saved and restored with its context. -/
structure Thread where
  /-- R330: the thread exists (its slot is live and its region has not completed). Reset false. -/
  live : Bool := false
  /-- R330 x0–x31, 64 bits and a poison bit each. Reset 0 (R330). -/
  x : Tab Reg64 := []
  /-- R330 p0–p7, a bit and a poison bit each. Reset 0 (R330); p0 reads 1. -/
  p : Tab PBit := []
  /-- R330 c0–c7, 128 bits and a poison bit each. Reset 0 (R330). -/
  c : Tab CReg := []
  /-- R330, R351 sh0–sh3, 64 bits each. Reset 0 (R330). -/
  sh : Tab W64 := []
  /-- R330, R353 m0–m15. Reset disarmed (R330). -/
  m : Tab Watch := []
  /-- R330 `pc`, 64 bits. Reset: the entry address at first switch; 0 before (DESIGN CHOICE, log 2). -/
  pc : W64 := 0
  /-- R333 `estat.pl`: true at pl1. Reset pl0 (R330). -/
  pl : Bool := false
  /-- R333 `estat.ppl`. Reset 0 (R330). -/
  ppl : Bool := false
  /-- R333 `estat.ie`. Reset 0 (R330); set at placement (R369). -/
  ie : Bool := false
  /-- R333 `epc`, 56 bits of 64. Reset 0 (R330). -/
  epc : W64 := 0
  /-- R333 `ecause`, 64 bits. Reset 0 (R330). -/
  ecause : W64 := 0
  /-- R333 `einfo`, 64 bits. Reset 0 (R330). -/
  einfo : W64 := 0
  /-- R333 `ebase`, 56 bits of 64, bits 1:0 zero. Reset 0 (R330). -/
  ebase : W64 := 0
  /-- R333 `escr`, 64 bits. Reset 0 (R330). -/
  escr : W64 := 0
  /-- R357 `own[n]`, the arrival counters; an absent key is invalid. Reset invalid (R330). -/
  own : Tab Nat := []
  /-- R335: the token queue, at most 64. Reset empty (R330). -/
  toks : List Token := []
  /-- R434: the ingress channel of each token of the queue, 0 for none. -/
  tokChans : List Nat := []
  /-- R334: the report queue, at most 32. Reset empty (R330). -/
  reps : List (BitVec 512) := []
  /-- R336 `rcbva`, 56 bits. Reset 0 (DESIGN CHOICE, log 2); set at placement (R369). -/
  rcbva : W64 := 0
  /-- R336 `lroot`, 37 bits. Reset 0 (DESIGN CHOICE, log 2); set at placement (R369). -/
  lroot : BitVec 37 := 0
  /-- R336 `hmsel`, 6 bits. Reset 0 (DESIGN CHOICE, log 2). -/
  hmsel : BitVec 6 := 0
  /-- R336: writes of `hmsk` on their way to bays, oldest first: bay and masks. Reset none. -/
  hmOut : List (Nat × W64) := []
  /-- R336 `sfsel`, 6 bits. Reset 0 (DESIGN CHOICE, log 2). -/
  sfsel : BitVec 6 := 0
  /-- R336 `mwsel`, bits 15:3. Reset 0 (DESIGN CHOICE, log 2). -/
  mwsel : W64 := 0
  /-- R336 `instret`, 64 bits. Reset 0 (DESIGN CHOICE, log 2). -/
  instret : W64 := 0
  /-- R334, R355: cycles that the `mwait` at an address has still to wait, 0 once run out; keyed by the address, since a report's handler may
  run an `mwait` of its own. Reset none. -/
  mwLeft : Tab Nat := []
  /-- R355: the context was saved while the thread waited in the `mwait` at this address, which ends with cause 4 and entry 0. Reset none. -/
  mwSaved : Option W64 := none
  /-- R355: the thread waits in an `mwait` that writes this register. -/
  mwD : Option (BitVec 5) := none
  /-- R198, R331: a synchronising read is parked at a bank, or a remote access has not been answered. -/
  parked : Bool := false
  /-- R198, R137: the value a parked synchronising read or a remote access has been served with. -/
  served : Option Reg64 := none
  /-- R331: registers that outstanding loads of a peer's memory have still to write, at most eight. Reset none. -/
  loads : List Nat := []
  /-- R342: the double words that an `ldm` or `cld` of a peer's memory has received so far. -/
  got : List Reg64 := []
  /-- R331: the word of the instruction that is in hand: it is fetched once, and again only after it has retired, trapped or been
  abandoned for a report. Reset none. -/
  ir : Option W32 := none
  /-- R333: a double fault stopped the thread. -/
  dead : Bool := false
  /-- R331, R382: the thread waits in `wfi`. -/
  inWfi : Bool := false
  /-- R403: the thread waits in `await` (3) or in `cstat.wait` (4); 0 in neither. -/
  inWait : Nat := 0
  deriving DecidableEq, Repr

/-- R204: a vector register: 1,024 bits, 32 word-poison bits, a flag word. -/
structure VReg where
  v : BitVec 1024 := 0
  pois : BitVec 32 := 0
  fl : BitVec 6 := 0
  deriving DecidableEq, Repr

/-- R204, R48, R49: a long accumulator: the cell and its anchor. -/
structure Lacc where
  cell : BitVec 128 := 0
  anchor : BitVec 12 := 0
  deriving DecidableEq, Repr

/-- R234: what follows the retiring block. -/
inductive BlkNext where
  | undecided
  | frame (f : Nat)
  | endTask
  | bad
  deriving DecidableEq, Repr

/-- R209–R213: the active block of a task. -/
structure Block where
  frame : Nat := 0
  /-- R211: slots filled, keyed 3 × index + (0 left, 1 right, 2 predicate). -/
  slots : Tab SlotVal := []
  /-- R213: instructions that have fired or been nullified. -/
  fired : List Nat := []
  /-- R213: instructions whose result has still to return from the bank. -/
  inflight : List Nat := []
  /-- R213: register writes waiting for retirement: register, instruction index, value. -/
  regw : List (Nat × Nat × PW32) := []
  next : BlkNext := .undecided
  deriving DecidableEq, Repr

/-- R204: the running task. -/
structure Task where
  hent : Nat
  last : Token
  blk  : Block := {}
  /-- R204: the ordered unit's position: beats that a `vput` or `vget` has moved so far. -/
  pos  : Nat := 0
  /-- R226: lanes of the vector load in progress that have been read: lane and value -/
  got  : List (Nat × PW32) := []
  deriving DecidableEq, Repr

/-- R197, R198: the kinds of request a bank serves. -/
inductive BankOp where
  | read | write | fillWrite | empty | syncKeep | syncClr
  | amo (op : Nat)
  /-- R286, R290: an update, to be merged in the bank's window where `free` is set -/
  | update (op : Nat) (anchor : BitVec 12) (free : Bool)
  deriving DecidableEq, Repr

/-- Where a bank's response goes. -/
inductive Reply where
  | drop
  | bay (hall bay ctx frame idx : Nat) (signed : Bool)
  | bayLane (hall bay ctx frame idx lane : Nat)
  | thread (hall ctx : Nat) (signed : Bool)
  | port (hall quad k : Nat)
  | unit (hall bay ctx : Nat)
  /-- a scanner's granule (R239) -/
  | unitRd (hall bay ctx : Nat)
  | gal (hall ctx : Nat)
  deriving DecidableEq, Repr

/-- R197: a place of a source's return path: the number of the request, where its answer goes, and the answer, once the bank has given it. -/
structure RobEnt where
  no    : Nat
  reply : Reply
  ans   : Option (W64 × Bool) := none
  deriving DecidableEq, Repr

/-- R204: the state an A-bay keeps for one context slot. -/
structure BayCtx where
  /-- R204 b0–b15, 32 bits and a poison bit. Reset 0 (R204). -/
  b : Tab PW32 := []
  /-- R204 v0–v7. Reset 0 (R204). -/
  v : Tab VReg := []
  /-- R204 `vs.n`, 0–128. Reset 0 (R204). -/
  vsN : Nat := 0
  /-- R204 `vs` width code: 0 is 8, 1 is 16, 2 is 32. Reset 32 (R204). -/
  vsW : Nat := 2
  /-- R204 `vs.rev`. Reset 0 (R204). -/
  vsRev : Bool := false
  /-- R204 `vm`, 128 bits. Reset 0 (R204). -/
  vm : BitVec 128 := 0
  /-- R204 la0, la1. Reset cleared, anchor 0 (R204). -/
  la : Tab Lacc := []
  /-- R204 lc0–lc3, 32 bits. Reset 0 (R204). -/
  lc : Tab W32 := []
  /-- R204 lb0–lb3, 32 bits; an absent key is invalid. Reset invalid (R204). -/
  lb : Tab W32 := []
  /-- R204 `fs`, 6 bits. Reset 0 (R204). -/
  fs : BitVec 6 := 0
  /-- R204, R227: the 103 LUT entries, 64 bits each. Reset as loaded (R204). -/
  lut : Tab W64 := []
  /-- R204: the 16 LUT state bits. Reset entry 102 (R204). -/
  lutSt : BitVec 16 := 0
  /-- R204, R207: 16 channel queues of at most 4 tokens. Reset empty (R204). -/
  chans : Tab (List Token) := []
  /-- R434: the ingress channels of the queued tokens, 0 for none; parallel to `chans`. -/
  ingr : Tab (List Nat) := []
  /-- R204: the running task. Reset none (R204). -/
  task : Option Task := none
  /-- R379: wait counts of the handlers. Reset 0. -/
  waits : Tab Nat := []
  /-- R379: when each handler became eligible, for "eligible longest"; an absent key is not eligible. -/
  since : Tab Nat := []
  /-- R379: selections made. -/
  selCnt : Nat := 0
  /-- R216, R380: the context trapped and selects no handler until it resumes. -/
  trapped : Bool := false
  /-- R205, R336: `msk` bits changed through `hmsk`; absent: as the handler table has it. -/
  msk : Option (BitVec 16) := none
  /-- R406: tasks started. -/
  tasks : Nat := 0
  /-- R197: the return path: requests that have still to be answered, in the order of issue, and the number of the next. Reset empty. -/
  rob : List RobEnt := []
  robSeq : Nat := 0
  deriving DecidableEq, Repr

/-- R197: a request in a bank's queue: bank offset, bytes, and the source. -/
structure BankReq where
  op    : BankOp
  boff  : Nat
  size  : Nat
  data  : List Byte := []
  poison : Bool := false
  reply : Reply
  ctx   : Nat
  cls   : Nat := 0
  /-- the element that asked: module hall, element code; 127 where no element did -/
  src   : Nat × Nat := (0, 127)
  /-- R197: the number of the request among those of its source that are answered -/
  no    : Nat := 0
  /-- R239: places of the data whose byte enables are off -/
  skip  : List Nat := []
  /-- R122: the virtual address of a landing core's read -/
  va    : W64 := 0
  deriving DecidableEq, Repr

/-- R27, R28: a packet of the packet network: its source (module hall and element code), the receiving port (16 × hall + quad of a bank), its
sequence number, its age in hops, the router it has reached, and whether it travels on the escape lane. -/
structure NetPkt where
  src : Nat × Nat
  dst : Nat
  seq : Nat
  age : Nat := 0
  row : Nat
  col : Nat
  esc : Bool := false
  req : BankReq
  deriving DecidableEq, Repr

/-- R27, R28: the packet network: packets on their way, the reorder buffer of each receiving port, and for each pair of a source and a port the
next number sent and the next one released, keyed `netKey`. -/
structure Net where
  fly  : List NetPkt := []
  bufs : Tab (List NetPkt) := []
  tx   : Tab Nat := []
  rx   : Tab Nat := []
  deriving DecidableEq, Repr

/-- R338: a line in a landing core's data cache: its place, the key slot and pair it was read under (none for scratchpad), and its poisoned
granules. -/
structure DLine where
  line : Nat
  key  : Nat
  pair : Option (BitVec 512) := none
  marks : List Nat := []
  deriving DecidableEq, Repr

/-- R201: a tag entry. -/
structure TagEnt where
  key : BitVec 40 := 0
  v : Bool := false
  pend : Bool := false
  pin : Bool := false
  dty : Bool := false
  deriving DecidableEq, Repr

/-- R290: an entry of a sparse-update unit's window: the element by its bank offset, its context, and the merged operand or
contributions. -/
structure WinEnt where
  boff : Nat
  ctx  : Nat
  op   : Nat
  anch : BitVec 12 := 0
  w    : W32 := 0
  sum  : Int := 0
  flags : BitVec 4 := 0
  deriving DecidableEq, Repr

/-- R200, R289: a running M-bay port stream. -/
structure MStream where
  ticket : Nat
  ctx : Nat
  count : Nat := 0
  /-- the next element -/
  k : Nat := 0
  /-- R197: elements asked of the banks, in order, with what has been answered: the value and its poison -/
  rob : List (Nat × Option (W64 × Bool)) := []
  /-- no further element is taken -/
  ended : Bool := false
  fault : Cause := .none
  faultIx : Nat := 0
  eot : Bool := false
  eotSent : Bool := false
  deriving DecidableEq, Repr

/-- R193–R203: an M-bay. -/
structure Bank where
  /-- R193: the owner, a region number; none at reset (R193). -/
  owner : Option Nat := none
  /-- R193: log2 of the group's bank count. Reset 0 (R193). -/
  gsz : Nat := 0
  /-- R193: first quad of the group; the bank's own at reset (R193). -/
  gbase : Nat := 0
  /-- R193, R194: interleave code 0–4. Reset 64 KiB (R193). -/
  ilv : Nat := 4
  /-- R197: the four input queues, at most 8 requests each. Reset empty. -/
  q : Tab (List BankReq) := []
  /-- R197: the queue last served, for round-robin. Reset 3 (DESIGN CHOICE, log 2). -/
  rr : Nat := 3
  /-- R198: the wait list of parked synchronising reads, at most 16. Reset empty. -/
  parked : List BankReq := []
  /-- R195: `mbank` words waiting for queued requests, in the order of their markers: slot and owner. -/
  mbPend : List (Nat × Nat) := []
  /-- R200: tokens waiting on the stream's input channel, per context. -/
  chans : Tab (List Token) := []
  /-- R200: the running port stream. -/
  strm : Option MStream := none
  /-- R201: tag entries by slot number. Reset invalid (R195). -/
  tags : Tab TagEnt := []
  /-- R201: recency order, most recent first. -/
  recency : List Nat := []
  /-- R290: the update window, oldest first, at most 32 entries. Reset empty. -/
  win : List WinEnt := []
  /-- R196: the M-bay has stopped serving these contexts. -/
  stopped : List Nat := []
  deriving DecidableEq, Repr

/-- R246: an open scanner fibre. -/
structure ScanFib where
  p    : W32
  j    : Nat
  hi   : Nat
  /-- the next chunk of a chunk list -/
  chunk : Nat := 0
  /-- the chunk at hand, its entries, and the next of them -/
  at_  : Nat := 0
  cn   : Nat := 0
  ce   : Nat := 0
  closing : Bool := false
  deriving DecidableEq, Repr

/-- R250: a galloping search: bracket, exponential step, target, and whether the phase is binary. -/
structure Probe where
  t : W32
  g : Nat
  h : Nat
  d : Nat
  gl : Nat
  bin : Bool := false
  at_ : Nat
  deriving DecidableEq, Repr

/-- R254: a reducer entry: accumulated value or cell, count, poison. -/
structure RedEnt where
  v : W32 := 0
  cell : BitVec 128 := 0
  n : Nat := 0
  poison : Bool := false
  deriving DecidableEq, Repr

/-- R105: a request of a translate unit in order; `ans` once finished. -/
structure XReq where
  va : Nat
  kind : Option AccKind
  tok : Token
  ans : Option Token := none
  /-- R244: the input on which its token came -/
  inp : Nat := 0
  deriving DecidableEq, Repr

/-- R260: writes to one granule of the bank group that are still together: the granule, its bytes by place, and a poisoned element among them. -/
structure GranW where
  k    : Nat
  data : Tab Byte := []
  pois : Bool := false
  deriving DecidableEq, Repr

/-- R239: a scanner's request for a granule of the bank group: its number, the granule, and the data once it has returned. -/
structure GranR where
  no  : Nat
  k   : Nat
  ans : Option (BitVec 128 × Bool) := none
  deriving DecidableEq, Repr

/-- R245: the state an S-bay keeps for one context slot. -/
structure SCtx where
  /-- R241, R245: input queues i0–i3, at most 8 tokens. Reset empty. -/
  q : Tab (List Token) := []
  /-- R261: tokens waiting on `rch`. -/
  rq : List Token := []
  /-- R101: the inputs of the queued tokens, in the order in which the tokens reached the unit. -/
  arr : List Nat := []
  /-- R249: stops emitted E. Reset 0. -/
  eCnt : W32 := 0
  /-- R249: last echo X. Reset 0. -/
  xCnt : W32 := 0
  /-- R245: scanner cursor and fibre end. -/
  fib : Option ScanFib := none
  /-- R249: the skip in force for the open or next fibre. -/
  skipT : Option W32 := none
  /-- R250: the probe bracket. -/
  probe : Option Probe := none
  /-- R245: last coordinate of each input in its open fibre. -/
  lastC : Tab W32 := []
  /-- R245, R248: stops taken from each input. -/
  stops : Tab W32 := []
  /-- R237, R253: inputs whose present fibre has logged `range`. -/
  logged : List Nat := []
  /-- R251: inputs to which the end-of-fibre skip was sent. -/
  endSkip : List Nat := []
  /-- R253: the held value. -/
  held : Option PW32 := none
  /-- R254: a run's open coordinate. -/
  runC : Option (W32 × BitVec 3) := none
  /-- R254: run or fold accumulator. -/
  acc : RedEnt := {}
  /-- R254: the key table. -/
  tab : Tab RedEnt := []
  /-- R257: the kept set, in rising coordinate order: coordinate and value. -/
  kept : List (W32 × W32) := []
  /-- R257, R258: fibre poison. -/
  fpois : Bool := false
  /-- R236: a data token has arrived since the last stop. -/
  seen : Bool := false
  /-- R241: ordinal of the next width-1 token. -/
  ord : Nat := 0
  /-- R258: cumulative count, 40 bits, saturating. -/
  cum : Nat := 0
  /-- R258: held empty rows, oldest first, and whether each leaves poisoned. -/
  empties : List (W32 × Bool) := []
  /-- R254, R253: the release before the token at the head has been sent. -/
  relDone : Bool := false
  /-- R300: the round of the last token taken. -/
  rnd : BitVec 4 := 0
  /-- R259: row i, entry j. -/
  lwI : Nat := 0
  lwJ : Nat := 0
  lwFirst : Bool := true
  /-- R259: current chunk, its count, head, total. -/
  cur : Nat := 0
  nc : Nat := 0
  hd : Nat := 0
  tot : Nat := 0
  /-- R259: head entries waiting for their rows' writes: row, head, count. -/
  heads : List (Nat × Nat × Nat) := []
  /-- R260: the writer stopped. -/
  lwStop : Bool := false
  /-- R260: writes not yet acknowledged. -/
  unacked : Nat := 0
  /-- R245, R250: the prefetch buffer, at most 8 granules of the bank group with their poison; the requests under way, and the number of the next. -/
  pre : Tab (BitVec 128 × Bool) := []
  asks : List GranR := []
  askNo : Nat := 0
  /-- R260: the writes to one granule that have still to be sent together. -/
  lwHeld : Option GranW := none
  /-- R261: bump pointer; none: at `base`. -/
  bump : Option Nat := none
  /-- R261: `budget` logged this invocation. -/
  bumpLog : Bool := false
  /-- R245 `sf`, 6 bits. Reset 0 at first switch (R245). -/
  sf : BitVec 6 := 0
  /-- R244: `sinkcnt` remaining count; none before the slot is first switched to. -/
  sink : Option Nat := none
  /-- R382: the counter has counted at least once, and it has reported zero. -/
  sinkHit : Bool := false
  sinkTold : Bool := false
  /-- R101: the translation buffer, most recent first, at most 64. -/
  tlb : List TlbEnt := []
  /-- R101, R105: requests in arrival order. -/
  xq : List XReq := []
  deriving DecidableEq, Repr

/-- R102, R166: a window a stair holds. -/
structure Window where
  va  : Nat
  pay : W64
  deriving DecidableEq, Repr

/-- R167: the bytes of an element that lie in one line: where they are and, once the line has returned, what they are. -/
structure Piece where
  pa  : Nat
  key : Nat
  rem : Option Nat := none
  len : Nat
  /-- the tag of the packet that asks a peer for the line -/
  tag : Option Nat := none
  got : Option (List Byte × Bool) := none
  deriving DecidableEq, Repr

/-- R159, R166: an element on its way through a stair. -/
structure Elem where
  /-- place in the command's issue order -/
  ser : Nat
  ctx : Nat
  va  : Nat
  /-- bytes -/
  n   : Nat
  idx : W32
  coord : W32
  kind : AccKind
  round : BitVec 4 := 0
  /-- R168: the operand's beats that have been taken, and whether one was poisoned -/
  data : List W64 := []
  dpois : Bool := false
  /-- the cause for which no access is issued (R158, R162), or a refused page (R118) -/
  bad : Cause := .none
  /-- the pieces translated so far -/
  ps  : List Piece := []
  /-- a window has been asked for (R166) -/
  asked : Bool := false
  /-- R118: the element is replayed from the spill queue -/
  replay : Bool := false
  /-- R161: a read of the position or coordinate array -/
  aux : Bool := false
  /-- R171: the flight counters at the element's iteration -/
  f : List Nat := []
  deriving DecidableEq, Repr

/-- R114: a spill-queue entry: the element, its page, its page request, and the answer of page service. -/
structure Spill where
  e : Elem
  page : Nat
  seq : Nat
  ok : Option Bool := none
  deriving DecidableEq, Repr

/-- R159, R167: an item of a stair's output, in issue order. -/
inductive OutItem where
  /-- a token; `port` where a command entered it at the port: 2 × its ticket, 1 more for its last token -/
  | tok (t : Token) (port : Option Nat)
  /-- an element whose value has still to return -/
  | el (e : Elem)
  /-- the place of a spilled element (R113) -/
  | hole (ser : Nat)
  deriving DecidableEq, Repr

/-- R157, R158: the command a stair runs, and its counters. -/
structure StairRun where
  ticket : Nat
  ctx : Nat
  cls : Nat
  eot : Bool := false
  base : Nat := 0
  bound : Nat := 0
  ob : Nat := 0
  f : List Nat := [0, 0, 0, 0, 0, 0]
  /-- bounds of the runs that are open, by flight -/
  bnd : Tab Nat := []
  idx : W32 := 0
  ser : Nat := 0
  /-- R161: lo and hi of the open row -/
  row : Option (Nat × Nat) := none
  /-- R161: position and coordinate values read and not yet used, by VA -/
  aux : Tab PW32 := []
  started : Bool := false
  /-- no further element will be issued -/
  ended : Bool := false
  /-- the done has been made -/
  doneMade : Bool := false
  eotSent : Bool := false
  fault : Cause := .none
  /-- R293, R295: the command is a `ramo`, whose own step issues its elements -/
  ramo : Bool := false
  deriving DecidableEq, Repr

/-- R170, R171: a stair's stop, with its trap record. -/
structure StairStop where
  cause : Cause
  record : BitVec 512
  deriving DecidableEq, Repr

/-- R167: a line that a stair has read: its number, the key slot or peer it was read through, its bytes, and its poisoned granules. -/
structure CurLine where
  line : Nat
  key  : Nat
  rem  : Option Nat := none
  data : List Byte
  pois : List Nat := []
  deriving DecidableEq, Repr

/-- R157: a stair. -/
structure Stair where
  run : Option StairRun := none
  /-- R170: the stop that holds the port. -/
  stop : Option StairStop := none
  /-- R166: held windows, most recent first. -/
  wins : List Window := []
  /-- R166: the element being issued. -/
  want : Option Elem := none
  /-- R166: requests for windows not yet answered: VA, whether an element waits for it, and the ranges of the shootdowns that have reached the stair
  since (R123): their first address and length. -/
  asks : List (Nat × Bool × List (Nat × Nat)) := []
  /-- R171: the last window or fault token received. -/
  lastWin : W64 := 0
  /-- R157, R167: output items in issue order; at most 64 lines (R157). -/
  out : List OutItem := []
  /-- R161: position and coordinate reads of a peer's memory not yet answered. -/
  auxq : List Elem := []
  /-- R167: the current line, once read: the line of the last piece issued. -/
  cur : Option CurLine := none
  /-- R168: the write that consecutive elements of one line are merged into, and for a peer's memory those elements. -/
  mrg : Option Pend := none
  mrgEls : List Elem := []
  /-- R114: the spill queue, at most 16. -/
  spill : List Spill := []
  /-- R116: outstanding page requests: sequence and page. -/
  reqs : List (Nat × Nat) := []
  reqSeq : Nat := 0
  /-- R169: channel queues of at most 4 tokens, keyed 16 × ctx + channel. -/
  chans : Tab (List Token) := []
  /-- R119, R120: control tokens held at the memory port, and the ticket of an `sfence`. -/
  held : List (Token × Option Nat) := []
  /-- R119, R120: writes issued and not acknowledged. -/
  unacked : Nat := 0
  /-- R120: writes performed whose acknowledgement is on its way. -/
  ackDue : Nat := 0
  /-- R144: elements written to a peer and not yet acknowledged, by packet tag. -/
  remw : Tab (List Elem) := []
  /-- R144, R170: elements that had been taken up when a peer's refusal stopped the stair at an earlier one. -/
  aside : List Elem := []
  /-- R156: `rdfor` commands not completed. -/
  rdfors : Nat := 0
  deriving DecidableEq, Repr

/-- R275: an entry of a gallery work queue. -/
inductive GEnt where
  | a (slot rows arow0 : Nat) (keep : Bool) (k n : Nat) (afmt bfmt : BitVec 4) (anchor : BitVec 12)
      (bslot : Nat) (scale : Option (Nat × Nat)) (nextRow : Nat)
  | release (mask : BitVec 32) (accm : BitVec 4)
  | clear (row0 n : Nat)
  | drain (row0 n : Nat) (mask : BitVec 16) (tag : BitVec 16) (n_ : Nat) (fmt rm : BitVec 3) (clr : Bool)
      (routes : List (Nat × W64)) (word : Token)
  | fence (entry : Option Nat) (tag : BitVec 16) (word : Token)
  | status (entry : Nat) (sel clr : Bool) (word : Token)
  deriving DecidableEq, Repr

/-- R279: the drain at the head of a work queue, once it has begun. -/
structure GRun where
  /-- rows read out -/
  next : Nat := 0
  /-- tokens waiting to leave, by entry, in order -/
  outs : List (Nat × Token) := []
  /-- granule writes waiting for their banks: quad and request -/
  reqs : List (Nat × BankReq) := []
  unacked : Nat := 0
  pois : Bool := false
  inv : Bool := false
  /-- no further row is read -/
  cut : Bool := false
  /-- the end-of-tile markers have been made -/
  marked : Bool := false
  deriving DecidableEq, Repr

/-- R265–R283: the state a gallery keeps for one context. -/
structure GCtx where
  k : Nat := 0
  n : Nat := 0
  rev : Bool := false
  afmt : BitVec 4 := 0
  bfmt : BitVec 4 := 0
  anchor : BitVec 12 := 0
  rfmt : BitVec 3 := 0
  rm : BitVec 3 := 0
  rclr : Bool := false
  bslot : Option Nat := none
  scale : Option (Nat × Nat) := none
  steer : Option (BitVec 16) := none
  flags : BitVec 6 := 0
  routes : Tab W64 := []
  queue : List GEnt := []
  /-- R264, R269: control words and other control tokens not yet applied; a word of the image has channel 0 -/
  words : List Token := []
  /-- R271: a waiting claim: slots, quarters, order of application -/
  claim : Option (BitVec 32 × BitVec 4 × Nat) := none
  /-- R265: the waiting claim is a word of the image -/
  claimImg : Bool := false
  /-- R279: the drain in progress -/
  run : Option GRun := none
  stopped : Bool := false
  /-- R406: rows fired -/
  rows : Nat := 0
  deriving DecidableEq, Repr

/-- R265: an operand slot of a gallery. -/
structure GSlot where
  held : Option Nat := none
  /-- listed lines are present -/
  present : List Nat := []
  bytes : List (Nat × Byte) := []
  pois : List Nat := []
  deriving DecidableEq, Repr

/-- R190: an operand line waiting at a gallery's load port. -/
structure OpLine where
  ticket : Nat
  ctx : Nat
  slot : Nat
  line : Nat
  bytes : List Byte
  marks : BitVec 4
  deriving DecidableEq, Repr

/-- A gallery: operand slots, quarters, accumulator cells and row anchors. -/
structure Gal where
  slots : Tab GSlot := []
  /-- quarter → holding context -/
  quarters : Tab Nat := []
  /-- cell 256 × row + column -/
  acc : Tab (BitVec 128) := []
  anch : Tab (BitVec 12) := []
  ctxs : Tab GCtx := []
  /-- R190: operand lines waiting at the load port: ticket, ctx, slot, line, bytes, poison marks -/
  port : List OpLine := []
  /-- R265: loads whose first line found present bits set, and those whose first line has arrived -/
  refusedLoads : List Nat := []
  seenLoads : List Nat := []
  /-- R190: loads whose slot their context did not hold when the first line arrived -/
  lostLoads : List Nat := []
  /-- R410: columns whose sums will fail their residue check at the next row -/
  faulty : List Nat := []
  /-- R410: columns marked failed and not yet mapped to a spare -/
  failedCols : List Nat := []
  spares : Nat := 0
  retired : Bool := false
  claimSeq : Nat := 0
  /-- R283: a restore that waits for this gallery: its region, the slots and quarters it claims, and its order among the claims -/
  resume : Option (Nat × BitVec 32 × BitVec 4 × Nat) := none
  deriving DecidableEq, Repr

/-- R181: a part of a copy that has been read, or asked for, and not yet written. -/
structure CBuf where
  /-- the number of the part -/
  ix : Nat
  ps : List Piece
  /-- R109: the check value and the marks carried with a line -/
  cv : Option W32 := none
  marks : Nat := 0
  /-- R176: the address of the element -/
  va : Nat := 0
  deriving DecidableEq, Repr

/-- R174: a command in a hall's dispatcher. -/
structure DCmd where
  ticket : Nat
  /-- physical slot of the word's `ctx` (R364), and the slot of the context that issued it -/
  ctx : Nat
  ictx : Nat
  region : Option Nat
  word : BitVec 128
  desc : BitVec 512 := 0
  started : Bool := false
  /-- what the command does once has been done -/
  acted : Bool := false
  /-- parts done so far, in order, and parts done ahead of them -/
  prog : Nat := 0
  ahead : List Nat := []
  buf : List CBuf := []
  /-- a value fixed at issue -/
  aux : Nat := 0
  waitAcks : Nat := 0
  /-- R176: the writes to a peer that have not been acknowledged, by tag: the address and part of each -/
  sentW : Tab (Nat × Nat) := []
  /-- R166, R293: the address for which the command has asked its stair for a window -/
  asked : Option Nat := none
  /-- R121: parts that have still to acknowledge -/
  waitParts : Nat := 0
  /-- R181, R116: the page request the command waits for, and the pages refused to it -/
  waitPage : Option Nat := none
  refused : List Nat := []
  fault : Option Cause := none
  faultVa : W64 := 0
  faultIx : Nat := 0
  /-- R176: the fault has been reported by a stair's stop -/
  reported : Bool := false
  marked : Bool := false
  done : Bool := false
  deriving DecidableEq, Repr

/-- R349: the status kept for a ticket. -/
structure TStat where
  ticket : Nat
  ctx : Nat
  region : Nat
  ret : Bool := false
  cause : Cause := .none
  deriving DecidableEq, Repr

/-- R188: a sink counter. -/
structure SinkC where
  left : Nat
  /-- it has counted at least once -/
  hit : Bool := false
  /-- it has reported zero to the region controller -/
  told : Bool := false
  /-- R377: a switch marker of its context has passed it -/
  switched : Bool := false
  deriving DecidableEq, Repr

/-- A hall's dispatcher. -/
structure Disp where
  cmds : List DCmd := []
  next : Nat := 0
  stats : List TStat := []
  /-- keyed 4 × port + ctx -/
  sinks : Tab SinkC := []
  /-- R187: tokens waiting at ports, keyed 4 × port + ctx -/
  ports : Tab (List Token) := []
  /-- R397: ports through which commands of a context send tokens into elements, 4 × port + ctx -/
  ins : List Nat := []
  deriving DecidableEq, Repr

/-- R184: the state of a context slot. -/
inductive SlotSt where
  | empty | loaded | live | saving
  deriving DecidableEq, Repr

/-- R184, R364: a hall's context slot. -/
structure HSlot where
  st : SlotSt := .empty
  /-- R369: the VA the slot's image was last loaded from -/
  imageVa : Option W64 := none
  /-- region to which the slot is charged -/
  region : Option Nat := none
  /-- R376: elements at which the slot is live -/
  liveAt : List Nat := []
  /-- R372: the bay shift under which it was loaded -/
  shift : Nat × Nat := (0, 0)
  /-- R377: a switch in progress from this slot, to the slot named -/
  switchTo : Option Nat := none
  sinkReps : List Nat := []
  deriving DecidableEq, Repr

/-- R205, R66, R83: the configuration of one element in one slot. -/
structure ElemCfg where
  routes : Tab W32 := []
  /-- R69: words keyed 16 × frame + index -/
  store : Tab W32 := []
  handlers : Tab W64 := []
  lut : Tab W64 := []
  words : List W64 := []
  gctl : List W64 := []
  deriving DecidableEq, Repr

/-- R356: a hardware barrier as a hall knows it. -/
structure Barrier where
  en : Bool := false
  scope : BitVec 3 := 0
  home : Nat := 0
  cnt : Nat := 0
  phase : Nat := 0
  mask : W64 := 0
  /-- R357, at the home: counts by phase mod 4 -/
  count : Tab Nat := []
  deriving DecidableEq, Repr

/-- R361, R362: the values of an RCB that are fixed when its launch is enqueued. -/
structure REff where
  /-- R363 budgets that apply at this node; none where the node's bit is clear -/
  bhalls : Option Nat := none
  bgal : Option Nat := none
  bslot : Option Nat := none
  blaunch : Option Nat := none
  prio : Nat := 0
  fmode : Nat := 0
  fhandler : W64 := 0
  fsq : Nat := 0
  psq : Nat := 0
  prch : Nat := 0
  pgv : Bool := false
  key : Nat := 0
  nclass : Nat := 1
  akey : W32 := 0
  cscope : Nat := 0
  root : BitVec 37 := 0
  lbase : W64 := 0
  deriving DecidableEq, Repr

/-- R361: the node's own fields. -/
structure ROwn where
  entry : W64 := 0
  arg : W64 := 0
  image : W64 := 0
  pw : Nat := 0
  ph : Nat := 0
  ns : Nat := 1
  gal : Bool := false
  mv : Bool := false
  idem : Bool := false
  flog : W64 := 0
  flen : Nat := 0
  snapva : W64 := 0
  snaplen : Nat := 0
  sptab : W64 := 0
  spn : Nat := 0
  deriving DecidableEq, Repr

/-- R395–R400, R406: the progress of a swap and of a snapshot. Inputs are numbered by `inKey`. -/
structure RSwap where
  /-- R396: initiating hall and sequence of the drain of the swap in progress -/
  seq : Option (Nat × Nat) := none
  /-- contexts that are being saved, 4 × hall + slot -/
  ctxs : List Nat := []
  /-- R395: halls whose controllers have acted -/
  halls : List Nat := []
  /-- R397: the inputs of every element -/
  inputs : List Nat := []
  /-- R397: inputs whose drain has arrived -/
  drained : List Nat := []
  /-- R397: recorded tokens by input -/
  recorded : Tab (List Token) := []
  /-- R397: elements that have stopped, and those that have saved their state, keyed as `cfgs` -/
  stopped : List Nat := []
  saved : List Nat := []
  /-- R397: links on which a pass-through router has forwarded the drain, 4 × link + slot -/
  sent : List Nat := []
  /-- R395: ports where a drain has still to be placed, 4 × (64 × hall + port) + slot -/
  toPlace : List Nat := []
  /-- R199, R395: parked reads that were withdrawn, with their banks -/
  withdrawn : List (Nat × BankReq) := []
  /-- R405: cycles since the last drain of each hall was placed -/
  timer : Tab Nat := []
  /-- R406: the snapshot in progress, its inputs, those it has reached, the copied tokens, the latched registers by element, and the
  halls whose parts have been written -/
  snapSeq : Option Nat := none
  snapInputs : List Nat := []
  snapIn : List Nat := []
  snapRec : Tab (List Token) := []
  snapRegs : Tab (BitVec 512) := []
  /-- R289, R199: the update window and the wait list of each M-bay as the snapshot latched them, by element -/
  snapWins : Tab (List WinEnt) := []
  snapWaits : Tab (List BankReq) := []
  snapSent : List Nat := []
  /-- R406: ports at which the snapshot has been placed, 4 × (64 × hall + port) + slot -/
  snapPorts : List Nat := []
  snapHalls : List Nat := []
  deriving DecidableEq, Repr

/-- R361, R369: a launched region. -/
structure Region where
  rcb : W64
  /-- the page-table root under which the RCB is reached, PA<47:11> -/
  rroot : BitVec 37
  parent : Option Nat := none
  /-- the context that launched it: hall and slot -/
  pctx : Option (Nat × Nat) := none
  depth : Nat := 0
  hdl : Nat := 0
  /-- R369: the argument its threads start with -/
  x1 : W64 := 0
  /-- 1 pending, 2 running, 3 swapped, 4 completed -/
  state : Nat := 1
  /-- R368: its pool entry has been freed -/
  freed : Bool := false
  eff : REff := {}
  own : ROwn := {}
  /-- R363: amounts charged at this node -/
  uhalls : Nat := 0
  ugal : Nat := 0
  uslot : Nat := 0
  ulaunch : Nat := 0
  /-- R361 `org`, `sdr`, `sdc`, `smap` -/
  org : Nat := 0
  sdr : Nat := 0
  sdc : Nat := 0
  smap : List Nat := []
  /-- R390, R391 -/
  stopped : Bool := false
  fcnt : Nat := 0
  fhead : Nat := 0
  fcause : Cause := .none
  /-- R389: a report has left the region, so that `fcause` is set -/
  left : Bool := false
  /-- R395: the sequence of the last `drain` command that swapped the region out -/
  drainSeq : Option Nat := none
  fstate : Nat := 0
  flt : Bool := false
  lost : Bool := false
  gk : Nat := 0
  gn : Nat := 0
  gl : Nat := 0
  /-- R386: element and cause pairs already logged this invocation -/
  loggedOnce : List (Nat × Nat) := []
  swap : RSwap := {}
  deriving DecidableEq, Repr

/-- R365: a launch token at a hall's launch logic. -/
structure LaunchTok where
  bay : Nat
  ctx : Nat
  tok : Token
  deriving DecidableEq, Repr

/-- R398–R400: what a swap keeps of one region in shadow storage, under the keys of its saved placement. -/
structure Saved where
  region : Nat
  /-- halls of the saved placement, and its slots -/
  halls : List Nat := []
  slots : List Nat := []
  /-- the slots that were live, 4 × hall + slot -/
  live : List Nat := []
  /-- R399: 4 KiB blocks held, by hall -/
  blocks : Tab Nat := []
  threads : Tab Thread := []
  bays : Tab BayCtx := []
  units : Tab SCtx := []
  stairs : Tab Stair := []
  gctxs : Tab GCtx := []
  gslots : Tab GSlot := []
  gquarters : Tab Nat := []
  gacc : Tab (BitVec 128) := []
  ganch : Tab (BitVec 12) := []
  cmds : Tab (List DCmd) := []
  sinks : Tab SinkC := []
  ports : Tab (List Token) := []
  ins : Tab (List Nat) := []
  bchans : Tab (List Token) := []
  streams : Tab MStream := []
  recorded : Tab (List Token) := []
  withdrawn : List (Nat × BankReq) := []
  counts : Tab (List Nat) := []
  from_ : Tab Nat := []
  /-- R62: the vectors that were open on links, and R249: the sources of what left on them, keyed 4 × the link's key + slot -/
  vecs : Tab Nat := []
  feeds : Tab Nat := []
  slotSt : Tab HSlot := []
  /-- R367: launch tokens of the region that its halls' launch logic holds -/
  ltoks : Tab (List LaunchTok) := []
  deriving DecidableEq, Repr

/-- R132, R133: an arcade packet. -/
structure Packet where
  ptype : Nat
  dst : Nat
  src : Nat := 0
  cls : Nat := 0
  seq : Nat := 0
  shall : Nat := 0
  sport : Nat := 0
  tag : Nat := 0
  nl : Nat := 0
  addr : Nat := 0
  /-- the 60-byte body, little-endian -/
  body : BitVec 480 := 0
  /-- data slots: line index, poison marks, check value, bytes -/
  lines : List (Nat × BitVec 4 × W32 × List Byte) := []
  /-- the port it came in on -/
  rport : Nat := 0
  deriving DecidableEq, Repr

/-- What an outstanding command packet answers to. -/
inductive Waiter where
  | thread (hall ctx : Nat) (off size : Nat)
  /-- R331: a plain load into a register, for which the thread does not wait -/
  | load (hall ctx d off size : Nat) (signed : Bool)
  | write (hall ctx : Nat)
  | amo (hall ctx size : Nat)
  | stairRead (hall port : Nat)
  | stairWrite (hall port : Nat)
  | cmd (hall ticket : Nat)
  | rdfor (hall ticket : Nat)
  deriving DecidableEq, Repr

/-- R135, R142: a command packet not yet answered. -/
structure Outst where
  tag : Nat
  peer : Nat
  hall : Nat
  sport : Nat
  cls : Nat
  who : Waiter
  deriving DecidableEq, Repr

/-- R153: a `rdfor` in progress at its requester. -/
structure Rdfor where
  hall : Nat
  ticket : Nat
  port : Nat
  tag : Nat
  owner : Nat
  rcpt : Nat
  grp : Bool
  /-- where the status record lies: address, key slot, peer -/
  stat : Nat
  statKey : Nat
  statRem : Option Nat := none
  /-- the source of a read of the requester's own memory: PA and key slot -/
  own : Option (Nat × Nat) := none
  wid : Nat := 0
  /-- the command holds all it waits for -/
  ovr : Bool := false
  /-- the timer ran out: 1 for the owner, 2 for the recipient -/
  late : Nat := 0
  sent : Bool := false
  flt : Nat := 0
  ackS : Option Nat := none
  acks : Nat := 0
  pois : Bool := false
  fmask : W64 := 0
  deriving DecidableEq, Repr

/-- R149: a delivery in progress in a window. -/
structure Delivery where
  rq : Nat
  tag : Nat
  line0 : Nat
  nlines : Nat
  got : List Nat := []
  pois : Bool := false
  deriving DecidableEq, Repr

/-- R147: a receive window. -/
structure RWindow where
  pa : Nat
  va : W64
  lines : Nat
  adm : Nat
  apeer : Nat
  port : Option Nat
  hall : Nat
  ctx : Nat
  cls : Nat
  region : Nat
  kslot : Nat
  closing : Bool := false
  pfill : Bool := false
  /-- the `rwclose` that closes it: hall and ticket -/
  closer : Option (Nat × Nat) := none
  root : BitVec 37 := 0
  dels : List Delivery := []
  deriving DecidableEq, Repr

/-- R129–R134: an arcade port. -/
structure APort where
  /-- R127 `arc_port.up`. Reset trained (DESIGN CHOICE, log 2). -/
  up : Bool := true
  /-- R127 `arc_port.lanes`. Reset 8 (DESIGN CHOICE, log 2). -/
  lanes : Nat := 8
  /-- R127 `arc_port.fixed`, `arc_port.replays`, 16 bits each. Reset 0 (DESIGN CHOICE, log 2). -/
  fixed : Nat := 0
  replays : Nat := 0
  /-- R131: the next flit sequence expected, and the next sent. Reset 0 (DESIGN CHOICE, log 2). -/
  rseq : Nat := 0
  tseq : Nat := 0
  /-- R131: the sender's last flits, oldest first, at most 64, and the last one its receiver has named -/
  kept : List (Nat × BitVec 2048) := []
  acked : Option Nat := none
  /-- a flit failed its CRC, and the sender has still to be told -/
  nakOut : Bool := false
  /-- R130, R134: slots that the receiver still has room for, and slots taken whose credit is still to be returned (log 55) -/
  credit : Nat := 192
  owed : Nat := 0
  /-- the receiver of the slots that `owed` counts has named them to its sender -/
  told : Bool := false
  /-- R134: packets whose last flit, named here, the receiver has not named yet -/
  sent : List (Nat × Packet) := []
  /-- R134: lanes that have failed -/
  failed : List Nat := []
  /-- slots of a packet still incomplete -/
  part : List (BitVec 608) := []
  deriving DecidableEq, Repr

/-- R127, R135, R141–R155: the arcade interface. -/
structure Arcade where
  /-- R127 `arc_id.en`. Reset 0. -/
  en : Bool := false
  /-- R127 `arc_id.pid`, 8 bits. Reset 0. -/
  pid : Nat := 0
  /-- R127 `arc_tmo`, 32 bits. Reset 16,000. -/
  tmo : Nat := 16000
  /-- R127 `arc_lvl0`–`arc_lvl7`. Reset 0. -/
  lvl : Tab W64 := []
  /-- R127, R142: dead peers, by issuing hall: key 256 × hall + peer present. Reset none. -/
  dead : List Nat := []
  /-- R127 `arc_impb`, bits 47:12; `arc_impn`; `arc_grpb`, bits 47:6; `arc_grpn`. Reset 0 (DESIGN CHOICE, log 2). -/
  impb : W64 := 0
  impn : W32 := 0
  grpb : W64 := 0
  grpn : Nat := 0
  /-- R141: an import-cache invalidation runs. -/
  iinvBusy : Bool := false
  /-- R141: cached import entries. -/
  impCache : Tab (BitVec 128) := []
  ports : Tab APort := []
  /-- R135: next number sent, keyed by quadruple. -/
  txSeq : Tab Nat := []
  /-- R135: next number expected, keyed by quadruple. -/
  rxSeq : Tab Nat := []
  outst : List Outst := []
  /-- packets to send, oldest first -/
  outbox : List Packet := []
  /-- packets received and not yet acted on -/
  inbox : List Packet := []
  /-- R130: flits on the wire, oldest first: port and the 256 bytes -/
  rx : List (Nat × BitVec 2048) := []
  nextTag : Nat := 0
  wins : Tab RWindow := []
  rdfors : List Rdfor := []
  /-- R149, R155: lines of refused or aborted deliveries still to come and be discarded: requester, tag, window, lines -/
  discards : List (Nat × Nat × Nat × Nat) := []
  /-- R130: flits sent, oldest first: port and the 256 bytes -/
  tx : List (Nat × BitVec 2048) := []
  /-- R353: lines peers have registered: line PA, peer, tag -/
  peerReg : List (Nat × Nat × Nat) := []
  /-- R353: reports of writes, and of dropped registrations, on their way to peers: peer, tag. -/
  invalOut : List (Nat × Nat) := []
  /-- R353: registrations on their way to owners: peer, export address, thread 4 × hall + slot, watch entry. -/
  regOut : List (Nat × Nat × Nat × Nat) := []
  /-- R155: `wabort`s that came before their delivery's first packet: requester, tag, window -/
  aborts : List (Nat × Nat × Nat) := []
  deriving DecidableEq, Repr

/-- R435, R437: a sink queue as the device knows it. -/
structure SinkQ where
  desc : Option (BitVec 256) := none
  prod : Nat := 0
  cons : Nat := 0
  /-- entries waiting on the device, oldest first, 512 bits each, with their size in bytes -/
  wait : List (Nat × BitVec 512) := []
  deriving DecidableEq, Repr

/-- R433, R434: an ingress channel. -/
structure Ingress where
  /-- R433 `ingbn`. Reset unbound: 0 (DESIGN CHOICE, log 2). -/
  bind : W64 := 0
  drop : Nat := 0
  dropLogged : Bool := false
  /-- R374: the region whose element the binding names -/
  region : Option Nat := none
  /-- R335, R395: words waiting at the ingress, each with its place in the order in which the host link delivered them -/
  wait : List (Nat × W64) := []
  deriving DecidableEq, Repr

/-- R438: what a key slot holds. -/
structure KeySlot where
  pair : BitVec 512
  deriving DecidableEq, Repr

/-- R439: the attestation responder's progress. -/
structure Spdm where
  version : Bool := false
  caps : Bool := false
  algs : Bool := false
  session : Bool := false
  secured : Bool := false
  ide : Bool := false
  /-- responses sent over DOE, oldest first, by request name -/
  outbox : List Nat := []
  deriving DecidableEq, Repr

/-- R430–R440: host link, management registers, power. -/
structure HostSide where
  rsvec : W64 := 0
  rlroot : BitVec 37 := 0
  rlBusy : Bool := false
  rlPend : Option W64 := none
  rlCause : Cause := .none
  rlHdl : W32 := 0
  sqtb : W64 := 0
  sqinvBusy : Bool := false
  kslot : Nat := 0
  kdata : Tab W64 := []
  /-- R438: `kdata` registers last written outside an IDE stream -/
  kdataOut : List Nat := []
  kres : Nat := 0
  /-- R438: the slot that a `kcmd` clear is emptying -/
  kBusy : Option Nat := none
  /-- R440 `pwr`. Reset 0 (DESIGN CHOICE, log 2). -/
  pwr : Nat := 0
  /-- R431 `therm.tj`. Reset 25 °C (DESIGN CHOICE, log 2). -/
  tj : Nat := 25
  tst : Nat := 0
  /-- R431 `hapk0`–`hapk95`. Reset 0 (R431). -/
  hapk : Tab W64 := []
  /-- R403 `wdcfg` by hall; absent: reset value. -/
  wdcfg : Tab W64 := []
  nexp : Tab Nat := []
  stl : Tab (BitVec 4) := []
  ingress : Tab Ingress := []
  /-- R322, R335: words that have had to wait at an ingress since reset -/
  ingSeq : Nat := 0
  sinkqs : Tab SinkQ := []
  /-- MSI-X vectors raised, oldest first -/
  msix : List Nat := []
  /-- R430: the MSI-X table, by double word -/
  msixTab : Tab W64 := []
  /-- R413: resyncs since reset -/
  rseq : Nat := 0
  /-- R430, R432: what the host's last read completed with: bytes, and 0 successful, 1 Unsupported Request, 2 poisoned -/
  readback : Option (List Byte × Nat) := none
  d3hot : Bool := false
  perst : Bool := false
  recovery : Bool := false
  spdm : Spdm := {}
  /-- R439: measurement log: kind, and the number under which `Config.measurement` gives the digest. Reset: the images of bring-up (R440). -/
  meas : List (Nat × Nat) := [(1, 0), (2, 1), (3, 2)]
  deriving DecidableEq, Repr

end Sys2Proof.Machine
end

