-- ==== Sys2Proof/Machine/State.lean ====
section
/-! DEFINITION. The state of the module: everything the specification gives it, as plain data. -/

namespace Sys2Proof.Machine

/-- Why a step can stop with a fault. -/
inductive Fault where
  /-- Raised by `step` when the agenda names a step that is not well formed (a hall above 63, a bay above 63, …).
  Safe: no behaviour is claimed for a unit that does not exist. -/
  | illFormed
  deriving DecidableEq, Repr

/-- Why an instruction has no meaning. -/
inductive Refusal where
  /-- The instruction is not modelled yet. Safe: nothing is claimed about it. -/
  | notModelled (mnemonic : String)
  deriving DecidableEq, Repr

/-- The unit at which the next step acts, and the operands of the steps that no word encodes. -/
structure Focus where
  hall : Nat := 0
  /-- a bay 0–63, a stair, an arcade port, the quad of an M-bay, or an element code: bays 0–63, stairs 64–79, gallery 80 -/
  elem : Nat := 0
  /-- physical context slot -/
  ctx : Nat := 0
  /-- instruction index in a block, ticket, channel, direction, region, register number or place in a list -/
  idx : Nat := 0
  /-- a second index: side, lane, size, algorithm choice, tag -/
  aux : Nat := 0
  /-- a value: a register's new value, a word, an address -/
  val : W64 := 0
  deriving DecidableEq, Repr

/-- R16–R19, R173: the unit exists: 64 halls, at most 128 element codes, 4 context slots. -/
def Focus.ok (f : Focus) : Bool := f.hall < 64 && f.elem < 128 && f.ctx < 4

/-- What moves next. The agenda is plain data that says in which order the module's agents act (log 1). -/
inductive Act where
  /-- the landing core of a hall issues the next instruction of a thread -/
  | thread (hall ctx : Nat)
  /-- an A-bay fires, or nullifies, an instruction of its active block -/
  | fire (hall bay ctx idx : Nat)
  /-- the step of a started command; `pick` names the part of the command that moves, where the command leaves that open -/
  | command (hall ticket pick : Nat)
  /-- a gallery applies the next control word of a context -/
  | gword (hall ctx : Nat)
  /-- an M-bay applies the next tag operation of its stream -/
  | tagop (hall quad : Nat)
  /-- any other step, with its unit and operands -/
  | event (i : Instr) (f : Focus)
  /-- R111: an uncorrectable error strikes the granule at a PA -/
  | eccError (granule : Nat)
  /-- R111: HBM corrects an error at a PA -/
  | eccCorrected (pa : Nat)
  /-- R353, R354: the owning edge of a line, by its place / 64, drops its registrations -/
  | dropRegistration (line : Nat)
  /-- R353: the owner of a peer line acknowledges the registration at a place of `regOut` -/
  | registered (k : Nat)
  /-- R27: a cycle of the packet network -/
  | netCycle
  /-- R28: the reorder buffer of a bank's port releases a packet into queue 3 -/
  | netDeliver (hall quad : Nat)
  /-- R410: a gallery column's sums go wrong -/
  | columnError (hall col : Nat)
  /-- R430: the host reads BAR 0, or an ingress page of BAR 2, at an offset -/
  | hostRead (bar off : Nat)
  /-- a busy invalidation of the management window completes (R141, R435) -/
  | settle
  /-- R130, R134: an arcade port sends the oldest packet, or tells its sender of a bad flit -/
  | transmit (port : Nat)
  /-- R7: the clock of a hall advances -/
  | tick (hall cycles : Nat)
  deriving DecidableEq, Repr

/-- R94–R112: memory, its full–empty bits, poison marks, check values and ciphertext keys. -/
structure MemSys where
  /-- R94: bytes by PA, in canonical form; an unlisted byte reads 0 (R440 for HBM and scratchpad; DESIGN CHOICE for
  host memory, log 3). -/
  cells : List Host.Cell := []
  /-- R198: granules of scratchpad that are empty, by PA / 16. Reset none (R193, R440). -/
  empties : List Nat := []
  /-- R108: poisoned granules, by PA / 16. Reset none (R440). -/
  pois : List Nat := []
  /-- R108: lines whose stored check value is not that of their bytes. Reset none (R440). -/
  cvals : Tab W32 := []
  /-- R106: the key pair under which a line of HBM was last written; absent: that of slot 0 (R440). -/
  lkey : Tab (BitVec 512) := []
  /-- R111: granules whose next read meets an uncorrectable error. -/
  ecc : List Nat := []
  /-- R111, R414: corrections and uncorrectable errors by stack. Reset 0. -/
  corrected : Tab Nat := []
  uncorr : Tab Nat := []
  /-- R124: retired channels, 32 × stack + channel. Reset none. -/
  retired : List Nat := []
  deriving DecidableEq, Repr

/-- R100: a walk the translation agent of a hall has in hand for a translate-mode S-bay. -/
structure Walk where
  hall : Nat
  bay : Nat
  ctx : Nat
  va : Nat
  kind : AccKind
  deriving DecidableEq, Repr

/-- R121: a shootdown drain on its way to a translating part. -/
structure Shoot where
  hall : Nat
  ticket : Nat
  /-- R122: module hall of the part; 0–63 its bay, 64–79 its stair, 80 its landing core, 81 the window table -/
  part : Nat × Nat
  va : Nat
  len : Nat
  root : BitVec 37
  deriving DecidableEq, Repr

/-- R357: an arrival on its way to a home hall, or a phase on its way to a member. -/
structure BarMsg where
  hall : Nat
  n : Nat
  phase : Nat
  /-- the hall that sent it -/
  src : Nat
  deriving DecidableEq, Repr

/-- R409, R112: a word of a bay's state that moves at sparing: a `b` register, a beat of a `v` register, a slot of the active block (keyed
as `Block.slots`), or an entry, counted from the head, of a channel queue of an A-bay, an input queue of an S-bay, a channel queue of an
M-bay (keyed as `Bank.chans`) or a request queue of an M-bay. -/
inductive BayWord where
  | reg (i : Nat)
  | beat (i k : Nat)
  | slot (k : Nat)
  | chan (ch k : Nat)
  | input (i k : Nat)
  | mchan (ch k : Nat)
  | request (queue k : Nat)
  deriving DecidableEq, Repr

/-- R409, R414: the condition of a hall. -/
structure HallSt where
  retired : Bool := false
  spare : Bool := false
  failed : Option Nat := none
  /-- R409: elements that have taken the marker of subtype 4 for a context, 4 × element + context -/
  taken : List Nat := []
  /-- R409: ports at which a marker of subtype 4 has still to be placed, 4 × port + slot -/
  toPlace : List Nat := []
  /-- R409, R112: words of bay state whose ECC fails: bay, slot and word. Reset none. -/
  badWords : List (Nat × Nat × BayWord) := []
  deriving DecidableEq, Repr

/-- The module. -/
structure State where
  /-- which agents act next, in order; empty: the model's own order (log 1) -/
  agenda : List Act := []
  focus : Focus := {}
  mem : MemSys := {}
  /-- R438: loaded key slots 1–255. Reset empty (R107). -/
  keys : Tab KeySlot := []
  /-- R306: accesses issued and not yet performed, oldest first. Reset none. -/
  edge : List Pend := []
  /-- R330: threads, 4 × hall + slot. -/
  threads : Tab Thread := []
  /-- R337: landing-core translation buffers by hall, at most 32 entries. Reset empty (DESIGN CHOICE, log 2). -/
  lctlb : Tab (List TlbEnt) := []
  /-- R338: instruction-cache lines by hall: line PA and bytes, at most 512 lines. Reset empty (DESIGN CHOICE, log 2). -/
  icache : Tab (Tab (List Byte)) := []
  /-- R338: data-cache lines by hall, most recent first, at most 256. Reset empty (DESIGN CHOICE, log 2). -/
  dcache : Tab (List DLine) := []
  /-- R336 `cycle` by hall. Reset 0 (R336). -/
  cycle : Tab W64 := []
  /-- R356: barriers, 32 × hall + number. Reset 0 (DESIGN CHOICE, log 2). -/
  bars : Tab Barrier := []
  barArr : List BarMsg := []
  barPh : List BarMsg := []
  /-- R204: A-bay contexts, 4 × (64 × hall + bay) + slot. -/
  bays : Tab BayCtx := []
  /-- R245: S-bay contexts, 4 × (64 × hall + bay) + slot. -/
  units : Tab SCtx := []
  /-- R157: stairs, 16 × hall + stair. -/
  stairs : Tab Stair := []
  /-- R193: banks, 16 × hall + quad. -/
  banks : Tab Bank := []
  /-- R27, R28: the packet network. Reset empty. -/
  net : Net := {}
  /-- galleries by module hall. -/
  gals : Tab Gal := []
  /-- R22: tokens on the stream links, keyed 8 × (128 × hall + element) + direction of arrival. -/
  links : Tab (List Token) := []
  /-- R26: tokens on the return lanes, keyed alike by the element they reach and its output direction. -/
  rlanes : Tab (List RTok) := []
  /-- R24: when the beats on the links arrived: a number for the last beat put on each link, key as `links`, and the number of beats put so far. -/
  linkAge : Tab Nat := []
  linkSeq : Nat := 0
  /-- R62, R24: the source whose vector is open on an output: 4 × the link's key + context; source 0–4 the incoming link, 5 the element. -/
  vecOpen : Tab Nat := []
  /-- R26, R249: the source that last sent on an output: 4 × the link's key + context; sources as for `vecOpen`. -/
  feed : Tab Nat := []
  /-- R248: the direction, or port, from which a local channel of an element last received: 16 × its `cfgs` key + channel. -/
  inFrom : Tab Nat := []
  /-- R406: tokens taken on inputs north, east, south, west and local or port, and tokens sent, keyed as `cfgs`. -/
  tokCnt : Tab (List Nat) := []
  /-- R205, R66, R83: configurations, 4 × (128 × hall + element) + slot. -/
  cfgs : Tab ElemCfg := []
  /-- R184: context slots, 4 × hall + slot. Reset empty (R184, R440). -/
  slots : Tab HSlot := []
  /-- R174: dispatchers by hall. -/
  disps : Tab Disp := []
  /-- R361: regions launched since reset, by launch order. -/
  regions : List Region := []
  /-- R366: pool entries taken: entry to region; generations of the entries. -/
  pool : Tab Nat := []
  gens : Tab Nat := []
  /-- R367: launch tokens waiting, by hall. -/
  ltoks : Tab (List LaunchTok) := []
  saved : List Saved := []
  /-- R396: the scheduler's count of drains. Reset 0 (DESIGN CHOICE, log 2). -/
  swapCount : Nat := 0
  walks : List Walk := []
  shoots : List Shoot := []
  hallSt : Tab HallSt := []
  arc : Arcade := {}
  host : HostSide := {}
  /-- R386: the fault log, oldest first, at most 1,024 entries. Reset empty. -/
  log : List (BitVec 128) := []
  /-- R386: entries since reset. -/
  lseq : Nat := 0
  /-- R404: cycles waited without progress, 4 × hall + slot; second expiries. -/
  stall : Tab Nat := []
  stalled : Tab Bool := []
  /-- the thread whose turn it is when nothing else moves: 4 × hall + slot -/
  turn : Nat := 0
  /-- the model's own counter of free values drawn (log 4) -/
  fresh : Nat := 0
  deriving DecidableEq, Repr

/-- R440: the module right after reset: memory zero, no region, every slot empty, key slot 0 loaded and no other. -/
def State.reset : State := {}

end Sys2Proof.Machine
end

