-- ==== Sys2Proof/Machine/Mem.lean ====
section
/-! DEFINITION. Memory: the canonical byte list, the physical spaces of R94–R96, poison marks and check values (R108–R112), full–empty bits (R198), and the registrations that writes notify (R353, R354). -/

namespace Sys2Proof.Machine

/-! ### Canonical memory -/

/-- What an address that is not listed reads as (log 3). -/
def Memory.unlisted : Byte := 0

/-- The byte at an address. -/
def Memory.byte (m : List Host.Cell) (a : Nat) : Byte := Tab.get m a Memory.unlisted

/-- Writes one byte; writing what an unlisted address reads as removes the entry. -/
def Memory.set : List Host.Cell → Nat → Byte → List Host.Cell
  | [], a, b => if b = Memory.unlisted then [] else [(a, b)]
  | (a', b') :: t, a, b =>
    if a < a' then (if b = Memory.unlisted then (a', b') :: t else (a, b) :: (a', b') :: t)
    else if a = a' then (if b = Memory.unlisted then t else (a, b) :: t)
    else (a', b') :: Memory.set t a b

/-- Addresses from `lo` up strictly rise, and no entry equals an unlisted byte. -/
def Memory.wfFrom : Nat → List Host.Cell → Bool
  | _, [] => true
  | lo, (a, b) :: t => decide (lo ≤ a) && decide (b ≠ Memory.unlisted) && Memory.wfFrom (a + 1) t

/-- The canonical form of a memory. -/
def Memory.wf (m : List Host.Cell) : Bool := Memory.wfFrom 0 m

/-- The runs of a list of bytes between the places that are skipped: the place of each and its bytes. -/
def byteRuns (skip : List Nat) : Nat → List Byte → List (Nat × List Byte)
  | _, [] => []
  | i, b :: t =>
    let rest := byteRuns skip (i + 1) t
    if skip.contains i then rest
    else match rest with
      | (j, l) :: r => if j = i + 1 then (i, b :: l) :: r else (i, [b]) :: (j, l) :: r
      | [] => [(i, [b])]

/-- n bytes from an address up. -/
def Memory.read (m : List Host.Cell) (a : Nat) : Nat → List Byte
  | 0 => []
  | n + 1 => Memory.byte m a :: Memory.read m (a + 1) n

/-- Writes bytes from an address up. -/
def Memory.write (m : List Host.Cell) (a : Nat) : List Byte → List Host.Cell
  | [] => m
  | b :: t => Memory.write (Memory.set m a b) (a + 1) t

/-! ### Sets held as lists -/

/-- Adds an element once. -/
def setIns (l : List Nat) (x : Nat) : List Nat := if l.contains x then l else x :: l
/-- Removes an element. -/
def setDel (l : List Nat) (x : Nat) : List Nat := l.filter (· != x)

/-! ### Spaces -/

/-- R94: the physical spaces. -/
inductive Space where
  | hbm | spad | host | reserved
  deriving DecidableEq, Repr

/-- R94: the space of a PA. -/
def spaceOf (pa : Nat) : Space :=
  if pa < 0xC000000000 then .hbm
  else if 0x10000000000 ≤ pa && pa < 0x10004000000 then .spad
  else if 0x800000000000 ≤ pa && pa < 0x1000000000000 then .host
  else .reserved

/-- R95: the module stack, the channel and the 256-byte unit of an HBM address. -/
def hbmPlace (pa : Nat) : Nat × Nat × Nat :=
  let u := pa % 0x3000000000 / 256
  (3 * (pa / 0x3000000000) + u % 3, u / 3 % 32, u / 96)

/-- R96: the PA of a scratchpad bank. -/
def bankBase (hall quad : Nat) : Nat := 0x10000000000 + hall * 0x100000 + quad * 0x10000

/-- R193: the bank's state. -/
def State.bank (s : State) (hall quad : Nat) : Bank := Tab.get s.banks (16 * hall + quad) { gbase := quad }
def State.setBank (s : State) (hall quad : Nat) (b : Bank) : State :=
  { s with banks := Tab.put s.banks (16 * hall + quad) b }

/-- R193: an interleave code's granule in bytes. -/
def ilvBytes : Nat → Nat
  | 0 => 64
  | 1 => 256
  | 2 => 1024
  | 3 => 4096
  | _ => 65536

/-- R193: a bank's group: first quad and member count. With no word applied a bank is its own group. -/
def Bank.group (b : Bank) (quad : Nat) : Nat × Nat := if b.gsz = 0 then (quad, 1) else (b.gbase, 2 ^ b.gsz)

/-- R193: a group offset of a bank's group to its member bank's quad and bank offset. -/
def groupPlace (b : Bank) (quad o : Nat) : Nat × Nat :=
  let (qb, n) := b.group quad
  let g := ilvBytes b.ilv
  if n = 1 then (quad, o % 65536)
  else
    let u := o / g
    (qb + u % n, u / n * g + o % g)

/-- R193: bytes of a bank's group. -/
def Bank.groupSize (b : Bank) (quad : Nat) : Nat := (b.group quad).2 * 65536

/-- R193: where the bytes of a PA are held: a scratchpad PA names a group offset of the bank it falls in. -/
def State.placeOf (s : State) (pa : Nat) : Nat :=
  if spaceOf pa = .spad then
    let o := pa - 0x10000000000
    let hall := o / 0x100000
    let quad := o / 0x10000 % 16
    let b := s.bank hall quad
    let (qb, _) := b.group quad
    let (m, off) := groupPlace b quad (o % 0x100000 - qb * 0x10000)
    bankBase hall m + off
  else pa

/-! ### Check values and keys -/

/-- One bit of the reflected CRC (R108). -/
def crcBits (poly : Nat) : Nat → Nat → Nat
  | 0, c => c
  | n + 1, c => crcBits poly n (if c % 2 = 1 then Nat.xor (c / 2) poly else c / 2)

/-- R108: the CRC-32C register after bytes. -/
def crcRun (poly : Nat) : List Byte → Nat → Nat
  | [], c => c
  | b :: t, c => crcRun poly t (crcBits poly 8 (Nat.xor c b.toNat))

/-- R108: the CRC-32C of bytes in address order. -/
def crc32c (bs : List Byte) : W32 := BitVec.ofNat 32 (Nat.xor (crcRun 0x82F63B78 bs 0xFFFFFFFF) 0xFFFFFFFF)

/-- R107: a key pair: the one the device generates for slot 0, or one that has been loaded. -/
inductive KeyRef where
  | device
  | loaded (pair : BitVec 512)
  deriving DecidableEq, Repr

/-- The pair itself. -/
def KeyRef.pair : KeyRef → BitVec 512
  | .device => Config.deviceKey
  | .loaded p => p
/-- Two are the same pair. -/
def KeyRef.same : KeyRef → KeyRef → Bool
  | .device, .device => true
  | .loaded a, .loaded b => a == b
  | .device, .loaded b => b == Config.deviceKey
  | .loaded a, .device => a == Config.deviceKey

/-- R106, R107: the key pair of a slot; none where the slot is empty. -/
def State.keyPair (s : State) (k : Nat) : Option KeyRef :=
  if k = 0 then some .device else (Tab.find s.keys k).map fun x => .loaded x.pair

/-- The bytes of a line number. -/
def MemSys.line (m : MemSys) (line : Nat) : List Byte := Memory.read m.cells (64 * line) 64

/-- R108: the stored check value of a line. -/
def MemSys.cv (m : MemSys) (line : Nat) : W32 := Tab.get m.cvals line (crc32c (m.line line))

/-- R108: the stored check value is not that of the bytes. -/
def MemSys.cvBad (m : MemSys) (line : Nat) : Bool :=
  match Tab.find m.cvals line with
  | none => false
  | some c => c != crc32c (m.line line)

/-- Stores a check value with a line, keeping only those that differ from the line's own. -/
def MemSys.setCv (m : MemSys) (line : Nat) (c : W32) : MemSys :=
  { m with cvals := if c = crc32c (m.line line) then Tab.del m.cvals line else Tab.put m.cvals line c }

end Sys2Proof.Machine
end

