-- ==== Sys2Proof/Machine/Fec.lean ====
section
/-! DEFINITION. The forward error correction of a flit (R131): two interleaved shortened Reed–Solomon codewords, RS(128, 122) over GF(2^8) with field polynomial 0x11D, each correcting up to three byte errors. -/

namespace Sys2Proof.Machine

/-! ### The field -/

/-- R131: multiplication by α in GF(2^8). -/
def gtwice (a : Nat) : Nat := if a < 128 then 2 * a else Nat.xor (2 * a) 0x11D

/-- The product of the low `n` bits of `a` and `b`. -/
def gmulBits : Nat → Nat → Nat → Nat
  | 0, _, _ => 0
  | n + 1, a, b => Nat.xor (if a % 2 = 1 then b else 0) (gmulBits n (a / 2) (gtwice b))

/-- R131: multiplication in GF(2^8). -/
def gmul (a b : Nat) : Nat := gmulBits 8 a b
/-- R131: a power in GF(2^8). -/
def gpow (a : Nat) : Nat → Nat
  | 0 => 1
  | n + 1 => gmul a (gpow a n)
/-- The inverse of a nonzero element: its 254th power. -/
def ginv (a : Nat) : Nat := gpow a 254
/-- A power of α. -/
def galpha (n : Nat) : Nat := gpow 2 (n % 255)

/-! ### Encoding (log 55: the first root, and a codeword's first byte as its highest coefficient) -/

/-- The coefficients of a polynomial times (x + r), highest first. -/
def gTimes (l : List Nat) (r : Nat) : List Nat := List.zipWith Nat.xor (l ++ [0]) (0 :: l.map (gmul · r))
/-- R131: the generator polynomial of six consecutive powers of α, highest coefficient first. -/
def rsGen : List Nat := (List.range 6).foldl (fun g j => gTimes g (galpha (Config.fecRoot + j))) [1]

/-- One step of the division by the generator: the remainder after one more byte. -/
def rsStep (gen rem : List Nat) (b : Nat) : List Nat :=
  let f := Nat.xor (rem.headD 0) b
  List.zipWith Nat.xor (rem.drop 1 ++ [0]) ((gen.drop 1).map (gmul f))

/-- R131: the six parity bytes of a codeword's other bytes. -/
def rsParity (bs : List Nat) : List Nat := bs.foldl (rsStep rsGen) [0, 0, 0, 0, 0, 0]

/-! ### Decoding -/

/-- The value at a point of a polynomial, highest coefficient first. -/
def geval (x : Nat) (l : List Nat) : Nat := l.foldl (fun a c => Nat.xor (gmul a x) c) 0

/-- The syndromes of a received codeword. -/
def rsSyndromes (c : List Nat) : List Nat := (List.range 6).map fun j => geval (galpha (Config.fecRoot + j)) c

/-- A row of a linear system less a multiple of another, without its first column. -/
def geliminate (pivot row : List Nat) : List Nat := (List.zipWith (fun p q => Nat.xor q (gmul (row.headD 0) p)) pivot row).drop 1

/-- Solves a linear system of `n` unknowns; each row ends with its right side. None where the system has no single solution. -/
def gsolve : Nat → List (List Nat) → Option (List Nat)
  | 0, _ => some []
  | n + 1, rows =>
    match rows.find? fun r => r.headD 0 != 0 with
    | none => none
    | some r =>
      let inv := ginv (r.headD 0)
      let pivot := r.map (gmul inv)
      (gsolve n ((rows.erase r).map (geliminate pivot))).map fun xs =>
        let known := (List.zipWith gmul (pivot.drop 1) xs).foldl Nat.xor 0
        Nat.xor (pivot.getLastD 0) known :: xs

/-- The places, as powers of α, and the values of exactly `v` errors that give the syndromes; none where there are none. -/
def rsErrors (syn : List Nat) (v : Nat) : Option (List (Nat × Nat)) :=
  let m := (List.range v).map fun i => (syn.drop i).take (v + 1)
  match gsolve v m with
  | none => none
  | some co =>
    let places := (List.range 128).filter fun e => geval (galpha e) (1 :: co.reverse) == 0
    if places.length ≠ v then none
    else
      let rows := (List.range v).map fun j => places.map (fun e => galpha (e * (Config.fecRoot + j))) ++ [syn.getD j 0]
      match gsolve v rows with
      | none => none
      | some vals =>
        let es := places.zip vals
        let again := (List.range 6).map fun j => es.foldl (fun a p => Nat.xor a (gmul p.2 (galpha (p.1 * (Config.fecRoot + j))))) 0
        if again = syn then some es else none

/-- R131: a received codeword with up to three byte errors corrected, and whether there were any; one with more stays as it is. -/
def rsDecode (c : List Nat) : List Nat × Bool :=
  let syn := rsSyndromes c
  if syn.all (· == 0) then (c, false)
  else match (List.range 4).findSome? (rsErrors syn) with
    | none => (c, false)
    | some es => (c.mapIdx fun i b => Nat.xor b (((es.find? fun p => p.1 + i == 127).map (·.2)).getD 0), true)

/-! ### A flit -/

/-- The bytes of even, or of odd, number. -/
def everyOther {α : Type} : Bool → List α → List α
  | _, [] => []
  | true, a :: t => a :: everyOther false t
  | false, _ :: t => everyOther true t

/-- Interleaves two lists. -/
def interleave {α : Type} : List α → List α → List α
  | [], l => l
  | a :: t, l => match l with
    | [] => a :: t
    | b :: u => a :: b :: interleave t u

/-- R130, R131: the twelve parity bytes of a flit's other bytes. -/
def fecParity (body : BitVec 1952) : BitVec 96 :=
  let bs := (leBytes 244 body.toNat).map BitVec.toNat
  BitVec.ofNat 96 (leNat ((interleave (rsParity (everyOther true bs)) (rsParity (everyOther false bs))).map (BitVec.ofNat 8)))

/-- R131: both codewords of a received flit decoded: the flit, and whether any byte was corrected. -/
def fecDecode (raw : BitVec 2048) : BitVec 2048 × Bool :=
  let bs := (leBytes 256 raw.toNat).map BitVec.toNat
  let even := rsDecode (everyOther true bs)
  let odd := rsDecode (everyOther false bs)
  (BitVec.ofNat 2048 (leNat ((interleave even.1 odd.1).map (BitVec.ofNat 8))), even.2 || odd.2)

/-- R131: a received flit as its code corrects it, and whether it corrected anything: one whose parity is that of its other bytes has no
error, and stays as it is. -/
def fecCorrect (raw : BitVec 2048) : BitVec 2048 × Bool :=
  let body : BitVec 1952 := raw.extractLsb' 0 1952
  if raw = fecParity body ++ body then (raw, false) else fecDecode raw

end Sys2Proof.Machine
end

