-- ==== Sys2Proof/Machine/Aes.lean ====
section
/-! DEFINITION. R106: AES-256-XTS as IEEE 1619-2018 defines it, over the four blocks of a line. Memory holds plaintext under the pair a line was written with; this file says what the line decrypts to under another pair (R107). -/

namespace Sys2Proof.Machine

/-- Multiplication by x in the AES field. -/
def aesX (a : Nat) : Nat := if a < 128 then 2 * a else Nat.xor (2 * a - 256) 0x1B

/-- Multiplication in the AES field, over n bits of the second factor. -/
def aesMul : Nat → Nat → Nat → Nat
  | 0, _, _ => 0
  | n + 1, a, b => Nat.xor (if b % 2 = 1 then a else 0) (aesMul n (aesX a) (b / 2))

/-- The inverse in the AES field, a^254, by n squarings. -/
def aesInvGo : Nat → Nat → Nat → Nat
  | 0, _, acc => acc
  | n + 1, a, acc => let a2 := aesMul 8 a a; aesInvGo n a2 (aesMul 8 acc a2)

def aesInv (a : Nat) : Nat := aesInvGo 7 a 1

/-- Rotation of a byte left. -/
def rot8 (a k : Nat) : Nat := a * 2 ^ k % 256 + a * 2 ^ k / 256

def aesS (a : Nat) : Nat :=
  let b := aesInv a
  Nat.xor 0x63 (Nat.xor b (Nat.xor (rot8 b 1) (Nat.xor (rot8 b 2) (Nat.xor (rot8 b 3) (rot8 b 4)))))

def aesSi (a : Nat) : Nat := aesInv (Nat.xor 5 (Nat.xor (rot8 a 1) (Nat.xor (rot8 a 3) (rot8 a 6))))

/-- Exclusive-or of byte lists. -/
def xorB (a b : List Nat) : List Nat := List.zipWith Nat.xor a b

/-- The key schedule's words: n more after those listed, i words in. -/
def aesWords : Nat → Nat → Nat → List (List Nat) → List (List Nat)
  | 0, _, _, ws => ws
  | n + 1, i, rc, ws =>
    let prev := ws.getD (i - 1) []
    let t := if i % 8 = 0 then
        (match (prev.drop 1 ++ prev.take 1).map aesS with
          | h :: r => Nat.xor h rc :: r
          | [] => [])
      else if i % 8 = 4 then prev.map aesS else prev
    aesWords n (i + 1) (if i % 8 = 0 then aesX rc else rc) (ws ++ [xorB (ws.getD (i - 8) []) t])

/-- The fifteen round keys of a 32-byte key. -/
def aesKeys (k : List Nat) : List (List Nat) :=
  let ws := aesWords 52 8 1 ((List.range 8).map fun i => (k.drop (4 * i)).take 4)
  (List.range 15).map fun r => ((ws.drop (4 * r)).take 4).flatten

def aesMix (c : List Nat) (st : List Nat) : List Nat :=
  (List.range 16).map fun i =>
    ((List.range 4).foldl (fun acc j => Nat.xor acc (aesMul 8 (st.getD (i / 4 * 4 + (i + j) % 4) 0) (c.getD j 0))) 0)

def aesEncrypt (ks : List (List Nat)) (p : List Nat) : List Nat :=
  let sub := fun (st : List Nat) => (List.range 16).map fun i => aesS (st.getD ((i + 4 * (i % 4)) % 16) 0)
  let st := (List.range 13).foldl (fun st r => xorB (aesMix [2, 3, 1, 1] (sub st)) (ks.getD (r + 1) [])) (xorB p (ks.getD 0 []))
  xorB (sub st) (ks.getD 14 [])

def aesDecrypt (ks : List (List Nat)) (c : List Nat) : List Nat :=
  let sub := fun (st : List Nat) => (List.range 16).map fun i => aesSi (st.getD ((i + 12 * (i % 4)) % 16) 0)
  let st := (List.range 13).foldl (fun st r => aesMix [14, 11, 13, 9] (xorB (sub st) (ks.getD (13 - r) [])))
    (xorB c (ks.getD 14 []))
  xorB (sub st) (ks.getD 0 [])

def nats (bs : List Byte) : List Nat := bs.map BitVec.toNat

/-- IEEE 1619: the tweaks of the four blocks of a line. -/
def xtsTweaks (k2 : List Nat) (line : Nat) : List (List Nat) :=
  let t0 := aesEncrypt (aesKeys k2) (nats (leBytes 16 line))
  (List.range 4).map fun j =>
    (List.range j).foldl (fun t _ =>
      let v := leNat (t.map (BitVec.ofNat 8))
      nats (leBytes 16 (if v < 2 ^ 127 then 2 * v else Nat.xor (2 * v - 2 ^ 128) 0x87))) t0

/-- R106: one line through AES-256-XTS under a pair: bytes 0–31 of the pair are the data key, bytes 32–63 the tweak key. -/
def xtsLine (enc : Bool) (pair : BitVec 512) (line : Nat) (bs : List Byte) : List Byte :=
  let kb := nats (leBytes 64 pair.toNat)
  let ks := aesKeys (kb.take 32)
  ((List.range 4).map fun j =>
    let t := (xtsTweaks (kb.drop 32) line).getD j []
    let x := xorB (nats ((bs.drop (16 * j)).take 16)) t
    xorB (if enc then aesEncrypt ks x else aesDecrypt ks x) t).flatten.map (BitVec.ofNat 8)

/-- R107: what a line of plaintext written under one pair decrypts to under another. -/
def wrongKey (written read : BitVec 512) (line : Nat) (bs : List Byte) : List Byte :=
  if written = read then bs else xtsLine false read line (xtsLine true written line bs)

end Sys2Proof.Machine
end

