-- ==== Sys2Proof/Machine/Edge.lean ====
section
/-! DEFINITION. The memory edge (R94, R106–R112, R124, R306): one read or write of bytes within a line, and the page-table walk (R97–R100). -/

namespace Sys2Proof.Machine

/-- R385: the code of a cause. -/
def Cause.code : Cause → Nat
  | .none => 0 | .nopage => 1 | .prot => 2 | .range => 3 | .key => 4 | .window => 5 | .deadpeer => 6 | .peerlevel => 7
  | .poisonuse => 8 | .shape => 9 | .illegal => 10 | .cfg => 11 | .spillfull => 12 | .watchdog => 13 | .check => 14
  | .ecc => 15 | .budget => 16 | .depth => 17 | .align => 18

/-- The granules that n bytes from an address touch. -/
def granules (a n : Nat) : List Nat :=
  if n = 0 then [] else (List.range ((a + n - 1) / 16 - a / 16 + 1)).map (a / 16 + ·)

/-- The granules that n bytes from an address cover whole. -/
def wholeGranules (a n : Nat) : List Nat := (granules a n).filter fun g => decide (a ≤ 16 * g) && decide (16 * g + 16 ≤ a + n)

/-- What a read at the edge answers: the bytes, whether any granule read is poison, the cause where the access is
refused, and the causes to log with their PAs. -/
structure ERead where
  s : State
  bytes : List Byte
  poison : Bool := false
  cause : Cause := .none
  logs : List (Cause × Nat) := []

/-- What a write at the edge answers. -/
structure EWrite where
  s : State
  cause : Cause := .none
  logs : List (Cause × Nat) := []

def zeros (n : Nat) : List Byte := List.replicate n 0

/-- R106: the pair under which a line of HBM was last written. -/
def State.linePair (s : State) (line : Nat) : KeyRef := match Tab.find s.mem.lkey line with
  | none => .device
  | some p => .loaded p

/-- R106, R107: n bytes of HBM as they decrypt under a pair. -/
def State.decrypted (s : State) (pair : KeyRef) (pa n : Nat) : List Byte :=
  let line := pa / 64
  let w := s.linePair line
  if w.same pair then Memory.read s.mem.cells pa n
  else ((wrongKey w.pair pair.pair line (s.mem.line line)).drop (pa % 64)).take n

/-- R124: the channel that holds an HBM address is retired. -/
def State.retiredAt (s : State) (pa : Nat) : Bool :=
  let (st, ch, _) := hbmPlace pa
  s.mem.retired.contains (32 * st + ch)

/-- R111: the granules of a read that meet an uncorrectable error are marked, and the error is counted and logged once. -/
def State.takeEcc (s : State) (place pa n : Nat) : State × List (Cause × Nat) :=
  let hit := (granules place n).filter s.mem.ecc.contains
  match hit with
  | [] => (s, [])
  | _ :: _ =>
    let st := (hbmPlace place).1
    ({ s with mem := { s.mem with
        ecc := s.mem.ecc.filter (fun g => !hit.contains g)
        pois := hit.foldl setIns s.mem.pois
        uncorr := Tab.upd s.mem.uncorr st 0 (· + 1) } }, [(.ecc, pa)])

/-- R94, R106, R107, R111, R124: reads n bytes within one line at their edge, under a key slot. -/
def State.edgeRead (s : State) (pa n key : Nat) : ERead :=
  match spaceOf pa with
  | .reserved => { s := s, bytes := zeros n, poison := true, cause := .range }
  | .host => { s := s, bytes := Memory.read s.mem.cells pa n, poison := (granules pa n).any s.mem.pois.contains }
  | .spad =>
    let p := s.placeOf pa
    let (s, logs) := s.takeEcc p pa n
    { s := s, bytes := Memory.read s.mem.cells p n, poison := (granules p n).any s.mem.pois.contains, logs := logs }
  | .hbm =>
    match s.keyPair key with
    | none => { s := s, bytes := zeros n, poison := true, cause := .key }
    | some pair =>
      if s.retiredAt pa then { s := s, bytes := zeros n, poison := true, cause := .ecc }
      else
        let (s, logs) := s.takeEcc pa pa n
        { s := s, bytes := s.decrypted pair pa n, poison := (granules pa n).any s.mem.pois.contains, logs := logs }

/-- How a write treats its granules (R198, R110, R111). -/
structure WMode where
  /-- a filling write sets the granules full -/
  fill : Bool := false
  /-- emptying sets them empty -/
  empty : Bool := false
  /-- granules, by PA / 16, that are marked poisoned -/
  marks : List Nat := []
  /-- a check value carried with a whole line -/
  cv : Option W32 := none

/-- R338, R353, R354: an edge ends the registrations of a line: watch entries armed on it latch a cause and are disarmed, landing cores drop
their cached copies, and the peers that registered it are told. -/
def State.unregister (s : State) (c line : Nat) : State :=
  let hitM : Watch → Watch := fun w =>
    if w.armed && w.peer.isNone && w.pa == line then { w with armed := false, cause := c } else w
  { s with
    dcache := s.dcache.map fun p => (p.1, p.2.filter fun d => d.line != line)
    threads := s.threads.map fun p => (p.1, { p.2 with m := p.2.m.map fun q => (q.1, hitM q.2) })
    arc := { s.arc with
      peerReg := s.arc.peerReg.filter (fun r => r.1 != line)
      invalOut := s.arc.invalOut ++ (s.arc.peerReg.filter (fun r => r.1 == line)).map (fun r => (r.2.1, r.2.2)) } }

/-- R338, R353, R354: a performed write of a line: every landing core has dropped it, and watch entries latch cause 1. -/
def State.notifyWrite (s : State) (line : Nat) : State := s.unregister 1 line

/-- R106: re-encrypts a line under the pair it is written with; its old check value stays beside it. -/
def State.rekey (s : State) (pair : KeyRef) (line : Nat) : State :=
  let w := s.linePair line
  if w.same pair then s
  else
    let c := s.mem.cv line
    let m := { s.mem with cells := Memory.write s.mem.cells (64 * line) (wrongKey w.pair pair.pair line (s.mem.line line)) }
    let m := { m with lkey := match pair with
      | .device => Tab.del m.lkey line
      | .loaded p => Tab.put m.lkey line p }
    { s with mem := m.setCv line c }

/-- R108–R111, R198: stores bytes within one line at the place they are held. -/
def State.storeAt (s : State) (place : Nat) (bs : List Byte) (o : WMode) : State × List (Cause × Nat) :=
  let line := place / 64
  let n := bs.length
  let bad := s.mem.cvBad line && n != 64
  let whole := wholeGranules place n
  let m := s.mem
  let m := { m with cells := Memory.write m.cells place bs }
  let pois := m.pois.filter fun g => !whole.contains g
  let pois := if bad then ((granules (64 * line) 64).filter (fun g => !whole.contains g)).foldl setIns pois else pois
  let pois := o.marks.foldl setIns pois
  let gs := granules place n
  let m := { m with
    pois := pois
    ecc := m.ecc.filter fun g => !whole.contains g
    empties := if o.fill then m.empties.filter (fun g => !gs.contains g)
      else if o.empty then gs.foldl setIns m.empties else m.empties
    cvals := Tab.del m.cvals line }
  let m := match o.cv with
    | some c => if n = 64 then m.setCv line c else m
    | none => m
  (({ s with mem := m }).notifyWrite line, if bad then [(.check, 64 * line)] else [])

/-- R109, R110: the value carried with a whole line is not that of its bytes. -/
def WMode.fails (o : WMode) (bs : List Byte) : Bool :=
  match o.cv with
  | some c => bs.length == 64 && c != crc32c bs
  | none => false

/-- R109, R110: a write to host memory, checked at PCIe egress: a whole line that fails the value it carries leaves as a poisoned TLP, as do
poisoned granules. Host memory keeps which granules a poisoned TLP wrote, and a read of them is poisoned (DESIGN CHOICE, log 51). -/
def State.hostStore (s : State) (pa : Nat) (bs : List Byte) (o : WMode) : EWrite :=
  let whole := wholeGranules pa bs.length
  let pois := s.mem.pois.filter fun g => !whole.contains g
  let marks := if o.fails bs then granules pa bs.length else o.marks
  { s := ({ s with mem := { s.mem with cells := Memory.write s.mem.cells pa bs, pois := marks.foldl setIns pois } }).notifyWrite (pa / 64),
    logs := if o.fails bs then [(.check, pa / 64 * 64)] else [] }

/-- R94, R106, R107, R124: writes bytes within one line at their edge, under a key slot. -/
def State.edgeWrite (s : State) (pa : Nat) (bs : List Byte) (key : Nat) (o : WMode := {}) : EWrite :=
  match spaceOf pa with
  | .reserved => { s := s, cause := .range }
  | .host => s.hostStore pa bs o
  | .spad =>
    let p := s.placeOf pa
    let d := p / 16 - pa / 16
    let (s, logs) := s.storeAt p bs { o with marks := if pa ≤ p then o.marks.map (· + d) else o.marks.map (· - (pa / 16 - p / 16)) }
    { s := s, logs := logs }
  | .hbm =>
    match s.keyPair key with
    | none => { s := s, cause := .key }
    | some pair =>
      if s.retiredAt pa then { s := s, cause := .ecc }
      else
        let (s, logs) := (s.rekey pair (pa / 64)).storeAt pa bs o
        { s := s, logs := logs }

/-! ### The landing core's data cache (R338) -/

/-- R106, R338: under what a line is cached: its key slot and the pair that is loaded there; scratchpad is not encrypted. -/
def State.dkey (s : State) (pa key : Nat) : Nat × Option (BitVec 512) :=
  if spaceOf pa = .hbm then (key, (Tab.find s.keys key).map KeySlot.pair) else (0, none)

/-- R338: the cached copy of the line of a PA in a landing core, read under the key slot as it is now loaded. -/
def State.dline (s : State) (hall pa key : Nat) : Option DLine :=
  (Tab.get s.dcache hall []).find? fun d => d.line == s.placeOf pa / 64 && (d.key, d.pair) == s.dkey pa key

/-- R94, R106: n bytes of a PA in HBM or scratchpad as its edge holds them for a key slot. -/
def State.heldBytes (s : State) (pa n key : Nat) : List Byte :=
  if spaceOf pa = .hbm then (match s.keyPair key with
    | some pair => s.decrypted pair pa n
    | none => zeros n)
  else Memory.read s.mem.cells (s.placeOf pa) n

/-- R338: a landing core reads n bytes of one line through its data cache. A cached line is read without its edge; since every write first drops
it, its bytes are those the edge holds, and its poison is what was read. A miss reads the whole line at its edge and keeps it. Host lines
are not cached. -/
def State.cachedRead (s : State) (hall pa n key : Nat) : ERead :=
  if spaceOf pa = .hbm || spaceOf pa = .spad then
    let l := Tab.get s.dcache hall []
    match s.dline hall pa key with
    | some d =>
      { s := { s with dcache := Tab.put s.dcache hall (d :: l.erase d) }, bytes := s.heldBytes pa n key,
        poison := (granules (s.placeOf pa) n).any d.marks.contains }
    | none =>
      let r := s.edgeRead (pa / 64 * 64) 64 key
      if r.cause != .none then { r with bytes := zeros n }
      else
        let marks := (granules (s.placeOf (pa / 64 * 64)) 64).filter r.s.mem.pois.contains
        let d : DLine := { line := s.placeOf pa / 64, key := (s.dkey pa key).1, pair := (s.dkey pa key).2, marks := marks }
        { s := { r.s with dcache := Tab.put r.s.dcache hall ((d :: l).take 256) }, bytes := s.heldBytes pa n key,
          poison := (granules (s.placeOf pa) n).any marks.contains, logs := r.logs }
  else s.edgeRead pa n key

/-! ### A bank's own bytes -/

/-- Reads n bytes of a bank at the place they are held. -/
def State.bankRead (s : State) (place n : Nat) : ERead :=
  let (s, logs) := s.takeEcc place place n
  { s := s, bytes := Memory.read s.mem.cells place n, poison := (granules place n).any s.mem.pois.contains, logs := logs }

/-- Writes bytes of a bank at the place they are held. -/
def State.bankWrite (s : State) (place : Nat) (bs : List Byte) (o : WMode := {}) : EWrite :=
  let (s, logs) := s.storeAt place bs o
  { s := s, logs := logs }

/-! ### Page tables -/

/-- R97: the shift and width of each level's index. -/
def levelShift : Nat → Nat
  | 0 => 16 | 1 => 21 | 2 => 30 | 3 => 39 | _ => 48
def levelWidth : Nat → Nat
  | 0 => 5 | 4 => 8 | _ => 9

/-- R99: an entry is malformed at a level. -/
def malformed (e : W64) (lv : Nat) : Bool :=
  if !bitB e 1 then
    bitsN e 63 48 != 0 || bitsN e 7 2 != 0 || lv == 0 ||
      (lv ≥ 2 && bitsN e 11 8 != 0) || bitsN e 47 8 * 256 ≥ 0xC000000000
  else
    bitsN e 15 9 != 0 || lv ≥ 3 || (lv == 2 && bitsN e 29 16 != 0) || (lv == 1 && bitsN e 20 16 != 0) ||
      (!bitB e 8 && (spaceOf (bitsN e 47 16 * 65536) == .reserved || bitsN e 63 56 != 0))

/-- R100: a leaf grants a kind of access. -/
def grants (e : W64) : AccKind → Bool
  | .read => bitB e 2
  | .write => bitB e 3
  | .atomic => bitB e 4
  | .exec => bitB e 5

/-- A walk's answer. -/
inductive WalkAns where
  | fault (c : Cause)
  | leaf (pte : W64) (psz : Nat)
  deriving DecidableEq, Repr

/-- R100: the leaf as the walker leaves it: `acc` set, and `dty` for a write or an atomic. -/
def marked (e : W64) (k : AccKind) : W64 :=
  e ||| (if k = .write ∨ k = .atomic then 0xC0#64 else 0x40#64)

/-- R100: the walk from a table of a level down. Entries are read under key slot 0; the compare-and-swap that sets
`acc` and `dty` is part of the same step, so the entry cannot have changed. -/
def State.walkFrom (s : State) (va : W64) (k : AccKind) (ok : Nat → Bool) : Nat → Nat → State × WalkAns × List (Cause × Nat)
  | lv, t =>
    let a := t + 8 * (va.toNat / 2 ^ levelShift lv % 2 ^ levelWidth lv)
    let r := s.edgeRead a 8 0
    let e : W64 := BitVec.ofNat 64 (leNat r.bytes)
    if r.poison || r.cause != .none then (r.s, .fault .range, r.logs)
    else if !bitB e 0 then (r.s, .fault .nopage, r.logs)
    else if malformed e lv then (r.s, .fault .range, r.logs)
    else if bitB e 1 then
      if !grants e k then (r.s, .fault .prot, r.logs)
      else if !ok (bitsN e 55 48) then (r.s, .fault .key, r.logs)
      else
        let n := marked e k
        if n = e then (r.s, .leaf e (levelShift lv), r.logs)
        else
          let w := r.s.edgeWrite a (leBytes 8 n.toNat) 0
          (w.s, .leaf n (levelShift lv), r.logs ++ w.logs)
    else
      match lv with
      | 0 => (r.s, .fault .range, r.logs)
      | lv + 1 =>
        let (s', ans, l) := State.walkFrom r.s va k ok lv (bitsN e 47 8 * 256)
        (s', ans, r.logs ++ l)

/-- R100: walks the tables of a root, PA<47:11>. -/
def State.walk (s : State) (root : BitVec 37) (va : W64) (k : AccKind) (ok : Nat → Bool := fun _ => true) :
    State × WalkAns × List (Cause × Nat) :=
  s.walkFrom va k ok 4 (root.toNat * 2048)

/-- A translated address: a local PA or an export address of a peer, with its key slot. -/
structure Xlat where
  pa : Nat
  key : Nat
  rem : Option Nat := none
  deriving DecidableEq, Repr

/-- R98, R102: the address a leaf gives a VA. -/
def leafXlat (pte : W64) (psz : Nat) (va : W64) : Xlat :=
  { pa := bitsN pte 47 16 * 65536 + va.toNat % 2 ^ psz, key := bitsN pte 55 48,
    rem := if bitB pte 8 then some (bitsN pte 63 56) else none }

end Sys2Proof.Machine
end

