-- ==== Sys2Proof/Machine/Ops.lean ====
section
/-! DEFINITION. The named operations on threads, regions, the fault log and reports (R330–R337, R361, R385–R391), and taking an exception and returning from one (R333). -/

namespace Sys2Proof.Machine

/-- The outcome of a meaning. -/
abbrev Res := Host.Outcome State Fault Refusal

/-- A value the specification does not state: it is drawn from `Config.freeWord`, of which nothing is known (log 4). -/
def State.free (s : State) : W64 := Config.freeWord s.fresh
/-- The next free value will be another one. -/
def State.drawn (s : State) : State := { s with fresh := s.fresh + 1 }

/-! ### Keys of the parts of a hall -/

/-- 4 × hall + slot. -/
def tkey (hall ctx : Nat) : Nat := 4 * hall + ctx
/-- 4 × (64 × hall + bay) + slot. -/
def bkey (hall bay ctx : Nat) : Nat := 4 * (64 * hall + bay) + ctx
/-- 4 × (128 × hall + element) + slot: element codes are bays 0–63, stairs 64–79, the gallery 80. -/
def ckey (hall elem ctx : Nat) : Nat := 4 * (128 * hall + elem) + ctx
/-- 8 × (128 × hall + element) + direction. -/
def lkey (hall elem dir : Nat) : Nat := 8 * (128 * hall + elem) + dir

/-! ### Threads -/

def State.thr (s : State) (hall ctx : Nat) : Thread := Tab.get s.threads (tkey hall ctx) {}
def State.setThr (s : State) (hall ctx : Nat) (t : Thread) : State :=
  { s with threads := Tab.put s.threads (tkey hall ctx) t }
def State.updThr (s : State) (hall ctx : Nat) (f : Thread → Thread) : State := s.setThr hall ctx (f (s.thr hall ctx))

/-- The thread the focus names. -/
def State.me (s : State) : Thread := s.thr s.focus.hall s.focus.ctx
def State.setMe (s : State) (t : Thread) : State := s.setThr s.focus.hall s.focus.ctx t

/-- R330: x0 reads zero and is never poisoned. -/
def Thread.rx (t : Thread) (r : BitVec 5) : Reg64 := if r = 0 then {} else Tab.get t.x r.toNat {}
/-- R330: x0 ignores writes. -/
def Thread.wx (t : Thread) (r : BitVec 5) (v : W64) (p : Bool := false) : Thread :=
  if r = 0 then t else { t with x := Tab.put t.x r.toNat { v := v, poison := p } }
/-- R330: p0 reads 1 and is never poisoned. -/
def Thread.rp (t : Thread) (r : BitVec 3) : PBit := if r = 0 then { v := true } else Tab.get t.p r.toNat {}
/-- R330: p0 ignores writes. -/
def Thread.wp (t : Thread) (r : BitVec 3) (v p : Bool) : Thread :=
  if r = 0 then t else { t with p := Tab.put t.p r.toNat { v := v, poison := p } }
def Thread.rc (t : Thread) (r : BitVec 3) : CReg := Tab.get t.c r.toNat {}
def Thread.wc (t : Thread) (r : BitVec 3) (c : CReg) : Thread := { t with c := Tab.put t.c r.toNat c }
def Thread.watch (t : Thread) (n : Nat) : Watch := Tab.get t.m n {}
def Thread.setWatch (t : Thread) (n : Nat) (w : Watch) : Thread := { t with m := Tab.put t.m n w }

/-- R336: an instruction retires and the thread goes on at an address. -/
def Thread.go (t : Thread) (pc : W64) : Thread := { t with pc := pc, instret := t.instret + 1, inWait := 0, ir := none }
/-- The instruction retires and the next one follows. -/
def Thread.next (t : Thread) : Thread := t.go (t.pc + 4)

/-! ### Regions -/

/-- A region that is not there. -/
def Region.blank : Region := { rcb := 0, rroot := 0 }
def State.region (s : State) (r : Nat) : Region := s.regions.getD r Region.blank
def State.updRegion (s : State) (r : Nat) (f : Region → Region) : State := { s with regions := s.regions.modify r f }
def State.slot (s : State) (hall ctx : Nat) : HSlot := Tab.get s.slots (tkey hall ctx) {}
def State.setSlot (s : State) (hall ctx : Nat) (x : HSlot) : State := { s with slots := Tab.put s.slots (tkey hall ctx) x }
/-- The region to which a context slot of a hall is charged. -/
def State.regionAt (s : State) (hall ctx : Nat) : Option Nat := (s.slot hall ctx).region
/-- R361: halls and slots of a region. -/
def Region.nh (r : Region) : Nat := (r.own.pw + 1) * (r.own.ph + 1)
/-- R370: the module hall of a grid position 8 × row + column. -/
def gridHall (g : Nat) : Nat :=
  let r := g / 8
  let c := g % 8
  16 * (2 * (r / 4) + c / 4) + (4 * (r % 4) + c % 4)
/-- R370: the module hall of a region's logical hall. -/
def Region.hallOf (r : Region) (l : Nat) : Nat :=
  gridHall (8 * (r.org / 8 + l / (r.own.pw + 1)) + (r.org % 8 + l % (r.own.pw + 1)))
/-- The module halls of a region, by logical hall. -/
def Region.halls (r : Region) : List Nat := (List.range r.nh).map r.hallOf
/-- R364: the physical slot of a logical slot. -/
def Region.phys (r : Region) (j : Nat) : Nat := r.smap.getD j j
/-- R364: the logical slot of a physical slot. -/
def Region.logical (r : Region) (p : Nat) : Nat :=
  match r.smap.findIdx? (· == p) with
  | some j => j
  | none => p
/-- R364: the logical number of a context in a hall. -/
def State.logCtx (s : State) (hall ctx : Nat) : Nat :=
  match s.regionAt hall ctx with
  | none => ctx
  | some r => (s.region r).logical ctx
/-- R390, R409: the region of a context is stopped, or its hall is retired. -/
def State.ctxStopped (s : State) (hall ctx : Nat) : Bool :=
  (Tab.get s.hallSt hall {}).retired || match s.regionAt hall ctx with
    | none => false
    | some r => (s.region r).stopped

/-- R397: an element has stopped taking a context's tokens for a swap. -/
def State.swapStopped (s : State) (hall elem ctx : Nat) : Bool :=
  match s.regionAt hall ctx with
  | none => false
  | some r => (s.region r).swap.stopped.contains (ckey hall elem ctx)
/-- R398: an element has ended its work for a context and saved its state. -/
def State.swapSaved (s : State) (hall elem ctx : Nat) : Bool :=
  match s.regionAt hall ctx with
  | none => false
  | some r => (s.region r).swap.saved.contains (ckey hall elem ctx)
/-- R283: a gallery's queue works on for a context until the gallery has saved. -/
def State.galHalted (s : State) (hall ctx : Nat) : Bool := s.ctxStopped hall ctx || s.swapSaved hall 80 ctx
/-- R397: an input of an element, for the lists of a swap: 0–3 a link, 4 + p port p; of a gallery, row r from the west is r and from
the east 8 + r. -/
def inKey (hall elem ctx inp : Nat) : Nat := 128 * ckey hall elem ctx + inp
/-- R397: the element attached to a port of a hall: stairs, M-bays, the bays at the edges, and the first A-bays of the quads. -/
def portElem (p : Nat) : Nat :=
  let mbay (q : Nat) : Nat := 8 * (2 * (q / 4) + 1) + 2 * (q % 4)
  let first (q : Nat) : Nat := 8 * (2 * (q / 4)) + 2 * (q % 4)
  if p < 16 then 64 + p else if p < 32 then mbay (p - 16) else if p < 40 then 8 * (p - 32) else if p < 48 then 8 * (p - 40) + 7 else first (p - 48)

/-- R395 step 3, R397: a drain is placed at a port of a context: where the port is an input of its element, that input's drain has arrived
and the element stops; elsewhere it is discarded. Once a hall's last drain is placed, its elements without inputs stop and its save
is timed. -/
def RSwap.place (g : RSwap) (hall port ctx : Nat) : RSwap :=
  let key := 4 * (64 * hall + port) + ctx
  if !g.toPlace.contains key then g
  else
    let e := portElem port
    let inp := inKey hall e ctx (4 + port)
    let g := { g with toPlace := setDel g.toPlace key }
    let g := if g.inputs.contains inp then
        { g with drained := setIns g.drained inp, stopped := setIns g.stopped (ckey hall e ctx) }
      else g
    if g.toPlace.any fun k => k / 256 == hall then g
    else
      let cs := (g.ctxs.filter fun k => k / 4 == hall).map (· % 4)
      let idle := ((List.range 81).map fun e => cs.map fun c => ckey hall e c).flatten.filter fun k => !g.inputs.any fun i => i / 128 == k
      { g with stopped := idle.foldl setIns g.stopped, timer := Tab.put g.timer hall 0 }
/-- R395 step 3: a port of a context has sent a marker of subtype 0 or a done, behind which its drain follows. -/
def State.cutPort (s : State) (hall port ctx : Nat) : State :=
  match s.regionAt hall ctx with
  | none => s
  | some r =>
    if (s.region r).swap.seq.isNone then s
    else s.updRegion r fun g => { g with swap := g.swap.place hall port ctx }
/-- R395: the drain of a port of a context has been placed: the port sends no more until the restore. -/
def State.portCut (s : State) (hall port ctx : Nat) : Bool :=
  match s.regionAt hall ctx with
  | none => false
  | some r =>
    let g := (s.region r).swap
    g.seq.isSome && g.halls.contains hall && g.ctxs.contains (tkey hall ctx) && !g.toPlace.contains (4 * (64 * hall + port) + ctx)

/-- An element works for a context no longer: its region is stopped, or the element stopped for a swap. -/
def State.halted (s : State) (hall elem ctx : Nat) : Bool := s.ctxStopped hall ctx || s.swapStopped hall elem ctx

/-! ### Region control blocks in memory -/

/-- Reads n bytes of an RCB, or of another structure of a region, under its root; the bytes and whether they could be read. -/
def State.vaRead (s : State) (root : BitVec 37) (va : W64) (n : Nat) : State × List Byte × Cause × List (Cause × Nat) :=
  if bitsN va 63 56 != 0 then (s, zeros n, .range, [])
  else match s.walk root va .read with
    | (s, .fault c, l) => (s, zeros n, c, l)
    | (s, .leaf pte psz, l) =>
      let x := leafXlat pte psz va
      if x.rem.isSome then (s, zeros n, .range, l)
      else
        let r := s.edgeRead x.pa n x.key
        (r.s, r.bytes, if r.cause != .none then r.cause else if r.poison then .poisonuse else .none, l ++ r.logs)

/-! ### The fault log (R386) -/

/-- Where a fault is found: module hall, element and its class, context. -/
structure Site where
  hall : Nat
  elem : Nat := 0
  eclass : Nat := 3
  ctx : Nat := 0
  /-- a context caused what is found here -/
  own : Bool := true
  deriving DecidableEq, Repr

/-- R386: a log entry. -/
def logEntry (c : Cause) (w : Site) (isPa : Bool) (addr seq : Nat) : BitVec 128 :=
  BitVec.ofNat 128 (c.code * 2 ^ 120 + w.hall % 64 * 2 ^ 114 + w.elem % 1024 * 2 ^ 104 + w.eclass % 16 * 2 ^ 100 +
    w.ctx % 4 * 2 ^ 98 + (if isPa then 2 ^ 97 else 0) + addr % 2 ^ 56 * 2 ^ 32 + seq % 2 ^ 32)

/-- R386: appends an entry to the log, overwriting the oldest of 1,024. -/
def State.logEntryAdd (s : State) (c : Cause) (w : Site) (addr : Nat) (isPa : Bool) : State :=
  let l := s.log ++ [logEntry c w isPa addr (s.lseq + 1)]
  { s with log := l.drop (l.length - 1024), lseq := s.lseq + 1 }

/-- The memory edges and hall controllers, where no context has caused what is found (R386 element class 4). -/
def edgeSite (hall : Nat) : Site := { hall := hall, eclass := 4, own := false }

/-- R386: logs what an access of the device itself found at an edge. -/
def State.logEdge (s : State) (hall : Nat) (l : List (Cause × Nat)) : State :=
  l.foldl (fun s p => s.logEntryAdd p.1 (edgeSite hall) p.2 true) s

/-- Writes bytes of an RCB, or of another structure of a region, under its root; nothing where the page refuses it. What the walk and the
write find is logged (R99, R111). -/
def State.vaWrite (s : State) (root : BitVec 37) (va : W64) (bs : List Byte) (o : WMode := {}) : State :=
  if bitsN va 63 56 != 0 then s
  else match s.walk root va .write with
    | (s, .fault _, l) => s.logEdge 0 l
    | (s, .leaf pte psz, l) =>
      let x := leafXlat pte psz va
      let s := s.logEdge 0 l
      if x.rem.isSome then s
      else
        let w := s.edgeWrite x.pa bs x.key o
        w.s.logEdge 0 w.logs

/-- A field the device writes in a region's RCB (R361, R391): whole bytes at an offset. -/
def State.rcbWrite (s : State) (r : Nat) (off n v : Nat) : State :=
  let g := s.region r
  s.vaWrite g.rroot (g.rcb + w64 off) (leBytes n v)

/-- R386: adds one, saturating, to `fcnt` of a region. -/
def State.bumpFcnt (s : State) (r : Option Nat) : State :=
  match r with
  | none => s
  | some r =>
    let n := min ((s.region r).fcnt + 1) (2 ^ 32 - 1)
    (s.updRegion r (fun g => { g with fcnt := n })).rcbWrite r 0x80 4 n

/-- R386: logs a cause: appends an entry, overwriting the oldest of 1,024, and counts it in the region's `fcnt`. -/
def State.logFault (s : State) (c : Cause) (w : Site) (addr : Nat := 0) (isPa : Bool := false) : State :=
  (s.logEntryAdd c w addr isPa).bumpFcnt (if w.own then s.regionAt w.hall w.ctx else none)

/-- Logs what an access at an edge found, with its PAs. -/
def State.logAll (s : State) (w : Site) (l : List (Cause × Nat)) : State :=
  l.foldl (fun s p => s.logFault p.1 w p.2 true) s

/-- R386: an element logs `cfg` and `range` for discarded tokens at most once per context and invocation; later ones count
only. -/
def State.logOnce (s : State) (c : Cause) (w : Site) : State :=
  match s.regionAt w.hall w.ctx with
  | none => s.logFault c w
  | some r =>
    let k := (w.hall * 1024 + w.elem * 8 + w.eclass, w.ctx * 32 + c.code)
    if (s.region r).loggedOnce.contains k then s.bumpFcnt (some r)
    else (s.updRegion r fun g => { g with loggedOnce := k :: g.loggedOnce }).logFault c w

/-- R386: an element takes an invocation marker of a context: it may log again. -/
def State.invoked (s : State) (hall eclass elem ctx : Nat) : State :=
  match s.regionAt hall ctx with
  | none => s
  | some r =>
    let k := hall * 1024 + elem * 8 + eclass
    s.updRegion r fun g => { g with loggedOnce := g.loggedOnce.filter fun p => !(p.1 == k && p.2 / 32 == ctx) }

/-! ### Reports (R387–R391) -/

/-- A record under construction: puts n bits of a value at bit l. -/
def recPut (r : BitVec 512) (l n v : Nat) : BitVec 512 := r ||| BitVec.ofNat 512 (v % 2 ^ n * 2 ^ l)

/-- R387: the common fields of a record. -/
def recHead (c : Cause) (hall ctx kind : Nat) : BitVec 512 :=
  recPut (recPut (recPut (recPut 0 504 8 c.code) 498 6 hall) 492 2 ctx) 464 8 kind

/-- The cause a record carries. -/
def recCause (r : BitVec 512) : Nat := bitsN r 511 504

/-- The cause of a code. -/
def Cause.ofCode : Nat → Cause
  | 1 => .nopage | 2 => .prot | 3 => .range | 4 => .key | 5 => .window | 6 => .deadpeer | 7 => .peerlevel
  | 8 => .poisonuse | 9 => .shape | 10 => .illegal | 11 => .cfg | 12 => .spillfull | 13 => .watchdog | 14 => .check
  | 15 => .ecc | 16 => .budget | 17 => .depth | 18 => .align | _ => .none

/-- R435: an entry waits for a sink queue. -/
def State.sinkPut (s : State) (q size : Nat) (e : BitVec 512) : State :=
  { s with host := { s.host with
      sinkqs := Tab.upd s.host.sinkqs q {} fun k => { k with wait := k.wait ++ [(size, e)] } } }

/-- R389, R391: writes a record to a region's fault ring. -/
def State.ringWrite (s : State) (r : Nat) (rec : BitVec 512) : State :=
  let g := s.region r
  if g.own.flog = 0 || g.own.flen = 0 then s
  else
    let s := s.vaWrite g.rroot (g.own.flog + w64 (64 * g.fhead)) (leBytes 64 rec.toNat)
    let h := (g.fhead + 1) % g.own.flen
    (s.updRegion r fun g => { g with fhead := h }).rcbWrite r 0x94 2 h

/-- R389, R390: a record leaves the region: ring, first cause, and the region stops. -/
def State.leaveRegion (s : State) (r : Nat) (rec : BitVec 512) : State :=
  let s := s.ringWrite r rec
  let g := s.region r
  let s := if !g.left then
      (s.updRegion r fun g => { g with fcause := Cause.ofCode (recCause rec), left := true, flt := true }).rcbWrite r 0x87 1 (recCause rec)
    else s
  (s.updRegion r fun g => { g with stopped := true, fstate := 1, flt := true }).rcbWrite r 0xA0 1 1

/-- R387, R389: `rkind` 7, the report a parent's region receives of a child: its cause, hall and context are those of the child's record. -/
def childRecord (g : Region) (rec : BitVec 512) : BitVec 512 :=
  recPut (recPut (recPut (recPut (recPut (recPut 0 504 8 (recCause rec)) 498 6 (bitsN rec 503 498)) 492 2 (bitsN rec 493 492)) 464 8 7) 392 56
    g.rcb.toNat) 352 32 g.fcnt

/-- The live context of a region in a hall: the physical slot its thread runs in. -/
def State.threadSlot (s : State) (r hall : Nat) : Nat :=
  match (List.range 4).find? (fun c => (s.thr hall c).live && s.regionAt hall c == some r) with
  | some c => c
  | none => (s.region r).phys 0

/-- R334: a report enters a thread's queue; false where the queue is full. -/
def State.queueReport (s : State) (hall ctx : Nat) (rec : BitVec 512) : Option State :=
  let t := s.thr hall ctx
  if t.reps.length < 32 then some (s.setThr hall ctx { t with reps := t.reps ++ [rec] }) else none

/-- R389: a report on its way: to a region's effective domain in a hall and context, or, with `out`, out of the region to
its parent domain. The chain of parents is at most 25 long (R365). -/
def State.route : Nat → State → Nat → Nat → Nat → Bool → BitVec 512 → State
  | 0, s, _, _, _, _, _ => s
  | fuel + 1, s, r, hall, ctx, out, rec =>
    let g := s.region r
    let toHost : State → State := fun s => (s.leaveRegion r rec).sinkPut g.eff.fsq 64 rec
    let up : State → State := fun s =>
      match g.parent with
      | none => toHost s
      | some p =>
        let s := s.leaveRegion r rec
        let h := (s.region p).hallOf 0
        State.route fuel s p h (s.threadSlot p h) false (childRecord (s.region r) rec)
    if out then up s
    else match g.eff.fmode with
      | 0 => (match s.queueReport hall ctx rec with
        | some s => s
        | none => up s)
      | 1 => up s
      | _ => toHost s

/-- R389: reports a record of a context. A context that no region holds reports to its own thread's queue. -/
def State.report (s : State) (hall ctx : Nat) (rec : BitVec 512) : State :=
  match s.regionAt hall ctx with
  | none => (s.queueReport hall ctx rec).getD s
  | some r => (s.bumpFcnt (some r)).route 26 r hall ctx false rec

/-- R66, R386, R389: an element discards a token: the first of an invocation is logged, every one is reported, and `fcnt` rises by one
each time. -/
def State.reportDiscard (s : State) (c : Cause) (w : Site) (rec : BitVec 512) : State :=
  match s.regionAt w.hall w.ctx with
  | none => (s.logFault c w).report w.hall w.ctx rec
  | some r => (s.logOnce c w).route 26 r w.hall w.ctx false rec

/-- R389: sends a record to the parent fault domain of a context. -/
def State.reportUp (s : State) (hall ctx : Nat) (rec : BitVec 512) : State :=
  match s.regionAt hall ctx with
  | none => (s.queueReport hall ctx rec).getD s
  | some r => (s.bumpFcnt (some r)).route 26 r hall ctx true rec

/-- R388 `rkind` 4: an element reports `cfg` or `range` for a token. -/
def elemRecord (c : Cause) (w : Site) (lctx : Nat) (hdr pay : Nat) : BitVec 512 :=
  recPut (recPut (recPut (recPut (recHead c w.hall lctx 4) 454 10 w.elem) 450 4 w.eclass) 424 24 hdr) 360 64 pay

/-! ### Taking an exception, and returning from one (R333) -/

/-- R388 `rkind` 5: the record of a double fault. -/
def doubleRecord (hall lctx : Nat) (ec : W64) (info pc : W64) : BitVec 512 :=
  recPut (recPut (recPut (recHead (Cause.ofCode (bitsN ec 7 0)) hall lctx 5) 384 64 ec.toNat) 320 64 info.toNat)
    264 56 pc.toNat

/-- R333: a synchronous trap of a thread: at pl0 the trap registers are written and the thread goes on at `ebase` at pl1;
at pl1 the thread stops and a double fault goes to the parent fault domain. `ret` is what `epc` receives. -/
def State.takeTrap (s : State) (hall ctx : Nat) (ec info ret : W64) : State :=
  let t := s.thr hall ctx
  if t.pl then
    (s.setThr hall ctx { t with dead := true }).reportUp hall ctx (doubleRecord hall (s.logCtx hall ctx) ec info t.pc)
  else
    s.setThr hall ctx { t with
      epc := w64 (bitsN ret 55 0), ecause := ec, einfo := info, ppl := t.pl, pl := true, pc := t.ebase, inWfi := false, mwD := none, inWait := 0, ir := none,
      parked := false, served := none, got := [] }

/-- R333: a precise trap of the focused thread with a fault cause: `epc` is the trapping instruction. -/
def State.precise (s : State) (c : Cause) (info : W64 := 0) : State :=
  s.takeTrap s.focus.hall s.focus.ctx (w64 c.code) info s.me.pc

/-- R333, R359: the `trap` instruction: `sw` set, `epc` the next instruction. -/
def State.swTrap (s : State) (code : BitVec 8) : State :=
  s.takeTrap s.focus.hall s.focus.ctx (w64 (2 ^ 62 + code.toNat * 256)) 0 (s.me.pc + 4)

/-- R333: `eret` restores `pl` from `ppl` and continues at `epc`. R334: of the timeouts, that of the `mwait` it returns to is kept. -/
def Thread.eret (t : Thread) : Thread :=
  { t with pl := t.ppl, pc := t.epc, instret := t.instret + 1, ir := none, mwLeft := t.mwLeft.filter fun p => p.1 == t.epc.toNat }

/-- R334: a report traps the thread between two instructions: `async` is set, the cause is the oldest report's, and `epc`
is the next instruction. -/
def Thread.reportTrap (t : Thread) (rec : BitVec 512) : Thread :=
  { t with epc := w64 (bitsN t.pc 55 0), ecause := w64 (2 ^ 63 + recCause rec), einfo := 0, ppl := t.pl, pl := true,
           pc := t.ebase, inWfi := false, mwD := none, inWait := 0, ir := none }

/-- The focused thread traps precisely. -/
def trapRes (s : State) (c : Cause) (info : W64 := 0) : Res := .next (s.precise c info)

/-- The focused thread is changed, its instruction retires and the next one follows. -/
def retire (s : State) (f : Thread → Thread) : Res := .next (s.setMe (f s.me).next)

/-- The instruction waits: nothing changes and it issues again. -/
def waits (s : State) : Res := .next s

end Sys2Proof.Machine
end

