-- ==== Sys2Proof/Machine/LcInt.lean ====
section
/-! DEFINITION. The landing core's integer instructions (R339), predicates (R346) and the field helpers they share. -/

namespace Sys2Proof.Machine

/-- R339: an instruction of two sources: the result is poisoned when a source is. -/
def alu2 (s : State) (d a b : BitVec 5) (f : W64 → W64 → W64) : Res :=
  retire s fun t => t.wx d (f (t.rx a).v (t.rx b).v) ((t.rx a).poison || (t.rx b).poison)

/-- R339: an instruction of one source. -/
def alu1 (s : State) (d a : BitVec 5) (f : W64 → W64) : Res :=
  retire s fun t => t.wx d (f (t.rx a).v) (t.rx a).poison

/-- SignExt of an immediate (R10). -/
def sx16 (imm : BitVec 16) : W64 := imm.signExtend 64
/-- ZeroExt of an immediate (R10). -/
def zx16 (imm : BitVec 16) : W64 := imm.setWidth 64
/-- 1 or 0. -/
def bit64 (b : Bool) : W64 := if b then 1 else 0

/-- R339: shifts by 64 or more give zero. -/
def shlN (x : W64) (n : Nat) : W64 := if n ≥ 64 then 0 else x <<< n
def shrN (x : W64) (n : Nat) : W64 := if n ≥ 64 then 0 else x >>> n
/-- R339: an arithmetic shift is by at most 63. -/
def sraN (x : W64) (n : Nat) : W64 := x.sshiftRight (min n 63)
/-- R339: the upper half of the signed product. -/
def mulhS (x y : W64) : W64 := BitVec.ofInt 64 (x.toInt * y.toInt / 2 ^ 64)
/-- R339: the upper half of the unsigned product. -/
def mulhU (x y : W64) : W64 := w64 (x.toNat * y.toNat / 2 ^ 64)
/-- R339: a divisor of 0 gives all ones; −2^63 / −1 wraps to −2^63. -/
def divS (x y : W64) : W64 := if y = 0 then BitVec.allOnes 64 else BitVec.ofInt 64 (x.toInt.tdiv y.toInt)
def divU (x y : W64) : W64 := if y = 0 then BitVec.allOnes 64 else w64 (x.toNat / y.toNat)
/-- R339: a divisor of 0 gives the dividend; −2^63 rem −1 gives 0. -/
def remS (x y : W64) : W64 := if y = 0 then x else BitVec.ofInt 64 (x.toInt.tmod y.toInt)
def remU (x y : W64) : W64 := if y = 0 then x else w64 (x.toNat % y.toNat)

/-- The set bits among the n low bits. -/
def popGo (x : Nat) : Nat → Nat
  | 0 => 0
  | n + 1 => x % 2 + popGo (x / 2) n
/-- Set bits of a value of n bits. -/
def popcount (n x : Nat) : Nat := popGo x n
/-- Leading zero bits of a value of n bits. -/
def clzGo (x : Nat) : Nat → Nat
  | 0 => 0
  | n + 1 => if x / 2 ^ n % 2 = 1 then 0 else 1 + clzGo x n
def leadZeros (n x : Nat) : Nat := clzGo x n

/-- R71: a condition between two 64-bit values. -/
def condHolds (c : BitVec 3) (x y : W64) : Bool :=
  match c.toNat with
  | 0 => x == y
  | 1 => x != y
  | 2 => x.slt y
  | 3 => !x.slt y
  | 4 => x.ult y
  | _ => !x.ult y

/-- R339 `add`. -/
def execAdd (d a b : BitVec 5) (s : State) : Res := alu2 s d a b (fun x y => x + y)
/-- R339 `sub`. -/
def execSub (d a b : BitVec 5) (s : State) : Res := alu2 s d a b (fun x y => x - y)
/-- R339 `and`. -/
def execAnd (d a b : BitVec 5) (s : State) : Res := alu2 s d a b (fun x y => x &&& y)
/-- R339 `or`. -/
def execOr (d a b : BitVec 5) (s : State) : Res := alu2 s d a b (fun x y => x ||| y)
/-- R339 `xor`. -/
def execXor (d a b : BitVec 5) (s : State) : Res := alu2 s d a b (fun x y => x ^^^ y)
/-- R339 `shl`. -/
def execShl (d a b : BitVec 5) (s : State) : Res := alu2 s d a b (fun x y => shlN x y.toNat)
/-- R339 `shr`. -/
def execShr (d a b : BitVec 5) (s : State) : Res := alu2 s d a b (fun x y => shrN x y.toNat)
/-- R339 `sra`. -/
def execSra (d a b : BitVec 5) (s : State) : Res := alu2 s d a b (fun x y => sraN x y.toNat)
/-- R339 `mul`. -/
def execMul (d a b : BitVec 5) (s : State) : Res := alu2 s d a b (fun x y => x * y)
/-- R339 `mulh`. -/
def execMulh (d a b : BitVec 5) (s : State) : Res := alu2 s d a b (mulhS)
/-- R339 `mulh.n`. -/
def execMulhN (d a b : BitVec 5) (s : State) : Res := alu2 s d a b (mulhU)
/-- R339 `div`. -/
def execDiv (d a b : BitVec 5) (s : State) : Res := alu2 s d a b (divS)
/-- R339 `div.n`. -/
def execDivN (d a b : BitVec 5) (s : State) : Res := alu2 s d a b (divU)
/-- R339 `rem`. -/
def execRem (d a b : BitVec 5) (s : State) : Res := alu2 s d a b (remS)
/-- R339 `rem.n`. -/
def execRemN (d a b : BitVec 5) (s : State) : Res := alu2 s d a b (remU)
/-- R339 `slt`. -/
def execSlt (d a b : BitVec 5) (s : State) : Res := alu2 s d a b (fun x y => bit64 (x.slt y))
/-- R339 `slt.n`. -/
def execSltN (d a b : BitVec 5) (s : State) : Res := alu2 s d a b (fun x y => bit64 (x.ult y))
/-- R339 `min`. -/
def execMin (d a b : BitVec 5) (s : State) : Res := alu2 s d a b (fun x y => if x.slt y then x else y)
/-- R339 `max`. -/
def execMax (d a b : BitVec 5) (s : State) : Res := alu2 s d a b (fun x y => if x.slt y then y else x)
/-- R339 `min.n`. -/
def execMinN (d a b : BitVec 5) (s : State) : Res := alu2 s d a b (fun x y => if x.ult y then x else y)
/-- R339 `max.n`. -/
def execMaxN (d a b : BitVec 5) (s : State) : Res := alu2 s d a b (fun x y => if x.ult y then y else x)
/-- R339 `clz`. -/
def execClz (d a : BitVec 5) (s : State) : Res := alu1 s d a fun x => w64 (leadZeros 64 x.toNat)
/-- R339 `popc`. -/
def execPopc (d a : BitVec 5) (s : State) : Res := alu1 s d a fun x => w64 (popcount 64 x.toNat)
/-- R339 `addi`. -/
def execAddi (d a : BitVec 5) (imm : BitVec 16) (s : State) : Res := alu1 s d a fun x => x + sx16 imm
/-- R339 `andi`. -/
def execAndi (d a : BitVec 5) (imm : BitVec 16) (s : State) : Res := alu1 s d a fun x => x &&& zx16 imm
/-- R339 `ori`. -/
def execOri (d a : BitVec 5) (imm : BitVec 16) (s : State) : Res := alu1 s d a fun x => x ||| zx16 imm
/-- R339 `xori`. -/
def execXori (d a : BitVec 5) (imm : BitVec 16) (s : State) : Res := alu1 s d a fun x => x ^^^ zx16 imm
/-- R339 `slti`. -/
def execSlti (d a : BitVec 5) (imm : BitVec 16) (s : State) : Res := alu1 s d a fun x => bit64 (x.slt (sx16 imm))
/-- R339 `slti.n`. -/
def execSltiN (d a : BitVec 5) (imm : BitVec 16) (s : State) : Res := alu1 s d a fun x => bit64 (x.ult (zx16 imm))
/-- R339 `luh`. -/
def execLuh (d a : BitVec 5) (imm : BitVec 16) (s : State) : Res := alu1 s d a fun x => (x.extractLsb' 48 16 ++ imm ++ x.extractLsb' 0 32 : BitVec 64)
/-- R339 `luhh`. -/
def execLuhh (d a : BitVec 5) (imm : BitVec 16) (s : State) : Res := alu1 s d a fun x => (imm ++ x.extractLsb' 0 48 : BitVec 64)
/-- R339 `shli`. -/
def execShli (d a : BitVec 5) (k : BitVec 6) (s : State) : Res := alu1 s d a fun x => shlN x k.toNat
/-- R339 `shri`. -/
def execShri (d a : BitVec 5) (k : BitVec 6) (s : State) : Res := alu1 s d a fun x => shrN x k.toNat
/-- R339 `srai`. -/
def execSrai (d a : BitVec 5) (k : BitVec 6) (s : State) : Res := alu1 s d a fun x => sraN x k.toNat
/-- R339 `lui`: SignExt(imm × 2^16, 64). -/
def execLui (d : BitVec 5) (imm : BitVec 16) (s : State) : Res :=
  retire s fun t => t.wx d ((imm ++ 0#16 : BitVec 32).signExtend 64)

/-- R346: a predicate is set; it is poisoned when a source is. -/
def setPred (s : State) (p : BitVec 3) (v pois : Bool) : Res := retire s fun t => t.wp p v pois

/-- R346 `setp`. -/
def execSetp (p cond : BitVec 3) (a b : BitVec 5) (s : State) : Res :=
  setPred s p (condHolds cond (s.me.rx a).v (s.me.rx b).v) ((s.me.rx a).poison || (s.me.rx b).poison)
/-- R346 `setpi`. -/
def execSetpi (p cond : BitVec 3) (a : BitVec 5) (imm : BitVec 15) (s : State) : Res :=
  setPred s p (condHolds cond (s.me.rx a).v (imm.signExtend 64)) (s.me.rx a).poison

/-- R346: the four predicate operations. -/
def plogOp (op : BitVec 2) (x y : Bool) : Bool :=
  match op.toNat with
  | 0 => x && y
  | 1 => x || y
  | 2 => x != y
  | _ => x && !y

/-- R346 `plog`. -/
def execPlog (p : BitVec 3) (op : BitVec 2) (pa pb : BitVec 3) (s : State) : Res :=
  setPred s p (plogOp op (s.me.rp pa).v (s.me.rp pb).v) ((s.me.rp pa).poison || (s.me.rp pb).poison)

end Sys2Proof.Machine
end

