-- ==== Sys2Proof/Machine/Net.lean ====
section
/-! DEFINITION. The packet network (R27, R28): requests on their way to banks, deflection by age, the escape lane, and the reorder buffers of the receiving ports; and when a bank takes a request (R195–R197). -/

namespace Sys2Proof.Machine

/-! ### Places (log 52: the specification gives neither the routers nor the numbers of sources) -/

/-- R16, R17: the row and column of a bay in the module's 64 × 64 mesh of routers. -/
def routerOf (hall bay : Nat) : Nat × Nat :=
  (32 * (hall / 32) + 8 * (hall % 16 / 4) + bay / 8, 32 * (hall / 16 % 2) + 8 * (hall % 4) + bay % 8)

/-- The router at which an element enters the network: a bay's own, that of the bay a stair connects to (R19), the bay nearest a gallery, and bay 0
for the landing core and the other control blocks of a hall. -/
def entryRouter (hall elem : Nat) : Nat × Nat :=
  routerOf hall (if elem < 64 then elem else if elem < 72 then elem - 64 else if elem < 80 then elem - 16 else if elem = 80 then 7 else 0)

/-- R17: the bay of a quad's M-bay. -/
def quadBay (q : Nat) : Nat := 8 * (2 * (q / 4) + 1) + 2 * (q % 4)

/-- R27: the number of a source. -/
def srcNum (src : Nat × Nat) : Nat := 128 * src.1 + src.2
/-- R28: a pair of a source and a receiving port. -/
def netKey (src : Nat × Nat) (dst : Nat) : Nat := 1024 * srcNum src + dst
/-- The router of a receiving port. -/
def portRouter (dst : Nat) : Nat × Nat := routerOf (dst / 16) (quadBay (dst % 16))
/-- The element code under which the landing core and the engines of a hall send. -/
def coreElem : Nat := 81

/-! ### Sending (R28) -/

/-- The links of a router of the mesh. -/
def routerDegree (at_ : Nat × Nat) : Nat :=
  (if at_.1 = 0 then 0 else 1) + (if at_.1 = 63 then 0 else 1) + (if at_.2 = 0 then 0 else 1) + (if at_.2 = 63 then 0 else 1)

/-- Packets in deflection routing at a router. -/
def Net.loose (n : Net) (at_ : Nat × Nat) : List NetPkt := n.fly.filter fun p => !p.esc && (p.row, p.col) == at_
/-- R27: the escape queue of a router, oldest first. -/
def Net.escaped (n : Net) (at_ : Nat × Nat) : List NetPkt := n.fly.filter fun p => p.esc && (p.row, p.col) == at_

/-- R28: packets of a pair that have not been released. -/
def Net.unreleased (n : Net) (src : Nat × Nat) (dst : Nat) : Nat :=
  (n.fly.filter fun p => p.src == src && p.dst == dst).length + ((Tab.get n.bufs dst []).filter fun p => p.src == src).length

/-- R27, R28: a source may issue a packet to a port: it holds fewer than 2,048 unreleased ones towards it, and its router has a link free. -/
def Net.room (n : Net) (src : Nat × Nat) (dst : Nat) : Bool :=
  n.unreleased src dst < 2048 && (n.loose (entryRouter src.1 src.2)).length < routerDegree (entryRouter src.1 src.2)

/-- R28: a request leaves a source for a bank's port, under the next number of the pair. -/
def Net.send (n : Net) (src : Nat × Nat) (dst : Nat) (r : BankReq) : Net :=
  let k := netKey src dst
  let seq := Tab.get n.tx k 0
  let at_ := entryRouter src.1 src.2
  { n with fly := n.fly ++ [{ src := src, dst := dst, seq := seq, row := at_.1, col := at_.2, req := r }], tx := Tab.put n.tx k ((seq + 1) % 4096) }

/-- R28: room for a request to a bank from a source. -/
def State.netRoom (s : State) (src : Nat × Nat) (hall quad : Nat) : Bool := s.net.room src (16 * hall + quad)
/-- R28: a request to a bank leaves a source. -/
def State.netSend (s : State) (src : Nat × Nat) (hall quad : Nat) (r : BankReq) : State :=
  { s with net := s.net.send src (16 * hall + quad) r }

/-! ### A cycle (R27) -/

/-- R27: one packet goes before another: the older, then the lower source, then the lower sequence number. -/
def NetPkt.before (a b : NetPkt) : Bool :=
  b.age < a.age || (a.age == b.age && (srcNum a.src < srcNum b.src || (a.src == b.src && a.seq < b.seq)))

/-- Puts a packet at its place among contenders. -/
def NetPkt.insert (p : NetPkt) : List NetPkt → List NetPkt
  | [] => [p]
  | q :: t => if p.before q then p :: q :: t else q :: p.insert t
/-- R27: contenders in the order in which they win. -/
def netOrder (l : List NetPkt) : List NetPkt := l.foldl (fun acc p => p.insert acc) []

/-- The routers next to one, by output: north, east, south, west. -/
def netNeighbour (at_ : Nat × Nat) : Nat → Option (Nat × Nat)
  | 0 => if at_.1 = 0 then none else some (at_.1 - 1, at_.2)
  | 1 => if at_.2 = 63 then none else some (at_.1, at_.2 + 1)
  | 2 => if at_.1 = 63 then none else some (at_.1 + 1, at_.2)
  | _ => if at_.2 = 0 then none else some (at_.1, at_.2 - 1)

/-- R27: dimension order, first along the row of routers and then along the column: the output towards a router; none at the router itself. -/
def dimOrder (at_ dst : Nat × Nat) : Option Nat :=
  if at_.2 < dst.2 then some 1 else if dst.2 < at_.2 then some 3 else if at_.1 < dst.1 then some 2 else if dst.1 < at_.1 then some 0 else none

/-- The outputs a packet would take at a router, best first: those that bring it nearer, the row first, then the others (log 52). -/
def wanted (at_ dst : Nat × Nat) : List Nat :=
  let near := (if at_.2 < dst.2 then [1] else if dst.2 < at_.2 then [3] else []) ++ (if at_.1 < dst.1 then [2] else if dst.1 < at_.1 then [0] else [])
  near ++ [0, 1, 2, 3].filter fun d => !near.contains d

/-- R27: the packets of a router in deflection routing take its outputs, the first of the order first; a loser leaves on a free one. -/
def deflect (at_ : Nat × Nat) : List Nat → List NetPkt → List NetPkt
  | _, [] => []
  | used, p :: t =>
    match (wanted at_ (portRouter p.dst)).find? fun d => !used.contains d && (netNeighbour at_ d).isSome with
    | none => p :: deflect at_ used t
    | some d =>
      let dst := (netNeighbour at_ d).getD at_
      { p with row := dst.1, col := dst.2, age := min 255 (p.age + 1) } :: deflect at_ (d :: used) t

/-- R27: saturated packets of a router enter its escape queue of four while it has a free place. -/
def escape (free : Nat) : List NetPkt → List NetPkt
  | [] => []
  | p :: t => if p.age = 255 && free != 0 then { p with esc := true } :: escape (free - 1) t else p :: escape free t

/-- R27: the head of a router's escape queue moves one hop, behind those of the next router's queue, where that has a free place. -/
def Net.escHop (n : Net) (p : NetPkt) : Net :=
  match (dimOrder (p.row, p.col) (portRouter p.dst)).bind (netNeighbour (p.row, p.col)) with
  | none => n
  | some dst => if (n.escaped dst).length < 4 then { n with fly := n.fly.erase p ++ [{ p with row := dst.1, col := dst.2 }] } else n

/-- The routers that hold packets, each once. -/
def Net.routers (n : Net) : List (Nat × Nat) :=
  n.fly.foldl (fun acc p => if acc.contains (p.row, p.col) then acc else acc ++ [(p.row, p.col)]) []

/-- The first packet of a list that has reached its port's router. -/
def arrived (at_ : Nat × Nat) (l : List NetPkt) : Option NetPkt := l.find? fun p => portRouter p.dst == at_

/-- R27: one router's cycle: what its ports receive, and its packets afterwards. A port receives one packet from the links and one from the escape lane. -/
def Net.routerCycle (n : Net) (at_ : Nat × Nat) : List NetPkt × List NetPkt :=
  let loose := netOrder (n.loose at_)
  let esc := n.escaped at_
  let outs := (arrived at_ loose).toList ++ (arrived at_ esc).toList
  let loose := escape (4 - esc.length) (loose.filter fun p => !outs.contains p)
  let esc := esc.filter fun p => !outs.contains p
  (outs, deflect at_ [] (loose.filter fun p => !p.esc) ++ esc ++ loose.filter fun p => p.esc)

/-- R27: a cycle of the packet network: packets leave at their ports and in deflection routing, then the head of each escape queue moves. -/
def Net.cycle (n : Net) : Net :=
  let rs := n.routers.map n.routerCycle
  let heads := (n.routers.map fun a => ((n.escaped a).filter fun p => arrived a [p] == none).head?.toList).flatten
  heads.foldl Net.escHop { n with
    fly := (rs.map (·.2)).flatten
    bufs := ((rs.map (·.1)).flatten).foldl (fun b p => Tab.upd b p.dst [] (· ++ [p])) n.bufs }

/-! ### Banks (R195–R197) -/

/-- R197: appends a request to a queue of a bank. -/
def State.bankEnqueue (s : State) (hall quad queue : Nat) (r : BankReq) : State :=
  let b := s.bank hall quad
  s.setBank hall quad { b with q := Tab.upd b.q queue [] (· ++ [r]) }

/-- R196, R197: a queue of a bank has room for a request of a context that the bank serves. -/
def Bank.fits (b : Bank) (queue ctx : Nat) : Bool := (Tab.get b.q queue []).length < 8 && !b.stopped.contains ctx

/-- R195–R197: a bank's queue, where it is not closed, takes a request of a context. -/
def Bank.takes (b : Bank) (queue ctx : Nat) : Bool := b.fits queue ctx && b.mbPend.isEmpty

/-- R28: the reorder buffer of a bank's port releases the next request of a source into queue 3. What has entered the buffer is released while the
queues are closed to new requests, too (R195). -/
def State.netDeliver (s : State) (hall quad : Nat) : State :=
  let dst := 16 * hall + quad
  let l := Tab.get s.net.bufs dst []
  match l.find? fun p => p.seq == Tab.get s.net.rx (netKey p.src dst) 0 && (s.bank hall quad).fits 3 p.req.ctx with
  | none => s
  | some p =>
    let n := { s.net with bufs := Tab.put s.net.bufs dst (l.erase p), rx := Tab.put s.net.rx (netKey p.src dst) ((p.seq + 1) % 4096) }
    ({ s with net := n }).bankEnqueue hall quad 3 p.req

/-- Requests of the packet network that have not reached a bank's queue. -/
def Net.reqs (n : Net) : List BankReq := n.fly.map NetPkt.req ++ ((n.bufs.map (·.2)).flatten).map NetPkt.req

/-- R193: the hall, quad and bank offset where a scratchpad PA is held. -/
def State.spadPlace (s : State) (pa : Nat) : Nat × Nat × Nat :=
  let p := s.placeOf pa - 0x10000000000
  (p / 0x100000, p / 0x10000 % 16, p % 0x10000)

/-- R195–R197: an access of a context that reaches a bank through queue 3 and is served as it enters: the bank takes it, nothing waits ahead of it
in that queue, and no earlier request of its source is on its way. Memory other than scratchpad has no such queue. -/
def State.bankOpen (s : State) (src : Nat × Nat) (ctx pa : Nat) : Bool :=
  if spaceOf pa = .spad then
    let (h, q, _) := s.spadPlace pa
    (s.bank h q).takes 3 ctx && (Tab.get (s.bank h q).q 3 []).isEmpty && s.net.unreleased src (16 * h + q) == 0
  else true

end Sys2Proof.Machine
end

