-- ==== Sys2Proof/Machine/ArcOps.lean ====
section
/-! DEFINITION. Sending command packets to peers (R127, R128, R132, R133, R135, R143). -/

namespace Sys2Proof.Machine

/-- R127: a peer's ISA level; 0 marks an id that holds no package. -/
def State.peerLevel (s : State) (p : Nat) : Nat := (Tab.get s.arc.lvl (p / 32) 0).toNat / 2 ^ (2 * (p % 32)) % 4

/-- R142: a peer's bit is set in the bitmap of a hall. -/
def State.isDead (s : State) (hall p : Nat) : Bool := s.arc.dead.contains (256 * hall + p)

/-- R128, R143: why an access of a hall to a peer faults at issue; `l3` for a level-3-only operation. -/
def State.peerFault (s : State) (hall p : Nat) (l3 : Bool) : Cause :=
  if !s.arc.en || s.peerLevel p = 0 then .range
  else if s.isDead hall p then .deadpeer
  else if l3 && s.peerLevel p < 3 then .peerlevel
  else .none

/-- R135: the key of a quadruple. -/
def quadKey (hall sport peer cls : Nat) : Nat := ((hall * 128 + sport) * 256 + peer) * 256 + cls

/-- R139: the access key that a context's remote requests carry. -/
def State.akeyOf (s : State) (hall ctx : Nat) : W32 :=
  match s.regionAt hall ctx with
  | none => 0
  | some r => (s.region r).eff.akey

/-- A packet body: puts n bytes of a value at a byte offset (R133). -/
def bodyPut (b : BitVec 480) (off n v : Nat) : BitVec 480 := b ||| BitVec.ofNat 480 (v % 2 ^ (8 * n) * 2 ^ (8 * off))
/-- n bytes of a packet body. -/
def bodyGet (b : BitVec 480) (off n : Nat) : Nat := b.toNat / 2 ^ (8 * off) % 2 ^ (8 * n)

/-- R168: the packets that a port still owes: the write to a peer that its stair is merging. -/
def State.heldPackets (s : State) (hall sport peer cls : Nat) : Nat :=
  if sport < 16 && ((Tab.get s.stairs (16 * hall + sport) {}).mrg.any fun p => p.rem == some peer && p.cls == cls) then 1 else 0

/-- R135: command packets of a quadruple that are unanswered, or are sure to be sent. -/
def State.quadHeld (s : State) (hall sport peer cls : Nat) : Nat :=
  (s.arc.outst.filter fun o => o.hall == hall && o.sport == sport && o.peer == peer && o.cls == cls).length + s.heldPackets hall sport peer cls

/-- R135: a quadruple has room for `n` more unanswered command packets. -/
def State.quadRoom (s : State) (hall sport peer cls : Nat) (n : Nat := 1) : Bool := s.quadHeld hall sport peer cls + n ≤ 1024

/-- A packet leaves for its peer; one for this package itself comes straight back. One for a group goes to the switch. -/
def State.post (s : State) (p : Packet) (grp : Bool := false) : State :=
  let q := { p with src := s.arc.pid }
  if q.dst = s.arc.pid && !grp then { s with arc := { s.arc with inbox := s.arc.inbox ++ [q] } }
  else { s with arc := { s.arc with outbox := s.arc.outbox ++ [q] } }

/-- R132, R135: numbers and sends a command packet, and remembers what its answer ends. -/
def State.sendCmd (s : State) (hall sport cls : Nat) (p : Packet) (who : Waiter) : State :=
  let k := quadKey hall sport p.dst cls
  let n := Tab.get s.arc.txSeq k 0
  let tag := s.arc.nextTag
  let o : Outst := { tag := tag, peer := p.dst, hall := hall, sport := sport, cls := cls, who := who }
  let s := { s with arc := { s.arc with
      txSeq := Tab.put s.arc.txSeq k ((n + 1) % 65536), nextTag := (tag + 1) % 65536, outst := s.arc.outst ++ [o] } }
  s.post { p with cls := cls, seq := n, shall := hall, sport := sport, tag := tag }

/-- R133 `rreq`: asks for the lines that n bytes at an export address touch. -/
def rreqPacket (peer addr n : Nat) (akey : W32) : Packet :=
  { ptype := 0x01, dst := peer, nl := (addr + n - 1) / 64 - addr / 64, addr := addr, body := bodyPut 0 0 4 akey.toNat }

/-- The bytes of a range by the lines they lie in. -/
def byLine : Nat → Nat → List Byte → List (List Byte)
  | 0, _, _ => []
  | f + 1, addr, bs => if bs.isEmpty then [] else bs.take (64 - addr % 64) :: byLine f ((addr / 64 + 1) * 64) (bs.drop (64 - addr % 64))

/-- R133 `wreq`: stores bytes at an export address; `pmk` gives the poison marks of their lines, and `cv` a check value carried with a whole line. The specification gives no field for the length of a
store that is not of whole lines: body byte 4 holds it, 0 for whole lines, and a line's bytes lead its data slot (DESIGN CHOICE, log 8). -/
def wreqPacket (peer addr : Nat) (akey : W32) (bs : List Byte) (pmk : BitVec 4) (cv : Option W32 := none) : Packet :=
  let ls := byLine (bs.length / 64 + 2) addr bs
  let n := if addr % 64 = 0 ∧ bs.length % 64 = 0 then 0 else bs.length
  { ptype := 0x02, dst := peer, addr := addr, nl := ls.length - 1,
    body := bodyPut (bodyPut 0 0 4 akey.toNat) 4 1 n,
    lines := ls.mapIdx fun i l =>
      let line := (l ++ zeros 64).take 64
      (i, pmk, cv.getD (crc32c line), line) }

/-- R296 `areq`: one atomic on an element. -/
def areqPacket (peer addr : Nat) (akey : W32) (op esz : Nat) (anchor : BitVec 12) (operand : Nat) (tag : Nat) : Packet :=
  { ptype := 0x03, dst := peer, addr := addr,
    body := bodyPut (bodyPut (bodyPut (bodyPut (bodyPut 0 0 4 akey.toNat) 4 1 (op + 16 * esz)) 6 2 anchor.toNat) 8 8 operand)
      16 2 tag }

end Sys2Proof.Machine
end

