-- ==== Sys2Proof/Machine/Num.lean ====
section
/-! DEFINITION. Numbers and exact arithmetic (R35–R57): formats, decoding, `Round`, conversions, MX blocks, the correctly rounded functions, the long-accumulator cell. Values are held exactly, as a sign, a natural and a power of two. -/

namespace Sys2Proof.Machine

/-- R36, R39: a format with an exponent field. -/
structure Fmt where
  eb : Nat
  mb : Nat
  bias : Nat
  /-- 0: the top exponent holds infinity and NaN; 1: all ones is NaN and the rest numbers; 2: all numbers -/
  top : Nat
  deriving DecidableEq, Repr

def fp64 : Fmt := ⟨11, 52, 1023, 0⟩
def fp32 : Fmt := ⟨8, 23, 127, 0⟩
def bf16 : Fmt := ⟨8, 7, 127, 0⟩
def fp16 : Fmt := ⟨5, 10, 15, 0⟩
def e4m3 : Fmt := ⟨4, 3, 7, 1⟩
def e5m2 : Fmt := ⟨5, 2, 15, 0⟩
def e3m2 : Fmt := ⟨3, 2, 3, 2⟩
def e2m3 : Fmt := ⟨2, 3, 1, 2⟩
def e2m1 : Fmt := ⟨2, 1, 1, 2⟩
def e2m2 : Fmt := ⟨2, 2, 1, 2⟩
def e1m2 : Fmt := ⟨1, 2, 1, 2⟩

/-- R46: the six flags. -/
def flInexact : BitVec 6 := 1
def flUnder : BitVec 6 := 2
def flOver : BitVec 6 := 4
def flDivz : BitVec 6 := 8
def flInv : BitVec 6 := 16
def flSubst : BitVec 6 := 32

/-- A decoded value: (−1)^neg × m × 2^e, an infinity, or NaN. -/
inductive FV where
  | nan
  | inf (neg : Bool)
  | fin (neg : Bool) (m : Nat) (e : Int)
  deriving DecidableEq, Repr

/-- R36, R39: the value of a pattern. -/
def decodeF (f : Fmt) (x : Nat) : FV :=
  let fr := x % 2 ^ f.mb
  let ex := x / 2 ^ f.mb % 2 ^ f.eb
  let neg := x / 2 ^ (f.mb + f.eb) % 2 == 1
  let topE := 2 ^ f.eb - 1
  if f.top = 0 ∧ ex = topE then (if fr = 0 then .inf neg else .nan)
  else if f.top = 1 ∧ ex = topE ∧ fr = 2 ^ f.mb - 1 then .nan
  else if ex = 0 then .fin neg fr (1 - (f.bias : Int) - f.mb)
  else .fin neg (2 ^ f.mb + fr) ((ex : Int) - f.bias - f.mb)

/-- R36, R39: the canonical NaN, +0 where the format has none. -/
def nanOf (f : Fmt) : Nat :=
  if f.top = 2 then 0
  else if f.top = 1 then 2 ^ (f.eb + f.mb) - 1
  else if f.mb = 2 ∧ f.eb = 5 then 0x7E
  else (2 ^ f.eb - 1) * 2 ^ f.mb + 2 ^ (f.mb - 1)

/-- The pattern of the largest finite value, without sign. -/
def maxPat (f : Fmt) : Nat :=
  if f.top = 0 then (2 ^ f.eb - 1) * 2 ^ f.mb - 1
  else if f.top = 1 then 2 ^ (f.eb + f.mb) - 2
  else 2 ^ (f.eb + f.mb) - 1

def infPat (f : Fmt) : Nat := (2 ^ f.eb - 1) * 2 ^ f.mb

def signPat (f : Fmt) (neg : Bool) : Nat := if neg then 2 ^ (f.eb + f.mb) else 0

/-- Rounds the quotient a / b up by one according to the mode (R44): 0 nearest even, 1 zero, 2 down, 3 up, 4 nearest away. -/
def roundInt (mode : Nat) (neg : Bool) (a b : Nat) : Nat :=
  let q := a / b
  let r := a % b
  if r = 0 then q
  else match mode with
    | 1 => q
    | 2 => if neg then q + 1 else q
    | 3 => if neg then q else q + 1
    | 4 => if 2 * r ≥ b then q + 1 else q
    | _ => if 2 * r > b ∨ (2 * r = b ∧ q % 2 = 1) then q + 1 else q

/-- Floor(log2(n / d)) for positive n and d. -/
def log2Q (n d : Nat) : Int :=
  let k : Int := (Nat.log2 n : Int) - Nat.log2 d
  let ge (j : Int) : Bool := if j ≥ 0 then n ≥ d * 2 ^ j.toNat else n * 2 ^ (-j).toNat ≥ d
  if ge k then k else k - 1

/-- n / d divided by 2^q, as a fraction. -/
def scaleQ (n d : Nat) (q : Int) : Nat × Nat :=
  if q ≥ 0 then (n, d * 2 ^ q.toNat) else (n * 2 ^ (-q).toNat, d)

/-- R45: `Round` of (−1)^neg × n / d, with the flags of R38, R45 and R46. A zero keeps the sign given. -/
def roundQ (f : Fmt) (mode : Nat) (neg : Bool) (n d : Nat) : Nat × BitVec 6 :=
  if n = 0 then (signPat f neg, 0)
  else
    let emin : Int := 1 - f.bias
    let e := log2Q n d
    let qu := e - f.mb
    let q := max qu (emin - f.mb)
    let s := scaleQ n d q
    let k := roundInt mode neg s.1 s.2
    let exact := s.1 % s.2 == 0
    let su := scaleQ n d qu
    let ku := roundInt mode neg su.1 su.2
    let tiny : Bool := qu < emin - f.mb ∧
      (scaleQ ku 1 (emin - qu)).1 < (scaleQ ku 1 (emin - qu)).2
    let pat : Nat := ((q - (emin - f.mb)).toNat) * 2 ^ f.mb + k
    let mx := maxPat f
    if pat > mx then
      let toMax : Bool := f.top ≠ 0 ∨ mode = 1 ∨ (mode = 2 ∧ !neg) ∨ (mode = 3 ∧ neg)
      (signPat f neg + (if toMax then mx else infPat f), flOver ||| flInexact)
    else
      (signPat f neg + pat,
        (if exact then 0 else flInexact) ||| (if tiny ∧ !exact then flUnder else 0))

/-- R45: `Round` of (−1)^neg × m × 2^e. -/
def roundDy (f : Fmt) (mode : Nat) (neg : Bool) (m : Nat) (e : Int) : Nat × BitVec 6 :=
  if e ≥ 0 then roundQ f mode neg (m * 2 ^ e.toNat) 1 else roundQ f mode neg m (2 ^ (-e).toNat)

/-- R39: mxint8, two's complement in units of 2^−6, saturating at ±127/64; tiny only when a nonzero value rounds to 0 (R38). -/
def roundMxint8 (mode : Nat) (neg : Bool) (n d : Nat) : Nat × BitVec 6 :=
  let k := roundInt mode neg (n * 64) d
  let exact := n * 64 % d == 0
  if k > 127 then (if neg then 0x81 else 0x7F, flOver ||| flInexact)
  else ((if neg then (256 - k) % 256 else k),
    (if exact then 0 else flInexact) ||| (if k = 0 ∧ n ≠ 0 then flUnder else 0))

def decodeMxint8 (x : Nat) : FV :=
  let b := x % 256
  if b ≥ 128 then .fin true (256 - b) (-6) else .fin false b (-6)

/-! ### Scalar operations -/

/-- The sum of two finite values as sign and scaled integer. -/
def addDy (n1 : Bool) (m1 : Nat) (e1 : Int) (n2 : Bool) (m2 : Nat) (e2 : Int) : Int × Int :=
  let e := min e1 e2
  let a : Int := (m1 * 2 ^ (e1 - e).toNat : Nat)
  let b : Int := (m2 * 2 ^ (e2 - e).toNat : Nat)
  ((if n1 then -a else a) + (if n2 then -b else b), e)

def negF : FV → FV
  | .nan => .nan
  | .inf n => .inf (!n)
  | .fin n m e => .fin (!n) m e

/-- R221, R45: addition. -/
def addF (f : Fmt) (mode : Nat) : FV → FV → Nat × BitVec 6
  | .nan, _ => (nanOf f, 0)
  | _, .nan => (nanOf f, 0)
  | .inf a, .inf b => if a = b then (signPat f a + infPat f, 0) else (nanOf f, flInv)
  | .inf a, .fin _ _ _ => (signPat f a + infPat f, 0)
  | .fin _ _ _, .inf b => (signPat f b + infPat f, 0)
  | .fin n1 m1 e1, .fin n2 m2 e2 =>
    let s := addDy n1 m1 e1 n2 m2 e2
    if s.1 = 0 then
      (signPat f ((n1 && n2) || ((n1 != n2) && mode == 2)), 0)
    else roundDy f mode (decide (s.1 < 0)) s.1.natAbs s.2

def mulF (f : Fmt) (mode : Nat) : FV → FV → Nat × BitVec 6
  | .nan, _ => (nanOf f, 0)
  | _, .nan => (nanOf f, 0)
  | .inf a, .inf b => (signPat f (a != b) + infPat f, 0)
  | .inf a, .fin b m _ => if m = 0 then (nanOf f, flInv) else (signPat f (a != b) + infPat f, 0)
  | .fin b m _, .inf a => if m = 0 then (nanOf f, flInv) else (signPat f (a != b) + infPat f, 0)
  | .fin n1 m1 e1, .fin n2 m2 e2 => roundDy f mode (n1 != n2) (m1 * m2) (e1 + e2)

def divF (f : Fmt) (mode : Nat) : FV → FV → Nat × BitVec 6
  | .nan, _ => (nanOf f, 0)
  | _, .nan => (nanOf f, 0)
  | .inf _, .inf _ => (nanOf f, flInv)
  | .inf a, .fin b _ _ => (signPat f (a != b) + infPat f, 0)
  | .fin a _ _, .inf b => (signPat f (a != b), 0)
  | .fin a m1 e1, .fin b m2 e2 =>
    if m2 = 0 then
      if m1 = 0 then (nanOf f, flInv) else (signPat f (a != b) + infPat f, flDivz)
    else
      let e := e1 - e2
      if e ≥ 0 then roundQ f mode (a != b) (m1 * 2 ^ e.toNat) m2
      else roundQ f mode (a != b) m1 (m2 * 2 ^ (-e).toNat)

/-- Floor of the square root, bit by bit from bit k down. -/
def isqrtGo : Nat → Nat → Nat → Nat
  | 0, _, r => r
  | k + 1, n, r =>
    let c := r + 2 ^ k
    isqrtGo k n (if c * c ≤ n then c else r)

def isqrt (n : Nat) : Nat := isqrtGo (Nat.log2 n / 2 + 1) n 0

/-- An irrational value known to lie strictly between t and t + 1 units of 2^u rounds as t + 1/2 units does. -/
def roundSticky (f : Fmt) (mode : Nat) (neg : Bool) (t : Nat) (exact : Bool) (u : Int) : Nat × BitVec 6 :=
  if exact then roundDy f mode neg t u else roundDy f mode neg (2 * t + 1) (u - 1)

/-- R221, R45: the square root. -/
def sqrtF (f : Fmt) (mode : Nat) : FV → Nat × BitVec 6
  | .nan => (nanOf f, 0)
  | .inf n => if n then (nanOf f, flInv) else (infPat f, 0)
  | .fin n m e =>
    if m = 0 then (signPat f n, 0)
    else if n then (nanOf f, flInv)
    else
      -- m × 2^e = (m × 2^(e − 2u)) × 2^(2u)
      let sh : Nat := if e % 2 = 0 then 160 else 161
      let a := m * 2 ^ sh
      let t := isqrt a
      roundSticky f mode false t (t * t == a) ((e - sh) / 2)

/-- R57: the reciprocal. -/
def rcpF (f : Fmt) (mode : Nat) : FV → Nat × BitVec 6
  | .nan => (nanOf f, 0)
  | .inf n => (signPat f n, 0)
  | .fin n m e =>
    if m = 0 then (signPat f n + infPat f, flDivz)
    else if e ≥ 0 then roundQ f mode n 1 (m * 2 ^ e.toNat) else roundQ f mode n (2 ^ (-e).toNat) m

/-- R57: the reciprocal square root. -/
def rsqrtF (f : Fmt) (mode : Nat) : FV → Nat × BitVec 6
  | .nan => (nanOf f, 0)
  | .inf n => if n then (nanOf f, flInv) else (0, 0)
  | .fin n m e =>
    if m = 0 then (signPat f n + infPat f, flDivz)
    else if n then (nanOf f, flInv)
    else
      -- 1 / sqrt(m × 2^e) = sqrt(2^s / m) × 2^(−(e + s) / 2)
      let s : Nat := if e % 2 = 0 then 300 else 301
      let r := 2 ^ s / m
      let t := isqrt r
      roundSticky f mode false t (t * t * m == 2 ^ s) (-((e + s) / 2))

/-- The product, in units of 2^−256, of the roots 2^(2^−j) for the set bits of a fraction, most significant first. -/
def exp2Go : List Bool → Nat → Nat → Nat
  | [], _, acc => acc
  | b :: t, c, acc =>
    let c' := isqrt (c * 2 ^ 256)
    exp2Go t c' (if b then acc * c' / 2 ^ 256 else acc)

/-- Bits k − 1 down to 0 of a number. -/
def bitsDown : Nat → Nat → List Bool
  | 0, _ => []
  | k + 1, n => (n / 2 ^ k % 2 == 1) :: bitsDown k n

/-- R57: 2^x. For a fraction that is no integer the value is irrational (log 5). -/
def exp2F (f : Fmt) (mode : Nat) : FV → Nat × BitVec 6
  | .nan => (nanOf f, 0)
  | .inf n => if n then (0, 0) else (infPat f, 0)
  | .fin n m e =>
    if m = 0 then roundDy f mode false 1 0
    else if e ≥ 0 then
      let v : Int := if n then -((m * 2 ^ min e.toNat 40 : Nat) : Int) else (m * 2 ^ min e.toNat 40 : Nat)
      roundDy f mode false 1 (max (-5000) (min 5000 v))
    else
      let k := (-e).toNat
      let x : Int := if n then -(m : Int) else m
      let i := x / (2 ^ k : Nat)
      let fr := (x % (2 ^ k : Nat)).toNat
      if fr = 0 then roundDy f mode false 1 (max (-5000) (min 5000 i))
      else if i > 1100 then roundDy f mode false 1 5000
      else if i < -1200 then roundSticky f mode false 1 false (-5000)
      else
        let acc := exp2Go (bitsDown k fr) (2 ^ 257) (2 ^ 256)
        roundSticky f mode false (acc / 2 ^ 160) false (i - 96)

/-- Bits of the binary logarithm of y / 2^400 in 1 to 2, most significant first, as a number. -/
def log2Go : Nat → Nat → Nat → Nat
  | 0, _, acc => acc
  | k + 1, y, acc =>
    let y2 := y * y / 2 ^ 400
    if y2 ≥ 2 ^ 401 then log2Go k (y2 / 2) (2 * acc + 1) else log2Go k y2 (2 * acc)

/-- R57: log2 x. For an x that is no power of two the value is irrational (log 5). -/
def log2F (f : Fmt) (mode : Nat) : FV → Nat × BitVec 6
  | .nan => (nanOf f, 0)
  | .inf n => if n then (nanOf f, flInv) else (infPat f, 0)
  | .fin n m e =>
    if m = 0 then (signPat f true + infPat f, flDivz)
    else if n then (nanOf f, flInv)
    else
      let l := Nat.log2 m
      let i : Int := e + l
      if m = 2 ^ l then
        (if i = 0 then (0, 0) else roundDy f mode (decide (i < 0)) i.natAbs 0)
      else
        let fr := log2Go 128 (m * 2 ^ 400 / 2 ^ l) 0
        -- the value lies strictly between v and v + 1 units of 2^−128
        let v : Int := i * 2 ^ 128 + fr
        if v ≥ 0 then roundSticky f mode false v.toNat false (-128)
        else roundSticky f mode true (-(v + 1)).toNat false (-128)

/-- Compares two values that are not NaN: −1, 0 or 1 as an ordering. -/
def cmpF : FV → FV → Ordering
  | .nan, _ => .eq
  | _, .nan => .eq
  | .inf a, .inf b => if a = b then .eq else if a then .lt else .gt
  | .inf a, .fin _ _ _ => if a then .lt else .gt
  | .fin _ _ _, .inf b => if b then .gt else .lt
  | .fin n1 m1 e1, .fin n2 m2 e2 =>
    let s := (addDy n1 m1 e1 (!n2) m2 e2).1
    if s < 0 then .lt else if s = 0 then .eq else .gt

def isNan : FV → Bool
  | .nan => true
  | _ => false

def signF : FV → Bool
  | .nan => false
  | .inf n => n
  | .fin n _ _ => n

/-- R221: `min` and `max`, −0 below +0, NaN if either operand is. Patterns in, pattern out. -/
def minmaxF (f : Fmt) (isMax : Bool) (a b : Nat) : Nat :=
  let x := decodeF f a
  let y := decodeF f b
  if isNan x ∨ isNan y then nanOf f
  else
    let xLess : Bool := match cmpF x y with
      | .lt => true
      | .gt => false
      | .eq => signF x && !signF y
    if isMax then (if xLess then b else a)
    else (if xLess then a else match cmpF x y with
      | .eq => if signF y && !signF x then b else a
      | _ => b)

/-- R71, R221: a floating compare under conditions 000–011. -/
def condF (f : Fmt) (q : Nat) (a b : Nat) : Bool :=
  let x := decodeF f a
  let y := decodeF f b
  if isNan x ∨ isNan y then q = 1
  else match q with
    | 0 => cmpF x y = .eq
    | 1 => cmpF x y ≠ .eq
    | 2 => cmpF x y = .lt
    | _ => cmpF x y ≠ .lt

/-! ### Conversion (R47) -/

/-- R47: float to float. The source is not NaN-preserving: the target's canonical NaN results. -/
def cvtF (dst : Fmt) (mode : Nat) : FV → Nat × BitVec 6
  | .nan => if dst.top = 2 then (0, flInv) else (nanOf dst, 0)
  | .inf n =>
    if dst.top = 0 then (signPat dst n + infPat dst, 0)
    else (signPat dst n + maxPat dst, flOver ||| flInexact)
  | .fin n m e => if m = 0 then (signPat dst n, 0) else roundDy dst mode n m e

/-- R47: float to an integer of w bits. The result is the w-bit pattern. -/
def cvtToInt (w : Nat) (signed : Bool) (mode : Nat) : FV → Nat × BitVec 6
  | .nan => (0, flInv)
  | .inf n =>
    if signed then (if n then 2 ^ (w - 1) else 2 ^ (w - 1) - 1, flInv)
    else (if n then 0 else 2 ^ w - 1, flInv)
  | .fin n m e =>
    let ab := if e ≥ 0 then (m * 2 ^ e.toNat, 1) else (m, 2 ^ (-e).toNat)
    let k := roundInt mode n ab.1 ab.2
    let inx : BitVec 6 := if ab.1 % ab.2 = 0 then 0 else flInexact
    if signed then
      if n then (if k > 2 ^ (w - 1) then (2 ^ (w - 1), flInv) else ((2 ^ w - k) % 2 ^ w, inx))
      else (if k ≥ 2 ^ (w - 1) then (2 ^ (w - 1) - 1, flInv) else (k, inx))
    else
      if n then (if k > 0 then (0, flInv) else (0, inx))
      else (if k ≥ 2 ^ w then (2 ^ w - 1, flInv) else (k, inx))

/-- R47: integer to float. -/
def cvtFromInt (dst : Fmt) (mode : Nat) (v : Int) : Nat × BitVec 6 :=
  roundDy dst mode (decide (v < 0)) v.natAbs 0

/-! ### MX elements (R39–R43, R56) -/

/-- R42: the decoded element of a format code 0x0–0x9. Codes 8 and 9 decode in their own layout, exactly as widened (R56). -/
def decodeElem (code : Nat) (x : Nat) : FV :=
  match code with
  | 0 => decodeF e4m3 (x % 256)
  | 1 => decodeF e5m2 (x % 256)
  | 2 => decodeF e3m2 (x % 64)
  | 3 => decodeF e2m3 (x % 64)
  | 4 => decodeF e2m1 (x % 16)
  | 5 => decodeMxint8 x
  | 6 => decodeF bf16 (x % 65536)
  | 7 => decodeF fp16 (x % 65536)
  | 8 => decodeF e2m2 (x % 32)
  | _ => decodeF e1m2 (x % 16)

/-- R223: storage bits of an element. -/
def storeBits (code : Nat) : Nat :=
  if code = 4 then 4 else if code = 6 ∨ code = 7 then 16 else 8

/-- R43: `emax` of an element format. -/
def emaxOf (code : Nat) : Int :=
  match code with
  | 0 => 8
  | 1 => 15
  | 2 => 4
  | 5 => 0
  | _ => 2

/-- R43: the element format a code converts into; codes 8 and 9 write e2m3 (R222). -/
def elemFmt (code : Nat) : Fmt :=
  match code with
  | 0 => e4m3
  | 1 => e5m2
  | 2 => e3m2
  | 4 => e2m1
  | _ => e2m3

/-- R43: one element of a converted block, saturating at the largest finite value whatever the format. -/
def blockElem (code mode : Nat) (neg : Bool) (m : Nat) (e : Int) : Nat × BitVec 6 :=
  let nd := if e ≥ 0 then (m * 2 ^ e.toNat, 1) else (m, 2 ^ (-e).toNat)
  if code = 5 then roundMxint8 mode neg nd.1 nd.2
  else
    let f := elemFmt code
    let r := roundQ { f with top := if f.top = 0 then 0 else f.top } mode neg nd.1 nd.2
    let mag := r.1 % 2 ^ (f.eb + f.mb)
    if mag > maxPat f then (signPat f neg + maxPat f, flOver ||| flInexact) else r

/-- Floor(log2) of the largest magnitude of a block, none when all are zero. -/
def amaxLog : List FV → Option Int
  | [] => none
  | .fin _ m e :: t =>
    if m = 0 then amaxLog t
    else
      let l : Int := e + Nat.log2 m
      match amaxLog t with
      | none => some l
      | some k => some (max l k)
  | _ :: t => amaxLog t

/-- R43: the scale and the 32 elements of one block, with the flags. -/
def convertBlock (code mode : Nat) (vs : List FV) : Nat × List Nat × BitVec 6 :=
  let bad := vs.any fun v => match v with
    | .fin _ _ _ => false
    | _ => true
  if bad then (0xFF, vs.map fun _ => 0, flInv)
  else
    let e0 : Int := match amaxLog vs with
      | none => -127
      | some l => l - emaxOf code
    let e := min 127 (max (-127) e0)
    let rs := vs.map fun v => match v with
      | .fin n m x => blockElem code mode n m (x - e)
      | _ => (0, 0)
    ((e + 127).toNat, rs.map (·.1), rs.foldl (fun a r => a ||| r.2) 0)

/-! ### The long-accumulator cell (R48–R55) -/

/-- R50: the class of a contribution. -/
inductive Contr where
  | fin (m : Int) (e : Int)
  | inf (neg : Bool)
  | nan
  deriving DecidableEq, Repr

def contrOf : FV → Contr
  | .nan => .nan
  | .inf n => .inf n
  | .fin n m e => .fin (if n then -(m : Int) else m) e

/-- R48: a cell taken apart. -/
structure Cell128 where
  poison : Bool
  invalid : Bool
  ovr : Bool
  sticky : Bool
  anchored : Bool
  acheck : Nat
  value : Int
  deriving DecidableEq, Repr

def unpackCell (c : BitVec 128) : Cell128 :=
  { poison := bitB c 127, invalid := bitB c 126, ovr := bitB c 125, sticky := bitB c 124,
    anchored := bitB c 123, acheck := bitsN c 122 116,
    value := (BitVec.ofNat 116 c.toNat).toInt }

def packCell (c : Cell128) : BitVec 128 :=
  let fl : Nat := (if c.poison then 2 ^ 127 else 0) + (if c.invalid then 2 ^ 126 else 0)
    + (if c.ovr then 2 ^ 125 else 0) + (if c.sticky then 2 ^ 124 else 0)
    + (if c.anchored then 2 ^ 123 else 0)
  BitVec.ofNat 128 (fl + c.acheck % 128 * 2 ^ 116 + (BitVec.ofInt 116 c.value).toNat)

/-- R51: the integer c of a contribution, and whether it saturates and leaves bits below the anchor. -/
def contrInt (anchor : Int) : Contr → Int × Bool × Bool
  | .nan => (0, false, false)
  | .inf true => (-(2 ^ 99), true, false)
  | .inf false => (2 ^ 99 - 1, true, false)
  | .fin m e =>
    let d := e - anchor
    let c : Int := if d ≥ 0 then m * 2 ^ d.toNat else m / 2 ^ (-d).toNat
    let exact : Bool := if d ≥ 0 then true else m % 2 ^ (-d).toNat == 0
    if c ≥ 2 ^ 99 then (2 ^ 99 - 1, true, false)
    else if c < -(2 ^ 99) ∨ (c = -(2 ^ 99) ∧ exact) then (-(2 ^ 99), true, false)
    else (c, false, !exact)

/-- R51: the `anchored` and `acheck` test. -/
def anchorCell (c : Cell128) (anchor : BitVec 12) : Cell128 :=
  let a := anchor.toNat % 128
  if !c.anchored then { c with anchored := true, acheck := a }
  else if c.acheck ≠ a then { c with invalid := true } else c

/-- R51: adds an integer to the value, setting `over` when the exact sum leaves 116 bits. -/
def addCell (c : Cell128) (k : Int) : Cell128 :=
  let t := c.value + k
  { c with value := (BitVec.ofInt 116 t).toInt,
           ovr := c.ovr || decide (t ≥ 2 ^ 115) || decide (t < -(2 ^ 115)) }

/-- R51: a contribution enters a cell under an anchor. -/
def enterCell (cell : BitVec 128) (anchor : BitVec 12) (s : Contr) (pois : Bool) : BitVec 128 :=
  let c := anchorCell (unpackCell cell) anchor
  if pois then packCell (addCell { c with poison := true } 0)
  else match s with
    | .nan => packCell (addCell { c with invalid := true } 0)
    | s =>
      let r := contrInt anchor.toInt s
      packCell (addCell { c with ovr := c.ovr || r.2.1, sticky := c.sticky || r.2.2 } r.1)

/-- R53: what a read-out converts into. -/
inductive RdFmt where
  | flt (f : Fmt)
  | int (signed : Bool)
  deriving DecidableEq, Repr

/-- R53: the read-out of a cell: none is `Poison`. -/
def readCell (cell : BitVec 128) (anchor : BitVec 12) (fmt : RdFmt) (mode : Nat) : Option (Nat × BitVec 6) :=
  let c := unpackCell cell
  let nan : Nat := match fmt with
    | .flt f => nanOf f
    | .int _ => 0
  let nanFl : BitVec 6 := match fmt with
    | .flt _ => 0
    | .int _ => flInv
  if c.poison then none
  else if c.invalid ∨ (c.anchored ∧ c.acheck ≠ anchor.toNat % 128) then some (nan, flInv)
  else if c.ovr then some (nan, flOver ||| nanFl)
  else
    let r : Nat × BitVec 6 :=
      if c.value = 0 then (0, 0)
      else match fmt with
        | .flt f => roundDy f mode (decide (c.value < 0)) c.value.natAbs anchor.toInt
        | .int sg => cvtToInt 32 sg mode (.fin (decide (c.value < 0)) c.value.natAbs anchor.toInt)
    some (r.1, r.2 ||| (if c.sticky then flInexact else 0))

/-- R40: the value of an e8m0 scale as a power of two; none for 0xFF. -/
def scaleOf (s : Nat) : Option Int := if s % 256 = 255 then none else some ((s % 256 : Nat) - 127)

/-- The exact product of two values as a contribution. -/
def prodC : FV → FV → Contr
  | .nan, _ => .nan
  | _, .nan => .nan
  | .inf a, .inf b => .inf (a != b)
  | .inf a, .fin b m _ => if m = 0 then .nan else .inf (a != b)
  | .fin b m _, .inf a => if m = 0 then .nan else .inf (a != b)
  | .fin n1 m1 e1, .fin n2 m2 e2 =>
    .fin (if n1 != n2 then -((m1 * m2 : Nat) : Int) else (m1 * m2 : Nat)) (e1 + e2)

/-- R50: the exact sum of products, with the class rules of a block. -/
def sumC : Contr → Contr → Contr
  | .nan, _ => .nan
  | _, .nan => .nan
  | .inf a, .inf b => if a = b then .inf a else .nan
  | .inf a, .fin _ _ => .inf a
  | .fin _ _, .inf b => .inf b
  | .fin m1 e1, .fin m2 e2 =>
    let e := min e1 e2
    .fin (m1 * 2 ^ (e1 - e).toNat + m2 * 2 ^ (e2 - e).toNat) e

/-- R50: a block's products scaled by both block scales. -/
def scaleC (sa sb : Option Int) : Contr → Contr
  | .nan => .nan
  | c =>
    match sa, sb with
    | some a, some b => (match c with
      | .fin m e => .fin m (e + a + b)
      | c => c)
    | _, _ => .nan

end Sys2Proof.Machine
end

