-- ==== Sys2Proof/Machine/Update.lean ====
section
/-! DEFINITION. Indivisible updates at the owning memory edge (R284, R286, R287, R343): the landing core's atomics, bay `amo`, stair atomics, `ramo`, `areq` and sparse updates. -/

namespace Sys2Proof.Machine

/-- R287: the new value of a word or double word of n bytes. -/
def updVal (op n old v : Nat) : Nat :=
  let o : BitVec (8 * n) := BitVec.ofNat (8 * n) old
  let x : BitVec (8 * n) := BitVec.ofNat (8 * n) v
  match op with
  | 0 => (o + x).toNat
  | 1 => (o &&& x).toNat
  | 2 => (o ||| x).toNat
  | 3 => (o ^^^ x).toNat
  | 4 => (if o.slt x then o else x).toNat
  | 5 => (if o.slt x then x else o).toNat
  | 6 => (if o.ult x then o else x).toNat
  | 7 => (if o.ult x then x else o).toNat
  | 8 => x.toNat
  | _ => (addF fp32 0 (decodeF fp32 o.toNat) (decodeF fp32 x.toNat)).1

/-- What an update answers: the old value, whether it met poison, a refusal, and what is to be logged. -/
structure EUpdate where
  s : State
  old : Nat := 0
  poison : Bool := false
  cause : Cause := .none
  logs : List (Cause × Nat) := []

/-- R50, R287: a word of an update as a contribution: fp32 for code 9, i32 for code 10. -/
def contrWord (op v : Nat) : Contr :=
  if op = 9 then contrOf (decodeF fp32 (v % 2 ^ 32)) else .fin (BitVec.ofNat 32 v).toInt 0

/-- R54: the bits of a reduction cell as an update meets them: a granule whose mark is set enters with the cell's own flag. -/
def cellOf (bs : List Byte) (pois : Bool) : BitVec 128 :=
  let c : BitVec 128 := BitVec.ofNat 128 (leNat bs)
  if pois then c ||| BitVec.ofNat 128 (2 ^ 127) else c

/-- R284, R286, R287: one indivisible read-modify-write at the owner, from what reading it gave and a way to write it: codes 0–8
and 11, a contribution to a reduction cell (9, 10; old value zero), and `cas` (code 12 of the model, log 8). A poisoned granule
makes a code other than 9 and 10 write nothing and answer poison (R286, R343). -/
def rmw (r : ERead) (write : State → List Byte → EWrite) (n op : Nat) (anchor : BitVec 12) (v cmp : Nat) (pois : Bool)
    (pa : Nat) : EUpdate :=
  if r.cause != .none then { s := r.s, cause := r.cause, logs := r.logs }
  else if !r.logs.isEmpty then { s := r.s, cause := .ecc, logs := r.logs }
  else if op = 9 || op = 10 then
    let w := write r.s (leBytes 16 (enterCell (cellOf r.bytes r.poison) anchor (contrWord op v) pois).toNat)
    { s := w.s, cause := w.cause, logs := w.logs }
  else if r.poison then { s := r.s, poison := true, logs := r.logs ++ [(.poisonuse, pa)] }
  else
    let old := leNat r.bytes
    if op = 12 && old != cmp then { s := r.s, old := old, logs := r.logs }
    else
      let w := write r.s (leBytes n (if op = 12 then v else updVal op n old v))
      { s := w.s, old := old, cause := w.cause, logs := r.logs ++ w.logs }

/-- R54, R284, R287: an update of n bytes, 16 for a reduction cell, at their edge under a key slot. -/
def State.edgeUpdate (s : State) (pa n key op v cmp : Nat) (anchor : BitVec 12 := 0) (pois : Bool := false) : EUpdate :=
  if (op = 9 || op = 10) && pa % 16 != 0 then { s := s, cause := .align }
  else rmw (s.edgeRead pa n key) (fun s bs => s.edgeWrite pa bs key) n op anchor v cmp pois pa

end Sys2Proof.Machine
end

