-- ==== Sys2Proof/Machine/LcOps.lean ====
section
/-! DEFINITION. Memory as a landing core sees it (R315, R337, R338): translation, loads, stores held until their edge performs them, and the order that releases and acquires wait for (R316). -/

namespace Sys2Proof.Machine

/-! ### Translation -/

/-- R101, R337: an entry of a translation buffer serves a request of a kind. -/
def TlbEnt.hits (e : TlbEnt) (root : BitVec 37) (va : Nat) (k : AccKind) : Bool :=
  e.root == root && e.va / 2 ^ e.psz == va / 2 ^ e.psz && grants e.pte k &&
    (!(k == .write || k == .atomic) || bitB e.pte 7)

/-- An entry covers an address under a root. -/
def TlbEnt.covers (e : TlbEnt) (root : BitVec 37) (va : Nat) : Bool :=
  e.root == root && e.va / 2 ^ e.psz == va / 2 ^ e.psz

/-- R337: a landing core's translation of a VA: a 32-entry buffer tagged by root, and a walk on a miss. -/
def State.lcXlate (s : State) (hall : Nat) (root : BitVec 37) (va : W64) (k : AccKind) :
    State × Except Cause Xlat × List (Cause × Nat) :=
  if bitsN va 63 56 != 0 then (s, .error .range, [])
  else
    let l := Tab.get s.lctlb hall []
    match l.find? (fun e => e.hits root va.toNat k) with
    | some e =>
      ({ s with lctlb := Tab.put s.lctlb hall (e :: l.erase e) }, .ok (leafXlat e.pte e.psz va), [])
    | none =>
      match s.walk root va k with
      | (s, .fault c, logs) => (s, .error c, logs)
      | (s, .leaf pte psz, logs) =>
        let l := l.filter fun e => !e.covers root va.toNat
        let e : TlbEnt := { root := root, va := va.toNat, psz := psz, pte := pte }
        ({ s with lctlb := Tab.put s.lctlb hall ((e :: l).take 32) }, .ok (leafXlat pte psz va), logs)

/-- Where the focused landing core logs. -/
def State.lcSite (s : State) : Site := { hall := s.focus.hall, elem := 0, eclass := 3, ctx := s.focus.ctx }

/-- The focused thread's translation; what the walk found is logged. -/
def State.xlate (s : State) (va : W64) (k : AccKind) : State × Except Cause Xlat :=
  let (s', r, logs) := s.lcXlate s.focus.hall s.me.lroot va k
  (s'.logAll s.lcSite logs, r)

/-- R340: the effective address. -/
def Thread.ea (t : Thread) (a : BitVec 5) (imm : BitVec 16) : W64 := (t.rx a).v + sx16 imm

/-! ### Accesses issued and not yet performed (R315) -/

/-- An access is the thread's own. -/
def Pend.mine (p : Pend) (hall ctx : Nat) : Bool := p.who == .thread hall ctx

/-- R315: the bytes of an own store that has not been performed, over those of a local address. -/
def overlay (a : Nat) (bs : List (Option Byte)) (p : Pend) : List (Option Byte) :=
  bs.mapIdx fun i b => if p.pa ≤ a + i && a + i < p.pa + p.data.length then (p.data[a + i - p.pa]?) else b

/-- R315: the latest earlier own stores to n bytes of a local address, where they give every byte. -/
def State.forwarded (s : State) (hall ctx pa n : Nat) : Option (List Byte) :=
  ((s.edge.filter fun p => p.mine hall ctx && p.rem.isNone).foldl (overlay pa) (List.replicate n none)).foldr
    (fun b acc => match b, acc with
      | some b, some l => some (b :: l)
      | _, _ => none) (some [])

/-- Performs one pending store at its edge; what the edge finds is logged. -/
def State.performRun (p : Pend) (s : State) (r : Nat × List Byte) : State :=
  let a := p.pa + r.1
  let w := s.edgeWrite a r.2 p.key { fill := p.filling, marks := if p.poison then granules a r.2.length else [] }
  let site : Site := match p.who with
    | .thread h c => { hall := h, eclass := 3, ctx := c }
    | .stair h n c => { hall := h, elem := n, eclass := 1, ctx := c }
    | .engine h _ => { hall := h, eclass := 4, own := false }
    | .host _ => { hall := 0, eclass := 4, own := false }
  let s := w.s.logAll site w.logs
  if w.cause = .none then s else s.logFault w.cause site a true

/-- R306: performs an access: what is stored, run by run. -/
def State.performPend (s : State) (p : Pend) : State :=
  if p.skip.isEmpty then s.performRun p (0, p.data) else (byteRuns p.skip 0 p.data).foldl (State.performRun p) s

/-- Performs the accesses of a list that satisfy a test, in order, and keeps the others. -/
def State.performAll (f : Pend → Bool) : State → List Pend → State × List Pend
  | s, [] => (s, [])
  | s, p :: t =>
    if f p then State.performAll f (s.performPend p) t
    else
      let (s', rest) := State.performAll f s t
      (s', p :: rest)

/-- R315: accesses of one line are performed in program order: the own stores of the line are performed. -/
def State.flushLine (s : State) (hall ctx line : Nat) : State :=
  let (s', rest) := s.performAll (fun p => p.mine hall ctx && p.rem.isNone && p.pa / 64 == line) s.edge
  { s' with edge := rest }

/-- R344, R305: commands whose accesses a fence or a release of their context covers. -/
def accessOpcode (op : Nat) : Bool := (1 ≤ op && op ≤ 0x0A) || op == 0x0E || op == 0x12 || op == 0x13 || op == 0x16 || op == 0x17

/-- R175, R316: the accesses that a context's landing core has issued are performed: its own stores and its remote accesses. -/
def State.coreQuiet (s : State) (hall ctx : Nat) : Bool :=
  !(s.edge.any fun p => p.mine hall ctx) &&
  !(s.arc.outst.any fun o => match o.who with
    | .write h c => h == hall && c == ctx
    | .thread h c _ _ => h == hall && c == ctx
    | .load h c _ _ _ _ => h == hall && c == ctx
    | .amo h c _ => h == hall && c == ctx
    | _ => false)

/-- R316, R318: every earlier access of a context has been performed: those of its landing core, and those of the commands it issued. -/
def State.quiet (s : State) (hall ctx : Nat) : Bool :=
  s.coreQuiet hall ctx &&
  !((Tab.get s.disps hall {}).cmds.any fun c => c.ictx == ctx && !c.done && accessOpcode (bitsN c.word 127 120))

/-- R331: stores of a context that are outstanding. -/
def State.storesOut (s : State) (hall ctx : Nat) : Nat :=
  (s.edge.filter fun p => p.mine hall ctx).length + (s.arc.outst.filter fun o => o.who == .write hall ctx).length

/-- R331: at most sixteen stores outstanding: there is room for n more. -/
def State.storeRoom (s : State) (hall ctx : Nat) (n : Nat := 1) : Bool := s.storesOut hall ctx + n ≤ 16

/-! ### Waiting for an answer (R331) -/

/-- The thread has taken the answer it waited for. -/
def Thread.answered (t : Thread) : Thread := { t with served := none, parked := false }
/-- The focused thread has taken its answer. -/
def State.answerTaken (s : State) : State := s.setMe s.me.answered
/-- The focused thread waits for an answer. -/
def State.park (s : State) : State := s.setMe { s.me with parked := true }

/-- R305: the packet-network source of the focused landing core. -/
def State.coreSrc (s : State) : Nat × Nat := (s.focus.hall, coreElem)

/-- R195–R197: the focused landing core's bank takes an access at a PA. -/
def State.lcOpen (s : State) (pa : Nat) : Bool := s.bankOpen s.coreSrc s.focus.ctx pa

/-! ### Loads -/

/-- What a load answers. -/
inductive LdAns where
  /-- the value, with its poison -/
  | val (s : State) (v : Reg64)
  /-- nothing yet: the thread waits -/
  | wait (s : State)
  /-- a precise trap -/
  | trap (s : State) (c : Cause)

/-- R337: a fault that poisons the destination: the cause is logged, and the value is poison. -/
def poisonLoad (s : State) (c : Cause) (va : W64) : LdAns :=
  .val (s.drawn.logFault c s.lcSite va.toNat) { v := s.free, poison := true }

/-- R112, R315, R340: n bytes that the own stores give, and that no poisoned granule holds. -/
def State.forwards (s : State) (x : Xlat) (n : Nat) : Option (List Byte) :=
  if (granules (s.placeOf x.pa) n).any s.mem.pois.contains then none else s.forwarded s.focus.hall s.focus.ctx x.pa n

/-- R315, R338: reads n aligned bytes of this package's memory for the focused thread: own stores are forwarded, or performed before the line is
read through the data cache. -/
def State.lcLocal (s : State) (x : Xlat) (va : W64) (n : Nat) : LdAns :=
  match s.forwards x n with
  | some bs => .val s { v := w64 (leNat bs) }
  | none =>
    if !s.lcOpen x.pa then .wait s
    else
      let r := (s.flushLine s.focus.hall s.focus.ctx (x.pa / 64)).cachedRead s.focus.hall x.pa n x.key
      let s := r.s.logAll s.lcSite r.logs
      if r.cause != .none then poisonLoad s r.cause va
      else .val s { v := w64 (leNat r.bytes), poison := r.poison }

/-- R331, R337: asks a peer for n bytes at an export address, and waits for them. -/
def State.lcRemote (s : State) (p : Nat) (x : Xlat) (va : W64) (n : Nat) : LdAns :=
  match s.me.served with
  | some v => if v.poison then .val s.answerTaken.drawn { v := s.free, poison := true } else .val s.answerTaken v
  | none =>
    if s.me.parked then .wait s
    else match s.peerFault s.focus.hall p false with
      | .none =>
        if s.quadRoom s.focus.hall 64 p 0 then
          .wait (s.sendCmd s.focus.hall 64 0 (rreqPacket p x.pa n (s.akeyOf s.focus.hall s.focus.ctx))
            (.thread s.focus.hall s.focus.ctx (x.pa % 64) n)).park
        else .wait s
      | f => poisonLoad s f va

/-- R315, R337: reads n aligned bytes at a translated address for the focused thread. -/
def State.lcRead (s : State) (x : Xlat) (va : W64) (n : Nat) : LdAns :=
  match x.rem with
  | none => s.lcLocal x va n
  | some p => s.lcRemote p x va n

/-- R337: a load of n bytes at a VA: misaligned and not present trap; a poisoned address gives poison; other faults poison
the destination. A load that has been sent only waits for its answer. -/
def State.lcLoad (s : State) (a : Reg64) (va : W64) (n : Nat) (k : AccKind) : LdAns :=
  if a.poison then .val s.drawn { v := s.free, poison := true }
  else if va.toNat % n != 0 then .trap s .align
  else if s.me.served.isSome || s.me.parked then s.lcRemote 0 { pa := 0, key := 0 } va n
  else match s.xlate va k with
    | (s, .error .nopage) => .trap s .nopage
    | (s, .error c) => poisonLoad s c va
    | (s, .ok x) => s.lcRead x va n

/-- R340: extends a loaded value of n bytes. -/
def extend (n : Nat) (signed : Bool) (v : W64) : W64 :=
  if signed then ((BitVec.ofNat (8 * n) v.toNat).signExtend 64) else w64 (v.toNat % 2 ^ (8 * n))

/-- A load writes xd and retires. -/
def finishLoad (va : W64) (d : BitVec 5) (n : Nat) (signed : Bool) (r : LdAns) : Res :=
  match r with
  | .val s v => retire s fun t => t.wx d (extend n signed v.v) v.poison
  | .wait s => waits s
  | .trap s c => trapRes s c va

/-! ### Stores -/

/-- What preparing a store answers: where it goes, or why it traps. -/
inductive StAns where
  | ok (s : State) (x : Xlat)
  | wait (s : State)
  | trap (s : State) (c : Cause)

/-- R337: a local store is refused at its edge for these causes; they are precise traps. -/
def State.edgeRefuses (s : State) (pa n key : Nat) : Cause :=
  let bad : Cause := if (granules (s.placeOf pa) n).any s.mem.ecc.contains then .ecc else .none
  match spaceOf pa with
  | .reserved => .range
  | .hbm => if (s.keyPair key).isNone then .key else if s.retiredAt pa then .ecc else bad
  | .spad => bad
  | .host => .none

/-- R111, R112: the uncorrectable error that refused a store is counted, logged and marked, once. -/
def State.eccSeen (s : State) (c : Cause) (pa n : Nat) : State :=
  if c = .ecc then
    let (s', l) := s.takeEcc (s.placeOf pa) pa n
    s'.logAll s.lcSite l
  else s

/-- R331, R340: a plain load. One of a peer's memory is sent, up to eight being outstanding, and the thread goes on: its register is written when
the answer comes. -/
def State.lcPlain (s : State) (d a : BitVec 5) (va : W64) (n : Nat) (signed : Bool) : Res :=
  if (s.me.rx a).poison then finishLoad va d n signed (.val s.drawn { v := s.free, poison := true })
  else if va.toNat % n != 0 then trapRes s .align va
  else match s.xlate va .read with
    | (s, .error .nopage) => trapRes s .nopage va
    | (s, .error c) => finishLoad va d n signed (poisonLoad s c va)
    | (s, .ok x) =>
      match x.rem with
      | none => finishLoad va d n signed (s.lcLocal x va n)
      | some p =>
        match s.peerFault s.focus.hall p false with
        | .none =>
          if s.me.loads.length < 8 && s.quadRoom s.focus.hall 64 p 0 then
            retire (s.sendCmd s.focus.hall 64 0 (rreqPacket p x.pa n (s.akeyOf s.focus.hall s.focus.ctx))
              (.load s.focus.hall s.focus.ctx d.toNat (x.pa % 64) n signed)) fun t => { t with loads := t.loads ++ [d.toNat] }
          else waits s
        | f => finishLoad va d n signed (poisonLoad s f va)

/-- R337, R340: the checks of a store of n bytes: poison, alignment, translation, the edge or the peer. -/
def State.lcStoreAt (s : State) (pois : Bool) (va : W64) (n : Nat) (k : AccKind) : StAns :=
  if pois then .trap s .poisonuse
  else if va.toNat % n != 0 then .trap s .align
  else match s.xlate va k with
    | (s, .error c) => .trap s c
    | (s, .ok x) =>
      match x.rem with
      | none =>
        (match s.edgeRefuses x.pa n x.key with
        | .none => .ok s x
        | c => .trap (s.eccSeen c x.pa n) c)
      | some p =>
        match s.peerFault s.focus.hall p false with
        | .none => if s.quadRoom s.focus.hall 64 p 0 then .ok s x else .wait s
        | c => .trap s c

/-- What issuing a store answers. -/
inductive StDone where
  | done (s : State)
  | wait (s : State)
  | trap (s : State) (c : Cause)

/-- R337: a store to a peer: it is sent, and the thread waits for the acknowledgement, so that a page refused at the peer
traps precisely (log 9). -/
def State.peerStore (s : State) (p : Nat) (x : Xlat) (bs : List Byte) : StDone :=
  .wait (s.sendCmd s.focus.hall 64 0 (wreqPacket p x.pa (s.akeyOf s.focus.hall s.focus.ctx) bs 0) (.write s.focus.hall s.focus.ctx)).park

/-- R337: what a store that has been sent to a peer goes on with: the owner's answer, once it has come. -/
def State.peerStored (s : State) : StDone :=
  match s.me.served with
  | some st => if st.v = 0 then .done s.answerTaken else .trap s.answerTaken (Cause.ofCode st.v.toNat)
  | none => .wait s
/-- The focused thread's instruction has sent an access and waits for the answer, or has it. -/
def State.sent (s : State) : Bool := s.me.parked || s.me.served.isSome

/-- R315, R337: a checked store is issued: a local one waits for its edge, a peer's is sent. -/
def State.issueStore (s : State) (x : Xlat) (va : W64) (bs : List Byte) : StDone :=
  match x.rem with
  | none =>
    .done { s with edge := s.edge ++
      [{ who := .thread s.focus.hall s.focus.ctx, pa := x.pa, key := x.key, size := bs.length, data := bs, va := va }] }
  | some p => s.peerStore p x bs

/-- How a store ends: it retires, waits or traps. -/
def finishStore (va : W64) : StDone → Res
  | .done s => retire s id
  | .wait s => waits s
  | .trap s c => trapRes s c va

/-- R340: a store of the low n bytes of a register. -/
def storeReg (s : State) (pois : Bool) (va : W64) (n : Nat) (v : W64) : Res :=
  if s.sent then finishStore va s.peerStored
  else if !s.storeRoom s.focus.hall s.focus.ctx then waits s
  else match s.lcStoreAt pois va n .write with
    | .trap s c => trapRes s c va
    | .wait s => waits s
    | .ok s x => finishStore va (s.issueStore x va (leBytes n v.toNat))

/-- R76: the bytes of a size code. -/
def sizeBytes (z : BitVec 2) : Nat := 2 ^ z.toNat

end Sys2Proof.Machine
end

