-- ==== Sys2Proof/Machine/LcMem.lean ====
section
/-! DEFINITION. The landing core's loads, stores, synchronising reads, atomics and fences (R340–R344) and the loads and stores of command registers (R347). -/

namespace Sys2Proof.Machine

/-- R340: a plain load. -/
def loadPlain (s : State) (d a : BitVec 5) (imm : BitVec 16) (n : Nat) (signed : Bool) : Res :=
  s.lcPlain d a (s.me.ea a imm) n signed

/-- R340 `ld.i8`. -/
def execLdI8 (d a : BitVec 5) (imm : BitVec 16) (s : State) : Res := loadPlain s d a imm 1 true
/-- R340 `ld.n8`. -/
def execLdN8 (d a : BitVec 5) (imm : BitVec 16) (s : State) : Res := loadPlain s d a imm 1 false
/-- R340 `ld.i16`. -/
def execLdI16 (d a : BitVec 5) (imm : BitVec 16) (s : State) : Res := loadPlain s d a imm 2 true
/-- R340 `ld.n16`. -/
def execLdN16 (d a : BitVec 5) (imm : BitVec 16) (s : State) : Res := loadPlain s d a imm 2 false
/-- R340 `ld.i32`. -/
def execLdI32 (d a : BitVec 5) (imm : BitVec 16) (s : State) : Res := loadPlain s d a imm 4 true
/-- R340 `ld.n32`. -/
def execLdN32 (d a : BitVec 5) (imm : BitVec 16) (s : State) : Res := loadPlain s d a imm 4 false
/-- R340 `ld.64`. -/
def execLd64 (d a : BitVec 5) (imm : BitVec 16) (s : State) : Res := loadPlain s d a imm 8 false

/-- R340: a plain store; a poisoned base or data register traps `poisonuse`. -/
def storePlain (s : State) (a b : BitVec 5) (imm : BitVec 16) (n : Nat) : Res :=
  storeReg s ((s.me.rx a).poison || (s.me.rx b).poison) (s.me.ea a imm) n (s.me.rx b).v

/-- R340 `st.8`. -/
def execSt8 (a b : BitVec 5) (imm : BitVec 16) (s : State) : Res := storePlain s a b imm 1
/-- R340 `st.16`. -/
def execSt16 (a b : BitVec 5) (imm : BitVec 16) (s : State) : Res := storePlain s a b imm 2
/-- R340 `st.32`. -/
def execSt32 (a b : BitVec 5) (imm : BitVec 16) (s : State) : Res := storePlain s a b imm 4
/-- R340 `st.64`. -/
def execSt64 (a b : BitVec 5) (imm : BitVec 16) (s : State) : Res := storePlain s a b imm 8

/-- R341 `ld.acq`: as a plain load, then an acquire: later accesses of the thread follow it, since the load is performed
before the instruction retires. -/
def execLdAcq (d a : BitVec 5) (size : BitVec 2) (_scope : BitVec 3) (sx : BitVec 1) (s : State) : Res :=
  finishLoad (s.me.rx a).v d (sizeBytes size) (sx == 1) (s.lcLoad (s.me.rx a) (s.me.rx a).v (sizeBytes size) .read)

/-- R341, R316 `st.rel`: a release, which waits until every earlier access is performed, then the store. The store is
performed at once, behind nothing of its own thread. -/
def execStRel (a b : BitVec 5) (size : BitVec 2) (_scope : BitVec 3) (s : State) : Res :=
  if !s.sent && !s.quiet s.focus.hall s.focus.ctx then waits s
  else storeReg s ((s.me.rx a).poison || (s.me.rx b).poison) (s.me.rx a).v (sizeBytes size) (s.me.rx b).v

/-! ### Synchronising reads -/

/-- R341, R198: a synchronising read: it must address scratchpad and lie in one granule; it goes to its bank, and the
thread waits for the answer. Its own earlier stores to the line are performed before it leaves. -/
def syncRead (s : State) (d a : BitVec 5) (n : Nat) (clr signed : Bool) : Res :=
  let va := (s.me.rx a).v
  match s.me.served with
  | some v => retire s fun t => t.answered.wx d (extend n signed v.v) v.poison
  | none =>
    if s.me.parked then waits s
    else if (s.me.rx a).poison then retire s.drawn fun t => t.wx d s.free true
    else if va.toNat % n != 0 then trapRes s .align va
    else match s.xlate va .read with
      | (s, .error .nopage) => trapRes s .nopage va
      | (s, .error c) => finishLoad va d n signed (poisonLoad s c va)
      | (s, .ok x) =>
        if x.rem.isSome || spaceOf x.pa != .spad then trapRes s .range va
        else
          let (h, q, off) := s.spadPlace x.pa
          if !s.lcOpen x.pa || !s.netRoom s.coreSrc h q then waits s
          else .next (((s.flushLine s.focus.hall s.focus.ctx (x.pa / 64)).netSend s.coreSrc h q
            { op := if clr then .syncClr else .syncKeep, boff := off, size := n,
              reply := .thread s.focus.hall s.focus.ctx signed, ctx := s.focus.ctx, va := va }).park)

/-- R341 `ld.sync`. -/
def execLdSync (d a : BitVec 5) (size : BitVec 2) (clr sx : BitVec 1) (s : State) : Res :=
  syncRead s d a (sizeBytes size) (clr == 1) (sx == 1)

/-- R341, R319 `ld.sync` with an acquire: the read is performed before any later access of the thread issues. -/
def execLdSyncAcq (d a : BitVec 5) (size : BitVec 2) (_scope : BitVec 3) (clr sx : BitVec 1) (s : State) : Res :=
  syncRead s d a (sizeBytes size) (clr == 1) (sx == 1)

/-! ### Several registers -/

/-- R342: the first cause, in order, that translating the double words of a range finds, and the translations. -/
def State.xlateAll (s : State) (k : AccKind) : List W64 → State × List (Except Cause Xlat)
  | [] => (s, [])
  | va :: t =>
    let (s, r) := s.xlate va k
    let (s, rs) := State.xlateAll s k t
    (s, r :: rs)

/-- The VAs of n double words. -/
def dwords (va : W64) (n : Nat) : List W64 := (List.range n).map fun i => va + w64 (8 * i)

/-- R342: reads the double words from the one after those received; a peer's makes the thread wait. -/
def ldmGo : State → List (W64 × Except Cause Xlat) → List Reg64 → LdAns ⊕ (State × List Reg64)
  | s, [], acc => .inr (s, acc)
  | s, (va, r) :: t, acc =>
    let ans := match r with
      | .error c => poisonLoad s c va
      | .ok x => s.lcRead x va 8
    match ans with
    | .val s v => ldmGo (s.setMe { s.me with got := acc ++ [v] }) t (acc ++ [v])
    | .wait s => .inl (.wait s)
    | .trap s c => .inl (.trap s c)

/-- Writes a list of registers from xd up. -/
def writeRegs (t : Thread) (d : Nat) : List Reg64 → Thread
  | [] => t
  | v :: r => writeRegs (t.wx (BitVec.ofNat 5 d) v.v v.poison) (d + 1) r

/-- R342 `ldm`: every page is translated before any destination is written; a page not present traps; otherwise each
destination receives its value or poison. -/
def execLdm (d a : BitVec 5) (n : BitVec 4) (s : State) : Res :=
  let va := (s.me.rx a).v
  let cnt := n.toNat + 1
  if (s.me.rx a).poison then retire s.drawn fun t => writeRegs t d.toNat (List.replicate cnt { v := s.free, poison := true })
  else if va.toNat % 8 != 0 then trapRes s .align va
  else
    let vas := dwords va cnt
    let (s, xs) := s.xlateAll .read vas
    match (vas.zip xs).find? (fun p => match p.2 with | .error .nopage => true | _ => false) with
    | some p => trapRes s .nopage p.1
    | none =>
      match ldmGo s ((vas.zip xs).drop s.me.got.length) s.me.got with
      | .inl r => finishLoad va d 8 false r
      | .inr (s, vs) => retire s fun t => writeRegs { t with got := [] } d.toNat vs

/-- R342: the checks of a store of several double words: the first fault in order. -/
def firstRefusal (s : State) : List (W64 × Except Cause Xlat) → Option (W64 × Cause × Nat)
  | [] => none
  | (va, .error c) :: _ => some (va, c, 0)
  | (va, .ok x) :: t =>
    let c := match x.rem with
      | none => s.edgeRefuses x.pa 8 x.key
      | some p => s.peerFault s.focus.hall p false
    if c = .none then firstRefusal s t else some (va, c, x.pa)

/-- The translated addresses of a checked list. -/
def okXlats : List (W64 × Except Cause Xlat) → List (W64 × Xlat)
  | [] => []
  | (va, .ok x) :: t => (va, x) :: okXlats t
  | (_, .error _) :: t => okXlats t

/-- R342: parts of a store that follow one another in one page of one peer's memory leave in one packet, so that its owner refuses all of them or
none. -/
def joinParts : List (W64 × Xlat × List Byte) → List (W64 × Xlat × List Byte)
  | [] => []
  | p :: t => match joinParts t with
    | q :: r =>
      if p.2.1.rem.isSome && p.2.1.rem == q.2.1.rem && p.2.1.pa + p.2.2.length == q.2.1.pa && q.2.1.pa % 65536 != 0
      then (p.1, p.2.1, p.2.2 ++ q.2.2) :: r else p :: q :: r
    | [] => [p]

/-- R342: stores parts that have been checked: first a peer's, each waiting for its acknowledgement (`got` counts those that have come), then
those of this package. A range in two pages of peers is the one case in which the second may be refused after the first is written (log 51). -/
def storeParts (s : State) (ps : List (W64 × Xlat × List Byte)) : Res :=
  match (ps.filter fun p => p.2.1.rem.isSome)[s.me.got.length]? with
  | some (_, x, bs) =>
    let p := x.rem.getD 0
    if s.quadRoom s.focus.hall 64 p 0 then finishStore 0 (s.peerStore p x bs) else waits s
  | none =>
    let own := (ps.filter fun p => p.2.1.rem.isNone).map fun (p : W64 × Xlat × List Byte) =>
      ({ who := .thread s.focus.hall s.focus.ctx, pa := p.2.1.pa, key := p.2.1.key, size := p.2.2.length, data := p.2.2, va := p.1 } : Pend)
    retire { s with edge := s.edge ++ own } fun t => { t with got := [] }

/-- R342: stores a list of double words from a VA: every page is checked before anything is written. -/
def storeChecked (s : State) (va : W64) (vs : List W64) : Res :=
  let vas := dwords va vs.length
  let (s, xs) := s.xlateAll .write vas
  let l := vas.zip xs
  match firstRefusal s l with
  | some (va, c, pa) => trapRes (s.eccSeen c pa 8) c va
  | none => storeParts s (joinParts (((okXlats l).zip vs).map fun p => (p.1.1, p.1.2, leBytes 8 p.2.toNat)))

/-- R342, R347: a store of several double words, of which a part may have been sent to a peer. -/
def storeMany (s : State) (va : W64) (vs : List W64) : Res :=
  if s.sent then (match s.peerStored with
    | .done s => storeChecked (s.setMe { s.me with got := s.me.got ++ [{}] }) va vs
    | r => finishStore va r)
  else if s.me.got.isEmpty && !s.storeRoom s.focus.hall s.focus.ctx vs.length then waits s
  else storeChecked s va vs

/-- R342 `stm`. -/
def execStm (d a : BitVec 5) (n : BitVec 4) (s : State) : Res :=
  let t := s.me
  let regs := (List.range (n.toNat + 1)).map fun i => t.rx (d + BitVec.ofNat 5 i)
  if (t.rx a).poison || regs.any (·.poison) then trapRes s .poisonuse (t.rx a).v
  else if (t.rx a).v.toNat % 8 != 0 then trapRes s .align (t.rx a).v
  else storeMany s (t.rx a).v (regs.map (·.v))

/-! ### Command registers -/

/-- R347 `cld`: loads 16 bytes, 16-aligned; the register's poison bit is that of the bytes. -/
def execCld (c : BitVec 3) (a : BitVec 5) (imm : BitVec 16) (s : State) : Res :=
  let va := s.me.ea a imm
  let done (s : State) (v : BitVec 128) (p : Bool) : Res :=
    retire s fun t => { t with got := [] }.wc c { v := v, poison := p, fresh := 0 }
  if (s.me.rx a).poison then done s.drawn (s.free ++ s.free) true
  else if va.toNat % 16 != 0 then trapRes s .align va
  else match s.xlate va .read with
    | (s, .error .nopage) => trapRes s .nopage va
    | (s, .error f) => (match poisonLoad s f va with
      | .val s v => done s (v.v ++ v.v) true
      | .wait s => waits s
      | .trap s c => trapRes s c va)
    | (s, .ok x) =>
      match ldmGo s (([(va, x), (va + 8, { x with pa := x.pa + 8 })].map fun p => (p.1, Except.ok p.2)).drop s.me.got.length)
          s.me.got with
      | .inl r => finishLoad va 0 8 false r
      | .inr (s, vs) => done s ((vs.getD 1 {}).v ++ (vs.getD 0 {}).v) (vs.any (·.poison))

/-- R347 `cst`: stores the 16 bytes; a poisoned register traps `poisonuse`. -/
def execCst (c : BitVec 3) (a : BitVec 5) (imm : BitVec 16) (s : State) : Res :=
  let t := s.me
  let va := t.ea a imm
  let r := t.rc c
  if (t.rx a).poison || r.poison then trapRes s .poisonuse va
  else if va.toNat % 16 != 0 then trapRes s .align va
  else storeMany s va [r.v.extractLsb' 0 64, r.v.extractLsb' 64 64]

/-! ### Atomics and fences -/

/-- R343: an atomic of n bytes: `op` is a code of R287, or 12 for `cas` with its comparand. -/
def atomicOp (s : State) (d a : BitVec 5) (n op : Nat) (pois : Bool) (v cmp : W64) (release : Bool) : Res :=
  let h := s.focus.hall
  let c := s.focus.ctx
  let va := (s.me.rx a).v
  let v := v.toNat % 2 ^ (8 * n)
  let cmp := cmp.toNat % 2 ^ (8 * n)
  match s.me.served with
  | some r =>
    let s := s.answerTaken
    if r.poison && r.v != 0 && r.v != 8 then trapRes s (Cause.ofCode r.v.toNat) va
    else if r.poison then retire (s.drawn.logFault .poisonuse s.lcSite va.toNat) fun t => t.wx d s.free true
    else retire s fun t => t.wx d (w64 (r.v.toNat % 2 ^ (8 * n)))
  | none =>
    if s.me.parked then waits s
    else if pois then trapRes s .poisonuse va
    else if va.toNat % n != 0 then trapRes s .align va
    else if release && !s.quiet h c then waits s
    else match s.xlate va .atomic with
      | (s, .error f) => trapRes s f va
      | (s, .ok x) =>
        match x.rem with
        | none =>
          if !s.lcOpen x.pa then waits s
          else
            let u := (s.flushLine h c (x.pa / 64)).edgeUpdate x.pa n x.key op v cmp
            let s := u.s.logAll s.lcSite u.logs
            if u.cause != .none then trapRes s u.cause va
            else if u.poison then retire s.drawn fun t => t.wx d s.free true
            else retire s fun t => t.wx d (w64 u.old)
        | some p =>
          match s.peerFault h p false with
          | .none =>
            if s.quadRoom h 64 p 0 then
              let pk := areqPacket p x.pa (s.akeyOf h c) op (if n = 4 then 2 else 3) 0 v 0
              let pk := { pk with body := bodyPut pk.body 24 8 cmp }
              .next (s.sendCmd h 64 0 pk (.amo h c n)).park
            else waits s
          | f => trapRes s f va

/-- R343 `amo`. -/
def execAmo (d a b : BitVec 5) (dbl : BitVec 1) (_scope : BitVec 3) (order : BitVec 2) (op : BitVec 4) (s : State) : Res :=
  atomicOp s d a (if dbl = 1 then 8 else 4) op.toNat ((s.me.rx a).poison || (s.me.rx b).poison) (s.me.rx b).v 0
    (bitB order 1)

/-- R343 `cas`. -/
def execCas (d a b : BitVec 5) (dbl : BitVec 1) (_scope : BitVec 3) (order : BitVec 2) (s : State) : Res :=
  atomicOp s d a (if dbl = 1 then 8 else 4) 12
    ((s.me.rx a).poison || (s.me.rx b).poison || (s.me.rx d).poison) (s.me.rx b).v (s.me.rx d).v (bitB order 1)

/-- R344, R318 `fence`: waits until every access of the thread before it is performed. -/
def execFence (_scope : BitVec 3) (s : State) : Res :=
  if s.quiet s.focus.hall s.focus.ctx then retire s id else waits s

end Sys2Proof.Machine
end

