-- ==== Sys2Proof/Machine/LcFlow.lean ====
section
/-! DEFINITION. The landing core's flow of control (R345), command-register moves and status (R347, R349), shapes (R350–R352), watching (R353–R355), barriers (R356, R357), feature words (R92, R93), traps and invalidation (R333, R359, R360). -/

namespace Sys2Proof.Machine

/-- An instruction that the machine refuses as it executes: a precise `illegal` trap with its word (R78, R333). -/
def illegalRes (s : State) (i : Instr) : Res :=
  trapRes s .illegal (match encodeLanding i with
    | some w => w.setWidth 64
    | none => 0)

/-! ### Branches (R345, R58) -/

/-- R58, R345: goes to a target, or traps with `align` at the branch. -/
def jump (s : State) (target : W64) (f : Thread → Thread) : Res :=
  if target.toNat % 4 != 0 then trapRes s .align target
  else .next (s.setMe ((f s.me).go target))

/-- A target of words from the instruction's own address. -/
def Thread.rel (t : Thread) {n : Nat} (imm : BitVec n) : W64 := t.pc + 4 * imm.signExtend 64

/-- R345 `br`. -/
def execBr (imm : BitVec 26) (s : State) : Res := jump s (s.me.rel imm) id
/-- R345 `call`. -/
def execCall (imm : BitVec 26) (s : State) : Res := jump s (s.me.rel imm) fun t => t.wx 31 (t.pc + 4)
/-- R345 `jl`: the target is formed before xd is written. -/
def execJl (d a : BitVec 5) (imm : BitVec 16) (s : State) : Res :=
  if (s.me.rx a).poison then trapRes s .poisonuse
  else jump s (s.me.ea a imm) fun t => t.wx d (t.pc + 4)
/-- R345 `bp`. -/
def execBp (p : BitVec 3) (sense : BitVec 1) (imm : BitVec 22) (s : State) : Res :=
  if (s.me.rp p).poison then trapRes s .poisonuse
  else if (s.me.rp p).v == (sense == 1) then jump s (s.me.rel imm) id
  else retire s id

/-! ### Command registers (R347, R349) -/

/-- R347: a quarter of a command register is replaced; the poison bit is set by a poisoned source, and cleared once every
quarter has been written from unpoisoned sources since it was set. -/
def CReg.move (c : CReg) (q : BitVec 2) (v : W32) (pois : Bool) : CReg :=
  let n := 32 * q.toNat
  let hole : BitVec 128 := ~~~ (((0xFFFFFFFF : BitVec 128)) <<< n)
  let val := (c.v &&& hole) ||| ((v.setWidth 128) <<< n)
  if pois then { v := val, poison := true, fresh := 0 }
  else
    let fr := c.fresh ||| (1#4 <<< q.toNat)
    if c.poison && fr != 0xF then { v := val, poison := true, fresh := fr }
    else { v := val, poison := false, fresh := 0 }

/-- R347 `cmov`. -/
def execCmov (c : BitVec 3) (q : BitVec 2) (a : BitVec 5) (imm : BitVec 16) (s : State) : Res :=
  retire s fun t => t.wc c ((t.rc c).move q ((t.ea a imm).setWidth 32) (t.rx a).poison)

def State.disp (s : State) (hall : Nat) : Disp := Tab.get s.disps hall {}
def State.setDisp (s : State) (hall : Nat) (d : Disp) : State := { s with disps := Tab.put s.disps hall d }

/-- R349: the status word of a ticket as a context of a region reads it; a ticket of another context, such as one that had the slot before, reads as
old. -/
def Disp.status (d : Disp) (ticket ctx : Nat) (region : Option Nat) : W64 :=
  match d.stats.find? (fun x => x.ticket % 65536 == ticket && x.ctx == ctx && some x.region == region) with
  | none => w64 (2 ^ 63 + 2 ^ 61)
  | some x =>
    w64 ((if x.ret then 2 ^ 63 else 0) + (if x.ret && x.cause != .none then 2 ^ 62 + x.cause.code * 2 ^ 48 else 0) + ticket)

/-- R349 `cstat`; with `wait` it waits until `ret` reads 1. -/
def execCstat (a : BitVec 5) (wait : BitVec 1) (s : State) : Res :=
  if (s.me.rx a).poison then trapRes s .poisonuse
  else
    let v := (s.disp s.focus.hall).status (bitsN (s.me.rx a).v 15 0) s.focus.ctx (s.regionAt s.focus.hall s.focus.ctx)
    if wait = 1 && !bitB v 63 then .next (s.setMe { s.me with inWait := 4 })
    else retire s fun t => t.wx a v

/-! ### Shapes (R350–R352, R268, R218) -/

/-- R268, R218: the grant of one dimension. -/
def grant (req mx g : Nat) : Nat := if req ≤ mx then req else mx / g * g

/-- R93: the largest gallery N of a wing. -/
def galleryN (wing : Nat) : Nat := if Config.binned wing then 192 else 256

/-- R351: a shape register's value. -/
def shapeWord (kind g0 g1 : Nat) (empty : Bool) : W64 :=
  w64 (kind * 2 ^ 62 + (if empty then 2 ^ 61 else 0) + g1 * 65536 + g0)

/-- R350: what a request is granted. -/
def shapeGrant (kind : BitVec 2) (hall x y : Nat) : W64 :=
  match kind.toNat with
  | 0 =>
    let k := grant x 256 32
    let n := grant y (galleryN (hall / 16)) 16
    shapeWord 0 k n (k == 0 || n == 0)
  | j =>
    let g := grant x (128 / 2 ^ (j - 1)) 8
    shapeWord j g 0 (g == 0)

/-- R350 `shape`. -/
def execShape (d : BitVec 2) (a b : BitVec 5) (kind : BitVec 2) (s : State) : Res :=
  if (s.me.rx a).poison || (kind == 0 && (s.me.rx b).poison) then trapRes s .poisonuse
  else retire s fun t =>
    { t with sh := Tab.put t.sh d.toNat (shapeGrant kind s.focus.hall (t.rx a).v.toNat (t.rx b).v.toNat) }

/-- R352 `shrd`; with `.clr`, `rev` is cleared after the read. A register above sh3 and field 3 are refused at decoding. -/
def execShrd (d sh : BitVec 5) (clr : BitVec 1) (f : BitVec 2) (s : State) : Res :=
  retire s fun t =>
    let v := Tab.get t.sh sh.toNat 0
    let r : W64 := match f.toNat with
      | 0 => v
      | 1 => w64 (bitsN v 15 0)
      | _ => w64 (bitsN v 31 16)
    let t := t.wx d r
    if clr = 1 then { t with sh := Tab.put t.sh sh.toNat (v &&& ~~~(1#64 <<< 60)) } else t

/-! ### Watching memory (R353–R355) -/

/-- R353: the registration at a place of `regOut` is answered by its owner, with the cause that refuses it: its thread goes on. -/
def State.regAcked (s : State) (k : Nat) (c : Cause) : State :=
  match s.arc.regOut[k]? with
  | none => s
  | some r =>
    let s := { s with arc := { s.arc with regOut := s.arc.regOut.eraseIdx k } }
    s.updThr (r.2.2.1 / 4) (r.2.2.1 % 4) fun t => if t.parked then { t with served := some { v := w64 c.code } } else t

/-- R353 `watch`: disarms, translates as a read, registers the line and arms. A peer's line is registered at its owner: the thread waits until the
owner has answered, and the entry, which holds the line since the translation, is then armed. -/
def execWatch (m a : BitVec 5) (s : State) : Res :=
  let va := (s.me.rx a).v
  let n := m.toNat
  match s.me.served with
  | some st =>
    let s := s.answerTaken
    if st.v = 0 then retire s fun t => t.setWatch n { t.watch n with armed := true } else trapRes s (Cause.ofCode st.v.toNat) va
  | none =>
    if s.me.parked then waits s
    else if (s.me.rx a).poison then trapRes s .poisonuse va
    else
      match s.xlate va .read with
      | (s, .error c) => trapRes s c va
      | (s, .ok x) =>
        match x.rem with
        | none =>
          if spaceOf x.pa = .reserved then trapRes s .range va
          else retire s fun t => t.setWatch n { va := va, pa := s.placeOf x.pa / 64, armed := true }
        | some p =>
          match s.peerFault s.focus.hall p false with
          | .none =>
            let s := { s with arc := { s.arc with
              regOut := s.arc.regOut ++ [(p, x.pa / 64 * 64, tkey s.focus.hall s.focus.ctx, n)] } }
            .next (s.setMe (s.me.setWatch n { va := va, pa := x.pa / 64, peer := some p })).park
          | c => trapRes s c va

/-- R353 `unwatch`: disarms and clears the latched cause. -/
def execUnwatch (m : BitVec 5) (s : State) : Res := retire s fun t => t.setWatch m.toNat {}

/-- R355: the lowest entry with a latched cause. -/
def Thread.latched (t : Thread) : Option Nat := (List.range 16).find? fun n => (t.watch n).cause != 0

/-- R355: the `mwait` at the thread's address no longer waits. -/
def Thread.noMwait (t : Thread) : Thread := { t with mwLeft := Tab.del t.mwLeft t.pc.toNat, mwD := none }

/-- R355: an `mwait` ends by a latched cause: the entry is reported and its cause cleared. -/
def Thread.endMwait (t : Thread) (d : BitVec 5) : Thread :=
  match t.latched with
  | none => (t.wx d 2).noMwait
  | some n =>
    let w := t.watch n
    let t := t.setWatch n { w with cause := 0 }
    (t.wx d (w64 ((if t.latched.isSome then 256 else 0) + 16 * n + w.cause))).noMwait

/-- R355 `mwait`: ends at once on a latched cause, on a timeout that has run out, or where nothing could end it; otherwise
the thread waits, with its remaining timeout, which it keeps where a report interrupts it (R334). Restored in it, it returns cause 4 and entry 0. -/
def execMwait (d a : BitVec 5) (s : State) : Res :=
  let t := s.me
  if (t.rx a).poison then trapRes s .poisonuse
  else if t.mwSaved == some t.pc then retire s fun t => { (t.wx d 4).noMwait with mwSaved := none }
  else if t.latched.isSome then retire s fun t => t.endMwait d
  else if (t.rx a).v = 0 && !(List.range 16).any (fun n => (t.watch n).armed) then retire s fun t => t.endMwait d
  else
    let left := if (t.rx a).v = 0 || (Tab.find t.mwLeft t.pc.toNat).isSome then t.mwLeft else Tab.put t.mwLeft t.pc.toNat (t.rx a).v.toNat
    .next (s.setMe { t with mwLeft := left, mwD := some d })

/-- R355: the step that ends a waiting `mwait` by a latched cause. -/
def execMwaitWake (s : State) : Res :=
  match s.me.mwD with
  | some d => if s.me.latched.isSome then retire s fun t => t.endMwait d else waits s
  | none => waits s

/-- R355: the step that ends a waiting `mwait` by its timeout; only when no entry holds a cause. -/
def execMwaitTimeout (s : State) : Res :=
  match s.me.mwD, Tab.find s.me.mwLeft s.me.pc.toNat with
  | some d, some 0 => if s.me.latched.isNone then retire s fun t => t.endMwait d else waits s
  | _, _ => waits s

/-! ### Barriers (R356, R357) -/

def State.bar (s : State) (hall n : Nat) : Barrier := Tab.get s.bars (32 * hall + n) {}
def State.setBar (s : State) (hall n : Nat) (b : Barrier) : State := { s with bars := Tab.put s.bars (32 * hall + n) b }

/-- R357 `arrive`: at most three phases ahead; a release at the barrier's scope, then the arrival is sent home. -/
def execArrive (d n : BitVec 5) (s : State) : Res :=
  let h := s.focus.hall
  let k := n.toNat
  let b := s.bar h k
  if !b.en || !b.mask.getLsbD h then trapRes s .cfg
  else
    let own := Tab.get s.me.own k b.phase
    let s := s.setMe { s.me with own := Tab.put s.me.own k own }
    let ahead := (own + 2 ^ 27 - b.phase) % 2 ^ 27
    if (4 ≤ ahead && ahead ≤ 2 ^ 26) || !s.quiet h s.focus.ctx then waits s
    else
      let s := { s with barArr := s.barArr ++ [{ hall := b.home, n := k, phase := own, src := h }] }
      retire s fun t =>
        { t.wx d (w64 (k * 2 ^ 27 + own % 2 ^ 27)) with own := Tab.put t.own k ((own + 1) % 2 ^ 27) }

/-- R357 `await`: waits until the phase has passed, compared modulo 2^27; then an acquire. -/
def execAwait (a : BitVec 5) (s : State) : Res :=
  let x := s.me.rx a
  if x.poison then trapRes s .poisonuse
  else
    let b := s.bar s.focus.hall (bitsN x.v 31 27)
    if !b.en then trapRes s .cfg
    else
      let diff := (b.phase + 2 ^ 27 - bitsN x.v 26 0) % 2 ^ 27
      if 1 ≤ diff && diff ≤ 2 ^ 26 then retire s id else .next (s.setMe { s.me with inWait := 3 })

/-- R2, R356: a hall has a barrier configured with a home and with a member, so that messages between the two count there; a hall that another
region's words name is not touched by them. -/
def Barrier.joins (b : Barrier) (home member : Nat) : Bool := b.en && b.home == home && b.mask.getLsbD member

/-- R357: the home hall counts the arrival the focus names. One from a hall that the home's own barrier does not join is dropped (log 53). -/
def execBarrierArrival (s : State) : Res :=
  match s.barArr[s.focus.idx]? with
  | none => waits s
  | some a =>
    let b := s.bar a.hall a.n
    let t := { s with barArr := s.barArr.eraseIdx s.focus.idx }
    if b.joins a.hall a.src then .next (t.setBar a.hall a.n { b with count := Tab.upd b.count (a.phase % 4) 0 (· + 1) }) else .next t

/-- R357: a phase whose count has reached `cnt` completes at its home, and every member hall is sent the new phase. -/
def execBarrierPhaseComplete (s : State) : Res :=
  let h := s.focus.hall
  let n := s.focus.idx
  let b := s.bar h n
  if b.en && b.home = h && b.cnt > 0 && Tab.get b.count (b.phase % 4) 0 = b.cnt then
    let ph := (b.phase + 1) % 2 ^ 27
    let b := { b with count := Tab.del b.count (b.phase % 4), phase := ph }
    let s := s.setBar h n b
    .next { s with barPh := s.barPh ++
      ((List.range 64).filter fun m => m != h && b.mask.getLsbD m).map fun m => { hall := m, n := n, phase := ph, src := h } }
  else waits s

/-- R357: a member hall receives a new phase. The phases of one home reach a member in the order in which it sent them; one from a hall that is
not the home of the member's own barrier is dropped (log 53). -/
def execBarrierPhaseReceive (s : State) : Res :=
  match s.barPh[s.focus.idx]? with
  | none => waits s
  | some a =>
    if (s.barPh.take s.focus.idx).any fun e => e.hall == a.hall && e.n == a.n && e.src == a.src then waits s
    else
      let b := s.bar a.hall a.n
      let t := { s with barPh := s.barPh.eraseIdx s.focus.idx }
      if b.joins a.src a.hall then .next (t.setBar a.hall a.n { b with phase := a.phase }) else .next t

/-! ### Feature words, traps, waiting (R92, R93, R359) -/

/-- R92, R93: a feature word. -/
def featWord (n : Nat) : W64 :=
  match n with
  | 0 => w64 (0x5A03 * 2 ^ 48 + 3) ||| ((Config.revision.setWidth 64) <<< 40)
  | 1 => 0x030000FF
  | 2 => 0x0000404802040100
  | 3 => w64 ((List.range 4).foldl (fun acc w => acc + galleryN w / 16 * 2 ^ (32 + 8 * w)) 0x3FF)
  | _ => 0

/-- R92 `feat`. -/
def execFeat (d : BitVec 5) (n : BitVec 8) (s : State) : Res := retire s fun t => t.wx d (featWord n.toNat)

/-- R359 `trap`: to pl1 with `sw` and the code; at pl1 a double fault. -/
def execTrap (code : BitVec 8) (s : State) : Res := .next (s.swTrap code)

/-- R333, R359 `eret`: `illegal` at pl0; a return to an address that is not 4-byte aligned traps with `align` (R58). -/
def execEret (s : State) : Res :=
  if !s.me.pl then illegalRes s .eret
  else if s.me.epc.toNat % 4 != 0 then trapRes s .align s.me.epc
  else .next (s.setMe s.me.eret)

/-- R334: a report can be taken: the thread is between two instructions, or in a wait that a report ends. -/
def Thread.takesReport (t : Thread) : Bool := t.ie && !t.pl && !t.reps.isEmpty && !t.parked && t.served.isNone && t.got.isEmpty

/-- R359 `wfi`: waits until the token queue is nonempty or a report can be taken. -/
def execWfi (s : State) : Res :=
  if !s.me.toks.isEmpty || s.me.takesReport then retire s fun t => { t with inWfi := false }
  else .next (s.setMe { s.me with inWfi := true })

/-- R334: between two instructions, a nonempty queue traps a thread at pl0 whose reports are enabled. -/
def execReportTrap (s : State) : Res :=
  let t := s.me
  match t.reps with
  | r :: _ => if t.live && !t.dead && t.takesReport then .next (s.setMe (t.reportTrap r)) else waits s
  | [] => waits s

/-! ### Invalidation (R360, R354) -/

/-- R354: armed watch entries of a hall's threads of a root, whose VA satisfies a test, latch eviction. -/
def State.evictWatches (s : State) (hall : Nat) (root : BitVec 37) (f : Nat → Bool) : State :=
  let one : Thread → Thread := fun t =>
    if t.lroot = root then
      { t with m := t.m.map fun q => (q.1, if q.2.armed && f q.2.va.toNat then { q.2 with armed := false, cause := 3 } else q.2) }
    else t
  { s with threads := s.threads.map fun p => if p.1 / 4 = hall then (p.1, one p.2) else p }

/-- R360: drops translations of a root that satisfy a test. -/
def State.dropTlb (s : State) (hall : Nat) (root : BitVec 37) (f : TlbEnt → Bool) (g : Nat → Bool) : State :=
  let l := Tab.get s.lctlb hall []
  let gone := l.filter fun e => e.root == root && f e
  ({ s with lctlb := Tab.put s.lctlb hall (l.filter fun e => !(e.root == root && f e)) }).evictWatches hall root
    fun va => g va || gone.any fun e => e.covers root va

/-- R360 `inval.tlb`: drops every entry of the thread's root. -/
def execInvalTlb (s : State) : Res :=
  retire (s.dropTlb s.focus.hall s.me.lroot (fun _ => true) (fun _ => true)) id

/-- R360 `inval.tlbva`: drops the entry that translates xa. -/
def execInvalTlbva (a : BitVec 5) (s : State) : Res :=
  let va := (s.me.rx a).v.toNat
  retire (s.dropTlb s.focus.hall s.me.lroot (fun e => e.covers s.me.lroot va) (fun w => w / 65536 == va / 65536)) id

/-- R360, R338 `inval.icache`: drops every line of the hall's instruction cache. -/
def execInvalIcache (s : State) : Res := retire { s with icache := Tab.del s.icache s.focus.hall } id

/-- R360 `inval.iline`: drops the instruction-cache line that holds xa; lines are held by the PA that xa translates to. -/
def execInvalIline (a : BitVec 5) (s : State) : Res :=
  match s.xlate (s.me.rx a).v .exec with
  | (s, .error _) => retire s id
  | (s, .ok x) =>
    retire { s with icache := Tab.upd s.icache s.focus.hall [] fun l => Tab.del l (x.pa / 64) } id

end Sys2Proof.Machine
end

