-- ==== Sys2Proof/Machine/Fabric.lean ====
section
/-! DEFINITION. The stream network (R16–R26, R59–R62, R66, R263, R450): elements and their neighbours, links, route classes, local delivery, hall ports, and the return lanes. -/

namespace Sys2Proof.Machine

/-- Keeps the entries of a table whose keys satisfy a test. -/
def Tab.keep {β : Type} (t : Tab β) (f : Nat → Bool) : Tab β := t.filter fun p => f p.1

/-! ### Elements (R17, R19, R96) -/

/-- R17: the kinds of bay. -/
inductive BayKind where
  | a | s | m
  deriving DecidableEq, Repr

/-- R17: the kind of bay 8 × row + column. -/
def bayKind (b : Nat) : BayKind :=
  match b / 8 % 2, b % 2 with
  | 0, 0 => .a
  | 0, _ => .s
  | _, 0 => .m
  | _, _ => .a

/-- R96: the quad of a bay. -/
def quadOf (b : Nat) : Nat := 4 * (b / 16) + b % 8 / 2
/-- R17: the M-bay of a quad. -/
def mbayOf (q : Nat) : Nat := 8 * (2 * (q / 4) + 1) + 2 * (q % 4)
/-- R17: the even-row, even-column A-bay of a quad. -/
def firstABay (q : Nat) : Nat := 8 * (2 * (q / 4)) + 2 * (q % 4)

/-- Element codes: bay b is b, stair n is 64 + n, row r of a hall's gallery is 80 + r, row r of a west edge with no hall
beyond it is 88 + r. -/
def stairElem (n : Nat) : Nat := 64 + n
def galElem (r : Nat) : Nat := 80 + r
def edgeElem (r : Nat) : Nat := 88 + r

/-- Directions: 0 north, 1 east, 2 south, 3 west; 4 is a port; as a source 5 is the element itself. -/
def dirN : Nat := 0
def dirE : Nat := 1
def dirS : Nat := 2
def dirW : Nat := 3

/-- R370: the grid position of a module hall. -/
def hallGrid (h : Nat) : Nat :=
  let w := h / 16
  let k := h % 16
  8 * (4 * (w / 2) + k / 4) + (4 * (w % 2) + k % 4)

/-- R370: the hall beside a hall in a direction, where one exists. -/
def hallBeside (h dir : Nat) : Option Nat :=
  let g := hallGrid h
  match dir with
  | 0 => if g / 8 = 0 then none else some (gridHall (g - 8))
  | 1 => if g % 8 = 7 then none else some (gridHall (g + 1))
  | 2 => if g / 8 = 7 then none else some (gridHall (g + 8))
  | _ => if g % 8 = 0 then none else some (gridHall (g - 1))

/-- R17, R19, R263: the link input that a bay's output in a direction reaches. -/
def bayOut (h b dir : Nat) : Nat :=
  let r := b / 8
  let c := b % 8
  match dir with
  | 0 => if r = 0 then lkey h (stairElem c) 0 else lkey h (b - 8) dirS
  | 1 => if c = 7 then lkey h (galElem r) dirW else lkey h (b + 1) dirW
  | 2 => if r = 7 then lkey h (stairElem (8 + c)) 0 else lkey h (b + 8) dirN
  | _ => if c = 0 then (match hallBeside h 3 with
      | some w => lkey w (galElem r) dirE
      | none => lkey h (edgeElem r) dirE) else lkey h (b - 1) dirE

/-- R19: the bay of a stair, and the side on which the stair's tokens reach it. -/
def stairBay (n : Nat) : Nat := if n < 8 then n else 56 + (n - 8)
def stairBaySide (n : Nat) : Nat := if n < 8 then dirN else dirS

/-- R165: the stair that faces a stair across the hall edge: hall and stair. -/
def facingStair (h n : Nat) : Option (Nat × Nat) :=
  if n < 8 then (hallBeside h 0).map fun k => (k, n + 8) else (hallBeside h 2).map fun k => (k, n - 8)

/-! ### Configurations -/

def State.cfg (s : State) (hall elem ctx : Nat) : ElemCfg := Tab.get s.cfgs (ckey hall elem ctx) {}

/-- R66: a route-class entry. -/
def State.route66 (s : State) (hall elem ctx rc : Nat) : W32 := Tab.get (s.cfg hall elem ctx).routes rc 0

/-- R83: the first configuration word with an opcode. -/
def cfgWord (ws : List W64) (op : Nat) : Option W64 := ws.find? fun w => bitsN w 63 58 == op

/-- R83: the mode word of an S-bay's slot. -/
def modeWord (ws : List W64) : Option W64 :=
  ws.find? fun w => [0x01, 0x03, 0x04, 0x05, 0x06, 0x07, 0x08, 0x09, 0x1D].contains (bitsN w 63 58)

/-- R241: the inputs that a mode uses. -/
def unitInputs (ws : List W64) : Nat :=
  match modeWord ws with
  | none => 0
  | some w => match bitsN w 63 58 with
    | 0x03 => bitsN w 57 56 + 1
    | 0x04 => bitsN w 57 56 + 1
    | 0x05 => 2
    | 0x1D => 4
    | _ => 1

/-- R241, R242: the local channel of an input. -/
def inputChan (ws : List W64) (i : Nat) : Nat :=
  match cfgWord ws 0x0D with
  | none => i
  | some w => bitsN w (57 - 4 * i) (54 - 4 * i)

/-- R242: the route class of an output. -/
def outputClass (ws : List W64) (k : Nat) : Nat :=
  match cfgWord ws 0x0E with
  | none => k
  | some w => bitsN w (57 - 5 * k) (53 - 5 * k)

/-! ### Tokens -/

/-- R59: the codes of the kinds. -/
def TokKind.code : TokKind → Nat
  | .data => 0 | .stop => 1 | .done => 2 | .marker => 3 | .roundEnd => 4 | .drain => 5 | .snapshot => 6 | .skip => 7
def TokKind.ofCode (n : Nat) : TokKind :=
  match n with
  | 0 => .data | 1 => .stop | 2 => .done | 3 => .marker | 4 => .roundEnd | 5 => .drain | 6 => .snapshot | _ => .skip

/-- R59: the 24-bit header. -/
def Token.header (t : Token) : Nat :=
  t.kind.code * 2 ^ 21 + t.level.toNat * 2 ^ 18 + t.ctx.toNat * 2 ^ 16 + t.round.toNat * 2 ^ 12 +
    (if t.poison then 2 ^ 11 else 0) + t.chan.toNat * 2 ^ 7 + t.width.toNat * 2 ^ 4 + t.beat.toNat

/-- R59: a token from its header and payload. -/
def Token.ofHeader (h : Nat) (pay : W64) : Token :=
  { kind := TokKind.ofCode (h / 2 ^ 21 % 8), level := BitVec.ofNat 3 (h / 2 ^ 18), ctx := BitVec.ofNat 2 (h / 2 ^ 16),
    round := BitVec.ofNat 4 (h / 2 ^ 12), poison := h / 2 ^ 11 % 2 = 1, chan := BitVec.ofNat 4 (h / 2 ^ 7),
    width := BitVec.ofNat 3 (h / 2 ^ 4), beat := BitVec.ofNat 4 h, payload := pay }

/-- R60: the poison bit counts on data tokens only. -/
def Token.poisoned (t : Token) : Bool := t.kind == .data && t.poison

/-- R62: a beat of a vector that is not its last. -/
def Token.midBeat (t : Token) : Bool := t.kind == .data && t.width == 3 && !t.level.getLsbD 0

/-! ### Links (R22, R24, R62) -/

def State.link (s : State) (k : Nat) : List Token := Tab.get s.links k []

/-- R22, R62: an output takes a beat of a source under a context: its ready wire is high, and no vector of that context from another source is
open on it. -/
def State.linkReady (s : State) (k ctx src : Nat) : Bool :=
  (s.link k).isEmpty && (match Tab.find s.vecOpen (4 * k + ctx) with
    | none => true
    | some o => o == src)

/-- R22: puts a beat on a link. -/
def State.putLink (s : State) (k src : Nat) (t : Token) : State :=
  { s with
    links := Tab.upd s.links k [] (· ++ [t])
    feed := Tab.put s.feed (4 * k + t.ctx.toNat) src
    linkAge := Tab.put s.linkAge k s.linkSeq
    linkSeq := s.linkSeq + 1
    vecOpen := if t.midBeat then Tab.put s.vecOpen (4 * k + t.ctx.toNat) src else Tab.del s.vecOpen (4 * k + t.ctx.toNat) }

/-- Removes the head of a link. -/
def State.popLink (s : State) (k : Nat) : State :=
  { s with links := match s.link k with
      | [] => s.links
      | [_] => Tab.del s.links k
      | _ :: t => Tab.put s.links k t }

/-- R406: counts tokens taken on an input of an element (0–4), or sent (5). -/
def State.countTok (s : State) (hall elem ctx slot n : Nat) : State :=
  { s with tokCnt := Tab.upd s.tokCnt (ckey hall elem ctx) [0, 0, 0, 0, 0, 0] fun l => l.modify slot (fun x => (x + n) % 2 ^ 64) }

/-! ### Local delivery -/

def State.bayCtx (s : State) (hall bay ctx : Nat) : BayCtx := Tab.get s.bays (bkey hall bay ctx) {}
def State.setBayCtx (s : State) (hall bay ctx : Nat) (b : BayCtx) : State :=
  { s with bays := Tab.put s.bays (bkey hall bay ctx) b }
def State.unit (s : State) (hall bay ctx : Nat) : SCtx := Tab.get s.units (bkey hall bay ctx) {}
def State.setUnit (s : State) (hall bay ctx : Nat) (u : SCtx) : State :=
  { s with units := Tab.put s.units (bkey hall bay ctx) u }
def State.stair (s : State) (hall n : Nat) : Stair := Tab.get s.stairs (16 * hall + n) {}
def State.setStair (s : State) (hall n : Nat) (x : Stair) : State := { s with stairs := Tab.put s.stairs (16 * hall + n) x }

/-- Reports an element's `cfg` (or another cause) for a token, to the hall's landing core (R66, R388). -/
def State.reportElem (s : State) (c : Cause) (hall elem ctx : Nat) (t : Token) : State :=
  let (e, k) := if elem < 64 then (elem, 0) else if elem < 80 then (elem - 64, 1) else (0, 2)
  let w : Site := { hall := hall, elem := e, eclass := k, ctx := ctx }
  s.reportDiscard c w (elemRecord c w (s.logCtx hall ctx) t.header t.payload.toNat)

/-! ### Eligible handlers (R205, R208, R379) -/

/-- R205: the fields of a handler entry. -/
def hV (w : W64) : Bool := bitB w 63
def hCw (w : W64) : Bool := bitB w 61
def hChan (w : W64) : Nat := bitsN w 60 57
def hPrio (w : W64) : Nat := bitsN w 56 53
def hFrame (w : W64) : Nat := bitsN w 52 47
def hFwd (w : W64) : Nat := bitsN w 46 42

/-- R205, R336: a handler is masked, by its entry or through `hmsk`. -/
def BayCtx.masked' (c : BayCtx) (w : W64) (h : Nat) : Bool :=
  match c.msk with
  | some m => bitB m h
  | none => bitB w 62

/-- R208: the head of a handler's channel would make it runnable, its mask apart. -/
def BayCtx.headRuns (c : BayCtx) (w : W64) : Bool :=
  hV w && (match Tab.get c.chans (hChan w) [] with
    | [] => false
    | t :: _ => t.kind == .data || hCw w)

/-- R379: notes which handlers have become eligible, with wait count 0, and which are so no longer. -/
def BayCtx.refresh (c : BayCtx) (hs : Tab W64) : BayCtx :=
  (List.range 16).foldl (fun c h =>
    if c.headRuns (Tab.get hs h 0) then
      (if (Tab.find c.since h).isSome then c
       else { c with since := Tab.put c.since h c.selCnt, waits := Tab.put c.waits h 0 })
    else { c with since := Tab.del c.since h }) { c with selCnt := c.selCnt + 1 }

/-- R207, R241, R200: a token joins a local channel's queue; none while the queue is full. A channel that an S-bay does not
use discards the token and reports `cfg` (R241). `ing` is the ingress channel the token came from, 0 for none. -/
def State.deliver (s : State) (hall bay ctx chan : Nat) (t : Token) (ing : Nat := 0) : Option State :=
  match bayKind bay with
  | .a =>
    let b := s.bayCtx hall bay ctx
    if (Tab.get b.chans chan []).length < 4 then
      some (s.setBayCtx hall bay ctx (BayCtx.refresh { b with
        chans := Tab.upd b.chans chan [] (· ++ [t]), ingr := Tab.upd b.ingr chan [] (· ++ [ing]) }
        (s.cfg hall bay ctx).handlers))
    else none
  | .s =>
    let ws := (s.cfg hall bay ctx).words
    let u := s.unit hall bay ctx
    (match (List.range (unitInputs ws)).find? (fun i => inputChan ws i == chan) with
    | some i =>
      if (Tab.get u.q i []).length < 8 then
        some (s.setUnit hall bay ctx { u with q := Tab.upd u.q i [] (· ++ [t]), arr := u.arr ++ [i] })
      else none
    | none =>
      (match cfgWord ws 0x0A with
      | some w =>
        if bitsN w 17 14 = chan then
          (if u.rq.length < 8 then some (s.setUnit hall bay ctx { u with rq := u.rq ++ [t] }) else none)
        else some (s.reportElem .cfg hall bay ctx t)
      | none => some (s.reportElem .cfg hall bay ctx t)))
  | .m =>
    let q := quadOf bay
    let b := s.bank hall q
    let k := 16 * ctx + chan
    if (Tab.get b.chans k []).length < 4 then
      some (s.setBank hall q { b with chans := Tab.upd b.chans k [] (· ++ [t]) })
    else none

/-! ### Hall ports (R173, R187, R450) -/

/-- R187: tokens waiting at a hall port under a context. -/
def State.portWait (s : State) (hall port ctx : Nat) : List Token := Tab.get (s.disp hall).ports (4 * port + ctx) []

/-- R188: a done token passes a port under a context: its sink counter counts. -/
def State.sinkDone (s : State) (h port ctx : Nat) : State :=
  let d := s.disp h
  match Tab.find d.sinks (4 * port + ctx) with
  | none => s
  | some c => s.setDisp h { d with sinks := Tab.put d.sinks (4 * port + ctx) { c with left := c.left - 1, hit := true } }

/-- R188, R377: what a token that passes a port, either way, does to the port's sink counter. -/
def State.portCount (s : State) (h port : Nat) (t : Token) : State :=
  let ctx := t.ctx.toNat
  if t.kind = .done then s.sinkDone h port ctx
  else if t.kind = .marker && t.level = 1 then
    let d := s.disp h
    match Tab.find d.sinks (4 * port + ctx) with
    | none => s
    | some c => s.setDisp h { d with sinks := Tab.put d.sinks (4 * port + ctx) { c with switched := true } }
  else s

/-- R395: a token that a port sends is counted; behind a marker of subtype 0 or a done follows the drain that waits for it. -/
def State.portPass (s : State) (h port : Nat) (t : Token) : State :=
  let s := s.portCount h port t
  if t.kind = .done || (t.kind = .marker && t.level = 0) then s.cutPort h port t.ctx.toNat else s

/-- R187, R188: a token enters a hall port and waits there; none while 64 tokens of its context wait. -/
def State.enterPort (s : State) (hall port ctx : Nat) (t : Token) : Option State :=
  if (s.portWait hall port ctx).length < 64 then
    let d := s.disp hall
    some ((s.setDisp hall { d with ports := Tab.upd d.ports (4 * port + ctx) [] (· ++ [t]) }).portCount hall port t)
  else none

/-- R450: a stream command of a context is queued or running on a port of a hall. -/
def State.portClaimed (s : State) (hall port ctx : Nat) : Bool :=
  (s.disp hall).cmds.any fun c => bitsN c.word 119 114 == port && c.ctx == ctx && !c.done

/-! ### Route classes (R66) -/

/-- The outputs an entry lists. -/
def entryDirs (e : W32) : List Nat := (List.range 4).filter fun d => bitB e (31 - d)

/-- R23: every listed output takes the beat. -/
def State.outsReady (s : State) (hall bay : Nat) (dirs : List Nat) (ctx src : Nat) : Bool :=
  dirs.all fun d => s.linkReady (bayOut hall bay d) ctx src

/-- R23: the token leaves on all the listed outputs at once, with the entry's channel. -/
def State.putOuts (s : State) (hall bay : Nat) (dirs : List Nat) (src : Nat) (t : Token) : State :=
  dirs.foldl (fun s d => s.putLink (bayOut hall bay d) src t) s

/-- R66, R23: a token takes a route-class entry of a bay, from a source: out on the listed links and to the bay's own
handlers or unit; none while any destination cannot take it. An unused entry discards it and reports `cfg`. Route class
31 of a quad's first A-bay, local and without links, sends to the quad's vector port (R231). DESIGN CHOICE (log 54): local delivery writes the local
channel into the token's header, as a link output writes `ochan`; R66 says only which queue it joins. -/
def State.passRoute (s : State) (hall bay rc src : Nat) (t : Token) (own : Bool) (ing : Nat := 0)
    (force : Bool := false) : Option State :=
  let ctx := t.ctx.toNat
  let e := s.route66 hall bay ctx rc
  let dirs := entryDirs e
  let loc := bitB e 27
  let out : Token := { t with chan := BitVec.ofNat 4 (bitsN e 26 23) }
  if dirs.isEmpty && !loc then
    some (s.reportElem .cfg hall bay ctx t)
  else if own && rc = 31 && loc && dirs.isEmpty && bay = firstABay (quadOf bay) && bayKind bay = .a then
    (s.enterPort hall (48 + quadOf bay) ctx out).map fun s => s.countTok hall bay ctx 5 1
  else if !force && !s.outsReady hall bay dirs ctx src then none
  else
    let lc := bitsN e 22 19
    let s' := if loc then
        (s.deliver hall bay ctx lc { t with chan := BitVec.ofNat 4 lc } ing).map fun s =>
          { s with inFrom := Tab.put s.inFrom (16 * ckey hall bay ctx + lc) src }
      else some s
    s'.map fun s =>
      let s := s.putOuts hall bay dirs src out
      let s := if own then s.countTok hall bay ctx 5 1 else s
      if !own && loc then s.countTok hall bay ctx src 1 else s

/-- R378: the firing priority of a slot. -/
def State.firePrio (s : State) (hall ctx : Nat) : Nat :=
  let p := match s.regionAt hall ctx with
    | none => 0
    | some r => (s.region r).eff.prio
  2 * p + if (s.slot hall ctx).switchTo.isSome then 1 else 0

/-- R24: the beat at the head of a link goes before a beat that wants the same output: its context has the higher firing priority, or the same and
it has waited longer. `other` is the link of the other beat, none for one of the element's own: that is sent in the step that offers it, so it has
waited no time (log 54). Beats that arrive on different links do so one after another, so two never have waited equally long. -/
def State.linkFirst (s : State) (hall ctx k : Nat) (octx : Nat) (other : Option Nat) : Bool :=
  let p := s.firePrio hall ctx
  let q := s.firePrio hall octx
  q < p || (p == q && (match other with
    | none => true
    | some k' => Tab.get s.linkAge k 0 < Tab.get s.linkAge k' 0))

/-- R24: a ready beat of another link of a bay goes before one that leaves on these outputs. -/
def State.outBid (s : State) (hall bay : Nat) (dirs : List Nat) (ctx src : Nat) : Bool :=
  (List.range 4).any fun d => d != src && (match s.link (lkey hall bay d) with
    | [] => false
    | t :: _ =>
      let x := t.ctx.toNat
      t.kind != .drain && t.kind != .snapshot && (s.slot hall x).liveAt.contains bay && !s.swapStopped hall bay x &&
        (entryDirs (s.route66 hall bay x t.chan.toNat)).any dirs.contains &&
        s.linkFirst hall x (lkey hall bay d) ctx (if src < 4 then some (lkey hall bay src) else none) &&
        ((s.popLink (lkey hall bay d)).passRoute hall bay t.chan.toNat d t false).isSome)

/-- R66, R24: a token takes a route-class entry of a bay when no other beat goes first on an output it needs. -/
def State.takeRoute (s : State) (hall bay rc src : Nat) (t : Token) (own : Bool) (ing : Nat := 0)
    (force : Bool := false) : Option State :=
  if !force && s.outBid hall bay (entryDirs (s.route66 hall bay t.ctx.toNat rc)) t.ctx.toNat src then none
  else s.passRoute hall bay rc src t own ing force

/-- R66: a token that originates in a bay leaves under the route class its producer names. -/
def State.sendToken (s : State) (hall bay rc : Nat) (t : Token) : Option State := s.takeRoute hall bay rc 5 t true

end Sys2Proof.Machine
end

