-- ==== Sys2Proof/Machine/Operands.lean ====
section
/-! DEFINITION. The operand forms of bay instructions (R67, R68, R210), and when an instruction is ready, fires or is nullified (R211, R212). -/

namespace Sys2Proof.Machine

/-- R68: the operand form, 0 slot, 1 left register, 2 two registers, 3 immediate. -/
def formOf (f : BitVec 13) : Nat := bitsN f 12 11
/-- R68: the 8-bit field `x` of the slot form. -/
def xOf (f : BitVec 13) : Nat := bitsN f 10 3
/-- R68: the registers of the register forms. -/
def raOf (f : BitVec 13) : Nat := bitsN f 10 7
def rbOf (f : BitVec 13) : Nat := bitsN f 6 3
/-- R68: the rounding or condition code. -/
def qOf (f : BitVec 13) : Nat := bitsN f 2 0
/-- R68: SignExt(`imm11`). -/
def immOf (f : BitVec 13) : W32 := (f.extractLsb' 0 11).signExtend 32

/-- R210: the data slots an instruction reads. -/
inductive Reads where
  | none | one | two | left | right
  deriving DecidableEq, Repr

/-- R210, R220–R235: the slots that the slot form of an opcode reads. -/
def slotReads (op : Nat) (f : BitVec 13) : Reads :=
  if op = 0x15 || op = 0x16 || op = 0x1C || (0x20 ≤ op && op ≤ 0x2B) || op = 0x2D || op = 0x46 || op = 0x48 || op = 0x4C ||
      op = 0x4E || op = 0x55 || op = 0x56 || op = 0x58 || op = 0x5D || op = 0x5E then .one
  else if op ≤ 0x1F || op = 0x3F || op = 0x45 || op = 0x4D || op = 0x52 || op = 0x53 || op = 0x54 || op = 0x57 then .two
  else if op = 0x44 then .left
  else if op = 0x5A then (if bitsN f 10 8 = 1 || bitsN f 10 8 = 2 then .two else .one)
  else if op = 0x5C then (if bitsN f 10 9 = 1 || bitsN f 10 9 = 2 then .left else .none)
  else .none

/-- R68, R210: the slots an instruction reads in its form. -/
def readsOf (op : Nat) (f : BitVec 13) : Reads :=
  match formOf f with
  | 0 => slotReads op f
  | 1 => .right
  | 2 => .none
  | _ => .left

/-- R212: the ordered instructions. -/
def isOrdered (op : Nat) : Bool := (0x2C ≤ op && op ≤ 0x55) || (0x58 ≤ op && op ≤ 0x5B) || op = 0x5D

/-- R69: a word of a block frame; the filler where nothing was loaded. -/
def State.bayWord (s : State) (hall bay ctx frame k : Nat) : W32 :=
  Tab.get (s.cfg hall bay ctx).store (16 * frame + k) 0xFFFFFFFF

/-- The opcode of a bay word. -/
def opOf (w : W32) : Nat := bitsN w 31 25

/-- R69: the words of a frame up to its first `br`. -/
def State.blockWords (s : State) (hall bay ctx frame : Nat) : List W32 :=
  let ws := (List.range 16).map (s.bayWord hall bay ctx frame)
  match ws.findIdx? (fun w => opOf w == 0x5C) with
  | some n => ws.take (n + 1)
  | none => []

/-- R67: a target names the predicate slot of an instruction. -/
def namesPred (w : W32) (idx : Nat) : Bool := bitsN w 24 19 == 32 + idx || bitsN w 18 13 == 32 + idx

/-- A slot of a block: 0 left, 1 right, 2 predicate. -/
def Block.slot (b : Block) (idx k : Nat) : Option SlotVal := Tab.find b.slots (3 * idx + k)

/-- What an instruction's slots allow. -/
inductive Ready where
  /-- a slot it reads is empty, or an ordered instruction before it has not fired -/
  | wait
  /-- R211: it is nullified -/
  | null
  /-- it fires on these operands and predicate -/
  | go (a b : PW32) (p : Option PW32)
  deriving DecidableEq, Repr

/-- R204 b0–b15. -/
def BayCtx.reg (c : BayCtx) (n : Nat) : PW32 := Tab.get c.b n {}

/-- R68, R220, R221: the unary instructions that also take form R. -/
def isUnary (op : Nat) : Bool := op = 0x15 || op = 0x16 || op = 0x1C || (0x20 ≤ op && op ≤ 0x2B)

/-- R211: the operands of an instruction from its slots and registers, with null kept. -/
def rawOperands (c : BayCtx) (b : Block) (idx op : Nat) (f : BitVec 13) : Option (SlotVal × SlotVal) :=
  let l := b.slot idx 0
  let r := b.slot idx 1
  let zero : SlotVal := .val {}
  match formOf f with
  | 0 => (match slotReads op f with
    | .none => some (zero, zero)
    | .one => (match l, r with
      | some v, _ => some (v, zero)
      | none, some v => some (v, zero)
      | none, none => none)
    | .left => l.map fun v => (v, zero)
    | .right => r.map fun v => (zero, v)
    | .two => (match l, r with
      | some v, some w => some (v, w)
      | _, _ => none))
  | 1 => r.map fun v => (.val (c.reg (raOf f)), v)
  | 2 => some (.val (c.reg (raOf f)), if isUnary op then zero else .val (c.reg (rbOf f)))
  | _ => l.map fun v => (v, .val { v := immOf f })

/-- R210, R211, R212: whether instruction `idx` of the active block waits, is nullified or fires. -/
def State.bayReady (s : State) (hall bay ctx : Nat) (c : BayCtx) (b : Block) (idx op : Nat) (f : BitVec 13) : Ready :=
  let ws := s.blockWords hall bay ctx b.frame
  let before := (List.range idx).filter fun k => isOrdered (opOf (ws.getD k 0))
  if b.fired.contains idx || ws.length ≤ idx then .wait
  else if isOrdered op && !(before.all b.fired.contains) then .wait
  else
    let need := op = 0x17 || op = 0x56
    let named := (ws.take idx).any fun w => namesPred w idx
    match rawOperands c b idx op f with
    | none => .wait
    | some (x, y) =>
      let p := if op ≠ 0x5C && (need || named) then b.slot idx 2 else some (.val { v := 1 })
      match p with
      | none => .wait
      | some pv =>
        if op = 0x57 then
          -- merge: R229
          let has := named
          match pv with
          | .null => .null
          | .val q =>
            if q.poison && has then .go {} {} (some q)
            else
              let pick := if has then (if bitB q.v 0 then x else y) else (match x with | .null => y | .val _ => x)
              (match pick with
              | .null => .null
              | .val v => .go v v (some { q with poison := false }))
        else if op = 0x5C then
          (match x with
          | .null => .go {} {} none
          | .val v => .go v {} (some {}))
        else
          match pv with
          | .null => .null
          | .val q =>
            if !need && !bitB q.v 0 then .null
            else match x, y with
              | .val v, .val w => .go v w (if need || named then some q else none)
              | _, _ => .null

end Sys2Proof.Machine
end

