-- ==== Sys2Proof/Machine/Flags.lean ====
section
/-! DEFINITION. Flags and conditions of the bays: the sticky flag words (R46, R215), the conditions of compares (R71, R220, R221). -/

namespace Sys2Proof.Machine

/-- R46, R215: flags accrue into a flag word, but not from a poisoned result. -/
def accrue (fs fl : BitVec 6) (pois : Bool) : BitVec 6 := if pois then fs else fs ||| fl

/-- R71, R220: a condition between two 32-bit values. -/
def cond32 (q : Nat) (a b : W32) : Bool :=
  match q with
  | 0 => a == b
  | 1 => a != b
  | 2 => a.slt b
  | 3 => !a.slt b
  | 4 => a.ult b
  | _ => !a.ult b

/-- R220: a signed sum or difference clamped to 32 bits, with overflow. -/
def clampS (v : Int) : W32 × BitVec 6 :=
  if v > 2 ^ 31 - 1 then (0x7FFFFFFF, flOver)
  else if v < -(2 ^ 31) then (0x80000000, flOver)
  else (BitVec.ofInt 32 v, 0)

/-- R220: an unsigned sum or difference clamped to 32 bits, with overflow. -/
def clampU (v : Int) : W32 × BitVec 6 :=
  if v > 2 ^ 32 - 1 then (0xFFFFFFFF, flOver)
  else if v < 0 then (0, flOver)
  else (BitVec.ofInt 32 v, 0)

end Sys2Proof.Machine
end

