-- ==== Sys2Proof/Machine/BayOps.lean ====
section
/-! DEFINITION. How a bay instruction fires (R211–R216): the results go to the targets, a trap abandons the block and reports. -/

namespace Sys2Proof.Machine

/-- The focused A-bay context. -/
def State.myBay (s : State) : BayCtx := s.bayCtx s.focus.hall s.focus.elem s.focus.ctx
def State.setMyBay (s : State) (c : BayCtx) : State := s.setBayCtx s.focus.hall s.focus.elem s.focus.ctx c
def State.updMyBay (s : State) (f : BayCtx → BayCtx) : State := s.setMyBay (f s.myBay)

/-- R67, R213: a value reaches a target: a slot of a later instruction, or a register at retirement. A null leaves a
register unchanged. -/
def Block.put (b : Block) (idx : Nat) (t : BitVec 6) (v : SlotVal) : Block :=
  let k := bitsN t 3 0
  match bitsN t 5 4 with
  | 3 => (match v with
    | .val w => if k = 0 then b else { b with regw := b.regw ++ [(k, idx, w)] }
    | .null => b)
  | j => { b with slots := Tab.put b.slots (3 * k + j) v }

/-- R210, R211: an instruction has fired or been nullified, and its two targets receive values. -/
def Block.done (b : Block) (idx : Nat) (t u : BitVec 6) (v w : SlotVal) : Block :=
  ({ b with fired := b.fired ++ [idx] }.put idx t v).put idx u w

/-- Changes the active block. -/
def BayCtx.updBlk (c : BayCtx) (f : Block → Block) : BayCtx :=
  { c with task := c.task.map fun k => { k with blk := f k.blk } }

/-- What an instruction's own description gives when it fires. -/
inductive BOut where
  /-- the values of targets 0 and 1 -/
  | out (s : State) (v w : SlotVal)
  /-- the value of both targets comes from the bank later -/
  | later (s : State)
  /-- it cannot fire yet -/
  | wait
  /-- it has made progress and fires later -/
  | hold (s : State)
  /-- R216: the task traps: cause, alias class, address word, and store data or left operand -/
  | trap (s : State) (c : Cause) (cls : Nat) (addr data : W32)

/-- One value to both targets. -/
def BOut.val (s : State) (v : W32) (p : Bool) : BOut := .out s (.val { v := v, poison := p }) (.val { v := v, poison := p })

/-- R388 `rkind` 1: the record of an A-bay trap. -/
def bayRecord (s : State) (hall bay ctx idx : Nat) (k : Task) (w : W32) (c : Cause) (cls : Nat) (addr data : W32) :
    BitVec 512 :=
  let r := recHead c hall (s.logCtx hall ctx) 1
  let r := recPut (recPut (recPut (recPut (recPut r 484 8 cls) 478 6 bay) 458 6 k.blk.frame) 454 4 idx) 450 4 k.hent
  recPut (recPut (recPut (recPut (recPut r 416 32 w.toNat) 384 32 addr.toNat) 360 24 k.last.header) 288 64
    k.last.payload.toNat) 256 32 data.toNat

/-- R216: a task traps: the rest of the block and its register writes are dropped, with the answers its loads still wait for, no further block or
handler is entered, and the trap is reported. -/
def State.bayTrap (s : State) (hall bay ctx idx : Nat) (w : W32) (c : Cause) (cls : Nat) (addr data : W32) : State :=
  let b := s.bayCtx hall bay ctx
  match b.task with
  | none => s
  | some k =>
    let s := s.setBayCtx hall bay ctx { b with
      trapped := true
      rob := b.rob.map fun e => { e with reply := .drop }
      task := some { k with pos := 0, got := [], blk := { k.blk with slots := [], regw := [], inflight := [] } } }
    s.report hall ctx (bayRecord s hall bay ctx idx k w c cls addr data)

/-- R215: a poisoned predicate that an instruction reads poisons its result; `ispois` alone is exempt, and `merge` has
shed the bit already. -/
def SlotVal.taint (p : Option PW32) (op : Nat) : SlotVal → SlotVal
  | .null => .null
  | .val w => .val { w with poison := w.poison || ((p.map (·.poison)).getD false && op != 0x5E) }

/-- The poison of the predicate read, if any. -/
def predPois (p : Option PW32) : Bool := (p.map (·.poison)).getD false

/-- R211: fires, nullifies or holds back the focused instruction; `body` is the instruction's own description. -/
def bayFire (s : State) (op : Nat) (t u : BitVec 6) (f : BitVec 13) (body : State → PW32 → PW32 → Option PW32 → BOut) : Res :=
  let h := s.focus.hall
  let e := s.focus.elem
  let x := s.focus.ctx
  let i := s.focus.idx
  let c := s.myBay
  match c.task with
  | none => waits s
  | some k =>
    if c.trapped || s.halted h e x then waits s
    else match s.bayReady h e x c k.blk i op f with
      | .wait => waits s
      | .null => .next (s.updMyBay fun c => c.updBlk fun b => b.done i t u .null .null)
      | .go a b p =>
        match body s a b p with
        | .out s v w => .next (s.updMyBay fun c => c.updBlk fun b => b.done i t u (v.taint p op) (w.taint p op))
        | .later s => .next (s.updMyBay fun c => c.updBlk fun b =>
            { b with fired := b.fired ++ [i], inflight := b.inflight ++ [i] })
        | .wait => waits s
        | .hold s => .next s
        | .trap s c cls addr data => .next (s.bayTrap h e x i (s.bayWord h e x k.blk.frame i) c cls addr data)

/-- R220: an integer instruction: its value and the flags it raises; poison passes through. -/
def bayInt (s : State) (op : Nat) (t u : BitVec 6) (f : BitVec 13) (g : W32 → W32 → W32 × BitVec 6) : Res :=
  bayFire s op t u f fun s a b q =>
    let r := g a.v b.v
    let p := a.poison || b.poison || predPois q
    .val (s.updMyBay fun c => { c with fs := accrue c.fs r.2 p }) r.1 p

/-- R221: a floating-point instruction on patterns, with its flags. -/
def bayFp (s : State) (op : Nat) (t u : BitVec 6) (f : BitVec 13) (g : Nat → Nat → Nat × BitVec 6) : Res :=
  bayInt s op t u f fun a b => let r := g a.toNat b.toNat; (w32 r.1, r.2)

end Sys2Proof.Machine
end

