-- ==== Sys2Proof/Machine/BayInt.lean ====
section
/-! DEFINITION. The integer instructions of the A-bays (R220), opcodes 0x00–0x17. -/

namespace Sys2Proof.Machine

/-- R220 `add.i32`. -/
def execBayAddI32 (t u : BitVec 6) (f : BitVec 13) (s : State) : Res :=
  bayInt s 0x00 t u f fun a b => (a + b, 0)
/-- R220 `sub.i32`. -/
def execBaySubI32 (t u : BitVec 6) (f : BitVec 13) (s : State) : Res :=
  bayInt s 0x01 t u f fun a b => (a - b, 0)
/-- R220 `adds.i32`. -/
def execBayAddsI32 (t u : BitVec 6) (f : BitVec 13) (s : State) : Res :=
  bayInt s 0x02 t u f fun a b => clampS (a.toInt + b.toInt)
/-- R220 `subs.i32`. -/
def execBaySubsI32 (t u : BitVec 6) (f : BitVec 13) (s : State) : Res :=
  bayInt s 0x03 t u f fun a b => clampS (a.toInt - b.toInt)
/-- R220 `adds.n32`. -/
def execBayAddsN32 (t u : BitVec 6) (f : BitVec 13) (s : State) : Res :=
  bayInt s 0x04 t u f fun a b => clampU ((a.toNat : Int) + b.toNat)
/-- R220 `subs.n32`. -/
def execBaySubsN32 (t u : BitVec 6) (f : BitVec 13) (s : State) : Res :=
  bayInt s 0x05 t u f fun a b => clampU ((a.toNat : Int) - b.toNat)
/-- R220 `mul.i32`. -/
def execBayMulI32 (t u : BitVec 6) (f : BitVec 13) (s : State) : Res :=
  bayInt s 0x06 t u f fun a b => (a * b, 0)
/-- R220 `mulh.i32`. -/
def execBayMulhI32 (t u : BitVec 6) (f : BitVec 13) (s : State) : Res :=
  bayInt s 0x07 t u f fun a b => ((a.signExtend 64 * b.signExtend 64).extractLsb' 32 32, 0)
/-- R220 `mulh.n32`. -/
def execBayMulhN32 (t u : BitVec 6) (f : BitVec 13) (s : State) : Res :=
  bayInt s 0x08 t u f fun a b => ((a.zeroExtend 64 * b.zeroExtend 64).extractLsb' 32 32, 0)
/-- R220 `min.i32`. -/
def execBayMinI32 (t u : BitVec 6) (f : BitVec 13) (s : State) : Res :=
  bayInt s 0x09 t u f fun a b => (if b.slt a then b else a, 0)
/-- R220 `max.i32`. -/
def execBayMaxI32 (t u : BitVec 6) (f : BitVec 13) (s : State) : Res :=
  bayInt s 0x0a t u f fun a b => (if a.slt b then b else a, 0)
/-- R220 `min.n32`. -/
def execBayMinN32 (t u : BitVec 6) (f : BitVec 13) (s : State) : Res :=
  bayInt s 0x0b t u f fun a b => (if b.ult a then b else a, 0)
/-- R220 `max.n32`. -/
def execBayMaxN32 (t u : BitVec 6) (f : BitVec 13) (s : State) : Res :=
  bayInt s 0x0c t u f fun a b => (if a.ult b then b else a, 0)
/-- R220 `and`. -/
def execBayAnd (t u : BitVec 6) (f : BitVec 13) (s : State) : Res :=
  bayInt s 0x0d t u f fun a b => (a &&& b, 0)
/-- R220 `or`. -/
def execBayOr (t u : BitVec 6) (f : BitVec 13) (s : State) : Res :=
  bayInt s 0x0e t u f fun a b => (a ||| b, 0)
/-- R220 `xor`. -/
def execBayXor (t u : BitVec 6) (f : BitVec 13) (s : State) : Res :=
  bayInt s 0x0f t u f fun a b => (a ^^^ b, 0)
/-- R220 `shl`. -/
def execBayShl (t u : BitVec 6) (f : BitVec 13) (s : State) : Res :=
  bayInt s 0x10 t u f fun a b => (if b.toNat < 32 then a <<< b.toNat else 0, 0)
/-- R220 `shr`. -/
def execBayShr (t u : BitVec 6) (f : BitVec 13) (s : State) : Res :=
  bayInt s 0x11 t u f fun a b => (if b.toNat < 32 then a >>> b.toNat else 0, 0)
/-- R220 `sra`. -/
def execBaySra (t u : BitVec 6) (f : BitVec 13) (s : State) : Res :=
  bayInt s 0x12 t u f fun a b => (a.sshiftRight (min b.toNat 31), 0)
/-- R220 `cmp.i32`. -/
def execBayCmpI32 (t u : BitVec 6) (f : BitVec 13) (s : State) : Res :=
  bayInt s 0x13 t u f fun a b => (if cond32 (qOf f) a b then 1 else 0, 0)
/-- R220 `cmp.n32`. -/
def execBayCmpN32 (t u : BitVec 6) (f : BitVec 13) (s : State) : Res :=
  bayInt s 0x14 t u f fun a b => (if cond32 (qOf f) a b then 1 else 0, 0)
/-- R220 `clz`: 32 for 0. -/
def execBayClz (t u : BitVec 6) (f : BitVec 13) (s : State) : Res :=
  bayInt s 0x15 t u f fun a _ => (if a = 0 then 32 else w32 (31 - Nat.log2 a.toNat), 0)
/-- R220 `popc`. -/
def execBayPopc (t u : BitVec 6) (f : BitVec 13) (s : State) : Res :=
  bayInt s 0x16 t u f fun a _ => (w32 ((List.range 32).filter (bitB a)).length, 0)
/-- R220 `sel`: the predicate's bit 0 chooses; its poison, and the chosen operand's, pass on. -/
def execBaySel (t u : BitVec 6) (f : BitVec 13) (s : State) : Res :=
  bayFire s 0x17 t u f fun s a b p =>
    let v := if bitB (p.getD {}).v 0 then a else b
    .val s v.v v.poison

end Sys2Proof.Machine
end

