-- ==== Sys2Proof/Machine/BayFp.lean ====
section
/-! DEFINITION. The floating-point and conversion instructions of the A-bays (R221), opcodes 0x18–0x2B. -/

namespace Sys2Proof.Machine

/-- R221 `add.fp32`. -/
def execBayAddFp32 (t u : BitVec 6) (f : BitVec 13) (s : State) : Res :=
  bayFp s 0x18 t u f fun a b => addF fp32 (qOf f) (decodeF fp32 a) (decodeF fp32 b)
/-- R221 `sub.fp32`. -/
def execBaySubFp32 (t u : BitVec 6) (f : BitVec 13) (s : State) : Res :=
  bayFp s 0x19 t u f fun a b => addF fp32 (qOf f) (decodeF fp32 a) (negF (decodeF fp32 b))
/-- R221 `mul.fp32`. -/
def execBayMulFp32 (t u : BitVec 6) (f : BitVec 13) (s : State) : Res :=
  bayFp s 0x1a t u f fun a b => mulF fp32 (qOf f) (decodeF fp32 a) (decodeF fp32 b)
/-- R221 `div.fp32`. -/
def execBayDivFp32 (t u : BitVec 6) (f : BitVec 13) (s : State) : Res :=
  bayFp s 0x1b t u f fun a b => divF fp32 (qOf f) (decodeF fp32 a) (decodeF fp32 b)
/-- R221 `sqrt.fp32`. -/
def execBaySqrtFp32 (t u : BitVec 6) (f : BitVec 13) (s : State) : Res :=
  bayFp s 0x1c t u f fun a _ => sqrtF fp32 (qOf f) (decodeF fp32 a)
/-- R221 `min.fp32`. -/
def execBayMinFp32 (t u : BitVec 6) (f : BitVec 13) (s : State) : Res :=
  bayFp s 0x1d t u f fun a b => (minmaxF fp32 false a b, 0)
/-- R221 `max.fp32`. -/
def execBayMaxFp32 (t u : BitVec 6) (f : BitVec 13) (s : State) : Res :=
  bayFp s 0x1e t u f fun a b => (minmaxF fp32 true a b, 0)
/-- R221 `cmp.fp32`. -/
def execBayCmpFp32 (t u : BitVec 6) (f : BitVec 13) (s : State) : Res :=
  bayFp s 0x1f t u f fun a b => (if condF fp32 (qOf f) a b then 1 else 0, 0)
/-- R221 `rcp.fp32`. -/
def execBayRcpFp32 (t u : BitVec 6) (f : BitVec 13) (s : State) : Res :=
  bayFp s 0x20 t u f fun a _ => rcpF fp32 (qOf f) (decodeF fp32 a)
/-- R221 `rsqrt.fp32`. -/
def execBayRsqrtFp32 (t u : BitVec 6) (f : BitVec 13) (s : State) : Res :=
  bayFp s 0x21 t u f fun a _ => rsqrtF fp32 (qOf f) (decodeF fp32 a)
/-- R221 `exp2.fp32`. -/
def execBayExp2Fp32 (t u : BitVec 6) (f : BitVec 13) (s : State) : Res :=
  bayFp s 0x22 t u f fun a _ => exp2F fp32 (qOf f) (decodeF fp32 a)
/-- R221 `log2.fp32`. -/
def execBayLog2Fp32 (t u : BitVec 6) (f : BitVec 13) (s : State) : Res :=
  bayFp s 0x23 t u f fun a _ => log2F fp32 (qOf f) (decodeF fp32 a)
/-- R221 `cvt.fp32.i32`. -/
def execBayCvtFp32I32 (t u : BitVec 6) (f : BitVec 13) (s : State) : Res :=
  bayFp s 0x24 t u f fun a _ => cvtFromInt fp32 (qOf f) (w32 a).toInt
/-- R221 `cvt.i32.fp32`. -/
def execBayCvtI32Fp32 (t u : BitVec 6) (f : BitVec 13) (s : State) : Res :=
  bayFp s 0x25 t u f fun a _ => cvtToInt 32 true (qOf f) (decodeF fp32 a)
/-- R221 `cvt.fp32.n32`. -/
def execBayCvtFp32N32 (t u : BitVec 6) (f : BitVec 13) (s : State) : Res :=
  bayFp s 0x26 t u f fun a _ => cvtFromInt fp32 (qOf f) a
/-- R221 `cvt.n32.fp32`. -/
def execBayCvtN32Fp32 (t u : BitVec 6) (f : BitVec 13) (s : State) : Res :=
  bayFp s 0x27 t u f fun a _ => cvtToInt 32 false (qOf f) (decodeF fp32 a)
/-- R221 `cvt.bf16.fp32`. -/
def execBayCvtBf16Fp32 (t u : BitVec 6) (f : BitVec 13) (s : State) : Res :=
  bayFp s 0x28 t u f fun a _ => cvtF bf16 (qOf f) (decodeF fp32 a)
/-- R221 `cvt.fp16.fp32`. -/
def execBayCvtFp16Fp32 (t u : BitVec 6) (f : BitVec 13) (s : State) : Res :=
  bayFp s 0x29 t u f fun a _ => cvtF fp16 (qOf f) (decodeF fp32 a)
/-- R221 `cvt.fp32.bf16`. -/
def execBayCvtFp32Bf16 (t u : BitVec 6) (f : BitVec 13) (s : State) : Res :=
  bayFp s 0x2a t u f fun a _ => cvtF fp32 0 (decodeF bf16 (a % 65536))
/-- R221 `cvt.fp32.fp16`. -/
def execBayCvtFp32Fp16 (t u : BitVec 6) (f : BitVec 13) (s : State) : Res :=
  bayFp s 0x2b t u f fun a _ => cvtF fp32 0 (decodeF fp16 (a % 65536))

end Sys2Proof.Machine
end

