-- ==== Sys2Proof/Machine/BayVec.lean ====
section
/-! DEFINITION. The vector instructions of the A-bays (R218, R222, R232), opcodes 0x2C–0x43. -/

namespace Sys2Proof.Machine

/-! ### Lanes (R218) -/

/-- R218: lane k at a width, with the poison of its word. -/
def VReg.lane (v : VReg) (w k : Nat) : PW32 :=
  { v := (v.v.extractLsb' (w * k) w).setWidth 32, poison := bitB v.pois (w * k / 32) }

/-- Replaces the bits of one lane. -/
def setLane (v : BitVec 1024) (w k : Nat) (x : W32) : BitVec 1024 :=
  let m : BitVec 1024 := BitVec.ofNat 1024 ((2 ^ w - 1) * 2 ^ (w * k))
  (v &&& ~~~m) ||| BitVec.ofNat 1024 (x.toNat % 2 ^ w * 2 ^ (w * k))

/-- R218: the poison of a word after lanes are written: that of the lanes written, and the word's own where a lane of it
keeps its value. -/
def wordPois (old : BitVec 32) (w : Nat) (ls : List (Nat × PW32)) (d : Nat) : Bool :=
  let here := ls.filter fun p => w * p.1 / 32 == d
  if here.isEmpty then bitB old d
  else here.any (fun p => p.2.poison) || (bitB old d && here.length < 32 / w)

/-- 32 bits from a rule for each. -/
def bits32 (g : Nat → Bool) : BitVec 32 := (List.range 32).foldl (fun a i => if g i then a ||| (1#32 <<< i) else a) 0

/-- R218, R222: writes lanes of a register; the others keep their values. -/
def VReg.write (v : VReg) (w : Nat) (ls : List (Nat × PW32)) : VReg :=
  { v with
    v := ls.foldl (fun a p => setLane a w p.1 p.2.v) v.v
    pois := bits32 (wordPois v.pois w ls) }

/-- R204 v0–v7. -/
def BayCtx.vreg (c : BayCtx) (n : Nat) : VReg := Tab.get c.v (n % 8) {}
def BayCtx.setVreg (c : BayCtx) (n : Nat) (v : VReg) : BayCtx := { c with v := Tab.put c.v (n % 8) v }

/-- R204 `vs`: the width of the shape in bits. -/
def BayCtx.width (c : BayCtx) : Nat := 8 * 2 ^ c.vsW
/-- R218: the lanes an instruction of a lane width acts on. -/
def BayCtx.lanes (c : BayCtx) (w : Nat) : Nat := min c.vsN (1024 / w)

/-- The result 1 of an instruction that only changes the bay's own state. -/
def oneOut (s : State) (f : BayCtx → BayCtx) : BOut := .val (s.updMyBay f) 1 false

/-- R222: a two-address instruction, lane by lane, at width w: the new pattern of a lane and its flags. -/
def vecTwo (op w : Nat) (t u : BitVec 6) (f : BitVec 13) (g : Nat → Nat → Nat × BitVec 6) (s : State) : Res :=
  bayFire s op t u f fun s _ _ _ =>
    oneOut s fun c =>
      let va := c.vreg (raOf f)
      let vb := c.vreg (rbOf f)
      let rs := (List.range (c.lanes w)).map fun k =>
        let a := va.lane w k
        let b := vb.lane w k
        let r := g a.v.toNat b.v.toNat
        let p := a.poison || b.poison
        (k, ({ v := w32 r.1, poison := p } : PW32), if p then (0 : BitVec 6) else r.2)
      let v' := va.write w (rs.map fun r => (r.1, r.2.1))
      if c.vsN = 0 then c else c.setVreg (raOf f) { v' with fl := rs.foldl (fun a r => a ||| r.2.2) va.fl }

/-- A floating-point lane operation of a format. -/
def vecF (m : Fmt) (op : Nat) (t u : BitVec 6) (f : BitVec 13) (g : FV → FV → Nat × BitVec 6) (s : State) : Res :=
  vecTwo op (1 + m.eb + m.mb) t u f (fun a b => g (decodeF m a) (decodeF m b)) s

/-- R222 `vadd.i32`. -/
def execBayVaddI32 (t u : BitVec 6) (f : BitVec 13) (s : State) : Res := vecTwo 0x2E 32 t u f (fun a b => (a + b, 0)) s
/-- R222 `vmul.i32`. -/
def execBayVmulI32 (t u : BitVec 6) (f : BitVec 13) (s : State) : Res := vecTwo 0x2F 32 t u f (fun a b => (a * b, 0)) s
/-- R222 `vadd.fp32`. -/
def execBayVaddFp32 (t u : BitVec 6) (f : BitVec 13) (s : State) : Res := vecF fp32 0x30 t u f (addF fp32 (qOf f)) s
/-- R222 `vsub.fp32`. -/
def execBayVsubFp32 (t u : BitVec 6) (f : BitVec 13) (s : State) : Res :=
  vecF fp32 0x31 t u f (fun a b => addF fp32 (qOf f) a (negF b)) s
/-- R222 `vmul.fp32`. -/
def execBayVmulFp32 (t u : BitVec 6) (f : BitVec 13) (s : State) : Res := vecF fp32 0x32 t u f (mulF fp32 (qOf f)) s
/-- R222 `vmin.fp32`. -/
def execBayVminFp32 (t u : BitVec 6) (f : BitVec 13) (s : State) : Res :=
  vecTwo 0x33 32 t u f (fun a b => (minmaxF fp32 false a b, 0)) s
/-- R222 `vmax.fp32`. -/
def execBayVmaxFp32 (t u : BitVec 6) (f : BitVec 13) (s : State) : Res :=
  vecTwo 0x34 32 t u f (fun a b => (minmaxF fp32 true a b, 0)) s
/-- R222 `vadd.bf16`. -/
def execBayVaddBf16 (t u : BitVec 6) (f : BitVec 13) (s : State) : Res := vecF bf16 0x35 t u f (addF bf16 (qOf f)) s
/-- R222 `vmul.bf16`. -/
def execBayVmulBf16 (t u : BitVec 6) (f : BitVec 13) (s : State) : Res := vecF bf16 0x36 t u f (mulF bf16 (qOf f)) s
/-- R222 `vadd.fp16`. -/
def execBayVaddFp16 (t u : BitVec 6) (f : BitVec 13) (s : State) : Res := vecF fp16 0x37 t u f (addF fp16 (qOf f)) s
/-- R222 `vmul.fp16`. -/
def execBayVmulFp16 (t u : BitVec 6) (f : BitVec 13) (s : State) : Res := vecF fp16 0x38 t u f (mulF fp16 (qOf f)) s
/-- R222 `vadd.i8`. -/
def execBayVaddI8 (t u : BitVec 6) (f : BitVec 13) (s : State) : Res := vecTwo 0x39 8 t u f (fun a b => (a + b, 0)) s
/-- R222 `vadd.i16`. -/
def execBayVaddI16 (t u : BitVec 6) (f : BitVec 13) (s : State) : Res := vecTwo 0x3A 16 t u f (fun a b => (a + b, 0)) s

/-- R222 `vcmp.fp32`: the mask, and how many lanes are true. A poisoned lane compares false; an empty shape leaves `vm`. -/
def execBayVcmpFp32 (t u : BitVec 6) (f : BitVec 13) (s : State) : Res :=
  bayFire s 0x3B t u f fun s _ _ _ =>
    let c := s.myBay
    let hit := (List.range (c.lanes 32)).filter fun k =>
      let a := (c.vreg (raOf f)).lane 32 k
      let b := (c.vreg (rbOf f)).lane 32 k
      !a.poison && !b.poison && condF fp32 (qOf f) a.v.toNat b.v.toNat
    let vm := hit.foldl (fun (m : BitVec 128) k => m ||| (1#128 <<< k)) 0
    .val (if c.vsN = 0 then s else s.setMyBay { c with vm := vm }) (w32 hit.length) false

/-- R222: writes lanes at the shape's width into `va`, each from a rule that sees the registers as they were. -/
def vecShape (op : Nat) (t u : BitVec 6) (f : BitVec 13) (g : BayCtx → PW32 → PW32 → Nat → PW32) (s : State) : Res :=
  bayFire s op t u f fun s a b _ =>
    oneOut s fun c =>
      let w := c.width
      c.setVreg (raOf f) ((c.vreg (raOf f)).write w ((List.range (c.lanes w)).map fun k => (k, g c a b k)))

/-- R222 `vsel`. -/
def execBayVsel (t u : BitVec 6) (f : BitVec 13) (s : State) : Res :=
  vecShape 0x3C t u f (fun c _ _ k => (if bitB c.vm k then c.vreg (rbOf f) else c.vreg (raOf f)).lane c.width k) s

/-- R222 `vbcast`. -/
def execBayVbcast (t u : BitVec 6) (f : BitVec 13) (s : State) : Res := vecShape 0x3D t u f (fun _ _ b _ => b) s

/-- R222 `vext`. -/
def execBayVext (t u : BitVec 6) (f : BitVec 13) (s : State) : Res :=
  bayFire s 0x3E t u f fun s _ b _ =>
    let c := s.myBay
    if b.v.toNat < c.lanes c.width then
      let l := (c.vreg (raOf f)).lane c.width b.v.toNat
      .val s l.v (l.poison || b.poison)
    else .val s 0 b.poison

/-- R222 `vins`: a poisoned lane index writes nothing. -/
def execBayVins (t u : BitVec 6) (f : BitVec 13) (s : State) : Res :=
  bayFire s 0x3F t u f fun s a b _ =>
    oneOut s fun c =>
      if b.poison || c.lanes c.width ≤ b.v.toNat then c
      else c.setVreg (xOf f) ((c.vreg (xOf f)).write c.width [(b.v.toNat, a)])

/-- R222 `vperm`: the poison of the index lane and of the lane it selects. -/
def execBayVperm (t u : BitVec 6) (f : BitVec 13) (s : State) : Res :=
  vecShape 0x40 t u f (fun c _ _ k =>
    let i := (c.vreg (rbOf f)).lane c.width k
    if i.v.toNat < c.lanes c.width then
      let l := (c.vreg (raOf f)).lane c.width i.v.toNat
      { l with poison := l.poison || i.poison }
    else { v := 0, poison := i.poison }) s

/-- R222 `vcvt`: kind, source and destination width. -/
def execBayVcvt (t u : BitVec 6) (f : BitVec 13) (s : State) : Res :=
  bayFire s 0x41 t u f fun s _ _ _ =>
    oneOut s fun c =>
      let x := xOf f
      let kind := x / 64
      let src := c.vreg x
      let dst := c.vreg (x / 8)
      let sw := if kind < 2 then 32 else 16
      let cv : Nat → Nat × BitVec 6 := fun p =>
        match kind with
        | 0 => cvtF bf16 (qOf f) (decodeF fp32 p)
        | 1 => cvtF fp16 (qOf f) (decodeF fp32 p)
        | 2 => cvtF fp32 0 (decodeF bf16 p)
        | _ => cvtF fp32 0 (decodeF fp16 p)
      let rs := (List.range (c.lanes 32)).map fun k =>
        let a := src.lane sw k
        let r := cv a.v.toNat
        (k, ({ v := w32 r.1, poison := a.poison } : PW32), if a.poison then (0 : BitVec 6) else r.2)
      let d' := dst.write (48 - sw) (rs.map fun r => (r.1, r.2.1))
      if c.vsN = 0 then c else c.setVreg (x / 8) { d' with fl := rs.foldl (fun a r => a ||| r.2.2) dst.fl }

/-- R222 `cvtmx`: the 32 fp32 lanes become one block (R43), stored as R41 gives; the result is the scale. -/
def execBayCvtmx (t u : BitVec 6) (f : BitVec 13) (s : State) : Res :=
  bayFire s 0x2C t u f fun s _ _ _ =>
    let c := s.myBay
    let x := xOf f
    let code := x % 16
    let n := x / 16 % 8
    let v := c.vreg n
    let m := c.lanes 32
    if c.vsN = 0 then .val s 0 false
    else
      let ls := (List.range m).map (v.lane 32)
      let p := ls.any (·.poison)
      let vals := (List.range 32).map fun k => if k < m then decodeF fp32 (v.lane 32 k).v.toNat else .fin false 0 0
      let (sc, es, fl) := convertBlock code (qOf f) vals
      let fl := if code = 8 || code = 9 then fl ||| flSubst else fl
      let b := storeBits code
      let bits := (es.mapIdx fun k e => e % 2 ^ b * 2 ^ (b * k)).foldl (· + ·) 0
      let v' : VReg := { v := BitVec.ofNat 1024 bits, pois := if p then BitVec.ofNat 32 (2 ^ b - 1) else 0,
                         fl := if p then v.fl else v.fl ||| fl }
      .val (s.setMyBay (c.setVreg n v')) (w32 sc) p

/-- R218 `vshape`: the grant is the largest lane count not above the request that the width allows. -/
def execBayVshape (t u : BitVec 6) (f : BitVec 13) (s : State) : Res :=
  bayFire s 0x2D t u f fun s a _ _ =>
    let w := xOf f % 4
    let n := if a.poison then 0 else min a.v.toNat (1024 / (8 * 2 ^ w))
    .val (s.updMyBay fun c => { c with vsN := n, vsW := w }) (w32 n) a.poison

/-! ### Vectors on links (R232) -/

/-- Changes the running task. -/
def BayCtx.updTask (c : BayCtx) (f : Task → Task) : BayCtx := { c with task := c.task.map f }

/-- The last token the task latched (R204). -/
def BayCtx.last (c : BayCtx) : Token := (c.task.map (·.last)).getD {}
/-- Beats that the vector instruction in progress has moved (R204). -/
def BayCtx.pos (c : BayCtx) : Nat := (c.task.map (·.pos)).getD 0

/-- R207: takes the head token of a channel queue of an A-bay. -/
def State.takeChan (s : State) (hall bay ctx chan : Nat) : Option (Token × State) :=
  let c := s.bayCtx hall bay ctx
  match Tab.get c.chans chan [] with
  | [] => none
  | t :: r =>
    let g := Tab.get c.ingr chan []
    some (t, s.setBayCtx hall bay ctx { c with chans := Tab.put c.chans chan r, ingr := Tab.put c.ingr chan (g.drop 1) })

/-- The focused bay's receive channel. -/
def State.takeMine (s : State) (chan : Nat) : Option (Token × State) := s.takeChan s.focus.hall s.focus.elem s.focus.ctx chan

/-- R231: a token that a task makes, with the context's tag and the round of its last token. -/
def State.madeToken (s : State) (k : TokKind) : Token :=
  { kind := k, ctx := BitVec.ofNat 2 s.focus.ctx, round := s.myBay.last.round }

/-- R231: sends a token of the focused bay. -/
def State.sendMine (s : State) (rc : Nat) (t : Token) : Option State := s.sendToken s.focus.hall s.focus.elem rc t

/-- R232 `vput`: one beat in each step, until the last has left. -/
def execBayVput (t u : BitVec 6) (f : BitVec 13) (s : State) : Res :=
  bayFire s 0x42 t u f fun s _ _ p =>
    let c := s.myBay
    let x := xOf f
    let v := c.vreg x
    let nb := (c.lanes c.width * c.width + 63) / 64
    let i := c.pos
    if nb = 0 then .val s 0 false
    else
      let tok := { s.madeToken .data with
        width := 3, beat := BitVec.ofNat 4 i, level := if i + 1 = nb then 1 else 0,
        payload := v.v.extractLsb' (64 * i) 64, poison := bitB v.pois (2 * i) || bitB v.pois (2 * i + 1) || predPois p }
      match s.sendMine (x / 8) tok with
      | none => .wait
      | some s =>
        if i + 1 = nb then .val (s.updMyBay fun c => c.updTask fun k => { k with pos := 0 }) (w32 nb) false
        else .hold (s.updMyBay fun c => c.updTask fun k => { k with pos := i + 1 })

/-- R232: beat β of a register, with the poison of its two words. -/
def VReg.setBeat (v : VReg) (i : Nat) (t : Token) : VReg :=
  let w := v.write 32 [(2 * i, { v := t.payload.setWidth 32, poison := t.poison }),
    (2 * i + 1, { v := (t.payload >>> 32).setWidth 32, poison := t.poison })]
  w

/-- R232 `vget`: one beat in each step, until the last has been taken. -/
def execBayVget (t u : BitVec 6) (f : BitVec 13) (s : State) : Res :=
  bayFire s 0x43 t u f fun s _ _ _ =>
    let x := xOf f
    let i := s.myBay.pos
    match s.takeMine (x / 16) with
    | none => .wait
    | some (tok, s) =>
      if tok.kind != .data then .val (s.updMyBay fun c => c.updTask fun k => { k with last := tok, pos := 0 }) 0 false
      else
        let s := s.updMyBay fun c => c.setVreg x ((c.vreg x).setBeat (i % 16) tok)
        if tok.midBeat && i < 15 then .hold (s.updMyBay fun c => c.updTask fun k => { k with pos := i + 1 })
        else .val (s.updMyBay fun c => c.updTask fun k => { k with pos := 0 }) (w32 (i + 1)) false

end Sys2Proof.Machine
end

