-- ==== Sys2Proof/Machine/BayDot.lean ====
section
/-! DEFINITION. Dot products and long accumulators of the A-bays (R223, R224), and the LUT patch (R227, R228), opcodes 0x44–0x4B and 0x53–0x55. -/

namespace Sys2Proof.Machine

/-- R204 la0, la1. -/
def BayCtx.lacc (c : BayCtx) (n : Nat) : Lacc := Tab.get c.la (n % 2) {}
def BayCtx.setLacc (c : BayCtx) (n : Nat) (l : Lacc) : BayCtx := { c with la := Tab.put c.la (n % 2) l }

/-- R51: a contribution enters an accumulator under its anchor. -/
def Lacc.enter (l : Lacc) (x : Contr) (p : Bool) : Lacc := { l with cell := enterCell l.cell l.anchor x p }

/-- R223: element e of a register, in the storage of R41. -/
def elemVal (code : Nat) (v : VReg) (e : Nat) : FV :=
  let b := storeBits code
  decodeElem code (v.v.toNat / 2 ^ (b * e) % 2 ^ b)

/-- R223: the poison of the word that holds element e. -/
def elemPois (code : Nat) (v : VReg) (e : Nat) : Bool := bitB v.pois (storeBits code * e / 32)

/-- R223: element e is masked by the shape. -/
def BayCtx.masked (c : BayCtx) (code e : Nat) : Bool := c.vsN ≤ storeBits code * e / c.width

/-- R223, R50: the contribution of a block from the pairs of elements it multiplies, and whether a source word is poisoned.
The words of the whole block count as its source words (DEDUCED, log 10). -/
def dotContr (code : Nat) (sa sb : Nat) (a b : VReg) (pairs : List (Nat × Nat)) : Contr :=
  let sum := pairs.foldl (fun s p => sumC s (prodC (elemVal code a p.1) (elemVal code b p.2))) (.fin 0 0)
  if code = 6 || code = 7 then sum else scaleC (scaleOf sa) (scaleOf sb) sum

/-- R223: enters the block's contribution and raises substitution for formats 0x8 and 0x9. -/
def BayCtx.enterDot (c : BayCtx) (code la : Nat) (k : Contr) (p : Bool) : BayCtx :=
  let c := c.setLacc la ((c.lacc la).enter k p)
  { c with fs := accrue c.fs (if code = 8 || code = 9 then flSubst else 0) p }

/-- R223 `dot`. -/
def execBayDot (t u : BitVec 6) (f : BitVec 13) (s : State) : Res :=
  bayFire s 0x44 t u f fun s l _ q =>
    oneOut s fun c =>
      let x := xOf f
      let code := x % 16
      let a := c.vreg (2 * (x / 16 % 4))
      let b := c.vreg (2 * (x / 16 % 4) + 1)
      let nb := 1024 / (32 * storeBits code)
      let j := bitsN l.v 18 16 % nb
      let es := (List.range 32).map (32 * j + ·)
      let p := l.poison || predPois q || es.any (fun e => elemPois code a e || elemPois code b e)
      let live := (es.filter fun e => !c.masked code e).map fun e => (e, e)
      c.enterDot code (x / 64) (dotContr code (bitsN l.v 7 0) (bitsN l.v 15 8) a b live) p

/-- R223 `dots`: sixteen kept elements of A meet the elements of B that the metadata names. -/
def execBayDots (t u : BitVec 6) (f : BitVec 13) (s : State) : Res :=
  bayFire s 0x45 t u f fun s l m q =>
    oneOut s fun c =>
      let x := xOf f
      let code := x % 16
      let a := c.vreg (2 * (x / 16 % 4))
      let b := c.vreg (2 * (x / 16 % 4) + 1)
      let nb := 1024 / (32 * storeBits code)
      let j := bitsN l.v 18 16 % nb
      let ps := (List.range 16).map fun k => (16 * j + k, 32 * j + 4 * (k / 2) + bitsN m.v (2 * k + 1) (2 * k))
      let p := l.poison || m.poison || predPois q || ps.any (fun e => elemPois code a e.1) ||
        ((List.range 32).any fun k => elemPois code b (32 * j + k))
      let live := ps.filter fun e => !c.masked code e.2
      c.enterDot code (x / 64) (dotContr code (bitsN l.v 7 0) (bitsN l.v 15 8) a b live) p

/-- R224: a value of a type as a contribution. Types: 0 fp32, 1 i32, 2 n32, 3 bf16, 4 fp16, 5 i8, 6 i16. -/
def typedContr (ty : Nat) (v : W32) : Contr :=
  match ty with
  | 0 => contrOf (decodeF fp32 v.toNat)
  | 1 => .fin v.toInt 0
  | 2 => .fin v.toNat 0
  | 3 => contrOf (decodeF bf16 (v.toNat % 65536))
  | 4 => contrOf (decodeF fp16 (v.toNat % 65536))
  | 5 => .fin (v.setWidth 8).toInt 0
  | _ => .fin (v.setWidth 16).toInt 0

/-- R224 `lacc`. -/
def execBayLacc (t u : BitVec 6) (f : BitVec 13) (s : State) : Res :=
  bayFire s 0x46 t u f fun s a _ q =>
    oneOut s fun c =>
      let x := xOf f
      c.setLacc (x / 16) ((c.lacc (x / 16)).enter (typedContr (x % 8) a.v) (a.poison || predPois q))

/-- R224: the types of `lvacc`, and their widths. -/
def lvaccType : Nat → Nat × Nat
  | 0 => (0, 32)
  | 1 => (1, 32)
  | 2 => (3, 16)
  | 3 => (4, 16)
  | 4 => (5, 8)
  | _ => (6, 16)

/-- R224 `lvacc`: the lanes enter in lane order. -/
def execBayLvacc (t u : BitVec 6) (f : BitVec 13) (s : State) : Res :=
  bayFire s 0x47 t u f fun s _ _ q =>
    let c := s.myBay
    let x := xOf f
    let (ty, w) := lvaccType (x % 8)
    let m := c.lanes w
    let l := (List.range m).foldl (fun (l : Lacc) k =>
      let a := (c.vreg (x / 16)).lane w k
      l.enter (typedContr ty a.v) (a.poison || predPois q)) (c.lacc (x / 128))
    .val (s.setMyBay (c.setLacc (x / 128) l)) (w32 m) false

/-- R224 `lanchor`: a poisoned value poisons the cell instead. -/
def execBayLanchor (t u : BitVec 6) (f : BitVec 13) (s : State) : Res :=
  bayFire s 0x48 t u f fun s a _ q =>
    oneOut s fun c =>
      let l := c.lacc (xOf f)
      c.setLacc (xOf f) (if a.poison || predPois q then { l with cell := l.cell ||| (1#128 <<< 127) }
        else { l with anchor := a.v.setWidth 12 })

/-- R224 `lclr`: the anchor is kept. -/
def execBayLclr (t u : BitVec 6) (f : BitVec 13) (s : State) : Res :=
  bayFire s 0x49 t u f fun s _ _ _ =>
    oneOut s fun c => c.setLacc (xOf f) { c.lacc (xOf f) with cell := 0 }

/-- R224: the formats of `lread`. -/
def lreadFmt : Nat → RdFmt
  | 0 => .flt fp32
  | 1 => .flt bf16
  | 2 => .flt fp16
  | 3 => .int true
  | _ => .int false

/-- R224 `lread`: a poisoned cell gives `Poison`, whose bits the specification does not state (log 4). -/
def execBayLread (t u : BitVec 6) (f : BitVec 13) (s : State) : Res :=
  bayFire s 0x4A t u f fun s _ _ q =>
    let c := s.myBay
    let x := xOf f
    let l := c.lacc (x / 16)
    let c := if bitB f (3 + 5) then c.setLacc (x / 16) { l with cell := 0 } else c
    match readCell l.cell l.anchor (lreadFmt (x % 8)) (qOf f) with
    | none => .val (s.setMyBay c).drawn (s.free.setWidth 32) true
    | some (v, fl) => .val (s.setMyBay { c with fs := accrue c.fs fl (predPois q) }) (w32 v) false

/-- R224 `lraw`. -/
def execBayLraw (t u : BitVec 6) (f : BitVec 13) (s : State) : Res :=
  bayFire s 0x4B t u f fun s _ _ _ =>
    let x := xOf f
    let l := s.myBay.lacc (x / 16)
    .val s (if x % 8 = 4 then l.anchor.signExtend 32 else l.cell.extractLsb' (32 * (x % 4)) 32) false

/-! ### The LUT patch (R227, R228) -/

/-- R227: entry e of a slot's LUT contents. -/
def BayCtx.lutEnt (c : BayCtx) (e : Nat) : W64 := Tab.get c.lut e 0

/-- R227: an input of a LUT; `outs` are the outputs of the LUTs of lower number, the latest first. -/
def lutInput (a b : W32) (st : BitVec 16) (outs : List Bool) (code : Nat) : Bool :=
  if code < 32 then bitB a code
  else if code < 64 then bitB b (code - 32)
  else if code < 112 then code - 64 < outs.length && outs.getD (outs.length - 1 - (code - 64)) false
  else bitB st (code - 112)

/-- R227: the outputs of the 48 LUTs, LUT 0 first. -/
def BayCtx.luts (c : BayCtx) (a b : W32) : List Bool :=
  ((List.range 48).foldl (fun outs i =>
    let w := c.lutEnt (48 + i)
    let u := (List.range 6).foldl (fun n j =>
      n + (if lutInput a b c.lutSt outs (bitsN w (7 * j + 6) (7 * j)) then 2 ^ j else 0)) 0
    bitB (c.lutEnt i) u :: outs) []).reverse

/-- R227: a bit that a map selects. -/
def BayCtx.lutMap (c : BayCtx) (outs : List Bool) (entry r : Nat) : Bool :=
  let k := bitsN (c.lutEnt (entry + r / 10)) (6 * (r % 10) + 5) (6 * (r % 10))
  if k < 48 then outs.getD k false else bitB c.lutSt (k - 48)

/-- R228 `lut`: a poisoned operand leaves the state unchanged. -/
def execBayLut (t u : BitVec 6) (f : BitVec 13) (s : State) : Res :=
  bayFire s 0x53 t u f fun s a b q =>
    let c := s.myBay
    let outs := c.luts a.v b.v
    let p := a.poison || b.poison
    let upd := formOf f = 0 && bitB f 3 && !p && !predPois q
    let st := if upd then (List.range 16).foldl (fun (m : BitVec 16) i =>
      if c.lutMap outs 100 i then m ||| (1#16 <<< i) else m) 0 else c.lutSt
    .val (s.setMyBay { c with lutSt := st }) (bits32 (c.lutMap outs 96)) p

/-- R227: an entry's value is refused: a reserved bit, or a LUT wired to itself or to one of higher number. -/
def lutBad (e : Nat) (w : W64) : Bool :=
  if e < 48 then false
  else if e < 96 then
    bitsN w 63 42 != 0 || (List.range 6).any fun j =>
      let k := bitsN w (7 * j + 6) (7 * j)
      64 ≤ k && k < 112 && e - 48 ≤ k - 64
  else if e < 102 then bitsN w 63 60 != 0
  else if e = 102 then bitsN w 63 16 != 0
  else true

/-- R228 `lutst`: writes a half of an entry; a refused write is reported and ignored. The poison bit of an operand has nowhere
to go, and its value bits are written (DESIGN CHOICE, log 11). -/
def execBayLutst (t u : BitVec 6) (f : BitVec 13) (s : State) : Res :=
  bayFire s 0x54 t u f fun s a b _ =>
    let c := s.myBay
    let e := a.v.toNat
    let old := c.lutEnt e
    let w : W64 := if bitB f 3 then b.v ++ old.setWidth 32 else (old >>> 32).setWidth 32 ++ b.v
    if lutBad e w then
      .val (s.reportElem .cfg s.focus.hall s.focus.elem s.focus.ctx {}) 1 false
    else
      .val (s.setMyBay { c with lut := Tab.put c.lut e w, lutSt := if e = 102 then w.setWidth 16 else c.lutSt }) 1 false

/-- R228 `lutrd`. -/
def execBayLutrd (t u : BitVec 6) (f : BitVec 13) (s : State) : Res :=
  bayFire s 0x55 t u f fun s a _ _ =>
    let w := if a.v.toNat < 103 then s.myBay.lutEnt a.v.toNat else 0
    .val s (if bitB f 3 then (w >>> 32).setWidth 32 else w.setWidth 32) a.poison

end Sys2Proof.Machine
end

