-- ==== Sys2Proof/Machine/BayMem.lean ====
section
/-! DEFINITION. The scratchpad access of the A-bays (R225, R226), opcodes 0x4C–0x52: checks, ordering by alias class (R214), and the requests that enter a bank's queues (R197). -/

namespace Sys2Proof.Machine

/-- R225: the fields of an address word. -/
def clsOf (aw : W32) : Nat := bitsN aw 31 24
def goffOf (aw : W32) : Nat := bitsN aw 19 0

/-- R225: an access of a size from a group offset is out of range for the focused bay. -/
def State.bayBeyond (s : State) (aw : W32) (size : Nat) : Bool :=
  let q := quadOf s.focus.elem
  let n := match s.regionAt s.focus.hall s.focus.ctx with
    | none => 256
    | some r => (s.region r).eff.nclass
  bitsN aw 23 20 != 0 || n ≤ clsOf aw || (s.bank s.focus.hall q).groupSize q < goffOf aw + size

/-- R225: the cause of an out-of-range or misaligned access. -/
def State.bayCheck (s : State) (aw : W32) (size unit : Nat) : Cause :=
  if s.bayBeyond aw size then .range else if goffOf aw % unit != 0 then .align else .none

/-- Where the focused bay's faults are found. -/
def State.baySite (s : State) : Site := { hall := s.focus.hall, elem := s.focus.elem, eclass := 0, ctx := s.focus.ctx }

/-- R225: logs a load's fault with the PA its group offset stands for. -/
def State.bayLog (s : State) (c : Cause) (aw : W32) : State :=
  let q := quadOf s.focus.elem
  s.logFault c s.baySite (bankBase s.focus.hall ((s.bank s.focus.hall q).group q).1 + goffOf aw) true

/-- R197: the queue that the focused bay feeds in a bank: its own quad's by its place, another's by the packet network. -/
def bayQueue (bay q : Nat) : Nat := if q ≠ quadOf bay then 3 else if firstABay q = bay then 0 else 1

/-- A bank's requests: queued and parked. -/
def Bank.requests (b : Bank) : List BankReq := (b.q.map (·.2)).flatten ++ b.parked

/-- A synchronising read. -/
def BankOp.isSync : BankOp → Bool
  | .syncKeep => true
  | .syncClr => true
  | _ => false

/-- Requests for a bank that are on the packet network. -/
def Net.reqsTo (n : Net) (dst : Nat) : List BankReq :=
  ((n.fly.filter fun p => p.dst == dst) ++ Tab.get n.bufs dst []).map NetPkt.req

/-- Requests of a context of an element that a bank of its hall has still to perform. -/
def State.reqsAt (s : State) (hall elem ctx quad : Nat) : List BankReq :=
  ((s.bank hall quad).requests ++ s.net.reqsTo (16 * hall + quad)).filter fun r => r.src == (hall, elem) && r.ctx == ctx

/-- R214: an operation of the class must wait: an earlier one of the context is at another bank, or is a synchronising
read not yet complete. -/
def State.classBusy (s : State) (cls q : Nat) : Bool :=
  let f := s.focus
  (List.range 16).any fun k => (s.reqsAt f.hall f.elem f.ctx k).any fun r => r.cls == cls && (k != q || r.op.isSync)

/-- R313, R329: every memory operation that a context of a bay has fired is performed. -/
def State.bayPerformed (s : State) (hall elem ctx : Nat) : Bool :=
  (List.range 16).all fun k => (s.reqsAt hall elem ctx k).isEmpty

/-- R197: answers that a bay has outstanding, over its contexts. -/
def State.bayOwed (s : State) (hall elem : Nat) : Nat :=
  (List.range 4).foldl (fun n x => n + (s.bayCtx hall elem x).rob.length) 0

/-- R197: a request that is answered takes a place in its source's return path. -/
def BayCtx.expects (c : BayCtx) (re : Reply) : BayCtx :=
  if re = .drop then c else { c with rob := c.rob ++ [{ no := c.robSeq, reply := re }], robSeq := c.robSeq + 1 }

/-- R197, R214, R28: puts a request of the focused bay into its bank's queue, or on the packet network to another quad's bank; none while it must
wait. -/
def State.bayIssue (s : State) (op : BankOp) (aw : W32) (goff size : Nat) (data : List Byte) (pois : Bool) (re : Reply) :
    Option State :=
  let f := s.focus
  let own := quadOf f.elem
  let (q, off) := groupPlace (s.bank f.hall own) own goff
  let k := bayQueue f.elem q
  let src := (f.hall, f.elem)
  let room := if k = 3 then s.netRoom src f.hall q else (s.bank f.hall q).takes k f.ctx
  if s.classBusy (clsOf aw) q || !room || (re != .drop && 32 ≤ s.bayOwed f.hall f.elem) then none
  else
    let r : BankReq := { op := op, boff := off, size := size, data := data, poison := pois, reply := re, ctx := f.ctx, cls := clsOf aw,
                         src := src, no := s.myBay.robSeq }
    let s := s.updMyBay fun c => c.expects re
    some (if k = 3 then s.netSend src f.hall q r else s.bankEnqueue f.hall q k r)

/-- The reply of a load or atomic of the focused instruction. -/
def State.bayReply (s : State) (signed : Bool) : Reply :=
  .bay s.focus.hall s.focus.elem s.focus.ctx ((s.myBay.task.map (·.blk.frame)).getD 0) s.focus.idx signed

/-- R111, R112: an uncorrectable error refuses a store or atomic of a bay. -/
def State.bayEcc (s : State) (goff n : Nat) : Bool :=
  let own := quadOf s.focus.elem
  let (q, off) := groupPlace (s.bank s.focus.hall own) own goff
  (granules (bankBase s.focus.hall q + off) n).any s.mem.ecc.contains

/-- R111: that error is counted, logged and marked. -/
def State.bayEccSeen (s : State) (goff n : Nat) : State :=
  let own := quadOf s.focus.elem
  let (q, off) := groupPlace (s.bank s.focus.hall own) own goff
  let pa := bankBase s.focus.hall q + off
  let (s', l) := s.takeEcc pa pa n
  s'.logAll s.baySite l

/-- R225: a scalar load: poison where it is out of range, misaligned or its address is poisoned. -/
def bayLoad (op n : Nat) (signed : Bool) (bop : BankOp) (t u : BitVec 6) (f : BitVec 13) (s : State) : Res :=
  bayFire s op t u f fun s a _ q =>
    let c := if a.poison then .range else s.bayCheck a.v n n
    if c != .none then .val (s.drawn.bayLog c a.v) (s.free.setWidth 32) true
    else match s.bayIssue bop a.v (goffOf a.v) n [] (predPois q) (s.bayReply signed) with
      | none => .wait
      | some s => .later s

/-- R226: bytes and sign of `ld`; forms other than slot read a word. -/
def ldSize (f : BitVec 13) : Nat × Bool :=
  if formOf f ≠ 0 then (4, false)
  else match xOf f % 8 with
    | 0 => (1, true)
    | 1 => (1, false)
    | 2 => (2, true)
    | 3 => (2, false)
    | _ => (4, false)

/-- R226 `ld`. -/
def execBayLd (t u : BitVec 6) (f : BitVec 13) (s : State) : Res := bayLoad 0x4C (ldSize f).1 (ldSize f).2 .read t u f s

/-- R226 `ld.sync`. -/
def execBayLdSync (t u : BitVec 6) (f : BitVec 13) (s : State) : Res :=
  bayLoad 0x4E 4 false (if bitB f 3 then .syncClr else .syncKeep) t u f s

/-- R67: an instruction's targets name a slot, or a register other than b0. -/
def named2 (t u : BitVec 6) : Bool := !(t == 0x30 && u == 0x30)

/-- R225, R226, R313: a scalar store or atomic; the result of a store that has a target leaves once the bank has performed it: poison, range, alignment and an uncorrectable error trap. -/
def bayStore (op n : Nat) (bop : BankOp) (later : Bool) (t u : BitVec 6) (f : BitVec 13) (s : State) : Res :=
  bayFire s op t u f fun s a b q =>
    if a.poison || b.poison then .trap s .poisonuse (clsOf a.v) a.v b.v
    else
      let c := s.bayCheck a.v n n
      if c != .none then .trap s c (clsOf a.v) a.v b.v
      else if s.bayEcc (goffOf a.v) n then .trap (s.bayEccSeen (goffOf a.v) n) .ecc (clsOf a.v) a.v b.v
      else match s.bayIssue bop a.v (goffOf a.v) n (leBytes n b.v.toNat) (predPois q)
          (if later || named2 t u then s.bayReply false else .drop) with
        | none => .wait
        | some s => if later || named2 t u then .later s else .val s 1 false

/-- R226 `st`. -/
def execBaySt (t u : BitVec 6) (f : BitVec 13) (s : State) : Res :=
  bayStore 0x4D (if formOf f ≠ 0 then 4 else 2 ^ (xOf f % 4)) .write false t u f s

/-- R226 `amo`. -/
def execBayAmo (t u : BitVec 6) (f : BitVec 13) (s : State) : Res :=
  bayStore 0x52 4 (.amo (xOf f % 16)) true t u f s

/-! ### Vectors -/

/-- R226: the reads of a vector load, lane by lane: none where a lane is poison. -/
def State.vecLoad (s : State) (aw : W32) (reg m w : Nat) (addr : Nat → Option Nat) (cause : Cause) : BOut :=
  let k := s.myBay.pos
  let bad := (List.range m).any fun k => (addr k).isNone
  let s := if k = 0 && bad && (s.myBay.task.map (·.got)).getD [] == [] then s.bayLog cause aw else s
  let got := (s.myBay.task.map (·.got)).getD []
  if k < m then
    match addr k with
    | none => .hold (s.drawn.updMyBay fun c => c.updTask fun t =>
        { t with pos := k + 1, got := t.got ++ [(k, { v := s.free.setWidth 32, poison := true })] })
    | some g =>
      (match s.bayIssue .read aw g (w / 8) [] false
        (.bayLane s.focus.hall s.focus.elem s.focus.ctx ((s.myBay.task.map (·.blk.frame)).getD 0) s.focus.idx k) with
      | none => .wait
      | some s => .hold (s.updMyBay fun c => c.updTask fun t => { t with pos := k + 1 }))
  else if got.length < m then .wait
  else oneOut s fun c =>
    (c.setVreg reg ((c.vreg reg).write w got)).updTask fun t => { t with pos := 0, got := [] }

/-- R225: a lane at a group offset lies in the group. -/
def State.inGroup (s : State) (g n : Nat) : Bool :=
  let q := quadOf s.focus.elem
  g + n ≤ (s.bank s.focus.hall q).groupSize q

/-- R225: the cause that poisons every lane of a vector load, if any. -/
def State.vecBase (s : State) (b : PW32) (n : Nat) : Cause := if b.poison then .range else s.bayCheck b.v 0 n

/-- R226 `vld`: the lanes move one after another; those outside the group are poison. -/
def execBayVld (t u : BitVec 6) (f : BitVec 13) (s : State) : Res :=
  bayFire s 0x4F t u f fun s _ b _ =>
    let c := s.myBay
    let w := c.width
    let base := s.vecBase b (w / 8)
    let addr := fun k =>
      let g := goffOf b.v + k * (w / 8)
      if base = .none && s.inGroup g (w / 8) then some g else none
    s.vecLoad b.v (raOf f) (c.lanes w) w addr (if base = .none then .range else base)

/-- R226 `vgather`: every lane holds an index; a lane out of range, or whose index is poisoned, is poison. -/
def execBayVgather (t u : BitVec 6) (f : BitVec 13) (s : State) : Res :=
  bayFire s 0x51 t u f fun s _ b _ =>
    let c := s.myBay
    let w := c.width
    let base := s.vecBase b (w / 8)
    let addr := fun k =>
      let i := (c.vreg (raOf f)).lane w k
      let g := goffOf b.v + i.v.toNat * (w / 8)
      if base = .none && !i.poison && s.inGroup g (w / 8) then some g else none
    s.vecLoad b.v (raOf f) (c.lanes w) w addr (if base = .none then .range else base)

/-- The pieces of n bytes from a group offset that lie in one line each: offset from the start, and length. -/
def linePieces (g n : Nat) : List (Nat × Nat) :=
  if n = 0 then []
  else (List.range ((g + n - 1) / 64 - g / 64 + 1)).map fun i =>
    let a := max g (64 * (g / 64 + i))
    let b := min (g + n) (64 * (g / 64 + i) + 64)
    (a - g, b - a)

/-- R226 `vst`: the lanes are written contiguously, line by line. -/
def execBayVst (t u : BitVec 6) (f : BitVec 13) (s : State) : Res :=
  bayFire s 0x50 t u f fun s _ b q =>
    let c := s.myBay
    let w := c.width
    let m := c.lanes w
    let v := c.vreg (raOf f)
    let n := m * (w / 8)
    let d := v.v.setWidth 32
    if m = 0 then .val s 1 false
    else if b.poison || (List.range m).any (fun k => (v.lane w k).poison) then .trap s .poisonuse (clsOf b.v) b.v d
    else
      let cs := s.bayCheck b.v n (w / 8)
      if cs != .none then .trap s cs (clsOf b.v) b.v d
      else
        let ps := linePieces (goffOf b.v) n
        match ps[c.pos]? with
        | none => .val (s.updMyBay fun c => c.updTask fun k => { k with pos := 0 }) 1 false
        | some (o, len) =>
          if s.bayEcc (goffOf b.v + o) len then
            .trap (s.bayEccSeen (goffOf b.v + o) len) .ecc (clsOf b.v) b.v d
          else
            let last := c.pos + 1 = ps.length
            match s.bayIssue .write b.v (goffOf b.v + o) len (leBytes len (v.v.toNat / 2 ^ (8 * o))) (last && predPois q)
              (if last && named2 t u then s.bayReply false else .drop) with
            | none => .wait
            | some s =>
              if last then
                let s := s.updMyBay fun c => c.updTask fun k => { k with pos := 0 }
                if named2 t u then .later s else .val s 1 false
              else .hold (s.updMyBay fun c => c.updTask fun k => { k with pos := c.pos + 1 })

end Sys2Proof.Machine
end

