-- ==== Sys2Proof/Machine/Elems.lean ====
section
/-! DEFINITION. First switches (R376, R454), the return lanes (R26, R248, R249), and how a token enters an element. -/

namespace Sys2Proof.Machine

/-! ### First switches -/

/-- R204: an A-bay's state when a slot is first switched to. -/
def freshBay (c : ElemCfg) : BayCtx := { lut := c.lut, lutSt := (Tab.get c.lut 102 0).setWidth 16 }

/-- R245: an S-bay's state when a slot is first switched to. -/
def freshUnit (c : ElemCfg) : SCtx := { sink := (cfgWord c.words 0x0C).map fun w => bitsN w 57 42 }

/-- R194: the first M-bay word with an opcode. -/
def mbayWord (ws : List W64) (op : Nat) : Option W64 := ws.find? fun w => bitsN w 63 60 == op

def State.gal (s : State) (hall : Nat) : Gal := Tab.get s.gals hall {}
def State.setGal (s : State) (hall : Nat) (g : Gal) : State := { s with gals := Tab.put s.gals hall g }
def Gal.ctx (g : Gal) (c : Nat) : GCtx := Tab.get g.ctxs c {}
def Gal.setCtx (g : Gal) (c : Nat) (x : GCtx) : Gal := { g with ctxs := Tab.put g.ctxs c x }

/-- R269: an image's control word, as the gallery applies it. -/
def gctlToken (ctx : Nat) (w : W64) : Token := { payload := w, ctx := BitVec.ofNat 2 ctx }

/-- R104: the kind code of a translate unit's input; 3 is `none`. -/
def xKind (ws : List W64) (i : Nat) : Nat :=
  match cfgWord ws 0x1D with
  | none => 3
  | some w => bitsN w (41 + 2 * i) (40 + 2 * i)

/-- R98, R100: a kind of access by its code. -/
def kindOf : Nat → AccKind
  | 0 => .read
  | 1 => .write
  | _ => .atomic

/-- R104: the root of a translate unit. -/
def xRoot (ws : List W64) : BitVec 37 :=
  match cfgWord ws 0x20 with
  | none => 0
  | some w => w.setWidth 37

/-- R104: a key slot is admitted. -/
def xAdmits (ws : List W64) (k : Nat) : Bool :=
  match cfgWord ws 0x21 with
  | none => true
  | some w => bitsN w 57 50 ≤ k && k < bitsN w 57 50 + bitsN w 49 41

/-- R104: the pinned entries of a translate unit are walked when its slot is first switched to; a fault leaves the entry invalid. What the
walks' reads find is logged (R99, R111). -/
def State.pinned (s : State) (w : Site) (ws : List W64) : State × List TlbEnt :=
  (ws.filter fun w => bitsN w 63 58 == 0x1F).foldl (fun (s, l) p =>
    let va := w64 (bitsN p 39 0 * 65536)
    match s.walk (xRoot ws) va (kindOf (bitsN p 51 50)) (xAdmits ws) with
    | (s, .leaf pte psz, logs) =>
      (s.logAll w logs, l ++ [{ root := xRoot ws, va := va.toNat / 2 ^ psz * 2 ^ psz, psz := psz, pte := pte, pin := some (bitsN p 57 52) }])
    | (s, _, logs) => (s.logAll w logs, l)) (s, [])

/-- R265, R270: a context holds no slot and no quarter of a gallery. Present bits stay (R265). -/
def Gal.unclaim (g : Gal) (x : Nat) : Gal :=
  { g with
    slots := g.slots.map fun p => (p.1, if p.2.held = some x then { p.2 with held := none } else p.2)
    quarters := g.quarters.filter fun p => p.2 != x }

/-- R376: an element makes a slot live: every reset that its chapter ties to a first switch. -/
def State.firstSwitch (s : State) (hall elem ctx : Nat) : State :=
  let x := s.slot hall ctx
  let s := s.setSlot hall ctx { x with st := .live, liveAt := setIns x.liveAt elem }
  let s := { s with tokCnt := Tab.del s.tokCnt (ckey hall elem ctx) }
  let c := s.cfg hall elem ctx
  if elem < 64 then
    match bayKind elem with
    | .a => s.setBayCtx hall elem ctx { freshBay c with robSeq := (s.bayCtx hall elem ctx).robSeq }
    | .s =>
      let (s, l) := s.pinned { hall := hall, elem := elem, eclass := 0, ctx := ctx } c.words
      s.setUnit hall elem ctx { freshUnit c with tlb := l, askNo := (s.unit hall elem ctx).askNo }
    | .m =>
      let q := quadOf elem
      let b := s.bank hall q
      let b := { b with chans := Tab.keep b.chans fun k => k / 16 != ctx, stopped := setDel b.stopped ctx }
      (match mbayWord c.words 1, s.regionAt hall ctx with
      | some _, some r => s.setBank hall q { b with mbPend := b.mbPend ++ [(ctx, r)] }
      | _, _ => s.setBank hall q b)
  else if elem < 80 then
    let t := s.stair hall (elem - 64)
    s.setStair hall (elem - 64) { t with chans := Tab.keep t.chans fun k => k / 16 != ctx }
  else
    s.setGal hall (((s.gal hall).unclaim ctx).setCtx ctx { words := c.gctl.map (gctlToken ctx) })

/-- R454: a token of a context may enter an element: its slot is live there, or is loaded and charged to a region, and is
made live. -/
def State.allow (s : State) (hall elem ctx : Nat) : Option State :=
  let x := s.slot hall ctx
  if x.liveAt.contains elem then some s
  else if (x.st == .loaded || x.st == .live) && x.region.isSome then some (s.firstSwitch hall elem ctx)
  else none

/-- The elements of a hall: bays, stairs and the gallery. -/
def hallElems : List Nat := List.range 81

/-! ### Return lanes -/

/-- R26, R249: a token joins a return lane; it replaces the one before it where that has the same level. -/
def State.putLane (s : State) (k : Nat) (t : RTok) : State :=
  { s with rlanes := Tab.upd s.rlanes k [] fun l =>
      match l.getLast? with
      | some u => if u.ctx = t.ctx ∧ u.level = t.level then l.dropLast ++ [t] else l ++ [t]
      | none => [t] }

/-- R263, R248: the return lane that leads upstream from an input of a bay; none where the edge of the module, or a port, feeds it. -/
def upstreamLane (h b dir : Nat) : Option Nat :=
  let r := b / 8
  let c := b % 8
  match dir with
  | 0 => some (if r = 0 then lkey h (stairElem c) 0 else lkey h (b - 8) dirS)
  | 1 => if c = 7 then (hallBeside h 1).map fun k => lkey k (8 * r) dirW else some (lkey h (b + 1) dirW)
  | 2 => some (if r = 7 then lkey h (stairElem (8 + c)) 0 else lkey h (b + 8) dirN)
  | 3 => if c = 0 then (hallBeside h 3).map fun k => lkey k (8 * r + 7) dirE else some (lkey h (b - 1) dirE)
  | _ => none

/-- R248: sends a skip or an echo on the return lane of a local channel of a bay, towards where its tokens come from. -/
def State.sendLane (s : State) (hall bay ctx chan : Nat) (level : BitVec 3) (coord : W32) : State :=
  match Tab.find s.inFrom (16 * ckey hall bay ctx + chan) with
  | none => s
  | some d => match upstreamLane hall bay d with
    | none => s
    | some k => s.putLane k { ctx := ctx, level := level, coord := coord }

/-- R249: a scanner receives a skip or an echo. -/
def SCtx.scanLane (u : SCtx) (t : RTok) : SCtx :=
  if t.level = 7 then { u with xCnt := t.coord }
  else if t.level = 0 && u.xCnt == u.eCnt then { u with skipT := some t.coord }
  else u

/-- R249: a return-lane token reaches an output of a bay: passed towards the source of what leaves there, applied by a scanner, or
discarded. An element that has stopped for a swap discards it (R397). -/
def execReturnLaneToken (s : State) : Res :=
  let h := s.focus.hall
  let e := s.focus.elem
  let k := lkey h e s.focus.idx
  match Tab.get s.rlanes k [] with
  | [] => waits s
  | t :: r =>
    let s := { s with rlanes := Tab.put s.rlanes k r }
    let link := if e < 64 then bayOut h e s.focus.idx else lkey h (stairBay (e - 64)) (stairBaySide (e - 64))
    let src := Tab.find s.feed (4 * link + t.ctx)
    if s.swapStopped h e t.ctx then .next s
    else if e < 64 then
      match src with
      | some 5 =>
        if bayKind e = .s then
          (match (modeWord (s.cfg h e t.ctx).words).map (fun w => bitsN w 63 58) with
          | some 0x01 => .next (s.setUnit h e t.ctx ((s.unit h e t.ctx).scanLane t))
          | some 0x1D =>
            let ws := (s.cfg h e t.ctx).words
            .next (((List.range 4).filter fun i => xKind ws i != 3).foldl
              (fun s i => s.sendLane h e t.ctx (inputChan ws i) t.level t.coord) s)
          | _ => .next s)
        else .next s
      | some d => (match upstreamLane h e d with
        | some k => .next (s.putLane k t)
        | none => .next s)
      | none => .next s
    else if e < 80 then
      -- a stair: its pass-through route comes from the facing stair
      (match src, facingStair h (e - 64) with
      | some 1, some (h', n') => .next (s.putLane (lkey h' (stairBay n') (stairBaySide n')) t)
      | _, _ => .next s)
    else .next s

end Sys2Proof.Machine
end

