-- ==== Sys2Proof/Machine/BayFlow.lean ====
section
/-! DEFINITION. Control of flow in the A-bays (R229–R235), opcodes 0x56–0x5E, and the steps a bay takes by itself: retirement (R213), selection (R208, R379), control tokens (R209), and the router (R66, R397, R454). -/

namespace Sys2Proof.Machine

/-- R229 `steer`. -/
def execBaySteer (t u : BitVec 6) (f : BitVec 13) (s : State) : Res :=
  bayFire s 0x56 t u f fun s a _ p =>
    let q := p.getD {}
    if q.poison then .trap s .poisonuse 0 0 a.v
    else if bitB q.v 0 then .out s (.val a) .null
    else .out s .null (.val a)

/-- R229 `merge`: the operands have been chosen by `State.bayReady`. -/
def execBayMerge (t u : BitVec 6) (f : BitVec 13) (s : State) : Res :=
  bayFire s 0x57 t u f fun s a _ p =>
    if predPois p then .trap s .poisonuse 0 0 a.v else .out s (.val a) (.val a)

/-- R229 `ispois`. -/
def execBayIspois (t u : BitVec 6) (f : BitVec 13) (s : State) : Res :=
  bayFire s 0x5E t u f fun s a _ _ => .val s (if a.poison then 1 else 0) false

/-- R230: one turn of a loop under a bound. -/
def loopTurn (s : State) (k : Nat) (bound : W32) : BOut :=
  let c := s.myBay
  let i := Tab.get c.lc k 0
  if i.ult bound then
    .out (s.setMyBay { c with lc := Tab.put c.lc k (i + 1) }) (.val { v := i }) (.val { v := 1 })
  else
    .out (s.setMyBay { c with lc := Tab.put c.lc k 0, lb := Tab.del c.lb k }) .null (.val { v := 0 })

/-- R230 `loop`. -/
def execBayLoop (t u : BitVec 6) (f : BitVec 13) (s : State) : Res :=
  bayFire s 0x58 t u f fun s a _ _ =>
    if a.poison then .trap s .poisonuse 0 0 a.v else loopTurn s (xOf f % 4) a.v

/-- R230 `loopt`: the bound comes from a channel; a control token there stays at its head. -/
def execBayLoopt (t u : BitVec 6) (f : BitVec 13) (s : State) : Res :=
  bayFire s 0x59 t u f fun s _ _ _ =>
    let k := xOf f % 4
    let ch := xOf f / 16
    match Tab.find s.myBay.lb k with
    | some b => loopTurn s k b
    | none =>
      match (Tab.get s.myBay.chans ch []).head? with
      | none => .wait
      | some tok =>
        if tok.kind != .data then .out s .null (.val { v := 0 })
        else match s.takeMine ch with
          | none => .wait
          | some (_, s) =>
            if tok.width ≠ 1 then .hold (s.reportElem .cfg s.focus.hall s.focus.elem s.focus.ctx tok)
            else if tok.poison then .trap s .poisonuse 0 0 0
            else
              let b : W32 := tok.payload.setWidth 32
              loopTurn (s.updMyBay fun c => { c with lb := Tab.put c.lb k b }) k b

/-- R231 `send`: the token of a kind, none where nothing is sent. -/
def State.sendTok (s : State) (kind : Nat) (a b : PW32) (pois : Bool) : Option Token :=
  match kind with
  | 0 => some { s.madeToken .data with width := 1, poison := pois, payload := a.v.setWidth 64 }
  | 1 => some { s.madeToken .data with width := 2, poison := pois, payload := a.v ++ b.v }
  | 2 => some { s.madeToken .data with width := 0, poison := pois, payload := b.v ++ a.v }
  | 3 => some { s.madeToken .stop with level := a.v.setWidth 3 }
  | 4 => some (s.madeToken .done)
  | 5 => some { s.madeToken .roundEnd with round := a.v.setWidth 4 }
  | _ => if [0, 2, 3].contains (bitsN a.v 2 0) then some { s.madeToken .marker with level := a.v.setWidth 3 } else none

/-- R231 `send`. -/
def execBaySend (x : BitVec 8) (s : State) : Res :=
  bayFire s 0x5A 0x30 0x30 (0#2 ++ x ++ 0#3) fun s a b p =>
    let kind := bitsN x 7 5
    let two := kind = 1 || kind = 2
    let pois := a.poison || (two && b.poison)
    if 3 ≤ kind && pois then .trap s .poisonuse 0 0 a.v
    else match s.sendTok kind a b (pois || predPois p) with
      | none => .out (s.reportElem .cfg s.focus.hall s.focus.elem s.focus.ctx {}) .null .null
      | some tok => match s.sendMine (bitsN x 4 0) tok with
        | none => .wait
        | some s => .out s .null .null

/-- R233 `recv`: source 0 takes a token; the others read the task's last token and the bay's state. -/
def execBayRecv (t u : BitVec 6) (f : BitVec 13) (s : State) : Res :=
  bayFire s 0x5B t u f fun s _ _ _ =>
    let x := xOf f
    let arg := x % 16
    let c := s.myBay
    let l := c.last
    match x / 16 with
    | 0 => (match s.takeMine arg with
      | none => .wait
      | some (tok, s) =>
        .val (s.updMyBay fun c => c.updTask fun k => { k with last := tok }) (tok.payload.setWidth 32) tok.poisoned)
    | 1 => .val s (w32 l.header) false
    | 2 => .val s ((l.payload >>> 32).setWidth 32) l.poisoned
    | 3 => .val (if bitB f 3 then s.setMyBay { c with fs := 0 } else s) (c.fs.setWidth 32) false
    | 4 =>
      let v := c.vreg arg
      .val (if bitB f 6 then s.setMyBay (c.setVreg arg { v with fl := 0 }) else s) (v.fl.setWidth 32) false
    | 5 => .val (if bitB f 3 then s.setMyBay { c with vsRev := false } else s)
        (w32 (c.vsN + 256 * c.vsW + (if c.vsRev then 1024 else 0))) false
    | _ => .val s (w32 (s.focus.elem % 8 + 8 * (s.focus.elem / 8) + 64 * s.logCtx s.focus.hall s.focus.ctx +
        256 * s.focus.hall)) false

/-- R234: what follows the block. -/
def BayCtx.setNext (c : BayCtx) (n : BlkNext) : BayCtx := c.updBlk fun b => { b with next := n }

/-- R234 `br`: never nullified; a null operand falls through. -/
def execBayBr (x : BitVec 8) (s : State) : Res :=
  bayFire s 0x5C 0x30 0x30 (0#2 ++ x ++ 0#3) fun s a _ p =>
    let fr := bitsN x 5 0
    let following := ((s.myBay.task.map (·.blk.frame)).getD 0) + 1
    let go (n : BlkNext) : BOut := .out (s.updMyBay fun c => c.setNext n) .null .null
    match bitsN x 7 6 with
    | 0 => go (.frame fr)
    | 3 => go .endTask
    | k =>
      if p.isNone then go (.frame following)
      else if a.poison then .trap s .poisonuse 0 0 a.v
      else if k = 1 then go (.frame (if bitB a.v 0 then fr else following))
      else go (.frame (bitsN a.v 5 0))

/-- R235 `launch`: a launch token goes to the hall's launch logic, which holds sixteen (R367), once every memory operation that the context fired
earlier has been performed (R313, R329). -/
def execBayLaunch (t u : BitVec 6) (f : BitVec 13) (s : State) : Res :=
  bayFire s 0x5D t u f fun s a _ _ =>
    if a.poison then .trap s .poisonuse 0 0 a.v
    else
      let q := Tab.get s.ltoks s.focus.hall []
      if 16 ≤ q.length || !s.bayPerformed s.focus.hall s.focus.elem s.focus.ctx then .wait
      else
        let tok := { s.madeToken .data with width := 1, payload := a.v.setWidth 64 }
        let l : LaunchTok := { bay := s.focus.elem, ctx := s.focus.ctx, tok := tok }
        .val { s with ltoks := Tab.put s.ltoks s.focus.hall (q ++ [l]) } 1 false

/-! ### Retirement (R213) -/

/-- R213: a register write at retirement. -/
def BayCtx.setReg (c : BayCtx) (n : Nat) (v : PW32) : BayCtx := { c with b := Tab.put c.b n v }

/-- R213: the writes of a block take effect in index order. -/
def BayCtx.commit (c : BayCtx) (ws : List (Nat × Nat × PW32)) : BayCtx :=
  (List.range 16).foldl (fun c i => (ws.filter fun w => w.2.1 == i).foldl (fun c w => c.setReg w.1 w.2.2) c) c

/-- R67: an instruction writes a register, b0 apart. -/
def namesReg (w : W32) : Bool :=
  (bitsN w 24 23 == 3 && bitsN w 22 19 != 0) || (bitsN w 18 17 == 3 && bitsN w 16 13 != 0)

/-- R213: a block waits for no value but one that goes to a register: a slot's value has been used, or no instruction reads it. -/
def Block.owesReg (b : Block) (ws : List W32) : Bool := b.inflight.any fun i => namesReg (ws.getD i 0)

/-- R213, R234: a block retires: its register writes take effect, and the next block is entered or the task ends. Answers that nothing waits for
go nowhere. -/
def execBlockRetire (s : State) : Res :=
  let h := s.focus.hall
  let e := s.focus.elem
  let x := s.focus.ctx
  let c := s.bayCtx h e x
  match c.task with
  | none => waits s
  | some k =>
    let ws := s.blockWords h e x k.blk.frame
    if c.trapped || s.halted h e x || k.blk.next == .undecided || k.blk.owesReg ws ||
        !((List.range ws.length).all k.blk.fired.contains) then waits s
    else
      let done : BayCtx := { c.commit k.blk.regw with rob := c.rob.map fun e => { e with reply := .drop } }
      match k.blk.next with
      | .frame fr =>
        if fr < 64 && !(s.blockWords h e x fr).isEmpty then
          .next (s.setBayCtx h e x { done with task := some { k with blk := { frame := fr } } })
        else .next (s.bayTrap h e x (ws.length - 1) (ws.getLastD 0) .cfg 0 0 0)
      | _ => .next (s.setBayCtx h e x (BayCtx.refresh { done with task := none } (s.cfg h e x).handlers))

/-! ### Selection (R208, R379) -/

/-- R379: how long a handler has been passed over. -/
def BayCtx.wait' (c : BayCtx) (h : Nat) : Nat := Tab.get c.waits h 0

/-- R379: the handler of a list that is best by a strict order; the earlier one on a tie. -/
def bestBy (better : Nat → Nat → Bool) : List Nat → Option Nat
  | [] => none
  | a :: t => match bestBy better t with
    | none => some a
    | some b => if better b a then some b else some a

/-- R379: which of the eligible handlers is selected. -/
def BayCtx.pick (c : BayCtx) (hs : Tab W64) (el : List Nat) : Option Nat :=
  let urgent := el.filter fun h => 48 ≤ c.wait' h
  if urgent.isEmpty then
    bestBy (fun a b =>
      let pa := hPrio (Tab.get hs a 0)
      let pb := hPrio (Tab.get hs b 0)
      pb < pa || (pa = pb && Tab.get c.since a 0 < Tab.get c.since b 0)) el
  else bestBy (fun a b => c.wait' b < c.wait' a) urgent

/-- R208, R379: a bay selects a handler and starts its task. -/
def execHandlerSelect (s : State) : Res :=
  let h := s.focus.hall
  let e := s.focus.elem
  let x := s.focus.ctx
  let c := s.bayCtx h e x
  let hs := (s.cfg h e x).handlers
  if c.task.isSome || c.trapped || s.halted h e x || bayKind e != .a then waits s
  else
    let el := (List.range 16).filter fun i =>
      let w := Tab.get hs i 0
      c.headRuns w && !c.masked' w i
    match c.pick hs el with
    | none => waits s
    | some i =>
      let w := Tab.get hs i 0
      match s.takeChan h e x (hChan w) with
      | none => waits s
      | some (tok, s) =>
        let c := s.bayCtx h e x
        let c := el.foldl (fun c g => if g = i then c else { c with waits := Tab.upd c.waits g 0 (· + 1) }) c
        let c := { c with waits := Tab.put c.waits i 0 }
        let c := c.setReg 0 { v := tok.payload.setWidth 32, poison := tok.poisoned }
        let c := { c with task := some { hent := i, last := tok, blk := { frame := hFrame w } }, tasks := (c.tasks + 1) % 2 ^ 64 }
        .next (s.setBayCtx h e x (c.refresh hs))

/-! ### Control tokens (R209) -/

/-- R204: what an invocation marker resets in an A-bay. -/
def BayCtx.invocation (c : BayCtx) : BayCtx :=
  { c with lc := [], lb := [], lutSt := (Tab.get c.lut 102 0).setWidth 16 }

/-- R209: the handler entry bound to a channel. -/
def boundHandler (hs : Tab W64) (chan : Nat) : Option W64 :=
  ((List.range 16).map fun i => Tab.get hs i 0).find? fun w => hV w && hChan w == chan

/-- R209: takes the control token at the head of a bound channel and forwards it on the handler's `fwd`, after a change. -/
def State.forwardHead (s : State) (h e x chan : Nat) (f : BayCtx → BayCtx) : Option State :=
  match boundHandler (s.cfg h e x).handlers chan, s.takeChan h e x chan with
  | some w, some (tok, s) =>
    (s.setBayCtx h e x ((f (s.bayCtx h e x)).refresh (s.cfg h e x).handlers)).sendToken h e (hFwd w) tok
  | _, _ => none

/-- R409: the hall is aligning the markers of subtype 4. -/
def State.sparing (s : State) (hall : Nat) : Bool := (Tab.get s.hallSt hall {}).failed.isSome

/-- R409: an element has taken the marker of subtype 4 for a context. -/
def State.tookSpare (s : State) (hall elem ctx : Nat) : State :=
  { s with hallSt := Tab.upd s.hallSt hall {} fun x => { x with taken := setIns x.taken (4 * elem + ctx) } }

/-- R376, R364: the slot a switch marker names. -/
def switchSlot (t : Token) : Nat := bitsN t.payload 1 0

/-- R376: an element makes the named slot live, if it is not. -/
def State.takeSwitch (s : State) (hall elem slot : Nat) : State :=
  if (s.slot hall slot).liveAt.contains elem then s else s.firstSwitch hall elem slot

/-- R377: a `sinkcnt` unit that a switch marker of a context passes reports. -/
def State.sinkPassed (s : State) (hall elem ctx : Nat) : State :=
  if (cfgWord (s.cfg hall elem ctx).words 0x0C).isNone then s
  else
    let x := s.slot hall ctx
    s.setSlot hall ctx { x with sinkReps := setIns x.sinkReps elem }

/-- R409, R244: the channels of a bay whose tokens have come in, and which a handler binds. -/
def State.usedChans (s : State) (h e x : Nat) : List Nat :=
  (List.range 16).filter fun c =>
    (Tab.find s.inFrom (16 * ckey h e x + c)).isSome && (boundHandler (s.cfg h e x).handlers c).isSome

/-- R409: a bay takes the aligned markers of subtype 4: one at the head of every channel it uses. -/
def State.takeSpare (s : State) (h e x : Nat) : Option State :=
  let cs := s.usedChans h e x
  let ready := cs.all fun c => match (Tab.get (s.bayCtx h e x).chans c []).head? with
    | some t => t.kind == .marker && t.level == 4
    | none => false
  if ready then
    (cs.foldl (fun (r : Option State) c => r.bind fun s => s.forwardHead h e x c id) (some s)).map fun s => s.tookSpare h e x
  else none

/-- R209: a bay acts on the control token at the head of a channel whose handler has `cw` clear, once no task runs. -/
def State.takeControl (s : State) (h e x chan : Nat) (switches : Bool) : Res :=
  let c := s.bayCtx h e x
  match Tab.get c.chans chan [], boundHandler (s.cfg h e x).handlers chan with
  | tok :: _, some w =>
    if c.task.isSome || s.halted h e x || hCw w then waits s
    else
      let fwd (f : BayCtx → BayCtx) : Res := match s.forwardHead h e x chan f with
        | none => waits s
        | some s => .next s
      let drop (g : State → State) : Res := match s.takeChan h e x chan with
        | none => waits s
        | some (_, s) => .next (g (s.setBayCtx h e x ((s.bayCtx h e x).refresh (s.cfg h e x).handlers)))
      match tok.kind with
      | .stop => if switches then waits s else fwd id
      | .done => if switches then waits s else fwd id
      | .roundEnd => if switches then waits s else fwd id
      | .marker =>
        (match tok.level.toNat with
        | 0 => if switches then waits s else (match s.forwardHead h e x chan BayCtx.invocation with
          | none => waits s
          | some s => .next (s.invoked h 0 e x))
        | 1 => (match s.forwardHead h e x chan id with
          | none => waits s
          | some s => .next (s.takeSwitch h e (switchSlot tok)))
        | 2 => if switches then waits s else fwd id
        | 3 => if switches then waits s else fwd id
        | 4 =>
          if switches then waits s
          else if s.sparing h then (match s.takeSpare h e x with
            | none => waits s
            | some s => .next s)
          else drop id
        | _ => if switches then waits s else drop fun s => s.reportElem .cfg h e x tok)
      | _ => waits s
  | _, _ => waits s

/-- R209: the bay itself takes a control token from a handler's channel. -/
def execControlTokenTake (s : State) : Res :=
  if bayKind s.focus.elem != .a then waits s
  else s.takeControl s.focus.hall s.focus.elem s.focus.ctx (s.focus.idx % 16) false

/-! ### The router (R66, R397, R454) -/

/-- R397: records a token that reaches a stopped element on an input whose drain has not arrived. -/
def State.record (s : State) (r key : Nat) (t : Token) : State :=
  s.updRegion r fun g => { g with swap := { g.swap with recorded := Tab.upd g.swap.recorded key [] (· ++ [t]) } }

/-- R406: copies a delivered token into the record of a snapshot that has not reached its input. -/
def State.snapCopy (s : State) (hall elem ctx inp : Nat) (t : Token) : State :=
  match s.regionAt hall ctx with
  | none => s
  | some r =>
    let g := (s.region r).swap
    let k := inKey hall elem ctx inp
    let latched := (Tab.find g.snapRegs (ckey hall elem ctx)).isSome
    if g.snapSeq.isSome && latched && g.snapInputs.contains k && !g.snapIn.contains k then
      s.updRegion r fun g => { g with swap := { g.swap with snapRec := Tab.upd g.swap.snapRec k [] (· ++ [t]) } }
    else s

/-- R397, R406: drains and snapshots. -/
def Token.isCut (t : Token) : Bool := t.kind == .drain || t.kind == .snapshot

/-- R397: what a stopped element does with a token: it is recorded, or waits where the input's drain has arrived. -/
def State.stoppedTake (s : State) (r key : Nat) (t : Token) : Option State :=
  if (s.region r).swap.drained.contains key then none else some (s.record r key t)

/-- R400: a token for a context that is swapped out waits for its restore; none while 64 wait there already. -/
def State.heldOut (s : State) (hall elem ctx inp : Nat) (t : Token) : Option (Option State) :=
  match s.saved.find? fun v => v.live.contains (tkey hall ctx) with
  | none => none
  | some v =>
    let k := inKey hall elem ctx inp
    if 64 ≤ (Tab.get v.recorded k []).length then some none
    else
      let f (x : Saved) : Saved := if x.region = v.region then { x with recorded := Tab.upd x.recorded k [] (· ++ [t]) } else x
      some (some { s with saved := s.saved.map f })

/-- R66, R397, R400, R454: a token enters a bay from a direction, or from a port (4, with `inp` the input); none where it must wait. -/
def State.enterBay (s : State) (h b dir : Nat) (t : Token) (ing : Nat := 0) (inp : Nat := dir) : Option State :=
  let x := t.ctx.toNat
  match s.allow h b x with
  | none => (s.heldOut h b x inp t).getD (some (s.reportElem .cfg h b x t))
  | some s =>
    match s.regionAt h x with
    | some r =>
      if s.swapStopped h b x then s.stoppedTake r (inKey h b x inp) t
      else (s.takeRoute h b t.chan.toNat dir t false ing).map fun s => s.snapCopy h b x inp t
    | none => s.takeRoute h b t.chan.toNat dir t false ing

/-- R66, R401: the token at the head of a link (`idx` 0–3), or of the tokens that a swap recorded at a port (4), reaches a bay's router.
Drains and snapshots are taken as R397 and R406 give. -/
def execLinkTokenArrival (s : State) : Res :=
  let h := s.focus.hall
  let b := s.focus.elem
  let dir := s.focus.idx % 5
  let k := lkey h b dir
  match s.link k with
  | [] => waits s
  | t :: _ =>
    if t.isCut || 64 ≤ b then waits s
    else match (s.popLink k).enterBay h b dir t with
      | none => waits s
      | some s => .next s

end Sys2Proof.Machine
end

