-- ==== Sys2Proof/Machine/Units.lean ====
section
/-! DEFINITION. What the stream units of the S-bays share (R236–R244, R260, R261): taking and sending tokens, the bank, faults, barriers. -/

namespace Sys2Proof.Machine

/-! ### The focused unit -/

/-- The words of the focused S-bay's slot. -/
def State.myWords (s : State) : List W64 := (s.cfg s.focus.hall s.focus.elem s.focus.ctx).words
def State.myUnit (s : State) : SCtx := s.unit s.focus.hall s.focus.elem s.focus.ctx
def State.setMyUnit (s : State) (u : SCtx) : State := s.setUnit s.focus.hall s.focus.elem s.focus.ctx u
def State.updMyUnit (s : State) (f : SCtx → SCtx) : State := s.setMyUnit (f s.myUnit)

/-- The opcode of the mode word of the focused unit's slot; 0x10, `passthru`, where there is none (R83). -/
def State.myMode (s : State) : Nat := match modeWord s.myWords with
  | none => 0x10
  | some w => bitsN w 63 58

/-- The mode word of the focused unit's slot. -/
def State.myModeWord (s : State) : W64 := (modeWord s.myWords).getD 0

/-- Where the focused unit's faults are found. -/
def State.unitSite (s : State) : Site := { hall := s.focus.hall, elem := s.focus.elem, eclass := 0, ctx := s.focus.ctx }

/-- R239, R246, R253: logs a fault of the focused unit. -/
def State.unitLog (s : State) (c : Cause) : State := s.logFault c s.unitSite

/-- R241, R260: reports a fault of the focused unit, with the token it concerns. -/
def State.unitReport (s : State) (c : Cause) (t : Token) : State :=
  s.reportElem c s.focus.hall s.focus.elem s.focus.ctx t

/-- The unit works for its context: an S-bay whose region runs, and whose element has not stopped. -/
def State.unitRuns (s : State) : Bool :=
  bayKind s.focus.elem == .s && !s.halted s.focus.hall s.focus.elem s.focus.ctx

/-! ### Inputs (R241) -/

/-- The queue of an input. -/
def SCtx.queue (u : SCtx) (i : Nat) : List Token := Tab.get u.q i []
/-- The head of an input. -/
def SCtx.head (u : SCtx) (i : Nat) : Option Token := (u.queue i).head?

/-- Takes the head of an input; its round is remembered. -/
def SCtx.take (u : SCtx) (i : Nat) : SCtx :=
  match u.queue i with
  | [] => u
  | t :: r => { u with q := Tab.put u.q i r, arr := u.arr.erase i, rnd := t.round }

/-- R244: done, markers and round-ends are barriers. -/
def Token.isBarrier (t : Token) : Bool := t.kind == .done || t.kind == .marker || t.kind == .roundEnd

/-- R241: a data token that no unit but the translate mode reads: a width other than 1 and 2. -/
def Token.badWidth (t : Token) : Bool := t.kind == .data && t.width ≠ 1 && t.width ≠ 2

/-- R61: coordinate and value of a width-2 payload. -/
def Token.hi (t : Token) : W32 := (t.payload >>> 32).setWidth 32
def Token.lo (t : Token) : W32 := t.payload.setWidth 32

/-- R241: the coordinate of a token where width 1 carries a coordinate with value 0. -/
def Token.crd (t : Token) : W32 := if t.width = 2 then t.hi else t.lo
def Token.crdVal (t : Token) : W32 := if t.width = 2 then t.lo else 0

/-- R241: coordinate and value of a token where width 1 carries a value with its ordinal as coordinate. -/
def SCtx.ordCrd (u : SCtx) (t : Token) : W32 := if t.width = 2 then t.hi else w32 u.ord

/-- R242: the bound. -/
def boundOf (ws : List W64) : Nat := match cfgWord ws 0x0B with
  | none => 0xFFFFFFFF
  | some w => bitsN w 57 26

/-- R237: the sentinel. -/
def sentinel : W32 := 0xFFFFFFFF

/-! ### Outputs (R241, R242) -/

/-- R241: sends tokens on outputs, all in one step; none unless all of them can leave. -/
def State.sendOuts (s : State) (ts : List (Nat × Token)) : Option State :=
  let h := s.focus.hall
  let e := s.focus.elem
  let ws := s.myWords
  if ts.all fun p => (s.takeRoute h e (outputClass ws p.1) 5 p.2 true).isSome then
    ts.foldl (fun r p => r.bind fun s => s.takeRoute h e (outputClass ws p.1) 5 p.2 true 0 true) (some s)
  else none

/-- R242: a pair that leaves on an output: width 2, or width 1 with the value alone under `swidth`. -/
def State.pairTok (s : State) (k : Nat) (level : BitVec 3) (c v : W32) (pois : Bool) : Token :=
  let one := match cfgWord s.myWords 0x12 with
    | none => false
    | some w => bitB w (54 + k)
  { kind := .data, level := level, ctx := BitVec.ofNat 2 s.focus.ctx, round := s.myUnit.rnd, poison := pois,
    width := if one then 1 else 2, payload := if one then v.setWidth 64 else c ++ v }

/-- A stop of the focused unit. -/
def State.stopTok (s : State) (level : Nat) : Token :=
  { kind := .stop, level := BitVec.ofNat 3 level, ctx := BitVec.ofNat 2 s.focus.ctx, round := s.myUnit.rnd }

/-- Sends on one output and then changes the unit; waits while the output cannot take the token. -/
def State.emit (s : State) (k : Nat) (t : Token) (f : SCtx → SCtx) : Res :=
  match s.sendOuts [(k, t)] with
  | none => waits s
  | some s => .next (s.updMyUnit f)

/-! ### The bank (R239) -/

/-- R193, R239: a group offset of the focused unit's quad: quad, bank offset, PA. -/
def State.unitPlace (s : State) (g : Nat) : Nat × Nat × Nat :=
  let own := quadOf s.focus.elem
  let (q, off) := groupPlace (s.bank s.focus.hall own) own g
  (q, off, bankBase s.focus.hall q + off)

/-- What a read of the focused unit answers: the value, poison, and an address out of range. -/
structure URead where
  s : State
  v : Nat
  poison : Bool
  out : Bool

/-- R239: bytes at a group offset lie in the group. -/
def State.unitIn (s : State) (g n : Nat) : Bool :=
  let own := quadOf s.focus.elem
  g + n ≤ (s.bank s.focus.hall own).groupSize own

/-- R239: the focused unit holds every granule of n bytes at a group offset, or they lie outside the group and need none. -/
def State.unitHas (s : State) (g n : Nat) : Bool :=
  !s.unitIn g n || (granules g n).all fun k => (Tab.find s.myUnit.pre k).isSome

/-- A byte of the prefetch buffer. -/
def SCtx.preByte (u : SCtx) (g : Nat) : Byte := ((Tab.get u.pre (g / 16) (0, false)).1.extractLsb' (8 * (g % 16)) 8)

/-- R239, R245: n bytes at a group offset, from the granules that the focused unit holds. -/
def State.unitRead (s : State) (g n : Nat) : URead :=
  if s.unitIn g n then
    let u := s.myUnit
    { s := s, v := leNat ((List.range n).map fun i => u.preByte (g + i)),
      poison := (granules g n).any fun k => (Tab.get u.pre k (0, false)).2, out := false }
  else { s := s.drawn, v := s.free.toNat % 2 ^ (8 * n), poison := true, out := true }

/-- R197: answers that a unit has outstanding. -/
def SCtx.owed (u : SCtx) : Nat := u.unacked + u.asks.length

/-- R239, R28: a request of the focused unit goes to the bank that holds a group offset, through queue 3; none while it must wait. -/
def State.unitSend (s : State) (g : Nat) (r : BankReq) : Option State :=
  let (q, off, _) := s.unitPlace g
  let src := (s.focus.hall, s.focus.elem)
  if s.netRoom src s.focus.hall q && s.myUnit.owed < 32 then
    some (s.netSend src s.focus.hall q { r with boff := off, ctx := s.focus.ctx, src := src })
  else none

/-- R239: asks for a granule of the bank group. -/
def State.unitAsk (s : State) (k : Nat) : Option State :=
  let u := s.myUnit
  (s.unitSend (16 * k) { op := .read, boff := 0, size := 16, reply := .unitRd s.focus.hall s.focus.elem s.focus.ctx, ctx := 0, no := u.askNo }).map
    fun s => s.updMyUnit fun u => { u with asks := u.asks ++ [{ no := u.askNo, k := k }], askNo := u.askNo + 1 }

/-- R245: asks for those granules of a window that the unit neither holds nor has asked for, and drops the others from its buffer; waits where
nothing can be asked for. -/
def State.unitFetch (s : State) (ks : List Nat) : Res :=
  let u := s.myUnit
  let want := ks.filter fun k => (Tab.find u.pre k).isNone && !u.asks.any fun a => a.k == k
  match want with
  | [] => waits s
  | k :: _ => match (s.setMyUnit { u with pre := Tab.keep u.pre ks.contains }).unitAsk k with
    | none => waits s
    | some s => .next (want.tail.foldl (fun s k => (s.unitAsk k).getD s) s)

/-- R197: a granule has returned: data joins the buffer in the order of the requests. -/
def SCtx.granule (u : SCtx) (no : Nat) (v : BitVec 128) (p : Bool) : SCtx :=
  let l := u.asks.map fun a => if a.no = no then { a with ans := some (v, p) } else a
  let here := l.takeWhile fun a => a.ans.isSome
  { u with asks := l.drop here.length, pre := here.foldl (fun b a => Tab.put b a.k (a.ans.getD (0, false))) u.pre }

/-- R245: the buffer is empty, and what is under way goes nowhere. -/
def SCtx.unbuffered (u : SCtx) : SCtx := { u with pre := [], asks := [] }

/-- R239, R260: the filling write of held bytes: one request, with the byte enables of its granule. -/
def GranW.req (b : GranW) (hall bay ctx : Nat) : BankReq :=
  let at_ := b.data.map (·.1)
  let lo := at_.foldl min 15
  let n := at_.foldl max 0 + 1 - lo
  { op := .fillWrite, boff := 0, size := n, data := (List.range n).map fun i => Tab.get b.data (lo + i) 0, poison := b.pois,
    reply := .unit hall bay ctx, ctx := ctx, skip := (List.range n).filter fun i => (Tab.find b.data (lo + i)).isNone }

/-- R260: sends the writes that are together; none while they must wait. -/
def State.unitFlush (s : State) : Option State :=
  match s.myUnit.lwHeld with
  | none => some s
  | some b =>
    let lo := (b.data.map (·.1)).foldl min 15
    (s.unitSend (16 * b.k + lo) (b.req s.focus.hall s.focus.elem s.focus.ctx)).map fun s =>
      s.updMyUnit fun u => { u with lwHeld := none, unacked := u.unacked + 1 }

/-- R260: bytes at a place of a granule join the write of that granule; what was together before is sent. -/
def State.unitPut (s : State) (k off : Nat) (bs : List Byte) (pois : Bool) : Option State :=
  let add (b : GranW) : GranW := { b with data := (bs.mapIdx fun i x => (off + i, x)).foldl (fun d p => Tab.put d p.1 p.2) b.data, pois := b.pois || pois }
  match s.myUnit.lwHeld with
  | none => some (s.updMyUnit fun u => { u with lwHeld := some (add { k := k }) })
  | some b =>
    if b.k = k then some (s.updMyUnit fun u => { u with lwHeld := some (add b) })
    else s.unitFlush.map fun s => s.updMyUnit fun u => { u with lwHeld := some (add { k := k }) }

/-- R260: a write of bytes at a group offset, granule by granule; none while it must wait. `pois` marks every granule touched. -/
def State.unitWrite (s : State) (g : Nat) (bs : List Byte) (pois : Bool) : Option State :=
  (granules g bs.length).foldl (fun r k => r.bind fun s =>
    let a := max g (16 * k)
    let b := min (g + bs.length) (16 * k + 16)
    s.unitPut k (a - 16 * k) ((bs.drop (a - g)).take (b - a)) pois) (some s)

/-! ### The bump allocator (R261) -/

/-- R261: allocates bytes: the offset, or none where the arena is exhausted, which logs `budget` once per invocation. -/
def State.alloc (s : State) (n : Nat) : State × Option Nat :=
  match cfgWord s.myWords 0x0A with
  | none => (s, none)
  | some w =>
    let u := s.myUnit
    let p := u.bump.getD (bitsN w 57 38)
    if p + n ≤ bitsN w 37 18 then (s.setMyUnit { u with bump := some (p + n) }, some p)
    else
      let s := if u.bumpLog then s else s.unitLog .budget
      (s.updMyUnit fun u => { u with bumpLog := true }, none)

/-- R261: the answer to a size request. -/
def State.bumpTok (s : State) (v : W32) (pois : Bool) (r : BitVec 4) : Token :=
  { kind := .data, width := 1, ctx := BitVec.ofNat 2 s.focus.ctx, round := r, poison := pois, payload := v.setWidth 64 }

/-- R261: answers, or discards, the token at the head of the allocator's channel. -/
def execBumpRequest (s : State) : Res :=
  let u := s.myUnit
  match u.rq, cfgWord s.myWords 0x0A with
  | t :: r, some w =>
    if !s.unitRuns then waits s
    else
      let rest := s.setMyUnit { u with rq := r }
      let answer (s' : State) (v : W32) (p : Bool) : Res :=
        match s'.takeRoute s.focus.hall s.focus.elem (bitsN w 13 9) 5 (s.bumpTok v p t.round) true with
        | none => waits s
        | some s' => .next s'
      if t.kind != .data then .next rest
      else if t.width ≠ 1 then .next (rest.unitReport .cfg t)
      else if t.poison then answer rest sentinel true
      else
        let n := t.lo.toNat
        let ok := n % 16 = 0 && 16 ≤ n && n ≤ 65536
        let (s', v) := if ok then
            (match rest.alloc n with
            | (s', some p) => (s', w32 p)
            | (s', none) => (s', sentinel))
          else (rest.unitReport .cfg t, sentinel)
        answer s' v false
  | _, _ => waits s

end Sys2Proof.Machine
end

