-- ==== Sys2Proof/Machine/Scan.lean ====
section
/-! DEFINITION. The scanner (R246, R247, R249) and its galloping search (R250). -/

namespace Sys2Proof.Machine

/-- R246 `Emit`: an entry leaves unless a skip has removed it. `bad`: its data is poisoned or out of range. `next` is the
scanner afterwards; `s0` the state in which it waits while the output cannot take the token. -/
def emitEntry (s0 s : State) (c : W32) (v : Nat) (bad : Bool) (next : SCtx → SCtx) : Res :=
  let u := s.myUnit
  let skipped := match u.skipT with
    | none => false
    | some t => c.ult t
  if skipped then .next (s.updMyUnit next)
  else
    let wrong := bad || boundOf s.myWords ≤ c.toNat || c == sentinel || 2 ^ 32 ≤ v
    let s' := if wrong then s.unitLog .range else s
    match s'.sendOuts [(0, s.pairTok 0 0 c (w32 v) wrong)] with
    | none => waits s0
    | some s => .next (s.updMyUnit next)

/-- R246: the one poisoned token that stands for the rest of a fibre whose extent could not be read. -/
def emitPoison (s0 s : State) (out : Bool) : Res :=
  let s' := if out then s.unitLog .range else s
  match s'.sendOuts [(0, s.pairTok 0 0 0 0 true)] with
  | none => waits s0
  | some s => .next (s.updMyUnit fun u => { u with fib := u.fib.map fun f => { f with closing := true } })

/-- Changes the open fibre. -/
def SCtx.updFib (u : SCtx) (f : ScanFib → ScanFib) : SCtx := { u with fib := u.fib.map f }

/-- The fibre has no more entries. -/
def SCtx.endFib (u : SCtx) : SCtx := u.updFib fun f => { f with closing := true }

/-- R246 `CloseFibre`, and a stop that follows no fibre: the scanner sends a stop and counts it (R249). -/
def sendStop (s0 s : State) (level : Nat) (f : SCtx → SCtx) : Res :=
  match s.sendOuts [(0, s.stopTok (min level 7))] with
  | none => waits s0
  | some s => .next (s.updMyUnit fun u =>
      let u := f u
      { u.unbuffered with eCnt := u.eCnt + 1, skipT := none })

/-- R246: an input stop of level n leaves as a stop of level n + 1; level 7 stays, and `cfg` is reported. -/
def passStop (s : State) (t : Token) (f : SCtx → SCtx) : Res :=
  let n := t.level.toNat
  sendStop s (if n = 7 then s.unitReport .cfg t else s) (n + 1) f

/-- R238: the formats of a `scan` word: 0 dense, 1 compressed, 2 bitmap, 3 chunk list. -/
def scanFmt (w : W64) : Nat := bitsN w 57 56
def scanP (w : W64) : Nat := bitsN w 55 36
def scanC (w : W64) : Nat := bitsN w 35 16

/-- R246: opens the fibre of a reference. -/
def openFibre (s : State) (t : Token) : Res :=
  let w := s.myModeWord
  let p := t.lo
  let s0 := s.updMyUnit fun u => u.take 0
  let opened (s : State) (f : ScanFib) : Res := .next (s.updMyUnit fun u => { u.unbuffered with fib := some f })
  let poisoned (s' : State) (out : Bool) : Res :=
    let s'' := if out then s'.unitLog .range else s'
    match (s''.updMyUnit fun u => { u.unbuffered with fib := some { p := p, j := 0, hi := 0, closing := true } }).sendOuts
        [(0, s0.pairTok 0 0 0 0 true)] with
    | none => waits s
    | some s => .next s
  if t.poison then poisoned s0 false
  else match scanFmt w with
    | 1 =>
      let g := scanP w + 4 * p.toNat
      if !s0.unitHas g 4 || !s0.unitHas (g + 4) 4 then s.unitFetch (granules g (if s0.unitIn (g + 4) 4 then 8 else 4)) else
      let a := s0.unitRead (scanP w + 4 * p.toNat) 4
      let b := a.s.unitRead (scanP w + 4 * (p.toNat + 1)) 4
      if a.poison || b.poison then poisoned b.s (a.out || b.out)
      else if b.v < a.v then opened (b.s.unitLog .range) { p := p, j := a.v, hi := a.v }
      else opened b.s { p := p, j := a.v, hi := b.v }
    | 3 =>
      if !s0.unitHas (scanP w + 16 * p.toNat) 16 then s.unitFetch (granules (scanP w + 16 * p.toNat) 16) else
      let a := s0.unitRead (scanP w + 16 * p.toNat) 16
      if a.poison then poisoned a.s a.out
      else opened a.s { p := p, j := 0, hi := a.v / 2 ^ 32 % 2 ^ 32, chunk := a.v % 2 ^ 32 }
    | _ => opened s0 { p := p, j := 0, hi := boundOf s.myWords }

/-- R246 bitmap: the first set bit of a word at or above a bit, below a limit. -/
def nextBit (w : Nat) (lo hi : Nat) : Option Nat :=
  ((List.range 64).filter fun b => lo ≤ b && b < hi).find? fun b => w / 2 ^ b % 2 == 1

/-- R245, R250: the granules that follow a scanner's cursor: at most eight of those that hold n bytes at a group offset, inside the group. -/
def State.window (s : State) (g n : Nat) : List Nat :=
  let own := quadOf s.focus.elem
  (granules g (min n ((s.bank s.focus.hall own).groupSize own - g))).take 8

/-- R246: the next entry of the open fibre. The granules it needs, and those behind them, are asked for where the buffer lacks the first. -/
def scanEntry (s : State) (f : ScanFib) : Res :=
  let w := s.myModeWord
  let n := boundOf s.myWords
  let adv : SCtx → SCtx := fun u => u.updFib fun f => { f with j := f.j + 1 }
  match scanFmt w with
  | 0 =>
    if f.j < f.hi then emitEntry s s (w32 f.j) (f.p.toNat * n + f.j) false adv else .next (s.updMyUnit SCtx.endFib)
  | 1 =>
    if f.j < f.hi then
      if !s.unitHas (scanC w + 4 * f.j) 4 then s.unitFetch (s.window (scanC w + 4 * f.j) (4 * (f.hi - f.j))) else
      let r := s.unitRead (scanC w + 4 * f.j) 4
      emitEntry s r.s (w32 r.v) f.j r.poison adv
    else .next (s.updMyUnit SCtx.endFib)
  | 2 =>
    if f.j < f.hi then
      let k := f.j / 64
      let g := scanC w + 8 * (f.p.toNat * ((n + 63) / 64) + k)
      if !s.unitHas g 8 then s.unitFetch (s.window g (8 * ((f.hi + 63) / 64 - k))) else
      let r := s.unitRead (scanC w + 8 * (f.p.toNat * ((n + 63) / 64) + k)) 8
      (match nextBit r.v (f.j % 64) (n - 64 * k) with
      | none => .next (r.s.updMyUnit fun u => u.updFib fun f => { f with j := 64 * (k + 1) })
      | some b =>
        let c := 64 * k + b
        emitEntry s r.s (w32 c) (f.p.toNat * n + c) r.poison fun u => u.updFib fun f => { f with j := c + 1 })
    else .next (s.updMyUnit SCtx.endFib)
  | _ =>
    if f.hi ≤ f.j then .next (s.updMyUnit SCtx.endFib)
    else if f.cn ≤ f.ce then
      -- the next chunk's header
      if f.chunk = 0 then .next ((s.unitLog .range).updMyUnit SCtx.endFib)
      else if !s.unitHas f.chunk 16 then s.unitFetch (s.window f.chunk 16)
      else
        let r := s.unitRead f.chunk 16
        if r.poison then emitPoison s r.s r.out
        else
          let cnt := r.v / 2 ^ 32 % 2 ^ 32
          if cnt = 0 then .next ((r.s.unitLog .range).updMyUnit SCtx.endFib)
          else .next (r.s.updMyUnit fun u => u.updFib fun f =>
            { f with cn := min cnt (f.hi - f.j), ce := 0, at_ := f.chunk, chunk := r.v % 2 ^ 32 })
    else if !s.unitHas (f.at_ + 16 + 8 * f.ce) 8 then s.unitFetch (s.window (f.at_ + 16 + 8 * f.ce) (8 * (f.cn - f.ce)))
    else
      let r := s.unitRead (f.at_ + 16 + 8 * f.ce) 8
      emitEntry s r.s (w32 (r.v / 2 ^ 32)) (r.v % 2 ^ 32) r.poison fun u =>
        u.updFib fun f => { f with j := f.j + 1, ce := f.ce + 1 }

/-- R246, R247: one step of a scanner: it opens a fibre, emits its next entry, closes it, or passes a stop. -/
def execScanReference (s : State) : Res :=
  let u := s.myUnit
  if !s.unitRuns || s.myMode != 0x01 then waits s
  else match u.fib with
    | some f =>
      if f.closing then
        match u.head 0 with
        | none => waits s
        | some t =>
          if t.kind == .stop then passStop s t fun u => { u.take 0 with fib := none }
          else sendStop s s 0 fun u => { u with fib := none }
      else if u.probe.isSome then waits s
      else scanEntry s f
    | none =>
      match u.head 0 with
      | none => waits s
      | some t =>
        if t.kind == .stop then passStop s t fun u => u.take 0
        else if t.kind != .data then waits s
        else if t.badWidth then .next ((s.updMyUnit fun u => u.take 0).unitReport .cfg t)
        else openFibre s t

/-! ### Galloping (R250) -/

/-- R250: the largest exponential step in granules. -/
def gallopMax (ws : List W64) : Option Nat := (cfgWord ws 0x02).map fun w => 2 ^ bitsN w 57 54

/-- R250: the coordinate of an entry of the open fibre. -/
def State.crdAt (s : State) (j : Nat) : Nat := (s.unitRead (scanC s.myModeWord + 4 * j) 4).v

/-- R250: the coordinate of the last entry of a granule that lies in the fibre. -/
def State.lastOf (s : State) (f : ScanFib) (h : Nat) : Nat := s.crdAt (min (4 * h + 3) (f.hi - 1))

/-- R250: the place of granule h of the coordinates. -/
def State.crdGranule (s : State) (h : Nat) : Nat := scanC s.myModeWord + 16 * h

/-- R250: granules that the buffer holds, one after another from granule g on, eight at most. -/
def State.buffered (s : State) (g : Nat) : Nat → Nat
  | 0 => 0
  | n + 1 => if s.unitHas (s.crdGranule g) 16 then 1 + s.buffered (g + 1) n else 0

/-- R250: a search begins when a skip finds no buffered entry at or above its target. -/
def State.startProbe (s : State) (f : ScanFib) (t : W32) (pmax : Nat) : Option Probe :=
  let g0 := f.j / 4
  let gl := (f.hi - 1) / 4
  let n := s.buffered g0 (min 8 (gl + 1 - g0))
  let last := g0 + n - 1
  let buffered := (List.range (4 * (last + 1) - f.j)).any fun i => f.j + i < f.hi && t.toNat ≤ s.crdAt (f.j + i)
  if n = 0 || f.hi ≤ f.j || buffered || pmax = 0 || last = gl then none
  else some { t := t, g := last, h := min (last + 1) gl, d := 1, gl := gl, at_ := min (last + 1) gl }

/-- R250: the granule probed has returned: the bracket advances, or closes. -/
def Probe.advance (p : Probe) (lt : Bool) (pmax : Nat) : Probe ⊕ Option Nat :=
  let closed (g h : Nat) : Probe ⊕ Option Nat :=
    if h - g ≤ 1 then .inr (some h) else .inl { p with g := g, h := h, bin := true, at_ := (g + h) / 2 }
  if p.bin then (if lt then closed p.at_ p.h else closed p.g p.at_)
  else if lt && p.at_ < p.gl then
    let d := min (2 * p.d) pmax
    let h := min (p.at_ + d) p.gl
    .inl { p with g := p.at_, d := d, h := h, at_ := h }
  else if lt then .inr none
  else closed p.g p.at_

/-- R250: the first entry of a granule at or above a target, in the fibre. -/
def State.firstAt (s : State) (f : ScanFib) (h : Nat) (t : W32) : Nat :=
  match ((List.range 4).map (4 * h + ·)).find? (fun j => f.j ≤ j && j < f.hi && t.toNat ≤ s.crdAt j) with
  | some j => j
  | none => min (4 * h + 4) f.hi

/-- R250: a search begins where a skip calls for one; it asks for one granule at a time, and goes on when that has returned. A skip accepted
during the search has replaced its target. The data of granule h is kept. -/
def execGallopProbeReturn (s : State) : Res :=
  let u := s.myUnit
  match u.fib, u.skipT, gallopMax s.myWords with
  | some f, some t, some pmax =>
    if !s.unitRuns || s.myMode != 0x01 || scanFmt s.myModeWord != 1 || f.closing then waits s
    else match u.probe with
      | none =>
        (match s.startProbe f t pmax with
        | none => waits s
        | some p => .next (s.setMyUnit { u with probe := some p }))
      | some p =>
        let gs := granules (s.crdGranule p.at_) 16
        let keep (h : Nat) : Tab (BitVec 128 × Bool) := Tab.keep u.pre (granules (s.crdGranule h) 16).contains
        if !s.unitHas (s.crdGranule p.at_) 16 then s.unitFetch (gs ++ granules (s.crdGranule p.h) 16)
        else match p.advance (s.lastOf f p.at_ < t.toNat) pmax with
        | .inl p => .next (s.setMyUnit { u with probe := some { p with t := t } })
        | .inr none => .next (s.setMyUnit (SCtx.updFib { u with probe := none } fun f => { f with j := f.hi }))
        | .inr (some h) =>
          .next (s.setMyUnit (SCtx.updFib { u with probe := none, pre := keep h } fun f => { f with j := s.firstAt f h t }))
  | _, _, _ => waits s

end Sys2Proof.Machine
end

