-- ==== Sys2Proof/Machine/Merge.lean ====
section
/-! DEFINITION. The intersecter, the unioner and the repeater (R237, R251–R253). -/

namespace Sys2Proof.Machine

/-- R251: inputs of an intersecter or unioner. -/
def nIn (w : W64) : Nat := bitsN w 57 56 + 1

/-- R251: the level at which a head stands as a stop: a held barrier counts as a stop of a level above 7. -/
def stopLevel (t : Token) : Nat := if t.kind == .stop then t.level.toNat else 8

/-- R237: a data token that a comparing unit discards: the cause is not its poison. -/
def SCtx.breaks237 (u : SCtx) (n : Nat) (i : Nat) (t : Token) : Bool :=
  !t.poison && (t.crd == sentinel || n ≤ t.crd.toNat || (match Tab.find u.lastC i with
    | some c => t.crd.ule c
    | none => false))

/-- Takes the head of an input of a comparing unit, and remembers its coordinate or counts its stop. -/
def SCtx.takeCmp (u : SCtx) (i : Nat) : SCtx :=
  match u.head i with
  | none => u
  | some t =>
    let v := u.take i
    if t.kind == .data then (if t.poison then v else { v with lastC := Tab.put v.lastC i t.crd })
    else if t.kind == .stop then
      { v with stops := Tab.upd v.stops i 0 (· + 1), lastC := Tab.del v.lastC i, logged := v.logged.erase i,
               endSkip := v.endSkip.erase i }
    else v

/-- R242: the least gap for which an intersecter sends a skip; none without `skipcfg`. -/
def skipGap (ws : List W64) : Option Nat := (cfgWord ws 0x0F).map fun w => max (bitsN w 57 42) 1

/-- R248, R251: sends a skip on an input's return lane. -/
def State.skipOn (s : State) (i : Nat) (t : W32) : State :=
  s.sendLane s.focus.hall s.focus.elem s.focus.ctx (inputChan s.myWords i) 0 t

/-- R248: sends the echo of the stops taken from an input. -/
def State.echoOn (s : State) (i : Nat) : State :=
  if (skipGap s.myWords).isSome then
    s.sendLane s.focus.hall s.focus.elem s.focus.ctx (inputChan s.myWords i) 7 (Tab.get s.myUnit.stops i 0)
  else s

/-- The first input whose head satisfies a test. -/
def SCtx.firstHead (u : SCtx) (n : Nat) (f : Nat → Token → Bool) : Option (Nat × Token) :=
  ((List.range n).filterMap fun i => (u.head i).map fun t => (i, t)).find? fun p => f p.1 p.2

/-- Sends one token on each of several outputs and then changes the unit; waits while they cannot all leave. -/
def State.emitAll (s : State) (ts : List (Nat × Token)) (f : State → State) : Res :=
  match s.sendOuts ts with
  | none => waits s
  | some s => .next (f s)

/-- R251: only stops and held barriers stand at the heads: a stop of the lowest level leaves, and the stops of it are taken. -/
def stopStep (s : State) (n outs : Nat) : Res :=
  let u := s.myUnit
  let ls := (List.range n).map fun i => ((u.head i).map stopLevel).getD 8
  let m := ls.foldl min 8
  let hit := (List.range n).filter fun i => ls.getD i 8 = m
  let tok := (u.firstHead n fun _ t => stopLevel t = m).map (·.2)
  if m = 8 then waits s
  else s.emitAll ((List.range outs).map fun k => (k, { s.stopTok m with round := (tok.map (·.round)).getD 0 })) fun s =>
    hit.foldl (fun s i => (s.updMyUnit fun u => u.takeCmp i).echoOn i) s

/-- R237, R241, R251: what both units do before they compare: discard what they cannot use, and pass poison on. -/
def mergeFirst (s : State) (n outs : Nat) (rest : Res) : Res :=
  let u := s.myUnit
  match u.firstHead n fun _ t => t.badWidth with
  | some (i, t) => .next ((s.updMyUnit fun u => u.take i).unitReport .cfg t)
  | none =>
    match u.firstHead n fun i t => t.kind == .data && u.breaks237 (boundOf s.myWords) i t with
    | some (i, _) =>
      let s' := if u.logged.contains i then s else s.unitLog .range
      .next (s'.updMyUnit fun u => { u.take i with logged := setIns u.logged i })
    | none =>
      if (List.range n).any fun i => (u.head i).isNone then waits s
      else match u.firstHead n fun _ t => t.kind == .data && t.poison with
        | some (i, t) => s.emitAll ((List.range outs).map fun k => (k, t)) fun s => s.updMyUnit fun u => u.takeCmp i
        | none => rest

/-- R251: one step of an intersecter. -/
def execIsectStep (s : State) : Res :=
  let u := s.myUnit
  let n := nIn s.myModeWord
  if !s.unitRuns || s.myMode != 0x03 then waits s
  else mergeFirst s n n (
    let heads := (List.range n).filterMap u.head
    let datas := (List.range n).filter fun i => (u.head i).any fun t => t.kind == .data
    if heads.all Token.isBarrier then waits s
    else if datas.length = n then
      let cmax := heads.foldl (fun m t => max m t.crd.toNat) 0
      if heads.all fun t => t.crd.toNat = cmax then
        s.emitAll (heads.mapIdx fun k t => (k, { s.pairTok k t.level t.crd t.crdVal false with round := t.round })) fun s =>
          (List.range n).foldl (fun s i => s.updMyUnit fun u => u.takeCmp i) s
      else
        let low := datas.filter fun i => (u.head i).any fun t => t.crd.toNat < cmax
        .next (low.foldl (fun s i =>
          let c := ((u.head i).map (·.crd.toNat)).getD 0
          let s := s.updMyUnit fun u => u.takeCmp i
          match skipGap s.myWords with
          | some g => if g ≤ cmax - c then s.skipOn i (w32 cmax) else s
          | none => s) s)
    else if !datas.isEmpty then
      .next (datas.foldl (fun s i =>
        let fresh := !s.myUnit.endSkip.contains i
        let s := s.updMyUnit fun u => { u.takeCmp i with endSkip := setIns u.endSkip i }
        if fresh && (skipGap s.myWords).isSome then s.skipOn i sentinel else s) s)
    else stopStep s n n)

/-- R251: one step of a unioner. -/
def execUnionStep (s : State) : Res :=
  let u := s.myUnit
  let w := s.myModeWord
  let n := nIn w
  let pm := bitB w 23
  let outs := if pm then n + 1 else n
  let fill := w32 (bitsN w 55 24)
  if !s.unitRuns || s.myMode != 0x04 then waits s
  else mergeFirst s n outs (
    let datas := (List.range n).filterMap fun i => (u.head i).bind fun t => if t.kind == .data then some (i, t) else none
    if ((List.range n).filterMap u.head).all Token.isBarrier then waits s
    else match datas with
      | [] => stopStep s n outs
      | (_, t0) :: _ =>
        let cmin := datas.foldl (fun m p => min m p.2.crd.toNat) t0.crd.toNat
        let hit := datas.filter fun p => p.2.crd.toNat = cmin
        let lead := ((hit.head?).map (·.2)).getD t0
        let vals := (List.range n).map fun k =>
          let v := match hit.find? (fun p => p.1 == k) with
            | some p => p.2.crdVal
            | none => fill
          (k, { s.pairTok k lead.level (w32 cmin) v false with round := lead.round })
        let mask := hit.foldl (fun m p => m + 2 ^ p.1) 0
        let ms := if pm then [(n, { s.pairTok n lead.level (w32 cmin) (w32 mask) false with round := lead.round })] else []
        s.emitAll (vals ++ ms) fun s => hit.foldl (fun s p => s.updMyUnit fun u => u.takeCmp p.1) s)

/-- R253: one step of a repeater. -/
def execRepeatToken (s : State) : Res :=
  let u := s.myUnit
  let rl := bitsN s.myModeWord 57 55
  let valueOf (t : Token) : PW32 := { v := t.crdVal, poison := t.poison }
  -- the head of i1, where it is a value
  let value := (u.head 1).bind fun t => if t.kind == .data && !t.badWidth then some (valueOf t) else none
  if !s.unitRuns || s.myMode != 0x05 then waits s
  else match u.firstHead 2 fun _ t => t.badWidth with
  | some (i, t) => .next ((s.updMyUnit fun u => u.take i).unitReport .cfg t)
  | none =>
    if (u.head 1).any fun t => t.kind == .stop then .next (s.updMyUnit fun u => u.take 1)
    else match u.head 0 with
      | none => waits s
      | some t =>
        if t.isBarrier then
          if value.isSome then
            let s' := if u.logged.contains 1 then s else s.unitLog .cfg
            .next (s'.updMyUnit fun u => { u.take 1 with logged := setIns u.logged 1 })
          else waits s
        else if t.kind == .data then
          match u.held, value with
          | none, none => waits s
          | none, some v => .next (s.updMyUnit fun u => { u.take 1 with held := some v, rnd := u.rnd })
          | some v, _ =>
            s.emit 0 { s.pairTok 0 t.level t.crd v.v (t.poison || v.poison) with round := t.round } fun u => u.take 0
        else if rl ≤ t.level.toNat then
          match u.held, value with
          | none, none => waits s
          | none, some v => .next (s.updMyUnit fun u => { u.take 1 with held := some v, rnd := u.rnd })
          | some _, _ => s.emit 0 t fun u => { u.take 0 with held := none }
        else s.emit 0 t fun u => u.take 0

end Sys2Proof.Machine
end

