-- ==== Sys2Proof/Machine/Reduce.lean ====
section
/-! DEFINITION. The reducer (R254, R255), the select unit (R257), the partition unit (R258), the level writer (R259, R260), and the barriers of every mode (R244). -/

namespace Sys2Proof.Machine

/-! ### Reducer -/

def redForm (w : W64) : Nat := bitsN w 57 56
def redOp (w : W64) : Nat := bitsN w 55 52
def redTrig (w : W64) : Nat := bitsN w 51 50
def redRl (w : W64) : Nat := bitsN w 49 47
def redRm (w : W64) : Nat := bitsN w 46 44
def redAnchor (w : W64) : BitVec 12 := BitVec.ofNat 12 (bitsN w 43 32)
def redTsz (w : W64) : Nat := bitsN w 31 24 + 1
def redKbase (w : W64) : Nat := bitsN w 23 0

/-- R255: the identity of an operation. -/
def redIdent : Nat → W32
  | 2 => 0x7FFFFFFF
  | 3 => 0x80000000
  | 4 => 0xFFFFFFFF
  | 6 => 0x7F800000
  | 7 => 0xFF800000
  | 9 => 0xFFFFFFFF
  | _ => 0

/-- R255: merges a value into an accumulated one. -/
def redMerge (op : Nat) (a v : W32) : W32 :=
  match op with
  | 0 => a + v
  | 2 => if v.slt a then v else a
  | 3 => if a.slt v then v else a
  | 4 => if v.ult a then v else a
  | 5 => if a.ult v then v else a
  | 6 => w32 (minmaxF fp32 false a.toNat v.toNat)
  | 7 => w32 (minmaxF fp32 true a.toNat v.toNat)
  | 8 => a ||| v
  | 9 => a &&& v
  | 10 => a + 1
  | _ => a

/-- An entry that has merged nothing. -/
def freshEnt (w : W64) : RedEnt := { v := redIdent (redOp w) }

/-- R254, R255: a data token's value enters an entry. -/
def RedEnt.add (e : RedEnt) (w : W64) (v : W32) (pois : Bool) : RedEnt :=
  if redOp w = 1 then
    { e with n := e.n + 1, poison := e.poison || pois,
             cell := enterCell e.cell (redAnchor w) (contrOf (decodeF fp32 v.toNat)) pois }
  else { e with n := e.n + 1, poison := e.poison || pois, v := redMerge (redOp w) e.v v }

/-- R255: the result of an entry, its flags, and its poison. -/
def RedEnt.result (e : RedEnt) (w : W64) (free : W32) : PW32 × BitVec 6 :=
  if redOp w = 1 then
    match readCell e.cell (redAnchor w) (.flt fp32) (redRm w) with
    | none => ({ v := free, poison := true }, 0)
    | some (v, fl) => ({ v := w32 v, poison := e.poison }, if e.poison then 0 else fl)
  else ({ v := e.v, poison := e.poison }, 0)

/-- R254: sends a released entry; the flags go to `sf`. -/
def releaseEnt (s : State) (w : W64) (c : W32) (level : BitVec 3) (e : RedEnt) (f : SCtx → SCtx) : Res :=
  let r := e.result w (s.free.setWidth 32)
  match s.drawn.sendOuts [(0, s.pairTok 0 level c r.1.v r.1.poison)] with
  | none => waits s
  | some s => .next (s.updMyUnit fun u =>
      let u := f u
      { u with sf := u.sf ||| r.2 })

/-- R254: what a reducer has still to release before it acts on a stop or a barrier; none when nothing is left. -/
def reduceRelease (s : State) (t : Token) : Option Res :=
  let u := s.myUnit
  let w := s.myModeWord
  match redForm w with
  | 0 => u.runC.map fun (c, l) => releaseEnt s w c l u.acc fun u => { u with runC := none, acc := {} }
  | 1 =>
    let closes := t.kind == .stop || (t.kind == .done && u.seen)
    if closes && !u.relDone then
      let e := if u.acc.n = 0 then freshEnt w else u.acc
      some (releaseEnt s w (w32 e.n) 0 e fun u => { u with acc := {}, relDone := true })
    else none
  | _ =>
    let fires : Bool := match redTrig w with
      | 0 => t.kind == .stop && redRl w ≤ t.level.toNat
      | 1 => t.kind == .roundEnd
      | _ => t.kind == .done || (t.kind == .marker && t.level == 0)
    if fires then
      match u.tab with
      | [] => none
      | (k, e) :: r => some (releaseEnt s w (w32 (k + redKbase w)) 0 e fun u => { u with tab := r })
    else none

/-- R254: one step of a reducer. -/
def execReduceToken (s : State) : Res :=
  let u := s.myUnit
  let w := s.myModeWord
  if !s.unitRuns || s.myMode != 0x06 then waits s
  else match u.head 0 with
    | none => waits s
    | some t =>
      if t.badWidth then .next ((s.updMyUnit fun u => u.take 0).unitReport .cfg t)
      else if t.kind == .data then
        let c := u.ordCrd t
        let v := t.lo
        let took (u : SCtx) : SCtx := { u.take 0 with ord := u.ord + 1, seen := true }
        match redForm w with
        | 0 =>
          (match u.runC with
          | some (c', l) =>
            if c' = c then .next (s.setMyUnit { took u with acc := u.acc.add w v t.poison })
            else releaseEnt s w c' l u.acc fun u => { u with runC := none, acc := {} }
          | none =>
            .next (s.setMyUnit { took u with runC := some (c, t.level), acc := (freshEnt w).add w v t.poison }))
        | 1 =>
          let e := if u.acc.n = 0 then freshEnt w else u.acc
          .next (s.setMyUnit { took u with acc := e.add w v t.poison })
        | _ =>
          let k := c.toNat - redKbase w
          if redKbase w ≤ c.toNat && k < redTsz w then
            let e := Tab.get u.tab k (freshEnt w)
            .next (s.setMyUnit { took u with tab := Tab.put u.tab k (e.add w v t.poison) })
          else
            let s' := if u.logged.contains 8 then s else s.unitLog .range
            .next (s'.updMyUnit fun u => { took u with logged := setIns u.logged 8 })
      else if t.kind == .stop then
        match reduceRelease s t with
        | some r => r
        | none =>
          let clear (u : SCtx) : SCtx := { u.take 0 with ord := 0, seen := false, relDone := false }
          let unlog (u : SCtx) : SCtx := if redForm w = 2 && redTrig w = 0 && redRl w ≤ t.level.toNat then
            { u with logged := [] } else u
          if redForm w = 1 then
            (if t.level = 0 then .next (s.updMyUnit clear) else s.emit 0 { t with level := t.level - 1 } clear)
          else s.emit 0 t fun u => unlog (clear u)
      else waits s

/-! ### Select (R257) -/

/-- R257: one value is preferred over another. -/
def preferred (w : W64) (a b : W32 × W32) : Bool :=
  let lo := bitB w 49
  let lt (x y : W32) : Bool := match bitsN w 51 50 with
    | 0 => condF fp32 2 x.toNat y.toNat
    | 1 => x.slt y
    | _ => x.ult y
  let nan (x : W32) : Bool := bitsN w 51 50 = 0 && isNan (decodeF fp32 x.toNat)
  let better := if lo then lt a.2 b.2 else lt b.2 a.2
  let worse := if lo then lt b.2 a.2 else lt a.2 b.2
  if nan a.2 && nan b.2 then a.1.ult b.1
  else if nan a.2 then false
  else if nan b.2 then true
  else better || (!worse && a.1.ult b.1)

/-- R257: keeps a list in rising coordinate order. -/
def insertCrd (e : W32 × W32) : List (W32 × W32) → List (W32 × W32)
  | [] => [e]
  | a :: t => if e.1.ult a.1 then e :: a :: t else a :: insertCrd e t

/-- The entry of a list that beats every other under a strict order; the earlier one on a tie. -/
def bestOf {α : Type} (better : α → α → Bool) : List α → Option α
  | [] => none
  | a :: t => match bestOf better t with
    | none => some a
    | some b => if better b a then some b else some a

/-- R257: an entry arrives at the kept set. -/
def keepEntry (w : W64) (e : W32 × W32) (l : List (W32 × W32)) : List (W32 × W32) :=
  if l.length < bitsN w 57 52 + 1 then insertCrd e l
  else match bestOf (fun a b => preferred w b a) l with
    | none => l
    | some worst => if preferred w e worst then insertCrd e (l.erase worst) else l

/-- R257: what a select unit has still to release before a stop, or a done that closes the fibre. -/
def selectRelease (s : State) (t : Token) : Option Res :=
  let u := s.myUnit
  let w := s.myModeWord
  if t.kind == .stop || (t.kind == .done && u.seen) then
    let first := if bitB w 48 then bestOf (preferred w) u.kept else u.kept.head?
    first.map fun e => s.emit 0 (s.pairTok 0 0 e.1 e.2 u.fpois) fun u =>
      { u with kept := u.kept.erase e }
  else none

/-- R257: one step of a select unit. -/
def execSelectToken (s : State) : Res :=
  let u := s.myUnit
  let w := s.myModeWord
  if !s.unitRuns || s.myMode != 0x07 then waits s
  else match u.head 0 with
    | none => waits s
    | some t =>
      if t.badWidth then .next ((s.updMyUnit fun u => u.take 0).unitReport .cfg t)
      else if t.kind == .data then
        .next (s.setMyUnit { u.take 0 with
          ord := u.ord + 1, seen := true, fpois := u.fpois || t.poison, kept := keepEntry w (u.ordCrd t, t.lo) u.kept })
      else if t.kind == .stop then
        match selectRelease s t with
        | some r => r
        | none => s.emit 0 t fun u => { u.take 0 with ord := 0, seen := false, fpois := false, kept := [] }
      else waits s

/-! ### Partition (R258) -/

/-- R258: the part of a nonempty row. -/
def partOf (w : W64) (cum : Nat) : Nat :=
  let np := bitsN w 57 54 + 1
  let total := bitsN w 53 22
  if total = 0 then np - 1 else min (np - 1) (cum * np / total)

/-- R258: the oldest held empty row leaves. -/
def releaseRow (s : State) (part : Nat) (e : W32 × Bool) : Res :=
  s.emit 0 (s.pairTok 0 0 e.1 (w32 part) e.2) fun u => { u with empties := u.empties.drop 1 }

/-- R258: what a partition unit has still to release before a stop, or a done that closes the fibre. -/
def partRelease (s : State) (t : Token) : Option Res :=
  let u := s.myUnit
  if t.kind == .stop || (t.kind == .done && u.seen) then
    (u.empties.head?).map fun e => releaseRow s (bitsN s.myModeWord 57 54) e
  else none

/-- R258: one step of a partition unit. -/
def execPartToken (s : State) : Res :=
  let u := s.myUnit
  let w := s.myModeWord
  if !s.unitRuns || s.myMode != 0x08 then waits s
  else match u.head 0 with
    | none => waits s
    | some t =>
      if t.badWidth then .next ((s.updMyUnit fun u => u.take 0).unitReport .cfg t)
      else if t.kind == .data then
        let p := u.fpois || t.poison
        let row := u.ordCrd t
        let took (u : SCtx) : SCtx := { u.take 0 with ord := u.ord + 1, seen := true, fpois := p }
        if t.lo = 0 then .next (s.setMyUnit { took u with empties := u.empties ++ [(row, p)] })
        else
          let part := partOf w u.cum
          match u.empties.head? with
          | some e => releaseRow s part e
          | none => s.emit 0 (s.pairTok 0 0 row (w32 part) p) fun u =>
              { took u with cum := min (u.cum + t.lo.toNat) (2 ^ 40 - 1) }
      else if t.kind == .stop then
        match partRelease s t with
        | some r => r
        | none => s.emit 0 t fun u => { u.take 0 with ord := 0, seen := false, fpois := false, cum := 0 }
      else waits s

/-! ### Level writer (R259, R260) -/

def lwFmt (w : W64) : Nat := bitsN w 57 56
def lwP (w : W64) : Nat := bitsN w 54 35
def lwC (w : W64) : Nat := bitsN w 34 15
def lwAux (w : W64) : Nat := bitsN w 14 0
/-- R242: granules of a chunk. -/
def lwCsz (w : W64) : Nat := bitsN w 14 7 + 1

/-- R260: the writer stops for its context, and reports. -/
def lwHalt (s : State) (c : Cause) (t : Token) : Res :=
  .next ((s.updMyUnit fun u => { u with lwStop := true }).unitReport c t)

/-- Several writes one after another; none where a queue is full, a cause where one is out of range. -/
def State.unitWrites (s : State) : List (Nat × List Byte × Bool) → Option (State × Cause)
  | [] => some (s, .none)
  | (g, bs, p) :: t =>
    if !s.unitIn g bs.length then some (s, .range)
    else match s.unitWrite g bs p with
      | none => none
      | some s => s.unitWrites t

/-- R259: writes, then a change of the unit; a write out of range stops the writer. -/
def lwDo (s0 s : State) (t : Token) (ws : List (Nat × List Byte × Bool)) (f : SCtx → SCtx) : Res :=
  match s.unitWrites ws with
  | none => waits s0
  | some (s, .none) => .next (s.updMyUnit f)
  | some (s, c) => lwHalt s c t

/-- R240: a 16-byte entry of two words. -/
def twoWords (lo hi : Nat) : List Byte := leBytes 8 (lo % 2 ^ 32 + hi % 2 ^ 32 * 2 ^ 32) ++ zeros 8

/-- R259: what a row's end writes; `more` changes the unit at the same time. -/
def lwRowEnd (s : State) (t : Token) (more : SCtx → SCtx) : Res :=
  let u := s.myUnit
  let w := s.myModeWord
  match lwFmt w with
  | 0 => .next (s.updMyUnit fun u => { more u with lwI := u.lwI + 1 })
  | 1 => lwDo s s t [(lwP w + 4 * (u.lwI + 1), leBytes 4 u.lwJ, false)] fun u => { more u with lwI := u.lwI + 1 }
  | _ =>
    let ws := if u.cur = 0 then [] else [(u.cur, twoWords 0 u.nc, false)]
    lwDo s s t ws fun u => { more u with
      heads := u.heads ++ [(u.lwI, u.hd, u.tot)], lwI := u.lwI + 1, cur := 0, nc := 0, hd := 0, tot := 0 }

/-- R259: the writer has something to do before it takes a token: the first `pos` entry, or a head entry still to be written. -/
def lwPending (u : SCtx) (w : W64) : Bool := (u.lwFirst && lwFmt w = 1) || !u.heads.isEmpty

/-- R259: writes the first `pos` entry of an invocation. -/
def lwStart (s : State) (t : Token) : Res :=
  let u := s.myUnit
  lwDo s s t [(lwP s.myModeWord + 4 * u.lwI, leBytes 4 u.lwJ, false)] fun u => { u with lwFirst := false }

/-- R259: a data token of a chunk-list writer. -/
def lwChunk (s : State) (t : Token) (c v : W32) (took : SCtx → SCtx) : Res :=
  let u := s.myUnit
  let w := s.myModeWord
  let entry := fun (g n : Nat) => [(g + 16 + 8 * n, leBytes 8 ((c ++ v).toNat), t.poison)]
  if u.cur = 0 || u.nc = 2 * lwCsz w - 2 then
    match s.alloc (16 * lwCsz w) with
    | (s', none) => lwHalt s' .budget t
    | (s', some g) =>
      let hd := if u.cur = 0 then [] else [(u.cur, twoWords g u.nc, false)]
      lwDo s s' t (hd ++ entry g 0) fun u' => { took u' with
        hd := if u.cur = 0 then g else u.hd, cur := g, nc := 1, tot := u.tot + 1 }
  else lwDo s s t (entry u.cur u.nc) fun u' => { took u' with nc := u.nc + 1, tot := u.tot + 1 }

/-- R260: sends the writes that are together, or waits. -/
def lwSend (s : State) : Res := match s.unitFlush with
  | none => waits s
  | some s => .next s

/-- R259: one step of a level writer: it writes an entry or ends a row. With no token at hand the writes that are together leave (R260). -/
def execLwriteToken (s : State) : Res :=
  let u := s.myUnit
  let w := s.myModeWord
  if s.myMode == 0x09 && u.lwHeld.isSome && (u.lwStop || !s.unitRuns || (u.head 0).isNone) then lwSend s
  else if !s.unitRuns || s.myMode != 0x09 || u.lwStop then waits s
  else match u.head 0 with
    | none => waits s
    | some t =>
      if t.badWidth then .next ((s.updMyUnit fun u => u.take 0).unitReport .cfg t)
      else if t.isBarrier || !u.heads.isEmpty then waits s
      else if u.lwFirst && lwFmt w = 1 then lwStart s t
      else if t.kind == .stop then lwRowEnd s t fun u => { u.take 0 with ord := 0, seen := false }
      else
        let c := u.ordCrd t
        let v := t.lo
        let took (u : SCtx) : SCtx := { u.take 0 with ord := u.ord + 1, seen := true, lwFirst := false }
        match lwFmt w with
        | 0 =>
          let n := boundOf s.myWords
          if n ≤ c.toNat then .next ((s.unitLog .range).updMyUnit took)
          else lwDo s s t [(lwC w + 4 * (u.lwI * n + c.toNat), leBytes 4 v.toNat, t.poison)] took
        | 1 =>
          lwDo s s t [(lwC w + 4 * u.lwJ, leBytes 4 c.toNat, t.poison),
            (lwC w + 16 * lwAux w + 4 * u.lwJ, leBytes 4 v.toNat, t.poison)] fun u => { took u with lwJ := u.lwJ + 1 }
        | _ => lwChunk s t c v took

/-- R259: a row's head entry, once every write of the row is sent and acknowledged. -/
def execLwriteHeadEntry (s : State) : Res :=
  let u := s.myUnit
  let w := s.myModeWord
  if !s.unitRuns || u.lwStop || u.heads.isEmpty then waits s
  else if u.lwHeld.isSome then lwSend s
  else if 0 < u.unacked then waits s
  else match u.heads with
    | [] => waits s
    | (i, h, n) :: r =>
      lwDo s s {} [(lwP w + 16 * i, twoWords h n, false)] fun u => { u with heads := r }

/-! ### Barriers (R244) -/

/-- R245: what an invocation marker resets, subject to `sreset`. -/
def SCtx.invocation (u : SCtx) (ws : List W64) : SCtx :=
  let (kb, kr) := match cfgWord ws 0x11 with
    | none => (false, false)
    | some w => (bitB w 57, bitB w 56)
  { q := u.q, rq := u.rq, arr := u.arr, rnd := u.rnd, sf := u.sf, sink := u.sink, sinkHit := u.sinkHit, tlb := u.tlb,
    xq := u.xq, unacked := u.unacked, askNo := u.askNo, lwHeld := u.lwHeld,
    bump := if kb then u.bump else none,
    lwI := if kr then u.lwI else 0, lwJ := if kr then u.lwJ else 0,
    cur := if kr then u.cur else 0, nc := if kr then u.nc else 0, hd := if kr then u.hd else 0,
    tot := if kr then u.tot else 0, lwStop := u.lwStop }

/-- R241: the outputs in use. -/
def outsInUse (ws : List W64) : List Nat :=
  match modeWord ws with
  | none => []
  | some w => match bitsN w 63 58 with
    | 0x03 => List.range (nIn w)
    | 0x04 => List.range (if bitB w 23 then nIn w + 1 else nIn w)
    | 0x09 => if bitB w 55 then [0] else []
    | _ => [0]

/-- R244: what must still be done before the unit acts on a barrier; none when it may act. -/
def barrierPending (s : State) (t : Token) : Option Res :=
  let u := s.myUnit
  match s.myMode with
  | 0x01 => if u.fib.isSome then some (waits s) else none
  | 0x06 => reduceRelease s t
  | 0x07 => selectRelease s t
  | 0x08 => partRelease s t
  | 0x09 =>
    if u.lwStop || !u.heads.isEmpty then some (waits s)
    else if u.lwHeld.isSome then some (lwSend s)
    else if t.kind == .done && u.seen then
      (if u.lwFirst && lwFmt s.myModeWord = 1 then some (lwStart s t)
       else some (lwRowEnd s t fun u => { u with seen := false, ord := 0 }))
    else if (t.kind == .done || (t.kind == .marker && (t.level == 0 || t.level == 3))) && 0 < u.unacked then some (waits s)
    else none
  | _ => none

/-- R254: a barrier at which the key form of a reducer releases its table. -/
def keyReleases (w : W64) (t : Token) : Bool :=
  redForm w = 2 && ((redTrig w = 1 && t.kind == .roundEnd) || (redTrig w = 2 && (t.kind == .done || (t.kind == .marker && t.level == 0))))

/-- R244: a taken barrier counts at `sinkcnt` and ends what a fibre remembers: what an open fibre has logged (R237) ends with the fibre, at a done;
what a key table has logged (R254) with its release; what a repeater has logged at a barrier (R253) with that barrier. -/
def SCtx.afterBarrier (u : SCtx) (t : Token) (ws : List W64) : SCtx :=
  let mode := ((modeWord ws).map fun w => bitsN w 63 58).getD 0
  let u := { u with
    logged := if mode = 0x05 then [] else if mode = 0x06 && keyReleases ((modeWord ws).getD 0) t then u.logged.erase 8 else u.logged
    relDone := false }
  let u := if t.kind == .done then
      { u with logged := u.logged.filter (· = 8), seen := false, ord := 0, kept := [], fpois := false, cum := 0, lastC := [], held := none, acc := {}, endSkip := [],
               sink := u.sink.map (· - 1), sinkHit := true }
    else u
  if t.kind == .marker && t.level == 0 then u.invocation ws else u

/-- R244: the inputs whose heads are barriers that the unit takes now: all where they agree, else the lowest alone. -/
def agreeBarriers (u : SCtx) (n : Nat) : Option (Token × List Nat × Bool) :=
  match (List.range n).mapM u.head with
  | some (t :: r) =>
    if (t :: r).all Token.isBarrier then
      let same := r.all fun x => x.kind == t.kind && x.level == t.level && x.round == t.round && x.payload == t.payload
      some (t, if same then List.range n else [0], same)
    else none
  | _ => none

/-- R244: an S-bay acts on aligned barriers. `only` restricts it to switch markers. -/
def State.barrier (s : State) (only : Bool) : Res :=
  let u := s.myUnit
  let ws := s.myWords
  if !s.unitRuns || s.myMode == 0x1D || s.myMode == 0x10 then waits s
  else match agreeBarriers u (unitInputs ws) with
    | none => waits s
    | some (t, ins, same) =>
      if only && !(t.kind == .marker && t.level == 1) then waits s
      else match barrierPending s t with
        | some r => r
        | none =>
          let take (s : State) : State :=
            let s := s.updMyUnit fun u => (ins.foldl (fun u i => u.take i) u).afterBarrier t ws
            if same then s else s.unitReport .cfg t
          let forward (f : State → State) : Res :=
            match s.sendOuts ((outsInUse ws).map fun k => (k, t)) with
            | none => waits s
            | some s => .next (f (take s))
          if t.kind == .marker then
            match t.level.toNat with
            | 1 => forward fun s => (s.takeSwitch s.focus.hall s.focus.elem (switchSlot t)).sinkPassed s.focus.hall s.focus.elem s.focus.ctx
            | 0 => forward fun s => s.invoked s.focus.hall 0 s.focus.elem s.focus.ctx
            | 4 =>
              if s.sparing s.focus.hall then forward fun s => s.tookSpare s.focus.hall s.focus.elem s.focus.ctx
              else .next (take s)
            | 5 => .next ((take s).unitReport .cfg t)
            | 6 => .next ((take s).unitReport .cfg t)
            | 7 => .next ((take s).unitReport .cfg t)
            | _ => forward id
          else forward id

/-- R244: an S-bay aligns the barriers of its inputs and acts on them once. -/
def execSbayBarrier (s : State) : Res := s.barrier false

end Sys2Proof.Machine
end

