-- ==== Sys2Proof/Machine/Xlate.lean ====
section
/-! DEFINITION. The translate mode of an S-bay (R101–R105), the page-table walks of a hall's translation agent (R100), and shootdowns (R121–R125, R148). -/

namespace Sys2Proof.Machine

/-! ### Window and fault tokens (R102, R103) -/

/-- R104: the largest extent. -/
def xEmax (ws : List W64) : Nat := match cfgWord ws 0x22 with
  | none => 30
  | some w => bitsN w 57 53

/-- R102: the payload of a translated-window token. -/
def windowPayload (pte : W64) (psz va emax : Nat) : W64 :=
  let ext := min psz emax
  let pa := (bitsN pte 47 16 * 65536 + va % 2 ^ psz) / 2 ^ ext * 2 ^ ext
  let b (n : Bool) (k : Nat) : Nat := if n then k else 0
  let d := bitB pte 7
  w64 (bitsN pte 63 48 * 2 ^ 48 + pa / 4096 % 2 ^ 36 * 2 ^ 12 + ext * 2 ^ 7 + b (bitB pte 8) 64 + b (bitB pte 2) 32 +
    b (bitB pte 3 && d) 16 + b (bitB pte 4 && d) 8 + b (bitB pte 5) 4)

/-- R103: the code of a walk's fault. -/
def faultRes : Cause → Nat
  | .nopage => 1
  | .prot => 2
  | .key => 4
  | _ => 3

/-- R103: the code of a kind of access. -/
def AccKind.code : AccKind → Nat
  | .read => 0
  | .write => 1
  | .atomic => 2
  | .exec => 3

/-- R103: the payload of a fault token. -/
def faultPayload (c : Cause) (k : AccKind) (va : Nat) : W64 :=
  w64 (faultRes c * 2 ^ 61 + k.code * 2 ^ 59 + va / 65536 % 2 ^ 40 * 65536)

/-- R103: a width-5 token without poison whose extent is zero is a fault token. -/
def Token.isFault (t : Token) : Bool := t.kind == .data && t.width == 5 && !t.poison && bitsN t.payload 11 7 == 0

/-- R102, R103: what a walk's answer makes of a request. -/
def xAnswer (ws : List W64) (r : XReq) (k : AccKind) : WalkAns → Token
  | .fault c => { r.tok with width := 5, payload := faultPayload c k r.va }
  | .leaf pte psz => { r.tok with width := 5, payload := windowPayload pte psz r.va (xEmax ws) }

/-! ### The translation buffer (R101, R104) -/

/-- R104: entries kept for `tlbent`. -/
def xPins (ws : List W64) : Nat := match cfgWord ws 0x1E with
  | none => 0
  | some w => bitsN w 57 52

/-- R104, R122: the index of a `tlbent` word whose page an entry covers. -/
def pinOf (ws : List W64) (e : TlbEnt) : Option Nat :=
  ((ws.filter fun w => bitsN w 63 58 == 0x1F).find? fun w => e.va / 2 ^ e.psz == bitsN w 39 0 * 65536 / 2 ^ e.psz).map
    fun w => bitsN w 57 52

/-- R101: a walked leaf replaces the entries that cover its page; the least recently used entry that is not pinned
leaves when the buffer is full. -/
def tlbFill (ws : List W64) (l : List TlbEnt) (e : TlbEnt) : List TlbEnt :=
  let l := l.filter fun x => !(x.covers e.root e.va || e.covers x.root x.va)
  let e := { e with pin := pinOf ws e }
  let pinned := l.filter fun x => x.pin.isSome
  let others := l.filter fun x => x.pin.isNone
  if e.pin.isSome then e :: pinned ++ others else pinned ++ (e :: others).take (64 - xPins ws)

/-! ### Requests (R105) -/

def State.updSwap (s : State) (r : Nat) (f : RSwap → RSwap) : State := s.updRegion r fun g => { g with swap := f g.swap }

/-- R397: adds a token to a link behind what is on it. -/
def State.pushLink (s : State) (k : Nat) (t : Token) : State := { s with links := Tab.upd s.links k [] (· ++ [t]) }

/-- R406: forwards a snapshot once on each of a list of links. -/
def State.forwardSnap (s : State) (r c : Nat) (t : Token) (ks : List Nat) : State :=
  ks.foldl (fun s k => if (s.region r).swap.snapSent.contains (4 * k + c) then s
    else (s.pushLink k t).updSwap r fun g => { g with snapSent := (4 * k + c) :: g.snapSent }) s

/-- R66: the links on which a bay's route classes send. -/
def State.bayLinks (s : State) (h e c : Nat) : List Nat :=
  ((s.cfg h e c).routes.map fun (r : Nat × W32) => (entryDirs r.2).map (bayOut h e)).flatten

/-- R105: a translate unit's snapshot stands behind the address tokens that reached the unit before it, as a fifth queue in their order. -/
def SCtx.snapAfter (u : SCtx) (t : Token) : SCtx := { u with q := Tab.upd u.q 4 [] (· ++ [t]), arr := u.arr ++ [4] }

/-- R105, R406: a snapshot leaves a translate unit behind the results of every earlier request, while it is the one in progress. -/
def State.xSnap (s : State) (t : Token) : State :=
  let h := s.focus.hall
  let c := s.focus.ctx
  match s.regionAt h c with
  | none => s
  | some r =>
    if (s.region r).swap.snapSeq = some (bitsN t.payload 15 0) then s.forwardSnap r c t (s.bayLinks h s.focus.elem c) else s

/-- R101: finished results that wait on an older miss: those behind the first request that has no answer. -/
def SCtx.waiting (u : SCtx) : Nat := ((u.xq.dropWhile fun r => r.ans.isSome).filter fun r => r.ans.isSome).length

/-- R105: the result that leaves next, once its request is answered. A done taken on i0 counts the sink down (R244). -/
def State.xSend (s : State) (r : XReq) (rest : List XReq) : Option Res :=
  match r.ans with
  | none => none
  | some t =>
    let h := s.focus.hall
    let e := s.focus.elem
    let w := s.myModeWord
    if t.kind == .snapshot then some (.next ((s.updMyUnit fun u => { u with xq := rest }).xSnap t))
    else match s.takeRoute h e (if t.isFault then bitsN w 52 48 else bitsN w 57 53) 5 t true with
    | none => none
    | some s =>
      let s := s.updMyUnit fun u =>
        let u := { u with xq := rest }
        if t.kind == .done && r.inp == 0 then { u with sink := u.sink.map (· - 1), sinkHit := true } else u
      some (.next (if t.kind == .marker && t.level == 1 then (s.takeSwitch h e (switchSlot t)).sinkPassed h e s.focus.ctx
        else if t.kind == .marker && t.level == 0 then s.invoked h 0 e s.focus.ctx else s))

/-- R101, R105: takes the next token in arrival order. DESIGN CHOICE (log 54), where two rows of R105 meet: a data token of a width other than 4, or
on an input of kind `none`, is discarded with `cfg` even if it is poisoned; and an address whose bits 63:56 are not zero, which R61 excludes, is
answered with a `range` fault token without a lookup. -/
def State.xTake (s : State) : Res :=
  let u := s.myUnit
  let ws := s.myWords
  match u.arr with
  | [] => waits s
  | i :: _ =>
    match u.head i with
    | none => waits s
    | some t =>
      let took := s.updMyUnit fun u => u.take i
      let push (s : State) (r : XReq) : State := s.updMyUnit fun u => { u with xq := u.xq ++ [r] }
      if 8 ≤ (u.xq.filter fun r => r.ans.isSome).length then waits s
      else if i = 4 then
        .next (s.updMyUnit fun u => { u with q := Tab.upd u.q 4 [] (·.drop 1), arr := u.arr.drop 1,
                                             xq := u.xq ++ [{ va := 0, kind := none, tok := t, ans := some t, inp := 4 }] })
      else if t.kind != .data then .next (push took { va := 0, kind := none, tok := t, ans := some t, inp := i })
      else
        let k := xKind ws i
        if t.width ≠ 4 || k = 3 then .next (took.unitReport .cfg t)
        else if t.poison then
          .next (push took { va := 0, kind := none, tok := t, ans := some { t with width := 5, payload := 0 }, inp := i })
        else
          let kind := kindOf k
          let va := t.payload.toNat
          let r : XReq := { va := va, kind := some kind, tok := t, inp := i }
          if 2 ^ 56 ≤ va then .next (push took { r with ans := some (xAnswer ws r kind (.fault .range)) })
          else match u.tlb.find? fun e => e.hits (xRoot ws) va kind with
            | some e =>
              .next ((push took { r with ans := some (xAnswer ws r kind (.leaf e.pte e.psz)) }).updMyUnit
                fun u => { u with tlb := e :: u.tlb.erase e })
            | none =>
              if 4 ≤ (u.xq.filter fun r => r.ans.isNone).length then waits s
              else
                let s := push took r
                .next { s with walks := s.walks ++
                  [{ hall := s.focus.hall, bay := s.focus.elem, ctx := s.focus.ctx, va := va, kind := kind }] }

/-- R101, R105: one step of a translate unit: it sends the oldest result, or takes the next token. -/
def execTranslateRequest (s : State) : Res :=
  let h := s.focus.hall
  let e := s.focus.elem
  let take : Res := if s.unitRuns then s.xTake else waits s
  if bayKind e != .s || s.myMode != 0x1D || s.ctxStopped h s.focus.ctx || s.swapSaved h e s.focus.ctx then waits s
  else match s.myUnit.xq with
    | [] => take
    | r :: rest => match s.xSend r rest with
      | some x => x
      | none => take

/-- Answers the oldest request of a unit that a walk was for. -/
def answerFirst (va : Nat) (k : AccKind) (f : XReq → Token) : List XReq → List XReq
  | [] => []
  | r :: t =>
    if r.ans.isNone && r.va == va && r.kind == some k then { r with ans := some (f r) } :: t
    else r :: answerFirst va k f t

/-- R101: an answer to this walk would be a ninth result that waits on an older miss. -/
def SCtx.full (u : SCtx) (va : Nat) (k : AccKind) : Bool :=
  8 ≤ u.waiting && (match u.xq.find? fun r => r.ans.isNone with
    | none => false
    | some r => !(r.va == va && r.kind == some k))

/-- R100, R101: the translation agent runs a walk for a unit and hands it the answer, which waits while the unit's buffer of results is full; a leaf
fills the unit's translation buffer. -/
def execPageTableWalk (s : State) : Res :=
  match s.walks[s.focus.idx]? with
  | none => waits s
  | some w =>
    let ws := (s.cfg w.hall w.bay w.ctx).words
    if (s.unit w.hall w.bay w.ctx).full w.va w.kind then waits s else
    let (s, ans, logs) := s.walk (xRoot ws) (w64 w.va) w.kind (xAdmits ws)
    let s := s.logAll { hall := w.hall, elem := w.bay, eclass := 0, ctx := w.ctx } logs
    let s := { s with walks := s.walks.eraseIdx s.focus.idx }
    let u := s.unit w.hall w.bay w.ctx
    let u := { u with xq := answerFirst w.va w.kind (fun r => xAnswer ws r w.kind ans) u.xq }
    let u := match ans with
      | .fault _ => u
      | .leaf pte psz => { u with tlb := tlbFill ws u.tlb { root := xRoot ws, va := w.va, psz := psz, pte := pte } }
    .next (s.setUnit w.hall w.bay w.ctx u)

/-! ### Receive windows (R148) -/

/-- R148: the granules of a window that are still empty, by PA / 16 of where they are held. -/
def State.windowEmpties (s : State) (w : RWindow) : List Nat :=
  (List.range (4 * w.lines)).map (fun i => s.placeOf (w.pa + 16 * i) / 16) |>.filter s.mem.empties.contains

/-- R148: a closing window with no delivery in progress is closed; with `pfill` its empty granules become poison and full. -/
def State.settleWindow (s : State) (wid : Nat) : State :=
  match Tab.find s.arc.wins wid with
  | none => s
  | some w =>
    if w.closing && w.dels.isEmpty then
      let es := if w.pfill then s.windowEmpties w else []
      let s := { s with
        arc := { s.arc with wins := Tab.del s.arc.wins wid }
        mem := { s.mem with
          pois := es.foldl setIns s.mem.pois
          empties := s.mem.empties.filter fun g => !es.contains g } }
      ((es.map (· / 4)).eraseDups).foldl State.notifyWrite s
    else s

/-- R148: a window refuses new deliveries from now on. -/
def State.closeWindow (s : State) (wid : Nat) (pfill : Bool) : State :=
  match Tab.find s.arc.wins wid with
  | none => s
  | some w =>
    ({ s with arc := { s.arc with wins := Tab.put s.arc.wins wid { w with closing := true, pfill := w.pfill || pfill } } }).settleWindow
      wid

/-! ### Shootdowns (R121, R122, R125) -/

/-- Ranges of addresses meet. -/
def overlaps (a n b m : Nat) : Bool := decide (a < b + m) && decide (b < a + n)

/-- R102: a window covers addresses of a range. -/
def windowMeets (va : Nat) (pay : W64) (lo n : Nat) : Bool :=
  let x := bitsN pay 11 7
  overlaps (va / 2 ^ x * 2 ^ x) (2 ^ x) lo n

/-- R122, R123: a request whose window has been made, has not left, and covers addresses of a range. -/
def XReq.stale (va len : Nat) (r : XReq) : Bool := match r.ans with
  | some t => r.kind.isSome && !t.poison && !t.isFault && windowMeets r.va t.payload va len
  | none => false

/-- R122: a translate unit drops the entries of the root that overlap the range, pinned ones included, and walks again for the windows of the range
that it has not sent. A walk is one step, so none is in flight with an old entry. -/
def State.shootUnit (s : State) (hall bay : Nat) (root : BitVec 37) (va len : Nat) : State :=
  (List.range 4).foldl (fun s c =>
    let u := s.unit hall bay c
    let mine := xRoot (s.cfg hall bay c).words == root
    let redo (r : XReq) : Bool := mine && r.stale va len
    let again : List Walk := (u.xq.filter redo).filterMap fun r => r.kind.map fun k => { hall := hall, bay := bay, ctx := c, va := r.va, kind := k }
    ({ s with walks := s.walks ++ again }).setUnit hall bay c { u with
      tlb := u.tlb.filter fun e => !(e.root == root && overlaps (e.va / 2 ^ e.psz * 2 ^ e.psz) (2 ^ e.psz) va len)
      xq := u.xq.map fun r => if redo r then { r with ans := none } else r }) s

/-- An item of a stair's output whose access to a range has still to be performed. -/
def OutItem.busyIn (va len : Nat) : OutItem → Bool
  | .el e => overlaps e.va e.n va len && e.ps.any fun p => p.got.isNone
  | _ => false

/-- R168: the write that a stair has been merging is issued. -/
def State.flushMrg (s : State) (hall n : Nat) : State :=
  let t := s.stair hall n
  match t.mrg with
  | none => s
  | some p =>
    match p.rem with
    | none => { s with edge := s.edge ++ [p] }.setStair hall n { t with mrg := none, mrgEls := [] }
    | some q =>
      let ctx := match p.who with
        | .stair _ _ c => c
        | _ => 0
      (s.sendCmd hall n p.cls (wreqPacket q p.pa (s.akeyOf hall ctx) p.data 0) (.stairWrite hall n)).setStair hall n { t with
        mrg := none, mrgEls := [], remw := Tab.put t.remw s.arc.nextTag t.mrgEls }

/-- R122: a stair has an access to the range that is not complete. Accesses to peers count whatever their address. -/
def State.stairBusy (s : State) (hall n va len : Nat) : Bool :=
  (s.stair hall n).out.any (OutItem.busyIn va len) ||
    (s.edge.any fun p => match p.who with
      | .stair h m _ => h == hall && m == n && overlaps p.va.toNat p.size va len
      | _ => false) ||
    (s.arc.outst.any fun o => match o.who with
      | .stairRead h m => h == hall && m == n
      | .stairWrite h m => h == hall && m == n
      | _ => false)

/-- R122, R123: a stair drops the windows of a range, the current line, and what its waiting element has been given by them; answers that are on
their way to it are checked against the range when they come. -/
def Stair.shot (t : Stair) (va len : Nat) : Stair :=
  let old (e : Elem) : Bool := overlaps e.va e.n va len
  { t with
    wins := t.wins.filter fun w => !windowMeets w.va w.pay va len
    cur := none
    asks := t.asks.map fun a => (a.1, a.2.1, (va, len) :: a.2.2)
    want := t.want.map fun e => if old e then { e with ps := [] } else e }

/-- R122: a landing core of a hall has an access to the range that is not complete: a store at its edge, a synchronising read at a bank or on its way,
or an access of a peer's memory, whatever its address. -/
def State.coreBusy (s : State) (hall va len : Nat) : Bool :=
  (s.edge.any fun q => match q.who with
    | .thread h _ => h == hall && overlaps q.va.toNat q.size va len
    | _ => false) ||
  ((s.net.reqs ++ (s.banks.map fun (p : Nat × Bank) => p.2.requests).flatten).any fun r => match r.reply with
    | .thread h _ _ => h == hall && overlaps r.va.toNat r.size va len
    | _ => false) ||
  (s.arc.outst.any fun o => match o.who with
    | .thread h _ _ _ => h == hall
    | .load h _ _ _ _ _ => h == hall
    | .write h _ => h == hall
    | .amo h _ _ => h == hall
    | _ => false)

/-- R122, R148: what a part does when a shootdown drain reaches it, and whether it may acknowledge. The drain stays at the
part until the accesses it covers are complete. -/
def State.shootPart (s : State) (d : Shoot) : State × Bool :=
  let (hall, p) := d.part
  if p < 64 then (s.shootUnit hall p d.root d.va d.len, true)
  else if p < 80 then
    let s := s.flushMrg hall (p - 64)
    (s.setStair hall (p - 64) ((s.stair hall (p - 64)).shot d.va d.len), !s.stairBusy hall (p - 64) d.va d.len)
  else if p = 80 then
    (s.dropTlb hall d.root (fun e => overlaps (e.va / 2 ^ e.psz * 2 ^ e.psz) (2 ^ e.psz) d.va d.len)
        (fun va => overlaps va 8 d.va d.len),
      !s.coreBusy hall d.va d.len)
  else
    let hit := s.arc.wins.filter fun w => w.2.root == d.root && overlaps w.2.va.toNat (64 * w.2.lines) d.va d.len
    (hit.foldl (fun s w => s.closeWindow w.1 false) s, hit.all fun w => w.2.dels.isEmpty)

/-- R121: a part's acknowledgement reaches the command. -/
def Disp.ack (d : Disp) (ticket : Nat) : Disp :=
  { d with cmds := d.cmds.map fun c => if c.ticket == ticket then { c with waitParts := c.waitParts - 1 } else c }

/-- R121, R123: the translate units of a shootdown come first, so that no stair is answered from an entry that was there before. -/
def State.shootHeld (s : State) (d : Shoot) : Bool :=
  64 ≤ d.part.2 && d.part.2 < 80 && s.shoots.any fun x => x.hall == d.hall && x.ticket == d.ticket && x.part.2 < 64

/-- R122: a shootdown drain acts on its translating part; the part acknowledges when the accesses it covers are complete. -/
def execShootdownDrainArrival (s : State) : Res :=
  match s.shoots[s.focus.idx]? with
  | none => waits s
  | some d =>
    if s.shootHeld d then waits s
    else match s.shootPart d with
    | (s, false) => .next s
    | (s, true) =>
      .next ({ s with shoots := s.shoots.eraseIdx s.focus.idx }.setDisp d.hall ((s.disp d.hall).ack d.ticket))

end Sys2Proof.Machine
end

