-- ==== Sys2Proof/Machine/StairOps.lean ====
section
/-! DEFINITION. What the stairs share (R157–R172): configuration words, sending, windows, spilling, stops, memory pieces, tokens. -/

namespace Sys2Proof.Machine

/-! ### Configuration words (R163) -/

def stDir (ws : List W64) : Nat := bitsN ((cfgWord ws 0x15).getD 0) 57 56
def stAmode (ws : List W64) : Nat := bitsN ((cfgWord ws 0x15).getD 0) 55 54
def stComm (ws : List W64) : Bool := bitB ((cfgWord ws 0x15).getD 0) 53
def stStops (ws : List W64) : Bool := bitB ((cfgWord ws 0x15).getD 0) 52
def stAmo (ws : List W64) : Nat := bitsN ((cfgWord ws 0x15).getD 0) 51 48
def stRco (ws : List W64) : Nat := bitsN ((cfgWord ws 0x15).getD 0) 47 43
def stCvo (ws : List W64) : Bool := bitB ((cfgWord ws 0x15).getD 0) 42

/-- R163: the word of a flight. -/
def stFlight (ws : List W64) (k : Nat) : Option W64 := ws.find? fun w => bitsN w 63 58 == 0x13 && bitsN w 57 55 == k

/-- R157: the number of flights. -/
def stFlights (ws : List W64) : Nat := ((List.range 6).filter fun k => (stFlight ws k).isSome).length

/-- R163: a flight's stride in bytes. -/
def stStride (ws : List W64) (k : Nat) : Int := (((stFlight ws k).getD 0).setWidth 30).toInt

/-- R163: `stelem`, or its default. -/
def stElemWord (ws : List W64) : W64 := (cfgWord ws 0x19).getD 0x6600000000000000
def stVec (ws : List W64) : Bool := bitB (stElemWord ws) 54
def stSx (ws : List W64) : Bool := bitB (stElemWord ws) 55
def stEsz (ws : List W64) : Nat := 2 ^ bitsN (stElemWord ws) 57 56
/-- R159: beats of an element. -/
def stBeats (ws : List W64) : Nat := if stVec ws then bitsN (stElemWord ws) 53 50 + 1 else 1
/-- R159, R162: bytes of an element. -/
def stBytes (ws : List W64) : Nat := if stVec ws then 8 * stBeats ws else stEsz ws

/-- R163: `sttok`: channels of bounds, indexes and data; 0, 1, 2 by default. -/
def stBch (ws : List W64) : Nat := match cfgWord ws 0x18 with
  | none => 0
  | some w => bitsN w 57 54
def stAch (ws : List W64) : Nat := match cfgWord ws 0x18 with
  | none => 1
  | some w => bitsN w 53 50
def stDch (ws : List W64) : Nat := match cfgWord ws 0x18 with
  | none => 2
  | some w => bitsN w 49 46
def stWch (ws : List W64) : Nat := bitsN ((cfgWord ws 0x1B).getD 0) 42 39
def stNwin (ws : List W64) : Nat := bitsN ((cfgWord ws 0x1B).getD 0) 38 37 + 1

/-- R166: the route class of window requests of a kind. -/
def stRq (ws : List W64) : AccKind → Nat
  | .write => bitsN ((cfgWord ws 0x1B).getD 0) 52 48
  | .atomic => bitsN ((cfgWord ws 0x1B).getD 0) 47 43
  | _ => bitsN ((cfgWord ws 0x1B).getD 0) 57 53

/-- R163: the kind of a slot's accesses. -/
def stKind (ws : List W64) : AccKind := match stDir ws with
  | 0 => .read
  | 1 => .write
  | _ => .atomic

/-- R163: the channels a slot uses. -/
def stUses (ws : List W64) (c : Nat) : Bool :=
  (cfgWord ws 0x1B).isSome &&
  (c == stWch ws || (c == stBch ws && (List.range 6).any fun k => bitB ((stFlight ws k).getD 0) 54) ||
    (c == stAch ws && stAmode ws == 2) || (c == stDch ws && stDir ws != 0))

def State.stWords (s : State) (h n ctx : Nat) : List W64 := (s.cfg h (stairElem n) ctx).words
def State.updStair (s : State) (h n : Nat) (f : Stair → Stair) : State := s.setStair h n (f (s.stair h n))
def State.stairSite (h n ctx : Nat) : Site := { hall := h, elem := n, eclass := 1, ctx := ctx }
/-- Logs a fault of a stair with the VA it concerns. -/
def State.stairLog (s : State) (h n ctx : Nat) (c : Cause) (va : Nat) : State :=
  s.logFault c (State.stairSite h n ctx) (va % 2 ^ 56)
/-- Reports a token that a stair discards. -/
def State.stairCfg (s : State) (h n : Nat) (t : Token) : State := s.reportElem .cfg h (stairElem n) t.ctx.toNat t

/-! ### Tokens in and out (R66, R169) -/

/-- R169: a token joins a stair's local channel; none while it holds four. -/
def State.stairDeliver (s : State) (h n chan : Nat) (t : Token) : Option State :=
  let ctx := t.ctx.toNat
  let x := s.stair h n
  let k := 16 * ctx + chan
  if !stUses (s.stWords h n ctx) chan then some (s.stairCfg h n t)
  else if (Tab.get x.chans k []).length < 4 then
    some (s.setStair h n { x with chans := Tab.upd x.chans k [] (· ++ [{ t with chan := BitVec.ofNat 4 chan }]) })
  else none

/-- The token at the head of a stair's channel. -/
def Stair.head (x : Stair) (ctx chan : Nat) : Option Token := (Tab.get x.chans (16 * ctx + chan) []).head?
/-- Takes it. What is read afterwards is read after the token (R313), so the current line ends. -/
def Stair.take (x : Stair) (ctx chan : Nat) : Stair :=
  { x with chans := Tab.upd x.chans (16 * ctx + chan) [] (·.drop 1), cur := none }

/-- R19, R66: the direction in which a stair's own table leads to its bay: south for a north stair, north for a south stair. -/
def stairToBay (n : Nat) : Nat := if n < 8 then dirS else dirN

/-- R66: a token that originates in a stair leaves under a route class of the stair's own table: into its bay, or to a
channel of its own; none while it cannot. -/
def State.stairSend (s : State) (h n rc : Nat) (t : Token) : Option State :=
  let e := s.route66 h (stairElem n) t.ctx.toNat rc
  let out := (entryDirs e).contains (stairToBay n)
  let k := lkey h (stairBay n) (stairBaySide n)
  if !out && !bitB e 27 then some (s.stairCfg h n t)
  else if out && !s.linkReady k t.ctx.toNat 5 then none
  else
    let s' := if bitB e 27 then s.stairDeliver h n (bitsN e 22 19) t else some s
    s'.map fun s =>
      let s := if out then s.putLink k 5 { t with chan := BitVec.ofNat 4 (bitsN e 26 23) } else s
      s.countTok h (stairElem n) t.ctx.toNat 5 1

/-- Adds an item at the end of a stair's output. -/
def Stair.push (x : Stair) (t : Token) : Stair := { x with out := x.out ++ [.tok t none] }

/-! ### The translate unit of a stair (R116) -/

/-- R17, R263: the bay beside a bay. -/
def bayBeside (h b dir : Nat) : Option (Nat × Nat) :=
  match dir with
  | 0 => if b / 8 = 0 then none else some (h, b - 8)
  | 1 => if b % 8 = 7 then (hallBeside h 1).map fun k => (k, b - 7) else some (h, b + 1)
  | 2 => if b / 8 = 7 then none else some (h, b + 8)
  | _ => if b % 8 = 0 then (hallBeside h 3).map fun k => (k, b + 7) else some (h, b - 1)

/-- R116: the translate-mode S-bay that a route class reaches from a bay. -/
def State.traceUnit (s : State) (ctx : Nat) : Nat → Nat → Nat → Nat → Option (Nat × Nat)
  | 0, _, _, _ => none
  | fuel + 1, h, b, rc =>
    let e := s.route66 h b ctx rc
    if bitB e 27 && bayKind b == .s && (cfgWord (s.cfg h b ctx).words 0x1D).isSome then some (h, b)
    else (entryDirs e).findSome? fun d =>
      match bayBeside h b d with
      | none => none
      | some (h', b') => State.traceUnit s ctx fuel h' b' (bitsN e 26 23)

/-- R116: the translate unit that a stair's window requests of a kind reach. -/
def State.stairUnit (s : State) (h n ctx : Nat) (k : AccKind) : Option (Nat × Nat) :=
  let e := s.route66 h (stairElem n) ctx (stRq (s.stWords h n ctx) k)
  s.traceUnit ctx 64 h (stairBay n) (bitsN e 26 23)

/-! ### Windows (R166) -/

/-- R102: the bit of a window that allows a kind of access. -/
def kindBit : AccKind → Nat
  | .read => 5
  | .write => 4
  | .atomic => 3
  | .exec => 2

/-- R166: a held window serves an access. -/
def Window.serves (w : Window) (va : Nat) (k : AccKind) : Bool :=
  let x := bitsN w.pay 11 7
  w.va / 2 ^ x == va / 2 ^ x && bitB w.pay (kindBit k)

/-- R166: where a window puts an address. -/
def Window.place (w : Window) (va : Nat) : Xlat :=
  { pa := bitsN w.pay 47 12 * 4096 + va % 2 ^ bitsN w.pay 11 7, key := bitsN w.pay 55 48,
    rem := if bitB w.pay 6 then some (bitsN w.pay 63 56) else none }

/-! ### Checked lines (R109, R110) -/

/-- R107, R110: the check value of the line at a PA fails under a key slot. -/
def State.checkBad (s : State) (pa key : Nat) : Bool :=
  match spaceOf pa with
  | .spad => s.mem.cvBad (s.placeOf pa / 64)
  | .hbm =>
    (match s.keyPair key with
    | none => false
    | some pair =>
      let line := pa / 64
      if (s.linePair line).same pair then s.mem.cvBad line
      else s.mem.cv line != crc32c (s.decrypted pair (64 * line) 64))
  | _ => false

/-- R108: a granule that n bytes touch is marked. -/
def State.granPois (s : State) (pa n : Nat) : Bool := (granules (s.placeOf pa) n).any s.mem.pois.contains

/-! ### Elements in the output -/

/-- Changes the pieces of every element that waits in a stair. -/
def Stair.mapPieces (x : Stair) (f : Elem → Piece → Piece) : Stair :=
  let g (e : Elem) : Elem := { e with ps := e.ps.map (f e) }
  { x with
    out := x.out.map fun i => match i with
      | .el e => .el (g e)
      | o => o
    auxq := x.auxq.map g }

/-- An item is a fence marker: a line read before it serves no element behind it. -/
def OutItem.isFence : OutItem → Bool
  | .tok t _ => t.kind == .marker && t.level == 3
  | _ => false

/-- R167: the line of a piece is the current line. -/
def CurLine.holds (l : CurLine) (p : Piece) : Bool := p.pa / 64 == l.line && p.rem == l.rem && p.key == l.key
/-- R108, R167: what a line gives a piece: its bytes, and whether a granule they touch is poisoned. -/
def CurLine.value (l : CurLine) (p : Piece) : List Byte × Bool :=
  ((l.data.drop (p.pa % 64)).take p.len, (granules (p.pa % 64) p.len).any l.pois.contains)

/-- R167: an item at which the current line ends: a fence, or the place of a spilled element. -/
def OutItem.breaks : OutItem → Bool
  | .hole _ => true
  | i => i.isFence

/-- R167: what one read of a line gives the pieces of an element: from the one that `start`s it (phase 0) on, while they lie in the line (phase 1).
The first that does not ends it (phase 2). -/
def fillPieces (start hit : Piece → Bool) (v : Piece → List Byte × Bool) : Nat → List Piece → Nat × List Piece
  | ph, [] => (ph, [])
  | ph, p :: t =>
    let ph := if ph = 0 then (if start p then 1 else 0) else if ph = 1 && !hit p then 2 else ph
    let q := if ph = 1 && p.got.isNone then { p with got := some (v p) } else p
    let r := fillPieces start hit v ph t
    (r.1, q :: r.2)

/-- R167: the consecutive elements of an output that one read of a line serves, and the phase at its end: 1 where the line is the current line. -/
def fillItems (start hit : Piece → Bool) (v : Piece → List Byte × Bool) : Nat → List OutItem → Nat × List OutItem
  | ph, [] => (ph, [])
  | ph, .el e :: t =>
    let a := fillPieces start hit v ph e.ps
    let r := fillItems start hit v a.1 t
    (r.1, .el { e with ps := a.2 } :: r.2)
  | ph, i :: t =>
    let r := fillItems start hit v (if ph = 1 && i.breaks then 2 else ph) t
    (r.1, i :: r.2)

/-- R167: a line has returned to a stair for the first piece that satisfies `start`: it serves the consecutive pieces of its line. A line that could
not be read serves them and is no current line. -/
def Stair.fill (x : Stair) (start : Piece → Bool) (l : CurLine) (ok : Bool) : Stair :=
  let r := fillItems start l.holds l.value 0 x.out
  { x with out := r.2, cur := if r.1 = 1 && ok then some l else x.cur }

/-- R159: the value of an element that has returned whole: its bytes and poison; none while a piece is missing. DESIGN CHOICE (log 56): an element
with one poisoned granule or line is poisoned as a whole, in every beat of a vector; the specification does not say which beats are. -/
def Elem.value (e : Elem) : Option (List Byte × Bool) :=
  e.ps.foldl (fun r p => match r, p.got with
    | some (bs, b), some (cs, c) => some (bs ++ cs, b || c)
    | _, _ => none) (some ([], false))

/-- R159: the tokens of an element's value. R113, R256: a late element of a commutative stream carries its element index. -/
def Elem.toks (ws : List W64) (e : Elem) (bs : List Byte) (pois : Bool) : List Token :=
  let base : Token := { ctx := BitVec.ofNat 2 e.ctx, round := e.round, poison := pois }
  let n := leNat bs
  let ext : W32 := match stEsz ws with
    | 1 => if stSx ws then (BitVec.ofNat 8 n).signExtend 32 else w32 (n % 256)
    | 2 => if stSx ws then (BitVec.ofNat 16 n).signExtend 32 else w32 (n % 65536)
    | _ => w32 n
  if stVec ws then
    (List.range (stBeats ws)).map fun i =>
      { base with width := 3, beat := BitVec.ofNat 4 i, level := if i + 1 = stBeats ws then 1 else 0,
                  payload := w64 (leNat ((bs.drop (8 * i)).take 8)) }
  else if e.replay && stComm ws then [{ base with width := 2, payload := e.idx ++ ext }]
  else if stCvo ws then [{ base with width := 2, payload := e.coord ++ ext }]
  else if stEsz ws = 8 then [{ base with width := 0, payload := w64 n }]
  else [{ base with width := 1, payload := ext.setWidth 64 }]

/-- R113, R159: items take an element's place in the output: that of its spill, or the end. -/
def Stair.place (x : Stair) (ser : Nat) (l : List OutItem) : Stair :=
  if x.out.contains (.hole ser) then
    { x with out := (x.out.map fun i => if i = .hole ser then l else [i]).flatten }
  else { x with out := x.out ++ l }

/-- An element's place is given up. -/
def Stair.unplace (x : Stair) (ser : Nat) : Stair := { x with out := x.out.filter (· != .hole ser) }

/-- R112, R161, R166: an element without an access delivers poison: its tokens, or the value of an array's entry. -/
def State.givePoison (s : State) (h n : Nat) (e : Elem) : State :=
  let ws := s.stWords h n e.ctx
  let v := s.free
  let s := s.drawn
  if e.aux then
    s.updStair h n fun x => { x with
      want := none, run := x.run.map fun r => { r with aux := Tab.put r.aux e.va { v := v.setWidth 32, poison := true } } }
  else
    let bs := (List.replicate (stBeats ws) (leBytes 8 v.toNat)).flatten.take e.n
    s.updStair h n fun x => { x.place e.ser ((e.toks ws bs true).map fun t => .tok t none) with want := none }

/-! ### Stops (R170, R171) -/

/-- R171: the trap record of a stair. -/
def State.stairRecord (s : State) (h n : Nat) (r : StairRun) (x : Stair) (c : Cause) (e : Elem) : BitVec 512 :=
  let ws := s.stWords h n r.ctx
  let cls := if e.aux then (match cfgWord ws 0x1A with
    | some w => bitsN w 57 50
    | none => r.cls) else r.cls
  let rec0 := recHead c h (s.logCtx h r.ctx) 0
  let rec1 := recPut (recPut (recPut (recPut rec0 494 4 n) 484 8 cls) 482 2 e.kind.code) 477 5 x.spill.length
  let rec2 := recPut (recPut (recPut rec1 448 16 r.ticket) 392 56 e.va) 352 32 e.idx.toNat
  let rec3 := (List.range 6).foldl (fun q k => recPut q (160 + 32 * k) 32 (e.f.getD k 0)) rec2
  let rec4 := recPut rec3 128 32 (if stAmode ws = 1 then e.f.getD 1 0 else 0)
  recPut (recPut rec4 64 64 (if e.kind = .read then 0 else (e.data.headD 0).toNat)) 0 64 x.lastWin.toNat

/-- R170: the stair stops at an element and traps to the hall's landing core; what was merged before it goes to memory; the element is issued again
on resumption. -/
def State.stairStop (s : State) (h n : Nat) (c : Cause) (e : Elem) (keep : Bool := true) : State :=
  let s := s.flushMrg h n
  let x := s.stair h n
  match x.run with
  | none => s
  | some r =>
    let rec0 := s.stairRecord h n r x c e
    let e := { e with ps := [], asked := false, bad := if e.bad = .nopage then .none else e.bad }
    (s.setStair h n { x with stop := some { cause := c, record := rec0 }, want := if keep then some e else none,
                             asks := x.asks.filter fun a => !a.2.1, cur := none }).report h r.ctx rec0

/-- R166: a fault of an element's address: a read delivers poison and the cause is logged; a write or atomic stops. -/
def State.elemFault (s : State) (h n : Nat) (c : Cause) (e : Elem) : State :=
  if e.kind = .read then (s.stairLog h n e.ctx c e.va).givePoison h n e else s.stairStop h n c e

/-! ### Spilling (R113–R116) -/

/-- R116: the page request. -/
def pageRequest (root : BitVec 37) (hall port seq kind va : Nat) : BitVec 512 :=
  BitVec.ofNat 512 (root.toNat * 2 ^ 80 + (hall % 64 * 1024 + port % 16 * 64 + seq % 64) * 2 ^ 64 + kind * 2 ^ 56 +
    va / 65536 % 2 ^ 40 * 65536)

/-- R116: the next sequence number of a stair that no live request has. -/
def Stair.freshSeq (x : Stair) : Nat :=
  (((List.range 64).map fun i => (x.reqSeq + i) % 64).find? fun q => !x.reqs.any fun r => r.1 == q).getD (x.reqSeq % 64)

/-- R116, R118: asks page service for a page for a stair: the sequence number, and whether the page is refused at once
because no `xfault` word names a queue. -/
def State.askPage (s : State) (h n ctx va : Nat) (k : AccKind) : State × Nat × Bool :=
  let x := s.stair h n
  let q := x.freshSeq
  let unit := s.stairUnit h n ctx k
  let ws := match unit with
    | none => []
    | some (h', b) => (s.cfg h' b ctx).words
  match cfgWord ws 0x23 with
  | none => (s, q, true)
  | some w =>
    ((s.sinkPut (bitsN w 45 34) 16 (pageRequest (xRoot ws) h n q k.code va)).setStair h n
      { x with reqs := x.reqs ++ [(q, va / 65536)], reqSeq := (q + 1) % 64 }, q, false)

/-- R113: a spilled element takes its place among the elements of its page, in issue order; a younger one whose request has been answered waits with
it for the new request. -/
def spillInsert (q : Spill) : List Spill → List Spill
  | [] => [q]
  | k :: t =>
    if k.page = q.page && q.e.ser < k.e.ser then
      q :: (k :: t).map fun j => if j.page = q.page && q.e.ser < j.e.ser && j.ok = some true then { j with seq := q.seq, ok := q.ok } else j
    else k :: spillInsert q t

/-- R113, R115, R116: an element that meets a page not present is spilled. -/
def State.stairSpill (s : State) (h n : Nat) (e : Elem) (va : Nat) : State :=
  let x := s.stair h n
  if 16 ≤ x.spill.length then s.stairStop h n .spillfull e
  else
    let page := va / 65536
    let keepPlace := !e.aux && e.kind != .write && !stComm (s.stWords h n e.ctx)
    let (s, seq, no) := match x.reqs.find? (fun r => r.2 == page) with
      | some r => (s, r.1, false)
      | none => s.askPage h n e.ctx va e.kind
    s.updStair h n fun x =>
      let q : Spill := { e := { e with ps := [], asked := false, replay := false }, page := page, seq := seq,
                         ok := if no then some false else none }
      let x := { x with want := none, spill := spillInsert q x.spill, cur := none }
      if keepPlace && !x.out.contains (.hole e.ser) then { x with out := x.out ++ [.hole e.ser] } else x

/-! ### Ending a command -/

/-- R174: the work of a command is complete, with its fault; it may retire. -/
def State.cmdDone (s : State) (h ticket : Nat) (c : Cause := .none) (va : W64 := 0) : State :=
  let d := s.disp h
  s.setDisp h { d with cmds := d.cmds.map fun k => if k.ticket = ticket then
      { k with done := true, fault := if k.fault.isSome then k.fault else if c = .none then none else some c, faultVa := va }
    else k }

/-- R177: the end-of-tile marker of a command. -/
def eotToken (ctx ticket : Nat) (flt : Bool) : Token :=
  { kind := .marker, level := 2, ctx := BitVec.ofNat 2 ctx, payload := w64 (ticket % 65536 + if flt then 65536 else 0) }

end Sys2Proof.Machine
end

