-- ==== Sys2Proof/Machine/Stairs.lean ====
section
/-! DEFINITION. The steps of a stair (R157–R171): element issue, window answers, lines returning, write acknowledgements, tokens from the bay, the memory port, and page service (R113–R120). -/

namespace Sys2Proof.Machine

/-! ### A late stop (R140, R144, R170) -/

/-- R140, R144: a peer has refused an element, or has died, after the element left: the stair stops at it, and what it had taken
up since waits until it resumes. A stair without a command only logs the cause. -/
def State.lateStop (s : State) (h n : Nat) (c : Cause) (e : Elem) : State :=
  let x := s.stair h n
  match x.run with
  | none => s.stairLog h n e.ctx c e.va
  | some r =>
    let out := x.out.map fun i => match i with
      | .el k => if k.ser = e.ser && k.kind = .atomic && e.kind = .atomic then .hole e.ser else i
      | o => o
    let e := { e with ps := [], asked := false }
    if (x.aside.any fun k => k.ser == e.ser) || (x.stop.isSome && x.want.any fun k => k.ser == e.ser) then s
    else if x.stop.isSome || r.ramo then s.setStair h n { x with out := out, aside := x.aside ++ [e] }
    else (s.setStair h n { x with out := out, aside := x.want.toList ++ x.aside, want := none }).stairStop h n c e

/-! ### Making elements (R158, R161, R162) -/

/-- The next element of a command, with its address. -/
def StairRun.elem (r : StairRun) (ws : List W64) (va : Int) (coord : W32) : Elem :=
  { ser := r.ser, ctx := r.ctx, va := va.toNat, n := stBytes ws, idx := r.idx, coord := coord, kind := stKind ws, f := r.f,
    bad := if va < 0 || 2 ^ 56 < va + stBytes ws then .range else .none }

/-- The counters move past an element. -/
def StairRun.count (r : StairRun) : StairRun := { r with idx := r.idx + 1, ser := r.ser + 1 }

/-- A read of the position or coordinate array. -/
def StairRun.auxElem (r : StairRun) (va : Nat) : Elem :=
  { ser := r.ser, ctx := r.ctx, va := va, n := 4, idx := r.idx, coord := 0, kind := .read, f := r.f, aux := true }

def StairRun.setF (r : StairRun) (k v : Nat) : StairRun := { r with f := r.f.set k v }
def StairRun.fk (r : StairRun) (k : Nat) : Nat := r.f.getD k 0

def Stair.setRun (x : Stair) (r : StairRun) : Stair := { x with run := some r }

/-- A stair with nothing to issue lets the write it has been merging go. -/
def stairIdle (s : State) (h n : Nat) : Res :=
  if (s.stair h n).mrg.isSome then .next (s.flushMrg h n) else waits s

/-- R160: opens a run of a flight: its bound comes from `ob`, from a token or from its word. DESIGN CHOICE (log 56): a stop on a poisoned bound token
records no element, so a resuming `bind` of either kind goes on with the next bound token; R172 speaks of a recorded element only. -/
def openFlight (s : State) (h n : Nat) (ws : List W64) (r : StairRun) (k : Nat) : Res :=
  let w := (stFlight ws k).getD 0
  let opened (s : State) (b : Nat) : Res :=
    .next (s.updStair h n fun x => x.setRun { r.setF k 0 with bnd := Tab.put r.bnd k b, started := true })
  if k + 1 = stFlights ws && r.ob != 0 then opened s r.ob
  else if !bitB w 54 then opened s (bitsN w 53 30)
  else match (s.stair h n).head r.ctx (stBch ws) with
    | none => stairIdle s h n
    | some t =>
      if t.kind != .data then stairIdle s h n
      else
        let s := s.updStair h n fun x => x.take r.ctx (stBch ws)
        if t.width ≠ 1 then .next (s.stairCfg h n t)
        else if t.poison then
          .next (s.stairStop h n .poisonuse { r.auxElem 0 with kind := stKind ws, aux := false } false)
        else opened s t.lo.toNat

/-- R158: an emitted stop; a write stair has no output. -/
def Stair.stop' (x : Stair) (ws : List W64) (ctx k : Nat) : Stair :=
  if stDir ws = 1 then x
  else x.push { kind := .stop, level := BitVec.ofNat 3 k, ctx := BitVec.ofNat 2 ctx }

/-- R158: the next step of the flight nest: an element, a run opened, or a run closed with its stop. -/
def affineNext (s : State) (h n : Nat) (ws : List W64) (r : StairRun) : Res :=
  let top := stFlights ws
  match (List.range 6).find? fun k => (Tab.find r.bnd k).isSome with
  | none => openFlight s h n ws r (top - 1)
  | some c =>
    if r.fk c < Tab.get r.bnd c 0 then
      if c = 0 then
        let off : Int := (List.range top).foldl (fun a k => a + (r.fk k : Int) * stStride ws k) 0
        .next (s.updStair h n fun x =>
          { x.setRun (r.setF 0 (r.fk 0 + 1)).count with want := some (r.elem ws (r.base + off) r.idx) })
      else openFlight s h n ws r (c - 1)
    else
      let last : Bool := r.fk (c + 1) + 1 == Tab.get r.bnd (c + 1) 0
      let out := stStops ws && c + 1 < top && !(last && c + 2 < top)
      let r := { r with bnd := Tab.del r.bnd c }
      let r := if c + 1 = top then { r with ended := true } else r.setF (c + 1) (r.fk (c + 1) + 1)
      .next (s.updStair h n fun x => if out then (x.setRun r).stop' ws r.ctx c else x.setRun r)

/-- R161: the value of an array's entry, or the read that fetches it. -/
def auxValue (s : State) (h n : Nat) (r : StairRun) (va : Nat) (f : PW32 → Res) : Res :=
  match Tab.find r.aux va with
  | some v => f v
  | none => if !(s.stair h n).auxq.isEmpty || ((s.stair h n).spill.any fun q => q.e.aux) then waits s
            else .next (s.updStair h n fun x => { x with want := some (r.auxElem va) })

/-- R161: an entry of an open row. -/
def fibreEntry (s : State) (h n : Nat) (ws : List W64) (r : StairRun) (j : Nat) : Res :=
  let step (r : StairRun) : StairRun := { (r.setF 0 (j + 1)).count with aux := [] }
  let go (c : W32) (bad : Cause) : Res :=
    let e := r.elem ws (r.base + (j : Int) * stStride ws 0) c
    .next (s.updStair h n fun x =>
      { x.setRun (step r) with want := some { e with bad := if bad = .none then e.bad else bad } })
  match cfgWord ws 0x17 with
  | none => go (w32 j) (if w32 j = sentinel then .range else .none)
  | some w => auxValue s h n r (bitsN w 55 0 + 4 * j) fun c =>
      if c.poison then
        if stDir ws = 0 then .next ((s.updStair h n fun x => x.setRun (step r)).givePoison h n (r.elem ws 0 c.v))
        else go c.v .poisonuse
      else go c.v (if c.v = sentinel then .range else .none)

/-- R161: the next step of fibre mode. -/
def fibreNext (s : State) (h n : Nat) (ws : List W64) (r : StairRun) : Res :=
  match Tab.find r.bnd 1 with
  | none => openFlight s h n ws r 1
  | some b =>
    match r.row with
    | some (_, hi) =>
      if r.fk 0 < hi then fibreEntry s h n ws r (r.fk 0)
      else .next (s.updStair h n fun x =>
        (x.setRun { r.setF 1 (r.fk 1 + 1) with row := none }).stop' ws r.ctx 0)
    | none =>
      if b ≤ r.fk 1 then .next (s.updStair h n fun x => x.setRun { r with ended := true })
      else
        let p := bitsN ((cfgWord ws 0x16).getD 0) 55 0 + 4 * r.fk 1
        auxValue s h n r p fun lo => auxValue s h n r (p + 4) fun hi =>
          if lo.poison || hi.poison then
            .next ((s.updStair h n fun x => x.setRun { r with aux := [] }).stairStop h n .poisonuse
              (r.auxElem (if lo.poison then p else p + 4)))
          else
            let s := if hi.v.toNat < lo.v.toNat then s.stairLog h n r.ctx .range p else s
            .next (s.updStair h n fun x => x.setRun
              { r.setF 0 lo.v.toNat with row := some (lo.v.toNat, max lo.v.toNat hi.v.toNat), aux := [] })

/-- R162: the next element of index mode. -/
def indexNext (s : State) (h n : Nat) (ws : List W64) (r : StairRun) : Res :=
  match (s.stair h n).head r.ctx (stAch ws) with
  | none => stairIdle s h n
  | some t =>
    if t.kind != .data then stairIdle s h n
    else
      let s := s.updStair h n fun x => x.take r.ctx (stAch ws)
      if t.width ≠ 1 && t.width ≠ 2 then .next (s.stairCfg h n t)
      else
        let i := t.lo
        let e := r.elem ws (r.base + (i.toNat : Int) * stBytes ws) (if t.width = 2 then t.hi else i)
        let bad : Cause := if t.poison then .poisonuse
          else if r.bound ≤ i.toNat || i == sentinel then .range else e.bad
        .next (s.updStair h n fun x => { x.setRun r.count with want := some { e with bad := bad, round := t.round } })

/-! ### Issuing an element (R166–R168) -/

/-- The lines that wait in a stair's return buffer. -/
def Stair.lines (x : Stair) : List (Nat × Option Nat) :=
  (x.out.map fun i => match i with
    | .el e => e.ps.map fun p => (p.pa / 64, p.rem)
    | _ => []).flatten.eraseDups

/-- R167: the last piece issued, where no fence and no spilled element stands behind it. -/
def Stair.lastPiece (x : Stair) : Option Piece :=
  x.out.foldl (fun b i => match i with
    | .el e => (e.ps.getLast?).orElse fun _ => b
    | o => if o.breaks then none else b) none

/-- R167: the line of a peer that the piece lies in is the current line, and has been asked for. -/
def Stair.asked (x : Stair) (p : Piece) : Bool :=
  match x.lastPiece with
  | none => false
  | some q => q.got.isNone && q.rem == p.rem && q.key == p.key && q.pa / 64 == p.pa / 64

/-- An item of a stair's output whose value has still to return. -/
def OutItem.isOpen : OutItem → Bool
  | .el e => e.value.isNone
  | .hole _ => true
  | .tok _ _ => false

/-- R119: a fence in a stair's output has an access before it that is not complete. -/
def openFence : Bool → List OutItem → Bool
  | _, [] => false
  | o, i :: t => (o && i.isFence) || openFence (o || i.isOpen) t

/-- R167, R125: asks peers for the lines of an element; none while there is no room for another packet. -/
def askPeers (s : State) (h n cls : Nat) (e : Elem) : List Piece → Option (State × List Piece)
  | [] => some (s, [])
  | p :: t =>
    let go (s : State) (p : Piece) := (askPeers s h n cls e t).map fun (s, l) => (s, p :: l)
    match p.rem with
    | none => go s p
    | some q =>
      if p.got.isSome || (!e.aux && !e.replay && (s.stair h n).asked p) then go s p
      else if !s.quadRoom h n q cls then none
      else go (s.sendCmd h n cls (rreqPacket q p.pa p.len (s.akeyOf h e.ctx)) (.stairRead h n)) { p with tag := some s.arc.nextTag }

/-- The alias class of an element's access (R163, R311). -/
def elemCls (ws : List W64) (r : StairRun) (e : Elem) : Nat :=
  if e.aux then (match cfgWord ws 0x1A with
    | some w => bitsN w 57 50
    | none => r.cls) else r.cls

/-- R161: an array's entry read at its edge. -/
def issueAux (s : State) (h n : Nat) (e : Elem) (p : Piece) : Res :=
  let r := s.edgeRead p.pa 4 p.key
  let bad := s.checkBad p.pa p.key
  let s := r.s.logAll (State.stairSite h n e.ctx) r.logs
  let s := if bad then s.logFault .check (State.stairSite h n e.ctx) (p.pa / 64 * 64) true else s
  if r.cause != .none then .next (s.elemFault h n r.cause e)
  else .next (s.updStair h n fun x => { x with
    want := none
    cur := none
    run := x.run.map fun q => { q with aux := Tab.put q.aux e.va { v := w32 (leNat r.bytes), poison := r.poison || bad } } })

/-- R119, R312: a read of an array's entry, or of a peer's memory, waits behind a fence whose older accesses are not complete; a local read of an
array's entry also waits for the local reads of its class issued before it. -/
def readHeld (s : State) (h n : Nat) (ws : List W64) (r : StairRun) (e : Elem) : Bool :=
  let x := s.stair h n
  !e.replay && (((e.aux || e.ps.any fun p => p.rem.isSome) && openFence false x.out) ||
    (e.aux && elemCls ws r e == r.cls && x.out.any fun i => match i with
      | .el k => k.ps.any fun p => p.got.isNone && p.rem.isNone
      | _ => false))

/-- R167: what the current line gives the first piece of an element. -/
def Stair.fromCur (x : Stair) (e : Elem) : List Piece :=
  match x.cur, e.ps with
  | some l, p :: t => if !e.replay && l.holds p then { p with got := some (l.value p) } :: t else p :: t
  | _, ps => ps

/-- R167: a read is issued once its lines have room in the return buffer. -/
def issueRead (s : State) (h n : Nat) (ws : List W64) (r : StairRun) (e : Elem) : Res :=
  let x := s.stair h n
  let fresh := (e.ps.map fun p => (p.pa / 64, p.rem)).filter fun l => !x.lines.contains l
  if readHeld s h n ws r e then waits s
  else match e.aux, e.ps with
  | true, [p] =>
    if p.rem.isNone then (if s.bankOpen (h, stairElem n) e.ctx p.pa then issueAux s h n e p else waits s)
    else match askPeers s h n (elemCls ws r e) e e.ps with
      | none => waits s
      | some (s, ps) => .next (s.updStair h n fun x => { x with want := none, auxq := x.auxq ++ [{ e with ps := ps }] })
  | _, _ =>
    if 64 < x.lines.length + fresh.length then waits s
    else match askPeers s h n (elemCls ws r e) e (x.fromCur e) with
      | none => waits s
      | some (s, ps) => .next (s.updStair h n fun x => { x.place e.ser [.el { e with ps := ps }] with
          want := none, cur := if e.replay || ps.all fun p => p.got.isSome then x.cur else none })

/-- R337: what refuses the pieces of a write, if anything. -/
def pieceRefusal (s : State) (h : Nat) : List Piece → Cause
  | [] => .none
  | p :: t =>
    let c := match p.rem with
      | none => s.edgeRefuses p.pa p.len p.key
      | some q => s.peerFault h q false
    if c = .none then pieceRefusal s h t else c

/-- The byte that a write puts at a PA. -/
def Pend.byteAt (p : Pend) (a : Nat) : Option Byte :=
  if p.pa ≤ a && !p.skip.contains (a - p.pa) then p.data[a - p.pa]? else none

/-- R168: two writes to one line as one: where both write a byte, the later one's stands; what neither writes is left alone. -/
def Pend.join (o p : Pend) : Pend :=
  let lo := min o.pa p.pa
  let n := max (o.pa + o.data.length) (p.pa + p.data.length) - lo
  let bs := (List.range n).map fun i => (p.byteAt (lo + i)).orElse fun _ => o.byteAt (lo + i)
  { o with pa := lo, size := n, data := bs.map (·.getD 0), skip := (List.range n).filter fun i => (bs.getD i none).isNone,
           va := if p.pa < o.pa then p.va else o.va }

/-- R168: a write joins the one being merged where both lie in one line; otherwise that one leaves. A packet to a peer carries one run of bytes, so
there the two must touch. -/
def State.mergeWrite (s : State) (h n : Nat) (p : Pend) (e : Elem) : State :=
  let els : List Elem := if p.rem.isSome then [e] else []
  let fresh (s : State) : State := s.updStair h n fun x => { x with mrg := some p, mrgEls := els, unacked := x.unacked + 1 }
  match (s.stair h n).mrg with
  | none => fresh s
  | some o =>
    let q := o.join p
    if o.pa / 64 = p.pa / 64 && o.key = p.key && o.rem = p.rem && (p.rem.isNone || q.skip.isEmpty) then
      s.updStair h n fun x => { x with mrg := some q, mrgEls := x.mrgEls ++ els }
    else fresh (s.flushMrg h n)

/-- R168: the pieces of a written element go to memory. -/
def writePieces (s : State) (h n cls : Nat) (e : Elem) (va : Nat) : List Piece → List Byte → State
  | [], _ => s
  | p :: t, bs =>
    let q : Pend := { who := .stair h n e.ctx, pa := p.pa, key := p.key, rem := p.rem, size := p.len, data := bs.take p.len, cls := cls, va := w64 va }
    writePieces (s.mergeWrite h n q e) h n cls e (va + p.len) t (bs.drop p.len)

/-- R168: an atomic goes to its owner; its place in the output waits for the old value. -/
def issueAtomic (s : State) (h n : Nat) (ws : List W64) (r : StairRun) (e : Elem) (p : Piece) : State :=
  let v := (e.data.headD 0).toNat % 2 ^ (8 * e.n)
  match p.rem with
  | none =>
    let s := s.flushMrg h n
    let q : Pend := { who := .stair h n e.ctx, pa := p.pa, key := p.key, size := p.len, data := leBytes p.len v,
                      atomic := some (stAmo ws), tag := e.ser, cls := r.cls, va := w64 e.va }
    { s with edge := s.edge ++ [q] }.updStair h n fun x =>
      { x.place e.ser [.el e] with want := none, unacked := x.unacked + 1 }
  | some q =>
    let tag := s.arc.nextTag
    let pk := areqPacket q p.pa (s.akeyOf h e.ctx) (stAmo ws) (if e.n = 4 then 2 else 3) 0 v 0
    (s.sendCmd h n r.cls pk (.stairWrite h n)).updStair h n fun x =>
      { x.place e.ser [.el { e with ps := [{ p with tag := some tag }] }] with
        want := none, unacked := x.unacked + 1, remw := Tab.put x.remw tag [e] }

/-- R166: an element whose every piece lies in a held window is issued. -/
def issueReady (s : State) (h n : Nat) (ws : List W64) (r : StairRun) (e : Elem) : Res :=
  if e.kind = .read then
    match pieceRefusal s h (e.ps.filter fun p => p.rem.isSome) with
    | .none => issueRead s h n ws r e
    | c => .next (s.elemFault h n c e)
  else
    match pieceRefusal s h e.ps with
    | .none =>
      if e.ps.any (fun p => match p.rem with
        | none => false
        | some q => !s.quadRoom h n q r.cls e.ps.length) then waits s
      else if e.kind = .write then
        .next ((writePieces s h n r.cls e e.va e.ps (e.data.map fun w => leBytes (min 8 e.n) w.toNat).flatten).updStair h n
          fun x => { x with want := none })
      else .next (issueAtomic s h n ws r e (e.ps.headD { pa := 0, key := 0, len := e.n }))
    | c =>
      let s := if c = .ecc then e.ps.foldl (fun s p =>
          let (s', l) := s.takeEcc (s.placeOf p.pa) p.pa p.len
          s'.logAll (State.stairSite h n e.ctx) l) s else s
      .next (s.stairStop h n c e)

/-- R166: the next piece of an element is placed by a held window; without one, a window is asked for. -/
def placePiece (s : State) (h n : Nat) (ws : List W64) (e : Elem) : Res :=
  let x := s.stair h n
  let done := (e.ps.map Piece.len).foldl (· + ·) 0
  let va := e.va + done
  let len := min (64 - va % 64) (e.n - done)
  if x.spill.any (fun q => q.page == va / 65536 && (!e.replay || q.e.ser < e.ser)) then .next (s.stairSpill h n e va)
  else match x.wins.find? fun w => w.serves va e.kind with
    | some w =>
      let p := w.place va
      .next (s.setStair h n { x with
        wins := w :: x.wins.erase w
        want := some { e with asked := false, ps := e.ps ++ [{ pa := p.pa, key := p.key, rem := p.rem, len := len }] } })
    | none =>
      if e.asked then stairIdle s h n
      else match s.stairSend h n (stRq ws e.kind)
          { kind := .data, width := 4, ctx := BitVec.ofNat 2 e.ctx, payload := w64 va } with
        | none => stairIdle s h n
        | some s => .next (s.updStair h n fun x =>
            { x with asks := x.asks ++ [(va, true, [])], want := some { e with asked := true } })

/-- R112, R158, R162, R166–R168: one step of the element being issued. -/
def issueElem (s : State) (h n : Nat) (r : StairRun) (e : Elem) : Res :=
  let ws := s.stWords h n e.ctx
  let x := s.stair h n
  if e.kind != .read && e.data.length < stBeats ws then
    if e.data.isEmpty && !x.held.isEmpty then stairIdle s h n
    else match x.head e.ctx (stDch ws) with
    | none => stairIdle s h n
    | some t =>
      if t.kind != .data then stairIdle s h n
      else .next (s.setStair h n { x.take e.ctx (stDch ws) with
        want := some { e with data := e.data ++ [t.payload], dpois := e.dpois || t.poison } })
  else if e.bad != .none then
    if e.kind = .read then
      .next ((s.stairLog h n e.ctx (if e.bad = .nopage then .nopage else .range) e.va).givePoison h n e)
    else .next (s.stairStop h n e.bad e)
  else if e.dpois then .next (s.stairStop h n .poisonuse e)
  else if e.kind = .atomic && e.va % e.n != 0 then .next (s.stairStop h n .align e)
  else if e.kind != .read && !x.spill.isEmpty && !e.replay then stairIdle s h n
  else if (e.ps.map Piece.len).foldl (· + ·) 0 < e.n then placePiece s h n ws e
  else issueReady s h n ws r e

/-- R118: the oldest spilled element that page service has answered is issued again. -/
def Stair.replayNext (x : Stair) : Option Stair :=
  (x.spill.find? fun q => q.ok.isSome).map fun q =>
    { x with spill := x.spill.erase q,
             want := some { q.e with replay := true, bad := if q.ok = some false then .nopage else .none } }

/-- The element that is issued before any new one: one set aside at a late stop, or a spilled one that has been answered. -/
def Stair.nextUp (x : Stair) : Option Stair :=
  match x.aside with
  | e :: t => some { x with want := some e, aside := t }
  | [] => x.replayNext

/-- R169, R177: a stair whose command issues nothing more makes its done: a read stair in its output, behind the
end-of-tile marker; a write stair at its memory port. -/
def stairEnd (s : State) (h n : Nat) (ws : List W64) (r : StairRun) : Res :=
  let x := s.stair h n
  if r.doneMade || !x.spill.isEmpty || !x.auxq.isEmpty then stairIdle s h n
  else
    let d : Token := { kind := .done, ctx := BitVec.ofNat 2 r.ctx }
    let r' := { r with doneMade := true }
    if stDir ws = 0 then
      let x := if r.eot then x.push (eotToken r.ctx r.ticket (r.fault != .none)) else x
      .next (s.setStair h n ((x.setRun r').push d))
    else .next ((s.flushMrg h n).updStair h n fun x => { x.setRun r' with held := x.held ++ [(d, none)] })

/-- R158: one step of the command a stair runs. -/
def execStairElementIssue (s : State) : Res :=
  let h := s.focus.hall
  let n := s.focus.elem % 16
  let x := s.stair h n
  match x.run with
  | none => stairIdle s h n
  | some r =>
    let ws := s.stWords h n r.ctx
    if r.ramo || x.stop.isSome || s.halted h (stairElem n) r.ctx then waits s
    else match x.want with
      | some e => issueElem s h n r e
      | none => match x.nextUp with
        | some x => .next (s.setStair h n x)
        | none =>
          if r.ended then stairEnd s h n ws r
          else if !x.held.isEmpty then stairIdle s h n
          else match stAmode ws with
            | 0 => affineNext s h n ws r
            | 1 => fibreNext s h n ws r
            | _ => indexNext s h n ws r

/-! ### Window answers (R166) -/

/-- R166: a fault answer for the element that waits. -/
def answerFault (s : State) (h n : Nat) (t : Token) (va : Nat) (e : Elem) : State :=
  match bitsN t.payload 63 61 with
  | 1 => s.stairSpill h n e va
  | 2 => s.elemFault h n .prot e
  | 4 => s.elemFault h n .key e
  | _ => s.elemFault h n .range e

/-- R166: an answer arrives on `wch`; a token there that is no answer is discarded (R169). R123: a window made before a shootdown of its range that has
reached the stair is discarded, and asked for again. -/
def execStairWindowAnswer (s : State) : Res :=
  let h := s.focus.hall
  let n := s.focus.elem % 16
  let ctx := s.focus.ctx
  let ws := s.stWords h n ctx
  let x := s.stair h n
  match x.head ctx (stWch ws) with
  | none => waits s
  | some t =>
    if t.kind != .data || x.stop.isSome || s.halted h (stairElem n) ctx then waits s
    else
      let x := x.take ctx (stWch ws)
      if t.width ≠ 5 then .next ((s.setStair h n x).stairCfg h n t)
      else
        let x := { x with lastWin := t.payload }
        match x.asks with
        | [] => .next (s.setStair h n x)
        | (va, mine, cut) :: asks =>
          let x := { x with asks := asks }
          let old := !t.poison && !t.isFault && cut.any fun (r : Nat × Nat) => windowMeets va t.payload r.1 r.2
          let keep := if t.poison || t.isFault || old then x.wins
            else ({ va := va, pay := t.payload } :: x.wins).take (stNwin ws)
          let x := { x with wins := keep }
          match mine, x.want with
          | true, some e =>
            let s := s.setStair h n { x with want := some { e with asked := false } }
            if t.poison then
              .next (if e.kind = .read then s.givePoison h n e else s.stairStop h n .poisonuse e)
            else if t.isFault then .next (answerFault s h n t va e)
            else .next s
          | _, _ => .next (s.setStair h n x)

/-! ### Lines returning (R167) -/

/-- R159, R183: what happens when a token has left a stair's output. -/
def State.leftOut (s : State) (h n : Nat) (t : Token) (port : Option Nat) : State :=
  match port with
  | some k => if k % 2 = 1 then (s.portPass h n t).cmdDone h (k / 2) else s.portPass h n t
  | none => s

/-- R167: the first item of a stair's output leaves, if it is complete. -/
def outLeaves (s : State) (h n : Nat) : Option State :=
  let x := s.stair h n
  match x.out with
  | .tok t port :: rest =>
    if t.kind = .done && port.isNone then none
    else ((s.setStair h n { x with out := rest }).stairSend h n (stRco (s.stWords h n t.ctx.toNat)) t).map
      fun s => s.leftOut h n t port
  | .el e :: rest => (e.value).map fun v =>
      s.setStair h n { x with out := (e.toks (s.stWords h n e.ctx) v.1 v.2).map (fun t => .tok t none) ++ rest }
  | _ => none

/-- R312, R119: the first local piece of an output that has still to be read, unless a fence holds it back: one with an access before it that is not
complete. -/
def firstUnread : Bool → List OutItem → Option (Elem × Piece)
  | _, [] => none
  | o, i :: t =>
    let next := if o && i.isFence then none else firstUnread (o || i.isOpen) t
    match i with
    | .el e => (match e.ps.find? fun p => p.got.isNone && p.rem.isNone with
      | some p => if e.kind = .read then some (e, p) else next
      | none => next)
    | _ => next

/-- R167, R109, R110: reads the line of a piece at its edge, checks it, and gives their bytes to the elements it serves. -/
def State.readLine (s : State) (h n : Nat) (e : Elem) (p : Piece) : State :=
  let line := p.pa / 64
  let bad := s.checkBad p.pa p.key
  let r := s.edgeRead (64 * line) 64 p.key
  let site := State.stairSite h n e.ctx
  let s := r.s.logAll site r.logs
  let s := if bad then s.logFault .check site (64 * line) true else s
  let s := if r.cause != .none then s.stairLog h n e.ctx r.cause e.va else s
  let fails := r.cause != .none
  let marks := (List.range 4).filter fun g => fails || bad || s.granPois (64 * line + 16 * g) 16
  let l : CurLine := { line := line, key := p.key, data := if fails then leBytes 64 s.free.toNat else r.bytes, pois := marks }
  (s.updStair h n fun x => x.fill (fun q => q.got.isNone && l.holds q) l (!fails)).drawn

/-- R167: a stair's oldest complete item leaves; otherwise its oldest unread line returns. -/
def execStairLineReturn (s : State) : Res :=
  let h := s.focus.hall
  let n := s.focus.elem % 16
  match outLeaves s h n with
  | some s => .next s
  | none => match firstUnread false (s.stair h n).out with
    | none => waits s
    | some (e, p) => if s.bankOpen (h, stairElem n) e.ctx p.pa then .next (s.readLine h n e p) else waits s

/-! ### The memory edge (R306) -/

/-- R305, R312, R315: an earlier pending access holds this one back: one of the same stair, or one of the same thread to the
same line. -/
def Pend.before (p q : Pend) : Bool :=
  p.who == q.who && (match p.who with
    | .stair _ _ _ => true
    | _ => p.pa / 64 == q.pa / 64)

/-- R286, R168: an atomic of a stair is applied at its owner, and its old value returns. -/
def State.performAtomic (s : State) (h n ctx op : Nat) (p : Pend) : State :=
  let u := s.edgeUpdate p.pa p.size p.key op (leNat p.data) 0
  let site := State.stairSite h n ctx
  let s := u.s.logAll site u.logs
  let s := if u.cause = .none then s else s.logFault u.cause site p.pa true
  let bad := u.poison || u.cause != .none
  let v := if bad then leBytes p.size s.free.toNat else leBytes p.size u.old
  (s.updStair h n fun x => x.mapPieces fun e q =>
    if e.kind = .atomic && e.ser = p.tag && q.rem.isNone then { q with got := some (v, bad) } else q).drawn

/-- R195–R197: the bank that owns an access's address takes it. -/
def State.pendOpen (s : State) (p : Pend) : Bool :=
  match p.who with
  | .thread h c => s.bankOpen (h, coreElem) c p.pa
  | .stair h n c => s.bankOpen (h, stairElem n) c p.pa
  | .engine h t => (match (s.disp h).cmds.find? fun k => k.ticket == t with
    | some k => s.bankOpen (h, coreElem) k.ctx p.pa
    | none => true)
  | .host _ => true

/-- R306: an edge performs an access that has been issued: a store, or an atomic of a stair. -/
def execMemoryEdgeAccess (s : State) : Res :=
  let k := s.focus.idx
  match s.edge[k]? with
  | none => waits s
  | some p =>
    if ((s.edge.take k).any fun q => q.before p) || !s.pendOpen p then waits s
    else
      let s := { s with edge := s.edge.eraseIdx k }
      match p.who, p.atomic with
      | .stair h n ctx, some op =>
        .next ((s.performAtomic h n ctx op p).updStair h n fun x => { x with ackDue := x.ackDue + 1 })
      | .stair h n _, none => .next ((s.performPend p).updStair h n fun x => { x with ackDue := x.ackDue + 1 })
      | _, _ => .next (s.performPend p)

/-- R120: the memory edge's acknowledgement of a write reaches the stair. -/
def execStairWriteAck (s : State) : Res :=
  let h := s.focus.hall
  let n := s.focus.elem % 16
  let x := s.stair h n
  if x.ackDue = 0 then waits s
  else .next (s.setStair h n { x with ackDue := x.ackDue - 1, unacked := x.unacked - 1 })

/-! ### The memory port (R119, R120, R156) -/

/-- R168: no element is on its way but one that has taken no data, which comes after the control token. -/
def Stair.untaken (x : Stair) : Bool :=
  match x.want with
  | some e => e.kind != .read && e.data.isEmpty && !e.replay
  | none => true

/-- R119: every access issued before is complete: writes acknowledged, reads returned, nothing spilled, no `rdfor` left. -/
def Stair.allDone (x : Stair) : Bool :=
  x.unacked == 0 && x.mrg.isNone && x.spill.isEmpty && x.untaken && x.aside.isEmpty && x.auxq.isEmpty && x.rdfors == 0 &&
    x.out.all fun i => match i with
      | .el e => e.value.isSome
      | .hole _ => false
      | _ => true

/-- R120, R169: every write issued before is acknowledged, spilled ones included, and no element has taken its data without being issued. -/
def Stair.writesDone (x : Stair) : Bool :=
  x.unacked == 0 && x.mrg.isNone && x.spill.isEmpty && x.aside.isEmpty && x.untaken

/-- R169: `idx` restarts. -/
def Stair.restart (x : Stair) : Stair := { x with run := x.run.map fun r => { r with idx := 0 } }

/-- R119, R169: a control token held at a memory port passes once what it waits for is complete: a fence marker every older
access, another marker or a round-end every older write. -/
def execFenceRelease (s : State) : Res :=
  let h := s.focus.hall
  let n := s.focus.elem % 16
  let x := s.stair h n
  match x.held with
  | [] => waits s
  | (t, tk) :: rest =>
    let fence := t.kind == .marker && t.level == 3
    if t.kind == .done then waits s
    else if !(if fence then x.allDone else x.writesDone) then stairIdle s h n
    else
      let x := { x with held := rest }
      let x := if t.kind == .marker && (t.level == 0 || t.level == 1) then x.restart else x
      let s := s.setStair h n x
      let s := if t.kind == .marker && t.level == 1 then s.takeSwitch h (stairElem n) (switchSlot t) else s
      let s := if t.kind == .marker && t.level == 0 then (s.invoked h 1 n t.ctx.toNat).cutPort h n t.ctx.toNat else s
      .next (match tk with
        | some k => s.cmdDone h k
        | none => s)

/-- R180, R188: the done of a stair's command has passed the port: the sink counter counts it and the command retires. -/
def State.portDone (s : State) (h n : Nat) (r : StairRun) : State :=
  (((s.updStair h n fun x => { x with run := none, wins := [], asks := [], cur := none }).sinkDone h n r.ctx).cutPort h n r.ctx).cmdDone h r.ticket r.fault

/-- R120, R177: the done of a stair's command passes the memory port once every older write is acknowledged and every older
`rdfor` has completed; a write stair sends its end-of-tile marker first. -/
def execMemoryPortDone (s : State) : Res :=
  let h := s.focus.hall
  let n := s.focus.elem % 16
  let x := s.stair h n
  match x.run with
  | none => waits s
  | some r =>
    if !r.doneMade || 0 < x.unacked || x.mrg.isSome || 0 < x.rdfors || !x.spill.isEmpty || x.stop.isSome || x.want.isSome || !x.aside.isEmpty
    then waits s
    else match x.out, x.held with
      | .tok t none :: rest, _ =>
        if t.kind != .done then waits s
        else match (s.setStair h n { x with out := rest }).stairSend h n (stRco (s.stWords h n r.ctx)) t with
          | none => waits s
          | some s => .next (s.portDone h n r)
      | [], (t, _) :: rest =>
        if t.kind != .done then waits s
        else if r.eot && !r.eotSent then
          .next (s.setStair h n ((x.setRun { r with eotSent := true }).push (eotToken r.ctx r.ticket (r.fault != .none))))
        else .next ((s.setStair h n { x with held := rest }).portDone h n r)
      | _, _ => waits s

/-! ### Tokens from the bay, and from the facing stair (R165, R169) -/

/-- R165, R66, R454: the token at the head of a stair's link: passed through, or to a local channel. -/
def stairLink (s : State) (h n dir : Nat) : Res :=
  let e := stairElem n
  let k := lkey h e dir
  match s.link k with
  | [] => waits s
  | t :: _ =>
    let x := t.ctx.toNat
    let s0 := s.popLink k
    if t.isCut then waits s
    else match s0.allow h e x with
      | none => .next (s0.stairCfg h n t)
      | some s1 =>
        let s1 := s1.countTok h e x (if dir = 0 then (if n < 8 then 2 else 0) else (if n < 8 then 0 else 2)) 1
        let drop : Res := .next (s1.stairCfg h n t)
        let send (k' src : Nat) (chan : Nat) : Res :=
          if s1.linkReady k' x src then .next (s1.putLink k' src { t with chan := BitVec.ofNat 4 chan }) else waits s
        match cfgWord (s1.stWords h n x) 0x1C with
        | some w =>
          if dir = 0 && bitB w 57 then
            (match facingStair h n with
            | some (h', n') => send (lkey h' (stairElem n') 1) 0 (bitsN w 51 48)
            | none => drop)
          else if dir = 1 && bitB w 56 then send (lkey h (stairBay n) (stairBaySide n)) 1 (bitsN w 55 52)
          else drop
        | none =>
          let r := s1.route66 h e x t.chan.toNat
          if dir = 1 || !bitB r 27 then drop
          else if s1.swapStopped h e x then
            (match (s1.regionAt h x).bind fun g => s1.stoppedTake g (inKey h e x dir) t with
            | some s2 => .next s2
            | none => waits s)
          else match s1.stairDeliver h n (bitsN r 22 19) t with
            | none => waits s
            | some s2 => .next (s2.snapCopy h e x dir t)

/-- R256, R119: no element of a stair is spilled, is being replayed, or has been set aside. -/
def Stair.noneLate (x : Stair) : Bool :=
  x.spill.isEmpty && x.aside.isEmpty && !x.want.any fun e => e.replay

/-- R169: a marker at the head of a channel of a read stair is forwarded in order. -/
def readMarker (s : State) (h n ctx chan : Nat) (t : Token) : Res :=
  let x := s.stair h n
  let ws := s.stWords h n ctx
  let resets := t.level == 0 || t.level == 1
  if resets && stComm ws && !x.noneLate then waits s
  else
    let x := (x.take ctx chan).push t
    let s := s.setStair h n (if resets then x.restart else x)
    .next (if t.level == 1 then s.takeSwitch h (stairElem n) (switchSlot t) else if t.level == 0 then (s.invoked h 1 n ctx).cutPort h n ctx else s)

/-- R160, R162, R169: a control token at the head of a stair's channel. One behind a bound, or an index, waits for the
elements before it. A fence waits on a commutative read stair until no element can still come late (R119). -/
def stairControl (s : State) (h n ctx chan : Nat) : Res :=
  let x := s.stair h n
  let ws := s.stWords h n ctx
  match x.head ctx chan with
  | none => waits s
  | some t =>
    let run := x.run.filter fun r => r.ctx == ctx
    let bch := chan == stBch ws && chan != stWch ws && (List.range 6).any fun k => bitB ((stFlight ws k).getD 0) 54
    let ach := chan == stAch ws && stAmode ws == 2
    let dch := chan == stDch ws && stDir ws != 0
    let busy := match run with
      | none => false
      | some r => !r.ended && (bch || ach) && (x.want.isSome ||
          (bch && (match (List.range 6).find? fun k => (Tab.find r.bnd k).isSome with
            | none => r.started
            | some c => c == 0 || Tab.get r.bnd c 0 ≤ r.fk c || !bitB ((stFlight ws (c - 1)).getD 0) 54)))
    let wr := stDir ws != 0
    let drop : Res := .next ((s.setStair h n (x.take ctx chan)).stairCfg h n t)
    let eat : Res := .next (s.setStair h n (x.take ctx chan))
    let hold : Res := .next (s.setStair h n { x.take ctx chan with held := x.held ++ [(t, none)] })
    let pass : Res := .next (s.setStair h n ((x.take ctx chan).push t))
    if busy || x.stop.isSome || s.halted h (stairElem n) ctx then waits s
    else match t.kind with
      | .stop => if ach then (if stDir ws = 1 then eat else pass) else if dch then eat else drop
      | .done =>
        if ach || dch then
          (match run with
          | some r =>
            let want := if dch then x.want.filter (fun e => 0 < e.ps.length || stBeats ws ≤ e.data.length) else x.want
            .next (s.setStair h n { (x.take ctx chan).setRun { r with ended := true } with want := want })
          | none => if ach then waits s else eat)
        else drop
      | .roundEnd => if wr then hold else pass
      | .marker =>
        (match t.level.toNat with
        | 0 => if wr then hold else readMarker s h n ctx chan t
        | 1 => if wr then hold else readMarker s h n ctx chan t
        | 2 => if wr then eat else pass
        | 3 => if wr then hold else if (stComm ws && !x.noneLate) || x.spill.any (fun q => q.e.aux) then waits s else pass
        | 4 => if s.sparing h then
            .next ((s.setStair h n (if wr then x.take ctx chan else (x.take ctx chan).push t)).tookSpare h (stairElem n) ctx)
          else eat
        | _ => drop)
      | _ => waits s

/-- R169: a token from the bay (or the facing stair) reaches a stair's channel; with `aux`, the control token at the head of
a channel is acted on. -/
def execStairTokenArrival (s : State) : Res :=
  if s.focus.aux = 0 then stairLink s s.focus.hall (s.focus.elem % 16) (s.focus.idx % 2)
  else stairControl s s.focus.hall (s.focus.elem % 16) s.focus.ctx (s.focus.idx % 16)

/-! ### Page service (R117, R118) -/

/-- R118: the spilled entries of a request are released, or refused. -/
def Stair.pageAnswer (x : Stair) (seq : Nat) (ok : Bool) : Stair :=
  { x with
    reqs := x.reqs.filter fun r => r.1 != seq
    spill := x.spill.map fun q => if q.seq == seq && q.ok.isNone then { q with ok := some ok } else q }

/-- R117, R118: a page-ready word: it releases or refuses the elements, or the command, that wait for its page. -/
def State.pageReady (s : State) (w : W64) : State :=
  let h := bitsN w 15 10
  let n := bitsN w 9 6
  let seq := bitsN w 5 0
  let ok := bitB w 16
  let x := s.stair h n
  if !(x.reqs.any fun r => r.1 == seq) then s
  else
    let d := s.disp h
    let pages := (x.reqs.filter fun r => r.1 == seq).map (·.2)
    let f : DCmd → DCmd := fun c =>
      if bitsN c.word 119 114 % 16 == n && c.waitPage == some seq then
        { c with waitPage := none, refused := if ok then c.refused else c.refused ++ pages }
      else c
    (s.setStair h n (x.pageAnswer seq ok)).setDisp h { d with cmds := d.cmds.map f }

/-- R117: the translation agent of a hall takes a page-ready word. -/
def execPageReady (s : State) : Res := .next (s.pageReady s.focus.val)

end Sys2Proof.Machine
end

