-- ==== Sys2Proof/Machine/Cmds.lean ====
section
/-! DEFINITION. Stream commands (R79–R82, R85, R173–R192): their fields, the checks of `issue` (R348), ports, and what every command's step shares. -/

namespace Sys2Proof.Machine

/-! ### Fields -/

/-- R79: the fields of a command word. -/
structure CmdW where
  op : Nat
  port : Nat
  ctx : Nat
  cls : Nat
  flags : Nat
  imm : Nat
  addr : Nat
  deriving DecidableEq, Repr

def cmdW (w : BitVec 128) : CmdW :=
  { op := bitsN w 127 120, port := bitsN w 119 114, ctx := bitsN w 113 112, cls := bitsN w 111 104, flags := bitsN w 103 96,
    imm := bitsN w 95 64, addr := bitsN w 63 0 }

/-- R80: the flags. -/
def CmdW.rel (c : CmdW) : Bool := c.flags.testBit 7
def CmdW.acq (c : CmdW) : Bool := c.flags.testBit 6
def CmdW.eot (c : CmdW) : Bool := c.flags.testBit 2
def CmdW.hasDesc (c : CmdW) : Bool := c.flags.testBit 1
def CmdW.scope (c : CmdW) : Nat := c.flags / 8 % 8

/-- R178: commands of the control lane. -/
def controlLane (op : Nat) : Bool := op == 0x07 || op == 0x08 || op == 0x0E || op == 0x15 || op == 0x19

/-- R179, R147, R148, R151, R293, R297: the flags a command accepts besides `scope`. -/
def flagsOf : Nat → Nat
  | 0x01 => 0xC4 | 0x02 => 0xC6 | 0x03 => 0x86 | 0x04 => 0xC4 | 0x05 => 0xC4 | 0x06 => 0xC2 | 0x07 => 0x04 | 0x09 => 0xC6
  | 0x0A => 0xC6 | 0x0E => 0x40 | 0x12 => 0x40 | 0x13 => 0x80 | 0x15 => 0x02 | 0x16 => 0x40 | _ => 0

/-- Commands whose `desc` is required. -/
def descNeeded (op : Nat) : Bool := [0x02, 0x03, 0x06, 0x09, 0x0A, 0x15].contains op

/-- R179: the ports a command names. -/
def portOk (c : CmdW) : Bool :=
  match c.op with
  | 0x01 => c.port < 32
  | 0x0B => true | 0x0C => true | 0x0D => true | 0x0F => true | 0x10 => true | 0x12 => true | 0x14 => true | 0x18 => true
  | 0x13 => 32 ≤ c.port
  | 0x07 => if c.eot then 32 ≤ c.port else c.port = 0 && c.ctx = 0
  | op => if controlLane op then c.port = 0 else c.port < 16

/-- R179: commands whose `imm32` is the writing field. -/
def writingCmd (op : Nat) : Bool := op == 0x02 || op == 0x03 || op == 0x09 || op == 0x0A

/-- R179 and the commands' own rules: the `imm32` and `addr` columns. -/
def immOk (c : CmdW) : Bool :=
  let i := c.imm
  let z := c.addr = 0
  match c.op with
  | 0x01 => i / 2 ^ 24 % 32 = 0 && (i.testBit 31 || (!i.testBit 30 && !i.testBit 29))
  | 0x06 => i = 0 && c.ctx = 0
  | 0x07 => i / 2 ^ 22 % 4 ≠ 3
  | 0x08 => c.ctx = 0 && c.cls = 0 && i / 2 % 2 ^ 23 = 0 && z
  | 0x0B => [0, 2, 3].contains (i % 8) && !i.testBit 3 && i < 256
  | 0x0C => i < 256 && z
  | 0x0D => i < 65536 && z
  | 0x0E => i < 4
  | 0x0F => i / 4 % 4 = 0 && i < 256 && z
  | 0x10 => i < 65536 && z
  | 0x11 => i = 0 && z
  | 0x12 => 1 ≤ i && i ≤ 65536
  | 0x13 => 1 ≤ i && i ≤ 65536
  | 0x14 => 1 ≤ i && i < 65536 && z
  | 0x15 => i = 0 && 1 ≤ c.scope && c.scope ≤ 3
  | 0x16 => i < 32
  | 0x17 => 1 ≤ i && i ≤ 2 ^ 31
  | 0x18 => i = 0 && z
  | 0x19 => i = 0
  | op => if writingCmd op then (if c.eot then i < 256 && 32 ≤ i % 64 else i = 0) else true

/-- R85, R179: a command that breaks its columns is `illegal`. -/
def cmdLegal (c : CmdW) : Bool :=
  1 ≤ c.op && c.op ≤ 0x19 && !c.flags.testBit 0 && c.scope ≤ 5 && (Nat.land c.flags 0xC6) == Nat.land (Nat.land c.flags 0xC6) (flagsOf c.op) &&
    (c.scope = 0 || c.rel || c.acq || c.op = 0x11 || c.op = 0x15) && (!descNeeded c.op || c.hasDesc) && portOk c && immOk c

/-- The double words of a descriptor. -/
def dw (d : BitVec 512) (k : Nat) : Nat := bitsN d (64 * k + 63) (64 * k)
/-- Bits of a double word of a descriptor. -/
def dwBits (d : BitVec 512) (k h l : Nat) : Nat := dw d k / 2 ^ l % 2 ^ (h + 1 - l)

/-! ### Descriptor checks -/

/-- The first of a list of causes whose condition holds. -/
def firstCause : List (Bool × Cause) → Cause
  | [] => .none
  | (b, c) :: t => if b then c else firstCause t

/-- R181: the limits and reserved bits of a copy's descriptor. -/
def copyCheck (d : BitVec 512) : Cause :=
  let rows := dwBits d 2 63 32
  let rlen := dwBits d 2 31 0
  firstCause [(dwBits d 0 63 56 != 0 || dwBits d 1 63 56 != 0 || dwBits d 5 63 1 != 0 || dw d 6 != 0 || dw d 7 != 0 || rows == 0 ||
    65536 < rows || rlen == 0 || 2 ^ 24 < rlen, .illegal)]

/-- R182: those of a fill's. -/
def fillCheck (d : BitVec 512) : Cause :=
  let n := dwBits d 2 31 0
  firstCause [(dwBits d 0 63 56 != 0 || dwBits d 2 63 32 != 0 || dwBits d 3 63 2 != 0 || dwBits d 3 1 0 == 3 ||
      (List.range 4).any (fun k => dw d (4 + k) != 0) || n == 0 || n % 8 != 0, .illegal),
    (dw d 0 % 8 != 0, .align)]

/-- R293: those of a `ramo`'s. -/
def ramoCheck (d : BitVec 512) : Cause :=
  let op := dwBits d 4 63 60
  let esz := dwBits d 4 59 58
  let n := dwBits d 4 12 0
  let e := if esz = 0 then 16 else if esz = 2 then 4 else 8
  let o := if esz = 3 then 8 else 4
  let red := op == 9 || op == 10
  firstCause [((List.range 4).any (fun k => dwBits d k 63 56 != 0) || dwBits d 4 45 13 != 0 ||
      (List.range 3).any (fun k => dw d (5 + k) != 0) || esz == 1 || 11 < op || n == 0 || 4096 < n ||
      (red && esz != 0) || (!red && esz == 0) || (op == 11 && esz != 2) || (!red && dwBits d 4 57 46 != 0) ||
      (red && dw d 3 != 0), .illegal),
    (dw d 0 % e != 0 || dw d 1 % 4 != 0 || dw d 2 % o != 0 || dw d 3 % e != 0, .align)]

/-- R297: those of a `rred`'s. -/
def rredCheck (d : BitVec 512) : Cause :=
  let n := dwBits d 3 31 0
  let rend := (dw d 3).testBit 43
  let rdo := (dw d 3).testBit 42
  let clr := (dw d 3).testBit 41
  let rm := dwBits d 3 40 38
  firstCause [((List.range 3).any (fun k => dwBits d k 63 56 != 0) || dwBits d 3 37 32 != 0 ||
      (List.range 4).any (fun k => dw d (4 + k) != 0) || 1 < dwBits d 3 63 60 || 4 < rm || (n == 0 && !rend) || 2 ^ 20 < n ||
      (rdo && (rend || dw d 2 != 0)) || (!rdo && (clr || rm != 0)), .illegal),
    (dw d 0 % 4 != 0 || dw d 1 % 16 != 0 || dw d 2 % 64 != 0, .align)]

/-- R189: those of a `shoot`'s. -/
def shootCheck (d : BitVec 512) : Cause :=
  firstCause [(dwBits d 0 63 56 != 0 || dwBits d 2 63 37 != 0 || (List.range 5).any (fun k => dw d (3 + k) != 0) ||
      dw d 1 == 0 || dw d 1 % 65536 != 0, .illegal),
    (dw d 0 % 65536 != 0, .align)]

/-- R151, R152 steps 4 and 5: those of a `rdfor`'s. -/
def rdforCheck (d : BitVec 512) : Cause :=
  let len := dwBits d 2 31 0
  firstCause [(dwBits d 0 63 56 != 0 || dwBits d 1 54 40 != 0 || dwBits d 1 31 0 != 0 || dwBits d 3 63 56 != 0 ||
      (List.range 4).any (fun k => dw d (4 + k) != 0), .illegal),
    (len == 0 || len % 64 != 0 || 2 ^ 20 < len || dwBits d 2 63 32 % 64 != 0, .range),
    (dw d 0 % 64 != 0 || dw d 3 % 16 != 0, .align)]

/-! ### Peers -/

/-- R146: the members of a multicast group; none where the group faults with `range`. DESIGN CHOICE (log 55): a count above 63, which the record's
layout excludes, faults as a count of 0 does. -/
def State.groupMembers (s : State) (g : Nat) : Option (List Nat) :=
  if s.arc.grpn ≤ g then none
  else
    let bs := (s.edgeRead ((bitsN s.arc.grpb 47 6) * 64 + 64 * g) 64 0).bytes
    let n := (bs.getD 0 0).toNat
    if n = 0 || 63 < n then none else some ((List.range n).map fun i => (bs.getD (i + 1) 0).toNat)

/-- R128, R143, R152 steps 8–10: why a list of peers refuses a level-3-only operation. -/
def State.peersFault (s : State) (hall : Nat) (ps : List Nat) : Cause :=
  firstCause [(!s.arc.en || ps.any fun p => s.peerLevel p == 0, .range), (ps.any fun p => s.isDead hall p, .deadpeer),
    (ps.any fun p => s.peerLevel p < 3, .peerlevel)]

/-! ### Checks against the device at issue (R176) -/

/-- R361: the root, class count and slots of the region of a context. -/
def State.rootOf (s : State) (hall ctx : Nat) : BitVec 37 := match s.regionAt hall ctx with
  | none => 0
  | some r => (s.region r).eff.root
def State.nclassOf (s : State) (hall ctx : Nat) : Nat := match s.regionAt hall ctx with
  | none => 256
  | some r => (s.region r).eff.nclass
def State.nsOf (s : State) (hall ctx : Nat) : Nat := match s.regionAt hall ctx with
  | none => 4
  | some r => (s.region r).own.ns
/-- R364: the physical slot of a logical slot of the region of a context. -/
def State.physOf (s : State) (hall ctx j : Nat) : Nat := match s.regionAt hall ctx with
  | none => j
  | some r => (s.region r).phys j

/-- A translation at issue: the leaf and its page size, or its cause. -/
def State.issueXlate (s : State) (hall ctx va : Nat) (k : AccKind) : State × Except Cause (W64 × Nat) :=
  if 2 ^ 56 ≤ va then (s, .error .range)
  else match s.walk (s.rootOf hall ctx) (w64 va) k with
    | (s, .fault c, l) => (s.logAll { hall := hall, eclass := 3, ctx := ctx } l, .error c)
    | (s, .leaf pte psz, l) => (s.logAll { hall := hall, eclass := 3, ctx := ctx } l, .ok (pte, psz))

/-- What the checks of a command answer: the state after their translations, the cause, and a value fixed at issue. -/
structure IssueAns where
  s : State
  cause : Cause := .none
  aux : Nat := 0

/-- R147: the checks of `rwin`. -/
def rwinCheck (s : State) (hall ctx : Nat) (c : CmdW) : IssueAns :=
  let wid := c.imm / 2 ^ 24
  let adm := c.imm / 2 ^ 22 % 4
  let peer := c.imm / 2 ^ 14 % 256
  let n := 64 * (c.imm % 2 ^ 14 + 1)
  if c.addr % 64 != 0 then { s := s, cause := .align }
  else if (Tab.find s.arc.wins wid).isSome then { s := s, cause := .window }
  else
    let grp : Cause := if adm = 1 then (match s.groupMembers peer with
      | none => .range
      | some ps => s.peersFault hall ps) else .none
    if grp != .none then { s := s, cause := grp }
    else match s.issueXlate hall ctx c.addr .write with
      | (s, .error f) => { s := s, cause := f }
      | (s, .ok (pte, psz)) =>
        let pa := (leafXlat pte psz (w64 c.addr)).pa
        if bitB pte 8 || spaceOf pa != .spad || 2 ^ psz < c.addr % 2 ^ psz + n then { s := s, cause := .range }
        else { s := s, aux := pa }

/-- R148: the checks of `rwclose`. -/
def rwcloseCheck (s : State) (hall ctx : Nat) (c : CmdW) : IssueAns :=
  match Tab.find s.arc.wins (c.imm / 2 ^ 24) with
  | none => { s := s, cause := .window }
  | some w => { s := s, cause := if some w.region == s.regionAt hall ctx then .none else .prot }

/-- R152 steps 6–10: the checks of `rdfor`. -/
def rdforIssue (s : State) (hall ctx : Nat) (d : BitVec 512) : IssueAns :=
  let src := dw d 0
  let len := dwBits d 2 31 0
  match s.issueXlate hall ctx src .read with
  | (s, .error c) => { s := s, cause := c }
  | (s, .ok (pte, psz)) =>
    if 2 ^ psz < src % 2 ^ psz + len then { s := s, cause := .range }
    else match s.issueXlate hall ctx (dw d 3) .write with
      | (s, .error c) => { s := s, cause := c }
      | (s, .ok _) =>
        let owner := if bitB pte 8 then bitsN pte 63 56 else s.arc.pid
        let rc := if (dw d 1).testBit 55 then s.groupMembers (dwBits d 1 63 56) else some [dwBits d 1 63 56]
        match rc with
        | none => { s := s, cause := .range }
        | some ps => { s := s, cause := s.peersFault hall (owner :: ps) }

/-- R299: none of a read-out's cells, on pages from a VA on, lies at a peer; a page that does not translate is left to the command's run. -/
def cellsHere (hall ctx : Nat) (k : AccKind) (stop : Nat) : Nat → Nat → State → State × Bool
  | 0, _, s => (s, true)
  | f + 1, va, s =>
    if stop ≤ va then (s, true)
    else match s.issueXlate hall ctx va k with
      | (s, .ok (pte, psz)) => if bitB pte 8 then (s, false) else cellsHere hall ctx k stop f ((va / 2 ^ psz + 1) * 2 ^ psz) s
      | (s, .error _) => cellsHere hall ctx k stop f ((va / 65536 + 1) * 65536) s

/-- R297, R299, R143: the issue translations of `rred`. -/
def rredIssue (s : State) (hall ctx : Nat) (d : BitVec 512) : IssueAns :=
  let rdo := (dw d 3).testBit 42
  let k : AccKind := if rdo && !(dw d 3).testBit 41 then .read else .atomic
  let owner (pte : W64) : Option Nat := if bitB pte 8 then some (bitsN pte 63 56) else none
  match s.issueXlate hall ctx (dw d 1) k with
  | (s, .error c) => { s := s, cause := c }
  | (s, .ok (p, psz)) =>
    let far : State × Bool :=
      if rdo then cellsHere hall ctx k (dw d 1 + 16 * dwBits d 3 31 0) 257 ((dw d 1 / 2 ^ psz + 1) * 2 ^ psz) s else (s, true)
    if !far.2 then { s := far.1, cause := .range } else
    let s := far.1
    let dead (s : State) : IssueAns := match owner p with
      | none => { s := s }
      | some q => { s := s, cause := if rdo then .range else s.peerFault hall q false }
    if dw d 2 = 0 then dead s
    else match s.issueXlate hall ctx (dw d 2) .atomic with
      | (s, .error c) => { s := s, cause := c }
      | (s, .ok (q, _)) => if owner p = owner q then dead s else { s := s, cause := .range }

/-- R179: `addr` is 0 unless the stair's base comes from the command. -/
def bindAddrOk (s : State) (hall : Nat) (c : CmdW) (pctx : Nat) : Bool :=
  c.addr = 0 || (c.port < 16 && (match cfgWord (s.stWords hall c.port pctx) 0x14 with
    | none => false
    | some w => bitsN w 57 56 == 1))

/-- R180, R179: the checks of `bind`, `gather` and `scatter`: their `addr`, and that a resuming bind finds a stopped stair. DESIGN CHOICE (log 56): a
resuming bind under another ctx than the stopped command's is `cfg`, as on a stair that is not stopped. -/
def bindIssue (s : State) (hall : Nat) (c : CmdW) (pctx : Nat) : Cause :=
  if !bindAddrOk s hall c pctx then .illegal
  else if c.op = 0x01 && c.imm.testBit 31 then
    (let x := s.stair hall c.port
     if c.port < 16 && x.stop.isSome && (x.run.map (·.ctx)) == some pctx then .none else .cfg)
  else .none

/-- R176: a command's own issue checks against the device. -/
def issueCheck (s : State) (hall ctx : Nat) (c : CmdW) (d : BitVec 512) : IssueAns :=
  let pctx := s.physOf hall ctx c.ctx
  let slotOf := s.slot hall (s.physOf hall ctx (c.imm % 4))
  let ns := s.nsOf hall ctx
  match c.op with
  | 0x01 => { s := s, cause := bindIssue s hall c pctx }
  | 0x02 => { s := s, cause := copyCheck d }
  | 0x03 => { s := s, cause := fillCheck d }
  | 0x04 => { s := s, cause := bindIssue s hall c pctx }
  | 0x05 => { s := s, cause := bindIssue s hall c pctx }
  | 0x06 => if rdforCheck d = .none then rdforIssue s hall ctx d else { s := s, cause := rdforCheck d }
  | 0x07 => rwinCheck s hall ctx c
  | 0x08 => rwcloseCheck s hall ctx c
  | 0x09 => { s := s, cause := ramoCheck d }
  | 0x0A => if rredCheck d = .none then rredIssue s hall ctx d else { s := s, cause := rredCheck d }
  | 0x0E => { s := s, cause := firstCause [(ns ≤ c.imm % 4 || slotOf.st == .live || slotOf.st == .saving, .cfg), (c.addr % 64 != 0, .align)] }
  | 0x0F => { s := s, cause := firstCause [(ns ≤ c.imm % 4 || !(slotOf.st == .loaded || slotOf.st == .live), .cfg)] }
  | 0x12 => { s := s, cause := firstCause [(c.addr % 16 != 0, .align)] }
  | 0x13 => { s := s, cause := firstCause [(c.addr % 16 != 0, .align)] }
  | 0x15 => { s := s, cause := shootCheck d }
  | 0x16 => { s := s, cause := firstCause [(c.addr % 65536 != 0, .align)] }
  | _ => { s := s }

/-! ### `issue` (R348) -/

/-- R176: what reading a descriptor answers. -/
inductive DescAns where
  | ok (s : State) (d : BitVec 512)
  | wait (s : State)
  | fault (s : State) (c : Cause)

/-- R176: reads a command's descriptor through the hall's translation. -/
def readDesc (s : State) (root : BitVec 37) (va : W64) : DescAns :=
  if va.toNat % 64 != 0 then .fault s .align
  else match s.lcXlate s.focus.hall root va .read with
    | (s, .error c, _) => .fault s c
    | (s, .ok x, _) =>
      let l := (dwords va 8).mapIdx fun i a => (a, Except.ok { x with pa := x.pa + 8 * i })
      match ldmGo s (l.drop s.me.got.length) s.me.got with
      | .inl (.wait s) => .wait s
      | .inl (.val s _) => .wait s
      | .inl (.trap s c) => .fault s c
      | .inr (s, vs) =>
        let s := s.setMe { s.me with got := [] }
        if vs.any (·.poison) then .fault s .poisonuse
        else .ok s (BitVec.ofNat 512 (leNat (vs.map fun v => leBytes 8 v.v.toNat).flatten))

/-- R348: the `issue` instruction traps with the ticket the command would have received. -/
def issueTrap (s : State) (c : Cause) : Res := trapRes s c (w64 (s.disp s.focus.hall).next)

/-- R397: the ports through which a command sends tokens into elements, each with the physical slot, given the physical slots of the
region's logical slots. -/
def cmdInputs (w : CmdW) (phys : Nat → Nat) : List Nat :=
  (if [0x01, 0x04, 0x05, 0x0B, 0x0C, 0x0F, 0x12].contains w.op then [4 * w.port + phys w.ctx] else []) ++
    (if writingCmd w.op && w.eot then [4 * (w.imm % 64) + phys (w.imm / 64 % 4)] else []) ++
    (if w.op = 0x07 && w.eot then [4 * w.port + phys w.ctx] else [])

/-- R372: an element code under a bay shift: bays by rows and columns, stairs by columns. -/
def shiftElem (dr dc : Int) (e : Nat) : Nat :=
  if e < 64 then ((e : Int) + 8 * dr + dc).toNat else if e < 80 then ((e : Int) + dc).toNat else e
/-- R372: a port that a command names, under a bay shift: stairs by columns, M-bay and vector ports by quads, edge ports by rows. -/
def shiftPort (dr dc : Int) (p : Nat) : Nat :=
  if p < 16 then (shiftElem dr dc (64 + p) - 64) % 16
  else if p < 32 then 16 + quadOf (shiftElem dr dc (mbayOf (p - 16))) % 16
  else if p < 48 then p / 8 * 8 + ((p % 8 : Int) + dr).toNat % 8
  else 48 + quadOf (shiftElem dr dc (firstABay (p - 48))) % 16
/-- A word with n bits at bit l replaced. -/
def bitPutB (w : BitVec 128) (l n v : Nat) : BitVec 128 :=
  BitVec.ofNat 128 (w.toNat / 2 ^ (l + n) * 2 ^ (l + n) + v % 2 ^ n * 2 ^ l + w.toNat % 2 ^ l)
/-- A command word with its port replaced. -/
def setPort (w : BitVec 128) (p : Nat) : BitVec 128 := bitPutB w 114 6 p

/-- R372: the bits of a lane mask under a bay shift. -/
def shiftMask (dr dc : Int) (m : Nat) : Nat :=
  ((List.range 64).map fun p => if m.testBit p then 2 ^ shiftPort dr dc p else 0).foldl (· + ·) 0

/-- R372: a command word under a bay shift: its port, the port of its end-of-tile marker, and the lanes of `portwait`. -/
def shiftWord (dr dc : Int) (b : BitVec 128) : BitVec 128 :=
  let w := cmdW b
  if dr = 0 && dc = 0 then b
  else if w.op = 0x19 then bitPutB b 0 64 (shiftMask dr dc w.addr)
  else
    let b := if controlLane w.op && !(w.op = 0x07 && w.eot) then b else setPort b (shiftPort dr dc w.port)
    if writingCmd w.op && w.eot then bitPutB b 64 6 (shiftPort dr dc (w.imm % 64)) else b

/-- R372: the command word of a context as its dispatcher takes it. -/
def State.shifted (s : State) (hall ctx : Nat) (b : BitVec 128) : BitVec 128 := match s.regionAt hall ctx with
  | none => b
  | some r => shiftWord (s.region r).sdr (s.region r).sdc b

/-- R174, R349: a checked command enters the dispatcher with a ticket. -/
def State.enqueueCmd (s : State) (hall ctx : Nat) (w : BitVec 128) (d : BitVec 512) (aux : Nat) : State :=
  let q := s.disp hall
  let k : DCmd := { ticket := q.next, ctx := s.physOf hall ctx (bitsN w 113 112), ictx := ctx, region := s.regionAt hall ctx,
                    word := w, desc := d, aux := aux }
  let stats := q.stats.filter (fun x => x.ticket != q.next) ++ [{ ticket := q.next, ctx := ctx, region := (s.regionAt hall ctx).getD 0 }]
  s.setDisp hall { q with ins := (cmdInputs (cmdW w) (s.physOf hall ctx)).foldl setIns q.ins, cmds := q.cmds ++ [k], next := (q.next + 1) % 65536, stats := stats.drop (stats.length - 256) }

/-- R148: once a `rwclose` is issued, its window refuses new deliveries. -/
def State.shutWindow (s : State) (hall ctx : Nat) (c : CmdW) (ticket : Nat) : State :=
  if c.op ≠ 0x08 then s
  else
    let f (w : RWindow) : RWindow := { w with closing := true, pfill := w.pfill || c.imm.testBit 0, closer := some (hall, ticket) }
    { s with arc := { s.arc with wins := s.arc.wins.map fun p =>
        if p.1 = c.imm / 2 ^ 24 && some p.2.region == s.regionAt hall ctx then (p.1, f p.2) else p } }

/-- R348 `issue`. -/
def execIssue (c : BitVec 3) (a : BitVec 5) (s : State) : Res :=
  let h := s.focus.hall
  let x := s.focus.ctx
  let r := s.me.rc c
  let b := s.shifted h x r.v
  let w := cmdW b
  if 64 ≤ (s.disp h).cmds.length then waits s
  else if r.poison then issueTrap s .poisonuse
  else if !cmdLegal (cmdW r.v) then issueTrap s .illegal
  else if s.nclassOf h x ≤ w.cls then issueTrap s .range
  else if s.nsOf h x ≤ w.ctx || (writingCmd w.op && w.eot && s.nsOf h x ≤ w.imm / 64) then issueTrap s .cfg
  else
    let go (s : State) (d : BitVec 512) : Res :=
      let k := issueCheck s h x w d
      if k.cause != .none then issueTrap k.s k.cause
      else if w.op = 0x15 && !s.me.pl then issueTrap k.s .prot
      else
        let t := (k.s.disp h).next
        retire ((k.s.enqueueCmd h x b d k.aux).shutWindow h x w t) fun m => m.wx a (w64 t)
    if w.hasDesc then
      match readDesc s (s.rootOf h x) (w64 w.addr) with
      | .wait s => waits s
      | .fault s c => issueTrap s c
      | .ok s d => go s d
    else go s 0

/-! ### Starting and retiring (R174–R178) -/

/-- A command's lane: its port, or 64 for the control lane (R178). -/
def DCmd.lane (c : DCmd) : Nat := if controlLane (bitsN c.word 127 120) then 64 else bitsN c.word 119 114

/-- R172: a resuming bind. -/
def DCmd.resumes (c : DCmd) : Bool := bitsN c.word 127 120 == 1 && bitB c.word 95

/-- R175, R316: the older accesses of a context's landing core have been performed. An access for which the thread now waits was issued after the
command, since the thread goes on to `issue` only once it has its answer. -/
def State.lcQuiet (s : State) (hall ctx : Nat) : Bool := s.coreQuiet hall ctx

/-- R395 step 2: the hall's controller has begun to save the command's region. -/
def State.swapping (s : State) (hall : Nat) (c : DCmd) : Bool := match c.region with
  | none => false
  | some r => (s.region r).swap.halls.contains hall

/-- R174, R175, R178: a command may start: every earlier command of its lane has retired, and what `rel` and `acq` ask for. -/
def State.startable (s : State) (hall : Nat) (c : DCmd) : Bool :=
  let older := ((s.disp hall).cmds.takeWhile fun k => k.ticket != c.ticket)
  let mine := older.filter fun k => k.ictx == c.ictx
  let w := cmdW c.word
  !c.started && !s.ctxStopped hall c.ctx && !s.swapping hall c &&
    (c.resumes || (older.all (fun k => k.lane != c.lane) && mine.all (fun k => !bitB k.word 102) &&
      (!w.rel || (mine.isEmpty && s.lcQuiet hall c.ictx))))

/-- The command of a hall with a ticket. -/
def State.cmd (s : State) (hall ticket : Nat) : Option DCmd := (s.disp hall).cmds.find? fun c => c.ticket == ticket
def State.updCmd (s : State) (hall ticket : Nat) (f : DCmd → DCmd) : State :=
  let d := s.disp hall
  s.setDisp hall { d with cmds := d.cmds.map fun c => if c.ticket == ticket then f c else c }

/-- R174: the dispatcher starts a queued command. -/
def execCommandStart (s : State) : Res :=
  match s.cmd s.focus.hall s.focus.idx with
  | none => waits s
  | some c =>
    if s.startable s.focus.hall c then .next (s.updCmd s.focus.hall c.ticket fun c => { c with started := true })
    else waits s

/-- R388 `rkind` 2: the record of a command's fault. -/
def cmdRecord (s : State) (hall : Nat) (c : DCmd) (f : Cause) : BitVec 512 :=
  let w := cmdW c.word
  let r := recPut (recPut (recPut (recHead f hall (s.logCtx hall c.ctx) 2) 484 8 w.cls) 478 6 w.port) 448 16 c.ticket
  recPut (recPut (recPut r 392 56 c.faultVa.toNat) 384 8 w.op) 352 32 c.faultIx

/-- R171, R176: the stair's trap record of a command that used the stair's memory path. -/
def cmdStairRecord (s : State) (hall : Nat) (c : DCmd) (f : Cause) : BitVec 512 :=
  let w := cmdW c.word
  let x := s.stair hall w.port
  let kind := if w.op = 0x06 then 0 else 2
  let r := recPut (recPut (recPut (recHead f hall (s.logCtx hall c.ctx) 0) 494 4 w.port) 484 8 w.cls) 482 2 kind
  recPut (recPut (recPut (recPut (recPut r 477 5 x.spill.length) 448 16 c.ticket) 392 56 c.faultVa.toNat) 352 32 c.faultIx)
    0 64 x.lastWin.toNat

/-- R176, R155, R295: the report of a command that retires with a fault that no stop has reported. -/
def State.reportCmd (s : State) (hall : Nat) (c : DCmd) : State :=
  match c.fault with
  | none => s
  | some f =>
    if c.reported then s
    else
      let op := bitsN c.word 127 120
      s.report hall c.ctx (if op = 0x06 || op = 0x09 || op = 0x0A then cmdStairRecord s hall c f else cmdRecord s hall c f)

/-- R349: a ticket's status after retirement. -/
def Disp.retired (d : Disp) (ticket : Nat) (f : Cause) : Disp :=
  { d with
    cmds := d.cmds.filter fun c => c.ticket != ticket
    stats := d.stats.map fun x => if x.ticket = ticket then { x with ret := true, cause := f } else x }

/-- R174, R176, R349: a complete command retires: its status can be read, and its fault is reported. -/
def execCommandRetire (s : State) : Res :=
  let h := s.focus.hall
  match s.cmd h s.focus.idx with
  | none => waits s
  | some c =>
    if !c.done then waits s
    else .next ((s.setDisp h ((s.disp h).retired c.ticket (c.fault.getD .none))).reportCmd h c)

/-! ### What the step of a command shares -/

/-- R79: a command word from its fields. -/
def cmdWord (op : BitVec 8) (port : BitVec 6) (ctx : BitVec 2) (cls flags : BitVec 8) (imm : BitVec 32) (addr : BitVec 64) : BitVec 128 :=
  op ++ port ++ ctx ++ cls ++ flags ++ imm ++ addr

/-- R174, R390: a step of the focused command: it has started, is not complete and has the given word. A started command runs to
retirement even where its region is stopped. -/
def cmdRun (s : State) (w : BitVec 128) (body : DCmd → Res) : Res :=
  match s.cmd s.focus.hall s.focus.idx with
  | none => waits s
  | some c =>
    if c.started && !c.done && c.word = w && c.waitPage.isNone then body c else waits s

/-- Changes the focused command. -/
def State.updMyCmd (s : State) (f : DCmd → DCmd) : State := s.updCmd s.focus.hall s.focus.idx f

/-- The focused command is complete. -/
def cmdEnds (s : State) (c : Cause := .none) (va : Nat := 0) : Res := .next (s.cmdDone s.focus.hall s.focus.idx c (w64 va))

/-- R173: the bay of an edge or vector port. -/
def portBay (p : Nat) : Nat := if p < 40 then 8 * (p - 32) else if p < 48 then 8 * (p - 40) + 7 else firstABay (p - 48)

/-- R194: the route class of an M-bay's port stream. -/
def mportRco (ws : List W64) : Nat := match mbayWord ws 2 with
  | none => 0
  | some w => bitsN w 53 49

/-- R173: the element into whose stream a stair or M-bay port injects. -/
def streamElem (p : Nat) : Nat := if p < 16 then stairElem p else mbayOf (p - 16)

/-- R183, R188, R454: a token enters a port's stream: a stair's output, an M-bay's output, or the attached bay as a link arrival;
none while it cannot. `k` is 2 × the command's ticket, 1 more for its last token; it matters at a stair, whose output may
have to wait. -/
def State.portSend (s : State) (h p k : Nat) (t : Token) : Option State :=
  if s.portCut h p t.ctx.toNat then none
  else
    let live : Option State := if p < 32 then s.allow h (streamElem p) t.ctx.toNat else some s
    if p < 16 && live.isSome then
      live.map fun s =>
        let x := s.stair h p
        s.setStair h p { x with out := x.out ++ [.tok t (some k)] }
    else
    let s' := if p < 32 then (match live with
        | none => some (s.reportElem .cfg h (streamElem p) t.ctx.toNat t)
        | some s => s.takeRoute h (streamElem p) (mportRco (s.cfg h (streamElem p) t.ctx.toNat).words) 5 t true)
      else if (s.link (lkey h (portBay p) 4)).isEmpty then s.enterBay h (portBay p) 4 t 0 (4 + p)
      else none
    s'.map fun s =>
      let s := s.portPass h p t
      if k % 2 = 1 then s.cmdDone h (k / 2) else s

/-- R183: an injected token is placed once; the command is complete when the token has entered the port's link. -/
def injectOnce (s : State) (c : DCmd) (t : Token) : Res :=
  if c.acted then waits s
  else match s.portSend s.focus.hall (bitsN c.word 119 114) (2 * c.ticket + 1) t with
    | none => waits s
    | some s => .next (s.updMyCmd fun c => { c with acted := true })

/-- R183 `marker`. -/
def execMarker (port : BitVec 6) (ctx : BitVec 2) (cls flags : BitVec 8) (imm : BitVec 32) (addr : BitVec 64) (s : State) : Res :=
  cmdRun s (cmdWord 0x0B port ctx cls flags imm addr) fun c =>
    injectOnce s c { kind := .marker, level := imm.setWidth 3, ctx := BitVec.ofNat 2 c.ctx, chan := imm.extractLsb' 4 4, payload := addr }

/-- R183 `round`. -/
def execRound (port : BitVec 6) (ctx : BitVec 2) (cls flags : BitVec 8) (imm : BitVec 32) (addr : BitVec 64) (s : State) : Res :=
  cmdRun s (cmdWord 0x0C port ctx cls flags imm addr) fun c =>
    injectOnce s c { kind := .roundEnd, round := imm.setWidth 4, ctx := BitVec.ofNat 2 c.ctx, chan := imm.extractLsb' 4 4 }

/-- R183, R376 `cfgswitch`: the switch marker names the physical slot of the next logical one. -/
def execCfgswitch (port : BitVec 6) (ctx : BitVec 2) (cls flags : BitVec 8) (imm : BitVec 32) (addr : BitVec 64) (s : State) : Res :=
  cmdRun s (cmdWord 0x0F port ctx cls flags imm addr) fun c =>
    let h := s.focus.hall
    let dst := s.physOf h c.ctx (imm.toNat % 4)
    let x := s.slot h c.ctx
    injectOnce (if c.acted then s else s.setSlot h c.ctx { x with switchTo := some dst }) c
      { kind := .marker, level := 1, ctx := BitVec.ofNat 2 c.ctx, chan := imm.extractLsb' 4 4, payload := w64 dst }

/-- R179 `nop`. -/
def execNop (port : BitVec 6) (ctx : BitVec 2) (cls flags : BitVec 8) (imm : BitVec 32) (addr : BitVec 64) (s : State) : Res :=
  cmdRun s (cmdWord 0x18 port ctx cls flags imm addr) fun _ => cmdEnds s

/-- R188 `sink`: arms the port's counter, or adds to it. -/
def execSink (port : BitVec 6) (ctx : BitVec 2) (cls flags : BitVec 8) (imm : BitVec 32) (addr : BitVec 64) (s : State) : Res :=
  cmdRun s (cmdWord 0x14 port ctx cls flags imm addr) fun c =>
    let d := s.disp s.focus.hall
    let k := 4 * port.toNat + c.ctx
    let x := Tab.get d.sinks k { left := 0 }
    cmdEnds (s.setDisp s.focus.hall { d with sinks := Tab.put d.sinks k { x with left := x.left + imm.toNat % 65536, told := false } })

/-- R192 `portwait`. -/
def execPortwait (port : BitVec 6) (ctx : BitVec 2) (cls flags : BitVec 8) (imm : BitVec 32) (addr : BitVec 64) (s : State) : Res :=
  cmdRun s (cmdWord 0x19 port ctx cls flags imm addr) fun c =>
    let older := (s.disp s.focus.hall).cmds.takeWhile fun k => k.ticket != c.ticket
    if older.any fun k => k.lane < 64 && bitB addr k.lane then waits s else cmdEnds s

/-- R185, R119 `sfence`: a fence marker goes to the stair's memory port; the command is complete when it leaves the port. -/
def execSfence (port : BitVec 6) (ctx : BitVec 2) (cls flags : BitVec 8) (imm : BitVec 32) (addr : BitVec 64) (s : State) : Res :=
  cmdRun s (cmdWord 0x11 port ctx cls flags imm addr) fun c =>
    if c.acted then waits s
    else
      let n := port.toNat % 16
      let t : Token := { kind := .marker, level := 3, ctx := BitVec.ofNat 2 c.ctx }
      let s := s.flushMrg s.focus.hall n
      .next ((s.updStair s.focus.hall n fun x => { x with held := x.held ++ [(t, some c.ticket)] }).updMyCmd
        fun c => { c with acted := true })

/-! ### `bind`, `gather`, `scatter` (R172, R180) -/

/-- R194: the port stream's word of an M-bay's slot. -/
def State.mportOf (s : State) (h q ctx : Nat) : Option W64 := mbayWord (s.cfg h (mbayOf q) ctx).words 2

/-- R180, R158: a stair starts its configured pattern, unless its mode does not suit the command, which is `cfg` (R176). -/
def stairStart (s : State) (c : DCmd) (w : CmdW) (suits : List W64 → Bool) : Res :=
  let h := s.focus.hall
  let n := w.port % 16
  let x := s.stair h n
  let ws := s.stWords h n c.ctx
  if c.acted || x.run.isSome then waits s
  else if (cfgWord ws 0x15).isNone || !suits ws then cmdEnds s .cfg
  else
    let b := (cfgWord ws 0x14).getD 0
    let r : StairRun := { ticket := c.ticket, ctx := c.ctx, cls := w.cls, eot := w.eot, bound := w.imm, ob := w.imm % 2 ^ 24,
                          base := if bitsN b 57 56 = 1 then w.addr else bitsN b 55 0 }
    .next ((s.setStair h n { x with run := some r, stop := none, wins := [], want := none, asks := [], cur := none }).updMyCmd
      fun c => { c with acted := true })

/-- R200, R289: an M-bay starts the stream of its `mport` word. A stream that does not suit the command is `cfg` (R176). -/
def mportStart (s : State) (c : DCmd) (w : CmdW) : Res :=
  let h := s.focus.hall
  let q := w.port % 16
  let ob := w.imm % 2 ^ 24
  if c.acted then waits s
  else match s.mportOf h q c.ctx with
    | none => cmdEnds s .cfg
    | some m =>
      let mode := bitsN m 59 58
      if mode = 3 && ob != 0 then cmdEnds s .cfg
      else
        let b := s.bank h q
        let st : MStream := { ticket := c.ticket, ctx := c.ctx, count := if ob ≠ 0 then ob else bitsN m 11 0, eot := w.eot }
        .next ((s.setBank h q { b with strm := some st }).updMyCmd fun c => { c with acted := true })

/-- R180 `bind`. -/
def execBind (port : BitVec 6) (ctx : BitVec 2) (cls flags : BitVec 8) (imm : BitVec 32) (addr : BitVec 64) (s : State) : Res :=
  cmdRun s (cmdWord 0x01 port ctx cls flags imm addr) fun c =>
    let w := cmdW c.word
    if w.port < 16 then stairStart s c w fun ws => stAmode ws < 2 else mportStart s c w

/-- R180 `gather`. -/
def execGather (port : BitVec 6) (ctx : BitVec 2) (cls flags : BitVec 8) (imm : BitVec 32) (addr : BitVec 64) (s : State) : Res :=
  cmdRun s (cmdWord 0x04 port ctx cls flags imm addr) fun c =>
    stairStart s c (cmdW c.word) fun ws => stAmode ws == 2 && stDir ws == 0

/-- R180 `scatter`. -/
def execScatter (port : BitVec 6) (ctx : BitVec 2) (cls flags : BitVec 8) (imm : BitVec 32) (addr : BitVec 64) (s : State) : Res :=
  cmdRun s (cmdWord 0x05 port ctx cls flags imm addr) fun c =>
    stairStart s c (cmdW c.word) fun ws => stAmode ws == 2 && stDir ws != 0

/-- R172: a resuming bind acts on a stopped stair and is complete; on one that is not stopped it is `cfg`. -/
def stairResume (s : State) (w : BitVec 128) (f : State → Stair → StairRun → State) : Res :=
  cmdRun s w fun c =>
    let n := bitsN c.word 119 114 % 16
    let x := s.stair s.focus.hall n
    match x.run, x.stop with
    | some r, some _ => cmdEnds (f s { x with stop := none } r)
    | _, _ => cmdEnds s .cfg

/-- R172 `bind` with `res`: the recorded element is issued again. -/
def execBindResume (port : BitVec 6) (ctx : BitVec 2) (cls flags : BitVec 8) (imm : BitVec 32) (addr : BitVec 64) (s : State) : Res :=
  stairResume s (cmdWord 0x01 port ctx cls flags imm addr) fun s x _ => s.setStair s.focus.hall (port.toNat % 16) x

/-- R172, R161: where the skipped access was a read of the position array, its row is taken as empty; of the coordinate array, its entry is passed
over. -/
def StairRun.skipAux (r : StairRun) : StairRun :=
  if r.row.isSome then { (r.setF 0 (r.fk 0 + 1)).count with aux := [] } else { r with row := some (0, 0), aux := [] }

/-- R172, R390: a stopped stair goes on without its recorded element. -/
def Stair.passOver (x : Stair) (r : StairRun) : Stair :=
  match x.want with
  | none => { x with stop := none }
  | some e => if e.aux then { x with stop := none, want := none, run := some r.skipAux }
    else { x with stop := none, want := none }.unplace e.ser

/-- R172 `bind` with `res` and `skp`: the recorded element is not applied. -/
def execBindResumeSkip (port : BitVec 6) (ctx : BitVec 2) (cls flags : BitVec 8) (imm : BitVec 32) (addr : BitVec 64) (s : State) : Res :=
  stairResume s (cmdWord 0x01 port ctx cls flags imm addr) fun s x r => s.setStair s.focus.hall (port.toNat % 16) (x.passOver r)

/-- R172: an abandoned command's spilled elements: loads deliver poison; writes and atomics are discarded. -/
def abandonSpill (s : State) (h n : Nat) : List Spill → State
  | [] => s
  | q :: t => abandonSpill (if q.e.kind = .read then s.givePoison h n { q.e with replay := true } else s.updStair h n fun x => x.unplace q.e.ser) h n t

/-- R172 `bind` with `res` and `abn`: the command is abandoned; it makes its done and retires with its fault. -/
def execBindAbandon (port : BitVec 6) (ctx : BitVec 2) (cls flags : BitVec 8) (imm : BitVec 32) (addr : BitVec 64) (s : State) : Res :=
  stairResume s (cmdWord 0x01 port ctx cls flags imm addr) fun s x r =>
    let h := s.focus.hall
    let n := port.toNat % 16
    let cause : Cause := match (s.stair h n).stop with
      | some p => p.cause
      | none => .none
    let mine := x.spill.filter fun q => !q.e.aux
    let y := match x.want with
      | none => x
      | some e => x.unplace e.ser
    let y := x.aside.foldl (fun y e => y.unplace e.ser) y
    let s := s.setStair h n { y with want := none, aside := [], spill := [], reqs := [], auxq := [], asks := [], cur := none, run := some { r with ended := true, fault := cause } }
    let s := abandonSpill s h n mine
    let s := match mine.find? (fun q => q.e.kind != .read) with
      | some q => s.stairLog h n r.ctx .nopage q.e.va
      | none => s
    s.updCmd h r.ticket fun c => { c with reported := true }

/-! ### `shoot` and `prefetch` (R189, R191) -/

/-- R121, R125: the translating parts of a scope: translate-mode S-bays, stairs and landing cores, and the window table. -/
def State.shootParts (s : State) (h scope : Nat) : List (Nat × Nat) :=
  let halls := match scope with
    | 1 => [h]
    | 2 => (List.range 16).map (16 * (h / 16) + ·)
    | _ => List.range 64
  (halls.map fun k =>
    ((List.range 64).filter fun b => bayKind b == .s && (List.range 4).any fun c => (cfgWord (s.cfg k b c).words 0x1D).isSome).map (fun b => (k, b)) ++
      (List.range 17).map fun n => (k, 64 + n)).flatten ++ [(h, 81)]

/-- R189, R121 `shoot`. -/
def execShoot (port : BitVec 6) (ctx : BitVec 2) (cls flags : BitVec 8) (imm : BitVec 32) (addr : BitVec 64) (s : State) : Res :=
  cmdRun s (cmdWord 0x15 port ctx cls flags imm addr) fun c =>
    if !c.acted then
      let ps := s.shootParts s.focus.hall (cmdW c.word).scope
      let l := ps.map fun p =>
        ({ hall := s.focus.hall, ticket := c.ticket, part := p, va := dw c.desc 0, len := dw c.desc 1, root := BitVec.ofNat 37 (dw c.desc 2) } : Shoot)
      .next ({ s with shoots := s.shoots ++ l }.updMyCmd fun c => { c with acted := true, waitParts := ps.length })
    else if 0 < c.waitParts then waits s
    else cmdEnds s

/-- R191 `prefetch`: asks for one window after another; a fault answer moves on to the next page. -/
def execPrefetch (port : BitVec 6) (ctx : BitVec 2) (cls flags : BitVec 8) (imm : BitVec 32) (addr : BitVec 64) (s : State) : Res :=
  cmdRun s (cmdWord 0x17 port ctx cls flags imm addr) fun c =>
    let h := s.focus.hall
    let n := port.toNat % 16
    let x := s.stair h n
    let ws := s.stWords h n c.ctx
    let va := addr.toNat + c.prog
    if (cfgWord ws 0x1B).isNone then cmdEnds s
    else if !x.asks.isEmpty then waits s
    else if c.acted then
      let stop := match x.wins.find? fun w => w.serves va .read with
        | some w => (va / 2 ^ bitsN w.pay 11 7 + 1) * 2 ^ bitsN w.pay 11 7
        | none => (va / 65536 + 1) * 65536
      .next (s.updMyCmd fun c => { c with acted := false, prog := stop - addr.toNat })
    else if imm.toNat ≤ c.prog || 2 ^ 56 ≤ va then cmdEnds s
    else match s.stairSend h n (stRq ws .read) { kind := .data, width := 4, ctx := BitVec.ofNat 2 c.ctx, payload := w64 va } with
      | none => waits s
      | some s => .next ((s.updStair h n fun x => { x with asks := x.asks ++ [(va, false, [])] }).updMyCmd fun c => { c with acted := true })

/-- R188, R244: a sink counter, or the `sinkcnt` unit of an S-bay, that has reached zero reports to the region controller.
A port is named by `idx`; an S-bay by `elem`, with `aux` 1. -/
def execSinkCountZero (s : State) : Res :=
  let h := s.focus.hall
  if s.focus.aux = 1 then
    let u := s.unit h s.focus.elem s.focus.ctx
    if u.sink = some 0 && u.sinkHit && !u.sinkTold then .next (s.setUnit h s.focus.elem s.focus.ctx { u with sinkTold := true }) else waits s
  else
    let d := s.disp h
    let k := 4 * s.focus.idx + s.focus.ctx
    match Tab.find d.sinks k with
    | none => waits s
    | some c => if c.left = 0 && c.hit && !c.told then .next (s.setDisp h { d with sinks := Tab.put d.sinks k { c with told := true } }) else waits s

end Sys2Proof.Machine
end

