-- ==== Sys2Proof/Machine/Engines.lean ====
section
/-! DEFINITION. The engine commands: `copy`, `fill`, `inject`, `collect`, `tload` (R181, R182, R186, R187, R190), `ramo` and `rred` (R293–R302). Each step of a command does one part of its work; where the specification promises no order among the parts, the focus names the part (log 1). -/

namespace Sys2Proof.Machine

/-! ### Translation and page service (R116, R181) -/

def DCmd.port (c : DCmd) : Nat := bitsN c.word 119 114

/-- Where the faults of a command are found. -/
def State.cmdSite (s : State) (c : DCmd) : Site := { hall := s.focus.hall, elem := c.port, eclass := 4, ctx := c.ctx }

/-- What translating an address of a command answers. -/
inductive EngX where
  | ok (s : State) (x : Xlat) (psz : Nat)
  /-- a page request has been made, and the command waits for it -/
  | wait (s : State)
  | fault (s : State) (c : Cause)

/-- R195–R197: the bank that owns a PA takes an access of a command. -/
def State.cmdOpen (s : State) (c : DCmd) (pa : Nat) : Bool := s.bankOpen (s.focus.hall, coreElem) c.ctx pa

/-- R116, R118, R181: a page not present is asked of the page service of the issuing region; without one, or once refused, it
is a fault. DESIGN CHOICE (log 56): an image page of `cfgload` is asked for in the same way, though R181 does not list the command among the users of
that service; its lane has no port, and the stair field is 0. -/
def State.cmdNoPage (s : State) (c : DCmd) (va : Nat) (k : AccKind) : EngX :=
  let h := s.focus.hall
  let n := c.port % 16
  let page := va / 65536
  match s.regionAt h c.ictx with
  | none => .fault s .nopage
  | some r =>
    let g := s.region r
    if c.refused.contains page || !g.eff.pgv then .fault s .nopage
    else
      let x := s.stair h n
      match x.reqs.find? (fun q => q.2 == page) with
      | some q => .wait (s.updMyCmd fun c => { c with waitPage := some q.1 })
      | none =>
        let q := x.freshSeq
        let s := s.sinkPut g.eff.psq 16 (pageRequest g.eff.root h n q k.code va)
        let s := s.setStair h n { x with reqs := x.reqs ++ [(q, page)], reqSeq := (q + 1) % 64 }
        .wait (s.updMyCmd fun c => { c with waitPage := some q })

/-- R181: a command translates under the issuing region's root; an address of a peer is checked as R143 gives. -/
def State.cmdXlate (s : State) (c : DCmd) (va : Nat) (k : AccKind) : EngX :=
  if 2 ^ 56 ≤ va then .fault s .range
  else match s.walk (s.rootOf s.focus.hall c.ictx) (w64 va) k with
    | (s, .fault .nopage, l) => (s.logAll (s.cmdSite c) l).cmdNoPage c va k
    | (s, .fault e, l) => .fault (s.logAll (s.cmdSite c) l) e
    | (s, .leaf pte psz, l) =>
      let s := s.logAll (s.cmdSite c) l
      let x := leafXlat pte psz (w64 va)
      match x.rem with
      | none => .ok s x psz
      | some p => match s.peerFault s.focus.hall p false with
        | .none => .ok s x psz
        | e => .fault s e

/-- An address from an exact sum; one below zero is beyond every VA. -/
def vaOf (v : Int) : Nat := if v < 0 then 2 ^ 56 else v.toNat

/-! ### Parts -/

/-- A part of a command is done. -/
def DCmd.isDone (c : DCmd) (i : Nat) : Bool := i < c.prog || c.ahead.contains i

/-- Moves the count of parts done in order over those done ahead. -/
def absorbDone : Nat → Nat → List Nat → Nat × List Nat
  | 0, p, l => (p, l)
  | f + 1, p, l => if l.contains p then absorbDone f (p + 1) (l.filter (· != p)) else (p, l)

/-- A part is done; what was kept for it goes. -/
def DCmd.mark (c : DCmd) (i : Nat) : DCmd :=
  let r := if c.isDone i then (c.prog, c.ahead) else absorbDone (c.ahead.length + 1) c.prog (i :: c.ahead)
  { c with prog := r.1, ahead := r.2, buf := c.buf.filter fun b => b.ix != i }

/-- The first part from i up that is neither done nor begun. -/
def DCmd.freeFrom (c : DCmd) (total : Nat) : Nat → Nat → Option Nat
  | 0, _ => none
  | f + 1, i =>
    if total ≤ i then none
    else if c.ahead.contains i || c.buf.any (fun b => b.ix == i) then c.freeFrom total f (i + 1) else some i
def DCmd.todo (c : DCmd) (total : Nat) : Option Nat := c.freeFrom total (c.ahead.length + c.buf.length + 1) c.prog

/-- A part the focus may name: it exists, and is neither done nor begun. -/
def DCmd.canPick (c : DCmd) (total i : Nat) : Bool := i < total && !c.isDone i && !c.buf.any (fun b => b.ix == i)

/-- A kept part has been read whole. -/
def CBuf.ready (b : CBuf) : Bool := b.ps.all fun p => p.got.isSome
/-- Its bytes, and whether any is poison. -/
def CBuf.bytes (b : CBuf) : List Byte := (b.ps.map fun p => (p.got.getD ([], false)).1).flatten
def CBuf.pois (b : CBuf) : Bool := b.ps.any fun p => (p.got.getD ([], false)).2

/-- R176, R181: a permanent fault of a command; the first is kept. -/
def State.cmdFault (s : State) (c : Cause) (va ix : Nat) : State :=
  s.updMyCmd fun k => if k.fault.isSome then k else { k with fault := some c, faultVa := w64 va, faultIx := ix, buf := [] }

/-- R177, R179: a writing command ends once its writes are acknowledged: its end-of-tile marker enters the port that `imm32`
names, under the context it names; then it is complete. -/
def cmdFinish (s : State) (c : DCmd) : Res :=
  let h := s.focus.hall
  let w := cmdW c.word
  if 0 < c.waitAcks then waits s
  else if w.eot then
    match s.portSend h (w.imm % 64) (2 * c.ticket)
        (eotToken (s.physOf h c.ictx (w.imm / 64 % 4)) c.ticket (c.fault.isSome)) with
    | none => waits s
    | some s => .next (s.cmdDone h c.ticket .none c.faultVa)
  else .next (s.cmdDone h c.ticket .none c.faultVa)

/-! ### Reading and writing parts -/

/-- The pieces of n bytes at a VA, with their translations; a page not present is waited for, and so is room for the packets that go to peers (`sent`
names the peers of those before) and a bank that takes no access. -/
def State.xlatPieces (s : State) (c : DCmd) (va : Nat) (k : AccKind) (sent : List Nat := []) :
    List (Nat × Nat) → Option State ⊕ (State × List (Nat × Nat × Except Cause Xlat))
  | [] => .inr (s, [])
  | (o, n) :: t =>
    match s.cmdXlate c (va + o) k with
    | .wait s => .inl (some s)
    | .fault s e => (match s.xlatPieces c va k sent t with
      | .inl r => .inl r
      | .inr (s, l) => .inr (s, (o, n, .error e) :: l))
    | .ok s x _ =>
      if (match x.rem with
        | none => !s.cmdOpen c x.pa
        | some p => !s.quadRoom s.focus.hall c.port p (cmdW c.word).cls (sent.count p + 1)) then .inl none
      else match s.xlatPieces c va k (x.rem.toList ++ sent) t with
      | .inl r => .inl r
      | .inr (s, l) => .inr (s, (o, n, .ok x) :: l)

/-- The address of a piece that could not be read. -/
def noPa : Nat := 2 ^ 64

/-- R181, R110: reads a piece of a source. A fault gives poison and is logged where the piece begins a page or, with `first`, its
range; with `chk`, the line is checked, and a failure is logged where the piece begins the line or its range. -/
def State.srcPiece (s : State) (c : DCmd) (va o n : Nat) (first chk : Bool) (x : Except Cause Xlat) : State × Piece :=
  let site := s.cmdSite c
  let poison (s : State) (e : Cause) : State × Piece :=
    let s := if first || (va + o) % 65536 = 0 then s.logFault e site ((va + o) % 2 ^ 56) else s
    (s.drawn, { pa := noPa, key := 0, len := n, got := some (leBytes n s.free.toNat, true) })
  match x with
  | .error e => poison s e
  | .ok x =>
    match x.rem with
    | none =>
      let bad := chk && s.checkBad x.pa x.key
      let r := s.edgeRead x.pa n x.key
      let s := r.s.logAll site r.logs
      if r.cause != .none then poison s r.cause
      else
        let s := if bad && (first || x.pa % 64 = 0) then s.logFault .check site (x.pa / 64 * 64) true else s
        (s, { pa := x.pa, key := x.key, len := n, got := some (r.bytes, r.poison || bad) })
    | some p =>
      let tag := s.arc.nextTag
      (s.sendCmd s.focus.hall c.port (cmdW c.word).cls (rreqPacket p x.pa n (s.akeyOf s.focus.hall c.ictx))
        (.cmd s.focus.hall c.ticket), { pa := x.pa, key := x.key, rem := some p, len := n, tag := some tag })

/-- Reads the pieces of a source in order. -/
def State.srcPieces (s : State) (c : DCmd) (va : Nat) (first chk : Bool) : List (Nat × Nat × Except Cause Xlat) → State × List Piece
  | [] => (s, [])
  | (o, n, x) :: t =>
    let (s, p) := s.srcPiece c va o n first chk x
    let (s, l) := s.srcPieces c va false chk t
    (s, p :: l)

/-- Reads n bytes at a VA for part i of a command; none while it has to wait. -/
def State.readPart (s : State) (c : DCmd) (i va n : Nat) (first chk : Bool) (k : AccKind := .read) : Option State ⊕ (State × CBuf) :=
  match s.xlatPieces c va k [] (linePieces va n) with
  | .inl r => .inl r
  | .inr (s, l) =>
    let (s, ps) := s.srcPieces c va first chk l
    .inr (s, { ix := i, ps := ps, va := va })

/-- The poison marks of the four granules of a line, as bits. -/
def State.lineMarks (s : State) (pa : Nat) : Nat :=
  let g := s.placeOf pa / 64 * 4
  ((List.range 4).filter fun k => s.mem.pois.contains (g + k)).foldl (fun a k => a + 2 ^ k) 0

/-- The granules of n bytes at a PA that a set of marks of their line names. -/
def markedGranules (pa n marks : Nat) : List Nat := (granules pa n).filter fun g => marks.testBit (g % 4)

/-- What writing bytes for a command answers. -/
inductive EngW where
  | done (s : State)
  | wait (s : State)
  | fault (s : State) (c : Cause)

/-- Writes bytes within a line at a translated address: at its edge, or to its peer. `marks` are the poison marks of the line's
granules. What goes to a peer remembers its VA and part `ix` until it is acknowledged (R176). R109, R110: a line that carries its check value is
checked at arcade egress; one that fails leaves with all four marks set, and is logged. -/
def State.putBytes (s : State) (c : DCmd) (x : Xlat) (bs : List Byte) (marks : Nat) (o : WMode) (va ix : Nat) : EngW :=
  match x.rem with
  | none =>
    let n := bs.length
    if !s.cmdOpen c x.pa then .wait s else
    let e := if n % 16 = 0 then .none else s.edgeRefuses x.pa n x.key
    if e != Cause.none then .fault s e
    else
      let w := s.edgeWrite x.pa bs x.key { o with marks := markedGranules x.pa n marks }
      let s := w.s.logAll (s.cmdSite c) w.logs
      if w.cause = .none then .done s else .fault s w.cause
  | some p =>
    let h := s.focus.hall
    let cls := (cmdW c.word).cls
    let bad := o.fails bs
    if !s.quadRoom h c.port p cls then .wait s
    else
      let tag := s.arc.nextTag
      let s := if bad then s.logFault .check (s.cmdSite c) (va % 2 ^ 56) true else s
      let pk := wreqPacket p x.pa (s.akeyOf h c.ictx) bs (BitVec.ofNat 4 (if bad then 15 else marks)) (if bad then none else o.cv)
      .done ((s.sendCmd h c.port cls pk (.cmd h c.ticket)).updMyCmd fun c =>
        { c with waitAcks := c.waitAcks + 1, sentW := Tab.put c.sentW tag (va, ix) })

/-! ### `copy` (R181) -/

/-- R181: both addresses, `rlen` and both strides are multiples of 64, and lines keep their check values. -/
def copyCarries (d : BitVec 512) : Bool :=
  dw d 0 % 64 == 0 && dw d 1 % 64 == 0 && dwBits d 2 31 0 % 64 == 0 && dw d 3 % 64 == 0 && dw d 4 % 64 == 0

/-- A part of a copy: its row, its offset in the row, and its bytes: a line, or what lies in one granule of the destination. -/
structure Chunk where
  row : Nat
  off : Nat
  len : Nat
  deriving DecidableEq, Repr

/-- The part g of a row of n bytes whose first byte lies at an address. -/
def granuleChunk (row n : Nat) (a : Int) (g : Nat) : Chunk :=
  let m := (a % 16).toNat
  let lo := 16 * g - m
  { row := row, off := lo, len := min n (16 * g + 16 - m) - lo }

def copyRows (d : BitVec 512) : Nat := dwBits d 2 63 32
def copyLen (d : BitVec 512) : Nat := dwBits d 2 31 0
/-- The VA of a row's first source, and destination, byte. -/
def copySrc (d : BitVec 512) (row : Nat) : Int := (dwBits d 0 55 0 : Int) + (row : Int) * (BitVec.ofNat 64 (dw d 3)).toInt
def copyDst (d : BitVec 512) (row : Nat) : Int := (dwBits d 1 55 0 : Int) + (row : Int) * (BitVec.ofNat 64 (dw d 4)).toInt
/-- Parts of a row. -/
def copyPer (d : BitVec 512) : Nat := if copyCarries d then copyLen d / 64 else copyLen d / 16 + 2
/-- The part with a number. -/
def copyChunk (d : BitVec 512) (i : Nat) : Chunk :=
  let row := i / copyPer d
  let g := i % copyPer d
  if copyCarries d then { row := row, off := 64 * g, len := 64 } else granuleChunk row (copyLen d) (copyDst d row) g

/-- R181, R109: reads the source of a part; a line that keeps its check value brings it, and its marks, with it. -/
def copyRead (s : State) (c : DCmd) (i : Nat) : Res :=
  let k := copyChunk c.desc i
  let carry := copyCarries c.desc
  let va := vaOf (copySrc c.desc k.row + k.off)
  if k.len = 0 then .next (s.updMyCmd (·.mark i))
  else match s.readPart c i va k.len (k.off = 0) (!carry) with
    | .inl none => waits s
    | .inl (some s) => .next s
    | .inr (s, b) =>
      let b := match b.ps with
        | [p] =>
          if carry && p.rem.isNone && p.pa != noPa then
            { b with cv := some (s.mem.cv (s.placeOf p.pa / 64)), marks := s.lineMarks p.pa } else b
        | _ => b
      .next (s.updMyCmd fun c => { c with buf := c.buf ++ [b] })

/-- R181: writes a part that has been read; its granules are set full unless `nofe` is set. -/
def copyWrite (s : State) (c : DCmd) (b : CBuf) : Res :=
  let d := c.desc
  let k := copyChunk d b.ix
  let row := copyDst d k.row
  let va := vaOf (row + k.off)
  let fe := !bitB d 320
  match s.cmdXlate c va .write with
  | .wait s => .next s
  | .fault s e => .next (s.cmdFault e va k.row)
  | .ok s x _ =>
    if fe && x.rem.isNone && spaceOf x.pa == .spad && ((row % 16 != 0) || copyLen d % 16 != 0) then .next (s.cmdFault .align va k.row)
    else
      let marks := if b.cv.isSome then b.marks else if b.pois then 15 else 0
      match s.putBytes c x b.bytes marks { fill := fe, cv := b.cv } va k.row with
      | .wait s => .next s
      | .fault s e => .next (s.cmdFault e va k.row)
      | .done s => .next (s.updMyCmd (·.mark b.ix))

/-- R181 `copy`: one part is read or written; which, and in which order, the focus may choose. -/
def execCopy (port : BitVec 6) (ctx : BitVec 2) (cls flags : BitVec 8) (imm : BitVec 32) (addr : BitVec 64) (s : State) : Res :=
  cmdRun s (cmdWord 0x02 port ctx cls flags imm addr) fun c =>
    let total := copyRows c.desc * copyPer c.desc
    let i := s.focus.aux
    let ready := c.buf.filter CBuf.ready
    if c.fault.isSome then cmdFinish s c
    else match ready.find? fun b => b.ix == i with
      | some b => copyWrite s c b
      | none =>
        if c.canPick total i then copyRead s c i
        else match ready, c.todo total with
          | b :: _, _ => copyWrite s c b
          | [], some j => copyRead s c j
          | [], none => if c.buf.isEmpty then cmdFinish s c else waits s

/-! ### `fill` (R182) -/

/-- R182: the pattern's bytes from an offset. -/
def patternBytes (p off n : Nat) : List Byte := (List.range n).map fun k => BitVec.ofNat 8 (p / 2 ^ (8 * ((off + k) % 8)))

/-- R182: the part of a fill that lies in a page starts and ends on a granule. -/
def fillAligned (va len a psz : Nat) : Bool :=
  let lo := max va (a / 2 ^ psz * 2 ^ psz)
  let hi := min (va + len) ((a / 2 ^ psz + 1) * 2 ^ psz)
  lo % 16 == 0 && hi % 16 == 0

/-- R182: writes one part of a fill. -/
def fillWrite (s : State) (c : DCmd) (i : Nat) : Res :=
  let d := c.desc
  let va0 := dwBits d 0 55 0
  let len := dwBits d 2 31 0
  let fe := dwBits d 3 1 0
  let k := granuleChunk 0 len va0 i
  let va := va0 + k.off
  if k.len = 0 then .next (s.updMyCmd (·.mark i))
  else match s.cmdXlate c va .write with
    | .wait s => .next s
    | .fault s e => .next (s.cmdFault e va 0)
    | .ok s x psz =>
      if fe != 1 && x.rem.isNone && spaceOf x.pa == .spad && !fillAligned va0 len va psz then .next (s.cmdFault .align va 0)
      else match s.putBytes c x (patternBytes (dw d 1) k.off k.len) 0 { fill := fe = 0, empty := fe = 2 } va 0 with
        | .wait s => .next s
        | .fault s e => .next (s.cmdFault e va 0)
        | .done s => .next (s.updMyCmd (·.mark i))

/-- R182 `fill`: one part is written. -/
def execFill (port : BitVec 6) (ctx : BitVec 2) (cls flags : BitVec 8) (imm : BitVec 32) (addr : BitVec 64) (s : State) : Res :=
  cmdRun s (cmdWord 0x03 port ctx cls flags imm addr) fun c =>
    let total := dwBits c.desc 2 31 0 / 16 + 2
    if c.fault.isSome then cmdFinish s c
    else if c.canPick total s.focus.aux then fillWrite s c s.focus.aux
    else match c.todo total with
      | some i => fillWrite s c i
      | none => cmdFinish s c

/-! ### `inject` and `collect` (R186, R187) -/

/-- R186: an `inject` ends: the tokens it has sent have left the port. -/
def injectEnds (s : State) (c : DCmd) : Res :=
  let x := s.stair s.focus.hall c.port
  if c.port < 16 && x.out.any (fun i => match i with
    | .tok _ p => p == some (2 * c.ticket)
    | _ => false) then waits s
  else .next (s.cmdDone s.focus.hall c.ticket .none c.faultVa)

/-- R186: the token of a record, under the command's context; none where the record stops the command. R60: the poison bit counts on data tokens only.
DESIGN CHOICE (log 54): a record of width code 6 or 7, which R61 says no unit emits and R186 does not refuse, is sent with that width. -/
def recordToken (ctx : Nat) (bs : List Byte) (pois : Bool) : Option Token :=
  let h := leNat (bs.take 8)
  let r := Token.ofHeader (h % 2 ^ 24) (w64 (leNat (bs.drop 8)))
  let t := { r with ctx := BitVec.ofNat 2 ctx, poison := r.poisoned }
  if pois then some { t with kind := .data, poison := true }
  else if 2 ^ 24 ≤ h || !([0, 1, 2, 4] : List Nat).contains (h / 2 ^ 21 % 8) then none
  else some t

/-- R186 `inject`: one record is read, or its token enters the port. -/
def execInject (port : BitVec 6) (ctx : BitVec 2) (cls flags : BitVec 8) (imm : BitVec 32) (addr : BitVec 64) (s : State) : Res :=
  cmdRun s (cmdWord 0x12 port ctx cls flags imm addr) fun c =>
    let va := addr.toNat + 16 * c.prog
    let last : Bool := c.prog + 1 == imm.toNat
    if c.fault.isSome then injectEnds s c
    else if imm.toNat ≤ c.prog then waits s
    else match c.buf with
      | [] => (match s.cmdXlate c va .read with
        | .wait s => .next s
        | .fault s e => .next (s.cmdFault e va c.prog)
        | .ok s x _ =>
          let e := if x.rem.isSome then .none else (s.edgeRead x.pa 16 x.key).cause
          if x.rem.isNone && !s.cmdOpen c x.pa then waits s
          else if e != Cause.none then .next (s.cmdFault e va c.prog)
          else match s.readPart c c.prog va 16 true false with
          | .inl none => waits s
          | .inl (some s) => .next s
          | .inr (s, b) => .next (s.updMyCmd fun c => { c with buf := [b] }))
      | b :: _ =>
        if !b.ready then waits s
        else match recordToken c.ctx b.bytes b.pois with
          | none => .next (s.cmdFault .illegal va c.prog)
          | some t => match s.portSend s.focus.hall c.port (2 * c.ticket + if last then 1 else 0) t with
            | none => waits s
            | some s => .next (s.updMyCmd fun c => { c with prog := c.prog + 1, buf := [] })

/-- R187: the record of a token, in the `inject` format. -/
def tokenRecord (t : Token) : List Byte := leBytes 8 t.header ++ leBytes 8 t.payload.toNat

/-- R187 `collect`: takes the next token that waits at the port and writes its record; a record written to a peer is awaited, since its refusal ends
the command. -/
def execCollect (port : BitVec 6) (ctx : BitVec 2) (cls flags : BitVec 8) (imm : BitVec 32) (addr : BitVec 64) (s : State) : Res :=
  cmdRun s (cmdWord 0x13 port ctx cls flags imm addr) fun c =>
    let h := s.focus.hall
    let va := addr.toNat + 16 * c.prog
    if 0 < c.waitAcks then waits s
    else if c.fault.isSome || c.acted || imm.toNat ≤ c.prog then .next (s.cmdDone h c.ticket .none c.faultVa)
    else match s.portWait h c.port c.ctx with
      | [] => waits s
      | t :: rest =>
        let d := s.disp h
        let took (s : State) : State := s.setDisp h { s.disp h with ports := Tab.put d.ports (4 * c.port + c.ctx) rest }
        match s.cmdXlate c va .write with
        | .wait s => .next s
        | .fault s e => .next ((took s).cmdFault e va c.prog)
        | .ok s x _ => match s.putBytes c x (tokenRecord t) (if t.poisoned then 15 else 0) { fill := true } va c.prog with
          | .wait s => .next s
          | .fault s e => .next ((took s).cmdFault e va c.prog)
          | .done s => .next ((took s).updMyCmd fun c => { c with prog := c.prog + 1, acted := t.kind == .done })

/-! ### `tload` (R190, R265) -/

/-- R190: the line that has been read goes to the gallery's operand-load port. -/
def tloadSend (s : State) (c : DCmd) (b : CBuf) : Res :=
  let h := s.focus.hall
  let g := s.gal h
  let marks := if b.pois then (if b.cv.isSome then b.marks else 15) else 0
  let l : OpLine := { ticket := c.ticket, ctx := c.ctx, slot := (cmdW c.word).imm % 32, line := b.ix, bytes := b.bytes,
                      marks := BitVec.ofNat 4 marks }
  .next ((s.setGal h { g with port := g.port ++ [l] }).updMyCmd (·.mark b.ix))

/-- R190 `tload`: a line is read and checked, or goes to the load port; the command is complete when the port has taken every
line. -/
def execTload (port : BitVec 6) (ctx : BitVec 2) (cls flags : BitVec 8) (imm : BitVec 32) (addr : BitVec 64) (s : State) : Res :=
  cmdRun s (cmdWord 0x16 port ctx cls flags imm addr) fun c =>
    let i := s.focus.aux
    let ready := c.buf.filter CBuf.ready
    let read (i : Nat) : Res :=
      let s0 := s
      match s.readPart c i (addr.toNat + 64 * i) 64 (i = 0) true with
      | .inl none => waits s
      | .inl (some s) => .next s
      | .inr (s, b) =>
        let b := match b.ps with
          | [p] => if p.rem.isNone && p.pa != noPa && !s0.checkBad p.pa p.key then { b with cv := some 0, marks := s.lineMarks p.pa } else b
          | _ => b
        .next (s.updMyCmd fun c => { c with buf := c.buf ++ [b] })
    match ready.find? fun b => b.ix == i with
    | some b => tloadSend s c b
    | none =>
      if c.canPick 1024 i then read i
      else match ready, c.todo 1024 with
        | b :: _, _ => tloadSend s c b
        | [], some j => read j
        | [], none =>
          let g := s.gal s.focus.hall
          if c.buf.isEmpty && !(g.port.any fun l => l.ticket == c.ticket) then
            .next ((s.setGal s.focus.hall { g with refusedLoads := setDel g.refusedLoads c.ticket, seenLoads := setDel g.seenLoads c.ticket, lostLoads := setDel g.lostLoads c.ticket }).cmdDone
              s.focus.hall c.ticket .none c.faultVa)
          else waits s

/-! ### `ramo` (R293–R296) -/

def ramoOp (d : BitVec 512) : Nat := dwBits d 4 63 60
def ramoEsz (d : BitVec 512) : Nat := dwBits d 4 59 58
/-- R294: bytes of an element, and of an operand. -/
def ramoBytes (d : BitVec 512) : Nat := if ramoEsz d = 0 then 16 else if ramoEsz d = 2 then 4 else 8
def ramoOpBytes (d : BitVec 512) : Nat := if ramoEsz d = 3 then 8 else 4
def ramoN (d : BitVec 512) : Nat := dwBits d 4 12 0

/-- R294, R295: an element that is not applied: its result is poison, and the first permanent cause is kept. -/
def ramoPoison (s : State) (c : DCmd) (i : Nat) (e : Cause) (va : Nat) : State :=
  let v := s.free
  let p : Piece := { pa := 0, key := 0, len := ramoBytes c.desc, got := some (leBytes (ramoBytes c.desc) v.toNat, true) }
  (s.drawn.updMyCmd fun k => if k.fault.isSome then k else { k with fault := some e, faultVa := w64 va, faultIx := i }).updMyCmd
    fun k =>
      let k := k.mark i
      if dw c.desc 3 = 0 then k else { k with buf := k.buf ++ [{ ix := i, ps := [p] }] }

/-- R195, R135: an access of a command waits for its bank, or for room for another packet to its peer. -/
def State.cmdHeld (s : State) (c : DCmd) (x : Xlat) : Bool := match x.rem with
  | none => !s.cmdOpen c x.pa
  | some p => !s.quadRoom s.focus.hall c.port p (cmdW c.word).cls

/-- R294, R295: an element is applied at its owner; its old value waits to be written where results are asked for. A remote one
waits for its `wack`. -/
def ramoApply (s : State) (c : DCmd) (i : Nat) (x : Xlat) (va v : Nat) (pois : Bool) : Res :=
  let d := c.desc
  let h := s.focus.hall
  let n := ramoBytes d
  let cls := (cmdW c.word).cls
  let op := ramoOp d
  let anchor : BitVec 12 := BitVec.ofNat 12 (dwBits d 4 57 46)
  let keep (k : DCmd) (p : Piece) : DCmd := { k with buf := k.buf ++ [{ ix := i, ps := [p], va := va }] }
  if s.cmdHeld c x then waits s
  else if pois && op ≠ 9 && op ≠ 10 then .next (ramoPoison s c i .poisonuse va)
  else match x.rem with
    | none =>
      let u := s.edgeUpdate x.pa n x.key op v 0 anchor pois
      let s := u.s.logAll (s.cmdSite c) u.logs
      if u.cause != .none then .next (ramoPoison s c i u.cause va)
      else
        let got := if u.poison then leBytes n s.free.toNat else leBytes n u.old
        .next (s.drawn.updMyCmd fun k =>
          if dw d 3 = 0 then k.mark i
          else keep (k.mark i) { pa := x.pa, key := x.key, len := n, got := some (got, u.poison) })
    | some p =>
        let tag := s.arc.nextTag
        .next ((s.sendCmd h c.port cls (areqPacket p x.pa (s.akeyOf h c.ictx) op (ramoEsz d) anchor v (i % 65536))
          (.cmd h c.ticket)).updMyCmd fun k =>
            keep (DCmd.mark { k with waitAcks := k.waitAcks + 1 } i) { pa := x.pa, key := x.key, rem := some p, len := n, tag := some tag })

/-- What translating an element of a `ramo` or a cell of a `rred` answers. -/
inductive RamoX where
  | ok (s : State) (x : Xlat)
  | wait (s : State)
  | fault (s : State) (c : Cause)
  | nopage (s : State)

/-- R103, R166: the fault that the last answer to a window request names; none for a window. -/
def winFault (w : W64) : Option Cause :=
  if bitsN w 11 7 != 0 then none
  else match bitsN w 63 61 with
    | 0 => some .poisonuse
    | 1 => some .nopage
    | 2 => some .prot
    | 4 => some .key
    | _ => some .range

/-- R293, R297, R166: an element is placed by a window of the stair where the stair's slot makes window requests, and by the hall's translation
otherwise. A window that no longer serves it is asked for again. -/
def State.stairXlate (s : State) (c : DCmd) (va : Nat) (k : AccKind) : RamoX :=
  let h := s.focus.hall
  let n := c.port % 16
  let ws := s.stWords h n c.ctx
  let x := s.stair h n
  let told (s : State) : State := s.updMyCmd fun c => { c with asked := none }
  if 2 ^ 56 ≤ va then .fault s .range
  else if (cfgWord ws 0x1B).isNone then
    match s.walk (s.rootOf h c.ictx) (w64 va) k with
    | (s, .fault .nopage, l) => .nopage (s.logAll (s.cmdSite c) l)
    | (s, .fault e, l) => .fault (s.logAll (s.cmdSite c) l) e
    | (s, .leaf pte psz, l) => .ok (s.logAll (s.cmdSite c) l) (leafXlat pte psz (w64 va))
  else match x.wins.find? fun w => w.serves va k with
    | some w => .ok (told s) (w.place va)
    | none =>
      if !x.asks.isEmpty then .wait s
      else match (if c.asked = some va then winFault x.lastWin else none) with
        | some .nopage => .nopage (told s)
        | some e => .fault (told s) e
        | none => match s.stairSend h n (stRq ws k) { kind := .data, width := 4, ctx := BitVec.ofNat 2 c.ctx, payload := w64 va } with
          | none => .wait s
          | some s => .wait ((s.updStair h n fun x => { x with asks := x.asks ++ [(va, false, [])] }).updMyCmd fun c => { c with asked := some va })

/-- R143: the peer that a translation names refuses an access of a hall. -/
def State.xlatFault (s : State) (x : Xlat) : Cause := match x.rem with
  | none => .none
  | some p => s.peerFault s.focus.hall p false

/-- R113, R115, R295, R297: part `e.ser` of a command, whose page is not present, joins the stair's spill queue and asks for its page; a full queue
stops the stair with `spillfull`. -/
def stairQueue (s : State) (c : DCmd) (e : Elem) : Res :=
  let h := s.focus.hall
  let n := c.port % 16
  let x := s.stair h n
  let page := e.va / 65536
  let ws := s.stWords h n c.ctx
  if 16 ≤ x.spill.length then
    let r : StairRun := { ticket := c.ticket, ctx := c.ctx, cls := (cmdW c.word).cls, idx := w32 e.ser, ramo := true }
    .next ((s.setStair h n { x with run := some r }).stairStop h n .spillfull e)
  else
    let queued (s : State) (seq : Nat) (ok : Option Bool) : Res :=
      .next ((s.updStair h n fun x => { x with spill := spillInsert { e := e, page := page, seq := seq, ok := ok } x.spill }).updMyCmd
        fun k => k.mark e.ser)
    match x.reqs.find? (fun q => q.2 == page) with
    | some q => queued s q.1 none
    | none =>
      if (cfgWord ws 0x1B).isSome then
        let (s, seq, no) := s.askPage h n c.ctx e.va e.kind
        queued s seq (if no then some false else none)
      else match s.cmdNoPage { c with refused := [] } e.va e.kind with
        | .wait s => queued (s.updMyCmd fun k => { k with waitPage := none }) x.freshSeq none
        | _ => queued s x.freshSeq (some false)

/-- R172: a command that a full spill queue has stopped goes on: the stopped part is issued again or skipped, or the command is abandoned; `total` is
the number of its parts. -/
def stairGoesOn (s : State) (c : DCmd) (x : Stair) (r : StairRun) (total : Nat) : Res :=
  let s := s.setStair s.focus.hall (c.port % 16) { x with run := none, want := none }
  if r.ended then .next (s.updMyCmd fun k => { k with
    prog := total, ahead := [], buf := [], fault := if k.fault.isSome then k.fault else some r.fault })
  else if x.want.isSome then .next s
  else .next (s.updMyCmd fun k => k.mark r.idx.toNat)

/-- R113, R295: an element of a `ramo` as it waits in the spill queue. -/
def ramoSpill (s : State) (c : DCmd) (i va v : Nat) (pois : Bool) : Res :=
  stairQueue s c { ser := i, ctx := c.ctx, va := va, n := ramoBytes c.desc, idx := w32 i, coord := 0, kind := .atomic, data := [w64 v], dpois := pois }

/-- R294: the index and operand of an element, read from their arrays. -/
def ramoOperand (s : State) (c : DCmd) (i : Nat) : Option State ⊕ (State × CBuf × CBuf) :=
  let d := c.desc
  match s.readPart c i (dw d 1 + 4 * i) 4 true false with
  | .inl r => .inl r
  | .inr (s, ix) => match s.readPart c i (dw d 2 + ramoOpBytes d * i) (ramoOpBytes d) true false with
    | .inl r => .inl r
    | .inr (s, o) => .inr (s, ix, o)

/-- R294, R295: one element of a `ramo`, its index and operand known. -/
def ramoElement (s : State) (c : DCmd) (i : Nat) (ix : W32) (ixp : Bool) (v : Nat) (pois : Bool) : Res :=
  let va := dw c.desc 0 + ix.toNat * ramoBytes c.desc
  if ixp then .next (ramoPoison s c i .poisonuse (dw c.desc 1 + 4 * i))
  else if ix = sentinel then .next (ramoPoison s c i .range va)
  else if (s.stair s.focus.hall (c.port % 16)).spill.any (fun q => q.page == va / 65536) then ramoSpill s c i va v pois
  else match s.stairXlate c va .atomic with
    | .wait s => .next s
    | .nopage s => ramoSpill s c i va v pois
    | .fault s e => .next (ramoPoison s c i e va)
    | .ok s x => match s.xlatFault x with
      | .none => ramoApply s c i x va v pois
      | e => .next (ramoPoison s c i e va)

/-- R294: the element the step takes: the one that the focus names, where no earlier element that is not done has its index. -/
def ramoPick (s : State) (c : DCmd) : Option Nat :=
  let d := c.desc
  let i := s.focus.aux
  let peek (j : Nat) : List Byte := (s.vaRead (s.rootOf s.focus.hall c.ictx) (w64 (dw d 1 + 4 * j)) 4).2.1
  if c.canPick (ramoN d) i && (List.range i).all (fun j => c.isDone j || peek j != peek i) then some i else c.todo (ramoN d)

/-- R294, R295: the old value of an element is written to its place in the results. -/
def ramoResult (s : State) (c : DCmd) (b : CBuf) : Res :=
  let d := c.desc
  let va := dw d 3 + ramoBytes d * b.ix
  let gone (s : State) : State := s.updMyCmd fun k => { k with buf := k.buf.filter fun q => q.ix != b.ix }
  let bad (s : State) (e : Cause) : Res := .next ((gone s).updMyCmd fun k =>
    if k.fault.isSome then k else { k with fault := some e, faultVa := w64 va, faultIx := b.ix })
  if dw d 3 = 0 then .next (gone s)
  else match s.cmdXlate c va .write with
    | .wait s => .next s
    | .fault s e => bad s e
    | .ok s x _ => match s.putBytes c x b.bytes (if b.pois then 15 else 0) {} va b.ix with
      | .wait s => .next s
      | .fault s e => bad s e
      | .done s => .next (gone s)

/-- R118, R295: a spilled element whose page has been answered is translated again, or is permanently refused. -/
def ramoReplay (s : State) (c : DCmd) (q : Spill) : Res :=
  let h := s.focus.hall
  let n := c.port % 16
  let drop (s : State) : State := s.updStair h n fun x => { x with spill := x.spill.erase q }
  let i := q.e.ser
  let v := (q.e.data.headD 0).toNat
  if q.ok = some true then
    match s.stairXlate c q.e.va .atomic with
    | .wait s => .next s
    | .nopage s => ramoSpill (drop s) c i q.e.va v q.e.dpois
    | .fault s e => .next (ramoPoison (drop s) c i e q.e.va)
    | .ok s x =>
      if s.cmdHeld c x then waits s
      else match s.xlatFault x with
        | .none => ramoApply (drop s) c i x q.e.va v q.e.dpois
        | e => .next (ramoPoison (drop s) c i e q.e.va)
  else .next (ramoPoison (drop s) c i .nopage q.e.va)

/-- R293–R295 `ramo`: a result is written, a spilled element replayed, or the next element taken. -/
def execRamo (port : BitVec 6) (ctx : BitVec 2) (cls flags : BitVec 8) (imm : BitVec 32) (addr : BitVec 64) (s : State) : Res :=
  cmdRun s (cmdWord 0x09 port ctx cls flags imm addr) fun c =>
    let x := s.stair s.focus.hall (c.port % 16)
    let arrays := fun (b : CBuf) => b.ps.length == 2
    if x.stop.isSome then waits s
    else match x.run with
    | some r => stairGoesOn s c x r (ramoN c.desc)
    | none => match c.buf.find? fun b => !arrays b && b.ready with
      | some b => ramoResult s c b
      | none => match x.spill.find? fun q => q.ok.isSome with
        | some q => ramoReplay s c q
        | none => match c.buf.find? fun b => arrays b && b.ready with
          | some b =>
            let ix := (b.ps.getD 0 { pa := 0, key := 0, len := 0 }).got.getD ([], false)
            let o := (b.ps.getD 1 { pa := 0, key := 0, len := 0 }).got.getD ([], false)
            ramoElement s { c with buf := c.buf.filter fun k => k.ix != b.ix } b.ix (w32 (leNat ix.1)) ix.2 (leNat o.1) o.2
          | none => match (if c.buf.any arrays then none else ramoPick s c) with
            | some i => (match ramoOperand s c i with
              | .inl none => waits s
              | .inl (some s) => .next s
              | .inr (s, ix, o) => .next (s.updMyCmd fun c => { c with buf := c.buf ++ [{ ix := i, ps := ix.ps.take 1 ++ o.ps.take 1 }] }))
            | none => if c.buf.isEmpty && x.spill.isEmpty then cmdFinish s c else waits s

/-! ### `rred` (R297–R303) -/

/-- R301, R302: what a collective record refuses: the cause, and otherwise the slot's 16 bytes as a number. -/
def recordCheck (spad : Bool) (bs : List Byte) (round : Nat) : Except Cause Nat :=
  let slot (k : Nat) : Nat := leNat ((bs.drop (16 * k)).take 16)
  let badSlot (v : Nat) : Bool := v / 2 ^ 57 != 0 || v / 2 ^ 9 % 2 ^ 35 != 0 || v / 2 ^ 48 % 512 == 0
  let v := slot (round % 4)
  if !spad || bs.length != 64 || (List.range 4).any (fun k => badSlot (slot k)) then .error .range
  else if v / 2 ^ 44 % 16 != round || v / 2 ^ 48 % 512 ≤ v % 512 then .error .range
  else .ok v

/-- R301: reads the record at a translated address. -/
def State.readRecord (s : State) (x : Xlat) (round : Nat) : Except Cause Nat :=
  recordCheck (x.rem.isNone && spaceOf x.pa == .spad) (s.edgeRead x.pa 64 x.key).bytes round

/-- R302: counts a member's end: `arr` rises by one, and the granule is set full when it reaches `nmem`. -/
def State.countMember (s : State) (x : Xlat) (round v : Nat) : State :=
  let arr := v % 512 + 1
  let a := x.pa + 16 * (round % 4)
  (s.edgeWrite a (leBytes 16 (v / 512 * 512 + arr)) x.key { fill := v / 2 ^ 48 % 512 ≤ arr }).s

def rredN (d : BitVec 512) : Nat := dwBits d 3 31 0
def rredOp (d : BitVec 512) : Nat := if dwBits d 3 63 60 = 0 then 9 else 10
def rredAnchor (d : BitVec 512) : BitVec 12 := BitVec.ofNat 12 (dwBits d 3 59 48)
def rredRound (d : BitVec 512) : Nat := dwBits d 3 47 44
def rredEnd (d : BitVec 512) : Bool := (dw d 3).testBit 43

/-- R298: the `cred` packet of a command: values with their poison. -/
def credPacket (peer addr : Nat) (akey : W32) (d : BitVec 512) (rend : Bool) (crec : Nat) (vals : List (Nat × Bool)) : Packet :=
  let b0 := bodyPut (bodyPut 0 0 4 akey.toNat) 4 1 (dwBits d 3 63 60 + if rend then 16 else 0)
  let b1 := bodyPut (bodyPut (bodyPut b0 5 1 (rredRound d)) 6 2 (dwBits d 3 59 48)) 8 8 crec
  let n := vals.length
  let line (k : Nat) : Nat × BitVec 4 × W32 × List Byte :=
    let vs := (vals.drop (16 * k)).take 16
    let bs := ((vs.map fun (v : Nat × Bool) => leBytes 4 v.1).flatten ++ List.replicate 64 0).take 64
    let mk := ((List.range 4).filter fun g => ((vs.drop (4 * g)).take 4).any fun (v : Nat × Bool) => v.2).foldl (fun a g => a + 2 ^ g) 0
    (k, BitVec.ofNat 4 mk, crc32c bs, bs)
  { ptype := 0x04, dst := peer, addr := addr, nl := (n + 15) / 16 - 1, body := bodyPut b1 16 4 n,
    lines := (List.range ((n + 15) / 16)).map line }

/-- R298: the values that the packet beginning at value `c.prog` carries: up to 256, and none past the cells' page. -/
def rredRun (c : DCmd) : Nat :=
  min (min 256 ((65536 - (dw c.desc 1 + 16 * c.prog) % 65536) / 16)) (rredN c.desc - c.prog)

/-- R297, R113: value j of a `rred` as it waits in the spill queue. -/
def rredElem (c : DCmd) (j v : Nat) (pois : Bool) (k : AccKind := .atomic) : Elem :=
  { ser := j, ctx := c.ctx, va := dw c.desc 1 + 16 * j, n := 16, idx := w32 j, coord := 0, kind := k, data := [w64 v], dpois := pois }

/-- R298: a permanent fault stops the command. -/
def rredFault (s : State) (e : Cause) (va j : Nat) : Res := .next (s.cmdFault e va j)

/-- R298: a command that a permanent fault has stopped drops what still waits in the spill queue, and ends. -/
def rredStops (s : State) (c : DCmd) : Res :=
  if (s.stair s.focus.hall (c.port % 16)).spill.isEmpty then cmdFinish s c
  else .next (s.updStair s.focus.hall (c.port % 16) fun x => { x with spill := [] })

/-- R298, R112: reads value j of a `rred`. What cannot be read for good stops the command; a poisoned value enters as a poisoned contribution. -/
def rredValue (s : State) (c : DCmd) (j : Nat) : Res ⊕ (State × CBuf) :=
  let va := dw c.desc 0 + 4 * j
  match s.cmdXlate c va .read with
  | .wait s => .inl (.next s)
  | .fault s e => .inl (rredFault s e va j)
  | .ok s x _ =>
    if x.rem.isNone && !s.cmdOpen c x.pa then .inl (waits s)
    else
      let e := if x.rem.isSome then Cause.none else (s.edgeRead x.pa 4 x.key).cause
      if e != .none then .inl (rredFault s e va j)
      else match s.readPart c j va 4 (j = 0) false with
        | .inl none => .inl (waits s)
        | .inl (some s) => .inl (.next s)
        | .inr a => .inr a

/-- R298: a packet of values goes to the cells' owner, with `rend` where it is the command's last. -/
def rredSend (s : State) (c : DCmd) (p addr : Nat) (rend : Bool) (vals : List (Nat × Bool)) (f : DCmd → DCmd) : Res :=
  let d := c.desc
  let h := s.focus.hall
  let va := dw d 1 + 16 * c.prog
  let go (s : State) (crec : Nat) : Res :=
    let tag := s.arc.nextTag
    .next ((s.sendCmd h c.port (cmdW c.word).cls (credPacket p addr (s.akeyOf h c.ictx) d rend crec vals) (.cmd h c.ticket)).updMyCmd
      fun c => f { c with waitAcks := c.waitAcks + 1, sentW := Tab.put c.sentW tag (va, c.prog) })
  if dw d 2 = 0 then go s 0
  else match s.cmdXlate c (dw d 2) .atomic with
    | .wait s => .next s
    | .fault s e => rredFault s e (dw d 2) c.prog
    | .ok s y _ => go s y.pa

/-- R298: the values of a packet are read one after another; the packet leaves when all are there. The last, with `rend`, leaves when everything before
it is applied. -/
def rredRemote (s : State) (c : DCmd) (x : Xlat) (p : Nat) : Res :=
  let d := c.desc
  let n := rredN d
  let cnt := rredRun c
  let last := c.prog + cnt = n
  match c.buf.find? fun b => !b.ready with
  | some _ => waits s
  | none =>
    if c.buf.length < cnt then
      let j := c.prog + c.buf.length
      match rredValue s c j with
      | .inl r => r
      | .inr (s, b) => .next (s.updMyCmd fun c => { c with buf := c.buf ++ [b] })
    else if last && rredEnd d && (0 < c.waitAcks || !(s.stair s.focus.hall (c.port % 16)).spill.isEmpty) then waits s
    else if s.cmdHeld c x then waits s
    else rredSend s c p x.pa (last && rredEnd d) (c.buf.map fun b => (leNat b.bytes, b.pois))
      fun c => { c with prog := c.prog + cnt, buf := [], acted := last && rredEnd d }

/-- R298, R284: a value enters its cell at the local edge. -/
def rredEnter (s : State) (c : DCmd) (x : Xlat) (j v : Nat) (pois : Bool) (f : State → State) : Res :=
  let d := c.desc
  if s.cmdHeld c x then waits s
  else
    let u := s.edgeUpdate x.pa 16 x.key (rredOp d) v 0 (rredAnchor d) pois
    let s := u.s.logAll (s.cmdSite c) u.logs
    if u.cause != .none then rredFault s u.cause (dw d 1 + 16 * j) j
    else .next (f s)

/-- R298, R302: one value of a local `rred`: the record is checked where a packet would begin, then the value enters its cell. -/
def rredLocal (s : State) (c : DCmd) (x : Xlat) : Res :=
  let d := c.desc
  let j := c.prog
  let enter (s : State) : Res :=
    match rredValue s c j with
    | .inl r => r
    | .inr (s, b) => .next (s.updMyCmd fun c => { c with buf := [b] })
  match c.buf with
  | b :: _ =>
    if !b.ready then waits s
    else rredEnter s c x j (leNat b.bytes) b.pois fun s => s.updMyCmd fun c => { c with prog := j + 1, buf := [] }
  | [] =>
    if dw d 2 = 0 || j % 256 != 0 then enter s
    else match s.cmdXlate c (dw d 2) .atomic with
      | .wait s => .next s
      | .fault s e => rredFault s e (dw d 2) j
      | .ok s y _ =>
        if s.cmdHeld c y then waits s
        else match s.readRecord y (rredRound d) with
          | .error e => rredFault s e (dw d 2) j
          | .ok _ => enter s

/-- R298, R302: a local `rred` has entered its values: its member's end is counted. -/
def rredCount (s : State) (c : DCmd) : Res :=
  let d := c.desc
  let ovr (s : State) : Res := .next (s.updMyCmd fun c => { c with acted := true })
  if !rredEnd d || dw d 2 = 0 then ovr s
  else match s.cmdXlate c (dw d 2) .atomic with
    | .wait s => .next s
    | .fault s e => .next (s.cmdFault e (dw d 2) c.prog)
    | .ok s y _ =>
      if s.cmdHeld c y then waits s
      else match s.readRecord y (rredRound d) with
        | .error e => .next (s.cmdFault e (dw d 2) c.prog)
        | .ok v => ovr (s.countMember y (rredRound d) v)

/-- R298: a `rred` without values sends its end of round to the cells' owner, or counts it here. -/
def rredNone (s : State) (c : DCmd) : Res :=
  match s.stairXlate c (dw c.desc 1) .atomic with
  | .wait s => .next s
  | .fault s e => rredFault s e (dw c.desc 1) 0
  | .nopage s => (match s.cmdNoPage c (dw c.desc 1) .atomic with
    | .wait s => .next s
    | .fault s e => rredFault s e (dw c.desc 1) 0
    | .ok s _ _ => .next s)
  | .ok s x => match s.xlatFault x, x.rem with
    | .none, some p => if s.cmdHeld c x then waits s else rredSend s c p x.pa (rredEnd c.desc) [] fun c => { c with acted := true }
    | .none, none => rredCount s c
    | e, _ => rredFault s e (dw c.desc 1) 0

/-- R297, R113: the values of the packet at hand, or the one value that is to enter a local cell, join the spill queue one by one. -/
def rredSpill (s : State) (c : DCmd) : Res :=
  let j := c.prog
  match c.buf with
  | b :: _ => if !b.ready then waits s else (match stairQueue s { c with buf := [] } (rredElem c j (leNat b.bytes) b.pois) with
    | .next s => .next (s.updMyCmd fun k => { k with buf := [] })
    | r => r)
  | [] => match rredValue s c j with
    | .inl r => r
    | .inr (s, b) => .next (s.updMyCmd fun c => { c with buf := [b] })

/-- R297, R298: the next value, or packet of values, of a contributing `rred`. -/
def rredNext (s : State) (c : DCmd) : Res :=
  let va := dw c.desc 1 + 16 * c.prog
  if (s.stair s.focus.hall (c.port % 16)).spill.any fun q => q.page == va / 65536 then rredSpill s c
  else match s.stairXlate c va .atomic with
    | .wait s => .next s
    | .nopage s => rredSpill s c
    | .fault s e => rredFault s e va c.prog
    | .ok s x => match s.xlatFault x, x.rem with
      | .none, some p => rredRemote s c x p
      | .none, none => rredLocal s c x
      | e, _ => rredFault s e va c.prog

/-- R118, R298: a spilled value whose page has been answered is translated again and enters its cell, or is permanently refused. The last of a command
carries `rend` to a peer. -/
def rredReplay (s : State) (c : DCmd) (q : Spill) : Res :=
  let drop (s : State) : State := s.updStair s.focus.hall (c.port % 16) fun x => { x with spill := x.spill.erase q }
  let v := (q.e.data.headD 0).toNat
  if q.ok = some true then
    match s.stairXlate c q.e.va .atomic with
    | .wait s => .next s
    | .nopage s => stairQueue (drop s) c { q.e with replay := true }
    | .fault s e => rredFault s e q.e.va q.e.ser
    | .ok s x => match s.xlatFault x, x.rem with
      | .none, some p =>
        let rest := ((drop s).stair s.focus.hall (c.port % 16)).spill
        let last := rredEnd c.desc && rredN c.desc ≤ c.prog && rest.isEmpty
        if s.cmdHeld c x || (last && 0 < c.waitAcks) then waits s
        else rredSend (drop s) c p x.pa last [(v, q.e.dpois)] fun c => { c with acted := last }
      | .none, none => rredEnter s c x q.e.ser v q.e.dpois drop
      | e, _ => rredFault s e q.e.va q.e.ser
  else rredFault s .nopage q.e.va q.e.ser

/-- R297, R298 `rred`, contributing form: one value enters its cell, or one packet of values goes to the cells' owner. -/
def execRred (port : BitVec 6) (ctx : BitVec 2) (cls flags : BitVec 8) (imm : BitVec 32) (addr : BitVec 64) (s : State) : Res :=
  cmdRun s (cmdWord 0x0A port ctx cls flags imm addr) fun c =>
    let x := s.stair s.focus.hall (c.port % 16)
    if (dw c.desc 3).testBit 42 || x.stop.isSome then waits s
    else match x.run with
    | some r => stairGoesOn s c x r (rredN c.desc)
    | none =>
      if c.fault.isSome then rredStops s c
      else if c.acted then cmdFinish s c
      else match x.spill.find? fun q => q.ok.isSome with
        | some q => rredReplay s c q
        | none =>
          if c.prog < rredN c.desc then rredNext s c
          else if !x.spill.isEmpty then waits s
          else if rredN c.desc = 0 then rredNone s c
          else rredCount s c

/-- R44, R53: the read-out format of a `rred`. -/
def rredFmt (d : BitVec 512) : RdFmt := if dwBits d 3 63 60 = 0 then .flt fp32 else .int true

/-- R299: cell j is read out, cleared when `clr` is set, and its result written as a filling write; `f` records that it is done. -/
def rredOut (s : State) (c : DCmd) (x : Xlat) (j : Nat) (f : State → State) : Res :=
  let d := c.desc
  let clr := (dw d 3).testBit 41
  let cva := dw d 1 + 16 * j
  let va := dw d 0 + 4 * j
  match s.cmdXlate c va .write with
  | .wait s => .next s
  | .fault s e => rredFault s e va j
  | .ok s y _ =>
    if x.rem.isSome then rredFault s .range cva j
    else if s.cmdHeld c x || s.cmdHeld c y then waits s
    else if y.rem.isNone && s.edgeRefuses y.pa 4 y.key != .none then rredFault s (s.edgeRefuses y.pa 4 y.key) va j
    else
      let r := s.edgeRead x.pa 16 x.key
      let s := r.s.logAll (s.cmdSite c) r.logs
      if r.cause != .none then rredFault s r.cause cva j
      else
        let out := readCell (cellOf r.bytes (r.poison || !r.logs.isEmpty)) (rredAnchor d) (rredFmt d) (dwBits d 3 40 38)
        let s := if clr then (s.edgeWrite x.pa (zeros 16) x.key).s else s
        let v : Nat := match out with
          | some (q, _) => q
          | none => s.free.toNat
        match s.drawn.putBytes c y (leBytes 4 v) (if out.isNone then 15 else 0) { fill := true } va j with
        | .wait s => .next s
        | .fault s e => rredFault s e va j
        | .done s => .next (f s)

/-- R299, R297: the cell of a read-out is placed by a window of the stair; one whose page is not present waits in the spill queue, which it has left
by `g` where it was there before. -/
def rredCell (s : State) (c : DCmd) (j : Nat) (f g : State → State) : Res :=
  let k : AccKind := if (dw c.desc 3).testBit 41 then .atomic else .read
  let va := dw c.desc 1 + 16 * j
  match s.stairXlate c va k with
  | .wait s => .next s
  | .nopage s => stairQueue (g s) c (rredElem c j 0 false k)
  | .fault s e => rredFault s e va j
  | .ok s x => rredOut s c x j f

/-- R299 `rred`, read-out form: one cell is read out. -/
def execRredReadout (port : BitVec 6) (ctx : BitVec 2) (cls flags : BitVec 8) (imm : BitVec 32) (addr : BitVec 64) (s : State) : Res :=
  cmdRun s (cmdWord 0x0A port ctx cls flags imm addr) fun c =>
    let n := c.port % 16
    let x := s.stair s.focus.hall n
    let j := c.prog
    if !(dw c.desc 3).testBit 42 || x.stop.isSome then waits s
    else match x.run with
    | some r => stairGoesOn s c x r (rredN c.desc)
    | none =>
      if c.fault.isSome then rredStops s c
      else match x.spill.find? fun q => q.ok.isSome with
        | some q =>
          let drop (s : State) : State := s.updStair s.focus.hall n fun x => { x with spill := x.spill.erase q }
          if q.ok = some true then rredCell s c q.e.ser drop drop else rredFault s .nopage q.e.va q.e.ser
        | none =>
          if rredN c.desc ≤ j then (if x.spill.isEmpty then cmdFinish s c else waits s)
          else
            let va := dw c.desc 1 + 16 * j
            let k : AccKind := if (dw c.desc 3).testBit 41 then .atomic else .read
            if x.spill.any fun q => q.page == va / 65536 then stairQueue s c (rredElem c j 0 false k)
            else rredCell s c j (fun s => s.updMyCmd fun c => c.mark j) id

end Sys2Proof.Machine
end

