-- ==== Sys2Proof/Machine/MBays.lean ====
section
/-! DEFINITION. The memory bays: serving requests (R197, R198), applying `mbank` words (R195, R196), port streams (R200), the tag table (R201–R203) and sparse updates (R284–R292). -/

namespace Sys2Proof.Machine

/-! ### One access at a bank (R198, R286) -/

/-- Where the faults of a bank's request are found: the element that asked. -/
def srcSite (hall quad : Nat) (r : BankReq) : Site :=
  if r.src.2 < 64 then { hall := r.src.1, elem := r.src.2, eclass := 0, ctx := r.ctx }
  else match r.reply with
    | .thread h c _ => { hall := h, elem := 0, eclass := 3, ctx := c }
    | _ => { hall := hall, elem := mbayOf quad, eclass := 0, ctx := r.ctx }

/-- Marks granules poisoned. -/
def State.markPois (s : State) (gs : List Nat) : State := { s with mem := { s.mem with pois := gs.foldl setIns s.mem.pois } }
/-- R198: sets granules empty. -/
def State.setEmpty (s : State) (gs : List Nat) : State :=
  ((gs.map (· / 4)).eraseDups).foldl State.notifyWrite { s with mem := { s.mem with empties := gs.foldl setIns s.mem.empties } }

/-! ### The window of a sparse-update unit (R290) -/

/-- R290: what one contribution adds to an entry: its integer and its flags, poison, invalid, over, sticky from bit 3 down. -/
def contrAlone (anchor : BitVec 12) (op v : Nat) (pois : Bool) : Int × BitVec 4 :=
  if pois then (0, 8)
  else match contrWord op v with
    | .nan => (0, 4)
    | c =>
      let r := contrInt anchor.toInt c
      (r.1, (if r.2.1 then 2 else 0) ||| (if r.2.2 then 1 else 0))

/-- R290: a merged entry enters a cell: the `anchored` and `acheck` test, the sum, the flags, then the over test and wrap once. -/
def enterMerged (cell : BitVec 128) (e : WinEnt) : BitVec 128 :=
  let c := anchorCell (unpackCell cell) e.anch
  packCell (addCell { c with
    poison := c.poison || bitB e.flags 3, invalid := c.invalid || bitB e.flags 2, ovr := c.ovr || bitB e.flags 1,
    sticky := c.sticky || bitB e.flags 0 } e.sum)

/-- R290: applies an entry of a window at its bank. -/
def State.applyEntry (s : State) (h q : Nat) (e : WinEnt) : State :=
  let place := bankBase h q + e.boff
  let site : Site := { hall := h, elem := mbayOf q, eclass := 0, ctx := e.ctx }
  if e.op = 9 || e.op = 10 then
    let r := s.bankRead place 16
    if !r.logs.isEmpty then r.s.logAll site r.logs
    else
      let w := r.s.bankWrite place (leBytes 16 (enterMerged (cellOf r.bytes r.poison) e).toNat)
      w.s.logAll site w.logs
  else
    let u := rmw (s.bankRead place 4) (fun s bs => s.bankWrite place bs) 4 e.op 0 e.w.toNat 0 false place
    u.s.logAll site u.logs

def State.updBank (s : State) (h q : Nat) (f : Bank → Bank) : State := s.setBank h q (f (s.bank h q))

/-- R290: an update joins the window, merged with the entry of its element if there is one. An entry of the element under another
operation or anchor is applied first; a full window applies its oldest. -/
def State.winMerge (s : State) (h q : Nat) (e : WinEnt) : State :=
  let b := s.bank h q
  match b.win.find? fun w => w.boff == e.boff with
  | some w =>
    if w.op = e.op && w.anch = e.anch then
      let m : WinEnt := if e.op = 9 || e.op = 10 then { w with sum := w.sum + e.sum, flags := w.flags ||| e.flags }
        else { w with w := w32 (updVal e.op 4 w.w.toNat e.w.toNat) }
      s.setBank h q { b with win := b.win.map fun x => if x.boff = e.boff then m else x }
    else ((s.setBank h q { b with win := b.win.erase w }).applyEntry h q w).updBank h q fun b => { b with win := b.win ++ [e] }
  | none =>
    match b.win with
    | w :: rest =>
      if 32 ≤ b.win.length then
        ((s.setBank h q { b with win := rest }).applyEntry h q w).updBank h q fun b => { b with win := b.win ++ [e] }
      else s.setBank h q { b with win := b.win ++ [e] }
    | [] => s.setBank h q { b with win := [e] }

/-- R289: the window is flushed: every entry is applied, oldest first. -/
def State.winFlush (s : State) (h q : Nat) : State :=
  let b := s.bank h q
  b.win.foldl (fun s e => s.applyEntry h q e) (s.setBank h q { b with win := [] })

/-- R289, R290: an update as an entry of a window. -/
def winEntry (boff ctx op : Nat) (anchor : BitVec 12) (v : Nat) (pois : Bool) : WinEnt :=
  let c := contrAlone anchor op v pois
  if op = 9 || op = 10 then { boff := boff, ctx := ctx, op := op, anch := anchor, sum := c.1, flags := c.2 }
  else { boff := boff, ctx := ctx, op := op, w := w32 v }

/-- R198, R286, R289: performs a request at its bank: the state, the bytes it returns as a number, and their poison. -/
def State.bankDo (s : State) (hall quad : Nat) (r : BankReq) : State × BitVec 128 × Bool :=
  let place := bankBase hall quad + r.boff
  let site := srcSite hall quad r
  let upd (op : Nat) (anchor : BitVec 12) (pois : Bool) : State × BitVec 128 × Bool :=
    let u := rmw (s.bankRead place r.size) (fun s bs => s.bankWrite place bs) r.size op anchor (leNat r.data) 0 pois place
    (u.s.logAll site u.logs, BitVec.ofNat 128 u.old, u.poison || u.cause != .none)
  match r.op with
  | .write =>
    let w := s.bankWrite place r.data
    (w.s.logAll site w.logs, 1, false)
  | .fillWrite =>
    let put (s : State) (p : Nat × List Byte) : State :=
      let w := s.bankWrite (place + p.1) p.2 { fill := true, marks := if r.poison then granules (place + p.1) p.2.length else [] }
      w.s.logAll site w.logs
    ((if r.skip.isEmpty then put s (0, r.data) else (byteRuns r.skip 0 r.data).foldl put s), 1, false)
  | .empty => (s.setEmpty (granules place r.size), 1, false)
  | .amo op => upd op 0 false
  | .update op anchor free =>
    if r.poison && op != 9 && op != 10 then (s.markPois (granules place r.size), 0, false)
    else if free then (s.winMerge hall quad (winEntry r.boff r.ctx op anchor (leNat r.data) r.poison), 0, false)
    else upd op anchor r.poison
  | .syncClr =>
    let a := s.bankRead place r.size
    (((a.s.logAll site a.logs).setEmpty (granules place r.size)), BitVec.ofNat 128 (leNat a.bytes), a.poison)
  | _ =>
    let a := s.bankRead place r.size
    (a.s.logAll site a.logs, BitVec.ofNat 128 (leNat a.bytes), a.poison)

/-! ### Responses -/

/-- R213: a value returns to an instruction of the active block that waits for it. -/
def Block.answer (b : Block) (frame idx : Nat) (w : W32) (v : PW32) : Block :=
  if b.frame = frame && b.inflight.contains idx then
    ({ b with inflight := b.inflight.erase idx }.put idx (w.extractLsb' 19 6) (.val v)).put idx (w.extractLsb' 13 6) (.val v)
  else b

/-- R197: an answered place of a bay's return path gives its value: to an instruction, or to a lane of the vector load in progress. `word` is the
instruction of a frame and index. -/
def BayCtx.give (word : Nat → Nat → W32) (c : BayCtx) (e : RobEnt) : BayCtx :=
  let a := e.ans.getD (0, false)
  let out : PW32 := { v := a.1.setWidth 32, poison := a.2 }
  match e.reply with
  | .bay _ _ _ frame idx _ => c.updBlk fun k => k.answer frame idx (word frame idx) out
  | .bayLane _ _ _ frame _ lane => { c with task := c.task.map fun k =>
      if k.blk.frame = frame then { k with got := k.got ++ [(lane, out)] } else k }
  | _ => c

/-- R197: the answers at the head of a return path leave, in the order of the requests. -/
def BayCtx.leave (word : Nat → Nat → W32) (c : BayCtx) (l : List RobEnt) : BayCtx :=
  let here := l.takeWhile fun e => e.ans.isSome
  here.foldl (BayCtx.give word) { c with rob := l.drop here.length }

/-- R197: the answer to a request is in. -/
def BayCtx.answered (c : BayCtx) (word : Nat → Nat → W32) (no : Nat) (v : W64) (p : Bool) : BayCtx :=
  c.leave word (c.rob.map fun e => if e.no = no then { e with ans := some (v, p) } else e)
/-- R199: a request leaves the return path without an answer. -/
def BayCtx.forgone (c : BayCtx) (word : Nat → Nat → W32) (no : Nat) : BayCtx := c.leave word (c.rob.filter fun e => e.no != no)

/-- Sends a request's answer to its source. -/
def State.replyTo (s : State) (r : BankReq) (full : BitVec 128) (p : Bool) : State :=
  let v : W64 := full.setWidth 64
  match r.reply with
  | .drop => s
  | .bay h b x _ _ sg => s.setBayCtx h b x ((s.bayCtx h b x).answered (s.bayWord h b x) r.no (extend r.size sg v) (p || r.poison))
  | .bayLane h b x _ _ _ => s.setBayCtx h b x ((s.bayCtx h b x).answered (s.bayWord h b x) r.no (extend r.size false v) p)
  | .unitRd h b x => s.setUnit h b x ((s.unit h b x).granule r.no full p)
  | .thread h x _ => s.updThr h x fun t => if t.parked then { t with served := some { v := v, poison := p } } else t
  | .unit h b x =>
    let u := s.unit h b x
    s.setUnit h b x { u with unacked := u.unacked - 1 }
  | .gal h x =>
    let g := s.gal h
    let c := g.ctx x
    s.setGal h (g.setCtx x { c with run := c.run.map fun r => { r with unacked := r.unacked - 1 } })
  | .port h q k => s.updBank h q fun b => { b with strm := b.strm.map fun m =>
      { m with rob := m.rob.map fun e => if e.1 = k then (k, some (v, p)) else e } }

/-! ### Serving (R197, R198) -/

/-- The granule of a synchronising read. -/
def reqGranule (hall quad : Nat) (r : BankReq) : Nat := (bankBase hall quad + r.boff) / 16

/-- R198: a synchronising read finds its granule empty. -/
def State.mustPark (s : State) (hall quad : Nat) (r : BankReq) : Bool :=
  r.op.isSync && s.mem.empties.contains (reqGranule hall quad r)

/-- R197: the queue served next: the first from the one after the last served whose head can be taken. -/
def State.nextQueue (s : State) (hall quad : Nat) : Option (Nat × BankReq × List BankReq) :=
  let b := s.bank hall quad
  ((List.range 4).map fun i => (b.rr + 1 + i) % 4).findSome? fun k =>
    match Tab.get b.q k [] with
    | [] => none
    | r :: rest => if s.mustPark hall quad r && 16 ≤ b.parked.length then none else some (k, r, rest)

/-- R197, R198: a bank takes a request from a queue: it parks a synchronising read of an empty granule, and performs any other. -/
def execBankRequestServe (s : State) : Res :=
  let h := s.focus.hall
  let q := s.focus.elem % 16
  let b := s.bank h q
  if b.parked.any fun r => !s.mustPark h q r then waits s
  else match s.nextQueue h q with
    | none => waits s
    | some (k, r, rest) =>
      let s1 := s.setBank h q { b with q := Tab.put b.q k rest, rr := k }
      if s.mustPark h q r then .next (s1.updBank h q fun b => { b with parked := b.parked ++ [r] })
      else
        let (s, v, p) := s1.bankDo h q r
        .next (s.replyTo r v p)

/-- R198: the first parked read whose granule is full is served; the focus may name one at another granule. -/
def execParkedReadServe (s : State) : Res :=
  let h := s.focus.hall
  let q := s.focus.elem % 16
  let b := s.bank h q
  let full := b.parked.filter fun r => !s.mustPark h q r
  let pick := match b.parked[s.focus.idx]? with
    | some r => if s.mustPark h q r then full.head? else full.find? fun x => reqGranule h q x == reqGranule h q r
    | none => full.head?
  match pick with
  | none => waits s
  | some r =>
    let (s, v, p) := (s.setBank h q { b with parked := b.parked.erase r }).bankDo h q r
    .next (s.replyTo r v p)

/-! ### `mbank` (R195, R196) -/

/-- R195: zeroes a bank: bytes, marks and check values; every granule is full. Data caches drop its lines. -/
def State.zeroBank (s : State) (h q : Nat) : State :=
  let lo := bankBase h q
  let hi := lo + 65536
  let outG (g : Nat) : Bool := 16 * g < lo || hi ≤ 16 * g
  { s with
    dcache := s.dcache.map fun p => (p.1, p.2.filter fun d => 64 * d.line < lo || hi ≤ 64 * d.line)
    mem := { s.mem with
      cells := s.mem.cells.filter fun c => c.1 < lo || hi ≤ c.1
      empties := s.mem.empties.filter outG
      pois := s.mem.pois.filter outG
      ecc := s.mem.ecc.filter outG
      cvals := s.mem.cvals.filter fun c => 64 * c.1 < lo || hi ≤ 64 * c.1 } }

/-- R196: another slot of the M-bay is live under a region. -/
def State.mbayLiveFor (s : State) (h q slot : Nat) (owner : Option Nat) : Bool :=
  (List.range 4).any fun c => c != slot && (s.slot h c).liveAt.contains (mbayOf q) && owner.isSome && (s.slot h c).region == owner

/-- R195: parked reads complete with poison, and `cfg` is logged once. -/
def State.dropParked (s : State) (h q : Nat) : State :=
  let b := s.bank h q
  match b.parked with
  | [] => s
  | r :: _ =>
    let s := (s.setBank h q { b with parked := [] }).logFault .cfg (srcSite h q r)
    b.parked.foldl (fun s r => (s.replyTo r (s.free.setWidth 128) true).drawn) s

/-- R195, R196: a bank applies its oldest `mbank` word once the requests in its queues and in its reorder buffer are complete. -/
def execMbankApply (s : State) : Res :=
  let h := s.focus.hall
  let q := s.focus.elem % 16
  let b := s.bank h q
  match b.mbPend with
  | [] => waits s
  | (slot, owner) :: later =>
    if (b.q.any fun p => !p.2.isEmpty) || !(Tab.get s.net.bufs (16 * h + q) []).isEmpty then waits s
    else match mbayWord (s.cfg h (mbayOf q) slot).words 1 with
      | none => .next (s.setBank h q { b with mbPend := later })
      | some w =>
        if b.owner != some owner && s.mbayLiveFor h q slot b.owner then
          .next ((s.setBank h q { b with mbPend := later, stopped := setIns b.stopped slot }).reportElem .cfg h (mbayOf q) slot
            { ctx := BitVec.ofNat 2 slot })
        else
          let fresh : Bool := b.owner != some owner || bitB w 48
          let nb : Bank := { b with mbPend := later, owner := some owner, gsz := bitsN w 59 57, gbase := bitsN w 56 52, ilv := bitsN w 51 49 }
          if fresh then .next (((s.setBank h q { nb with tags := [], recency := [], win := [] }).zeroBank h q).dropParked h q)
          else .next (s.setBank h q nb)

/-! ### Port streams (R200) -/

/-- The `mport` word of a stream. -/
def State.strmWord (s : State) (h q : Nat) (m : MStream) : W64 := (s.mportOf h q m.ctx).getD 0
def portMode (w : W64) : Nat := bitsN w 59 58
/-- R200: bytes of an element. -/
def portEsz (w : W64) : Nat := 2 ^ bitsN w 57 56
/-- R200: the group offset of element k; none outside the group. -/
def State.portOff (s : State) (h q : Nat) (w : W64) (k : Nat) : Option Nat :=
  let e := portEsz w
  let o : Int := (bitsN w 44 25 : Int) + (k : Int) * (BitVec.ofNat 13 (bitsN w 24 12)).toInt * (e : Int)
  if o < 0 || ((s.bank h q).groupSize q : Int) < o + e then none else some o.toNat

/-- The token at the head of a stream's input channel. -/
def State.strmHead (s : State) (h q : Nat) (m : MStream) : Option Token :=
  (Tab.get (s.bank h q).chans (16 * m.ctx + bitsN (s.strmWord h q m) 48 45) []).head?
/-- Takes it. -/
def State.strmTake (s : State) (h q : Nat) (m : MStream) : State :=
  s.updBank h q fun b => { b with chans := Tab.upd b.chans (16 * m.ctx + bitsN (s.strmWord h q m) 48 45) [] (·.drop 1) }
def State.updStrm (s : State) (h q : Nat) (f : MStream → MStream) : State := s.updBank h q fun b => { b with strm := b.strm.map f }

/-- A token leaves a stream on `rco`. -/
def State.strmSend (s : State) (h q : Nat) (w : W64) (t : Token) : Option State := s.takeRoute h (mbayOf q) (bitsN w 53 49) 5 t true
/-- Reports a token that a stream discards. -/
def State.strmCfg (s : State) (h q : Nat) (t : Token) : State := s.reportElem .cfg h (mbayOf q) t.ctx.toNat t

/-- R312: an element of a stream must wait: an earlier one is at another bank than the member, or is a synchronising read not yet complete. -/
def State.strmBusy (s : State) (h q ctx member : Nat) : Bool :=
  (List.range 16).any fun k => (s.reqsAt h (mbayOf q) ctx k).any fun r => k != member || r.op.isSync

/-- R197, R28: a stream's request enters the queue of its own bank, or goes to another member's over the packet network; none while that takes no
request. -/
def State.strmPut (s : State) (h q : Nat) (m : MStream) (member : Nat) (r : BankReq) : Option State :=
  let src := (h, mbayOf q)
  let r := { r with ctx := m.ctx, src := src }
  if member = q then (if (s.bank h q).takes 2 m.ctx then some (s.bankEnqueue h q 2 r) else none)
  else if s.netRoom src h member then some (s.netSend src h member r) else none

/-- A stream asks the bank that holds a group offset; none while it must wait. -/
def State.strmAsk (s : State) (h q : Nat) (m : MStream) (o : Nat) (op : BankOp) (size : Nat) (data : List Byte) (pois : Bool)
    (re : Reply) (free : Bool := false) : Option State :=
  let (mq, off) := groupPlace (s.bank h q) q o
  if !free && s.strmBusy h q m.ctx mq then none
  else s.strmPut h q m mq { op := op, boff := off, size := size, data := data, poison := pois, reply := re, ctx := m.ctx }

/-- R159, R200: the token of an element that has been read. -/
def portToken (w : W64) (ctx : Nat) (v : W64) (p : Bool) : Token :=
  { ctx := BitVec.ofNat 2 ctx, poison := p, width := if bitsN w 57 56 = 3 then 0 else 1, payload := v }

/-- R177, R200: the end of a stream: the end-of-tile marker of its command, then the done, which the port's sink counter counts. -/
def strmEnds (s : State) (h q : Nat) (w : W64) (m : MStream) : Res :=
  if m.eot && !m.eotSent then
    match s.strmSend h q w (eotToken m.ctx m.ticket (m.fault != .none)) with
    | none => waits s
    | some s => .next (s.updStrm h q fun m => { m with eotSent := true })
  else
    let t : Token := { kind := .done, ctx := BitVec.ofNat 2 m.ctx }
    match s.strmSend h q w t with
    | none => waits s
    | some s => .next (((s.updBank h q fun b => { b with strm := none }).portPass h (16 + q) t).cmdDone h m.ticket m.fault)

/-- R200, R209: a control token on a stream's input: forwarded at its place; a fence marker once every older request is complete; a
done ends the stream. A switch marker is `SWITCH_MARKER`'s. `ready` says that what must come before it is complete. -/
def strmControl (s : State) (h q : Nat) (w : W64) (m : MStream) (t : Token) (ready : Bool) : Res :=
  let took := s.strmTake h q m
  let fwd (s' : State) : Res := match s'.strmSend h q w t with
    | none => waits s
    | some s => .next (s.portPass h (16 + q) t)
  if !ready then waits s
  else match t.kind with
    | .done => .next (took.updStrm h q fun m => { m with ended := true })
    | .marker =>
      (match t.level.toNat with
      | 0 => fwd (took.invoked h 0 (mbayOf q) m.ctx)
      | 1 => waits s
      | 2 => fwd took
      | 3 => if m.rob.isEmpty then fwd took else waits s
      | 4 => if s.sparing h then fwd (took.tookSpare h (mbayOf q) m.ctx) else .next took
      | _ => .next (took.strmCfg h q t))
    | .stop => fwd took
    | .roundEnd => fwd took
    | _ => waits s

/-- R200: the stream stops with a fault. -/
def State.strmFault (s : State) (h q : Nat) (c : Cause) : State :=
  s.updStrm h q fun m => { m with ended := true, fault := c, faultIx := m.k }

/-- R200: a write stream takes an element from a data token. -/
def strmWrite (s : State) (h q : Nat) (w : W64) (m : MStream) (t : Token) : Res :=
  let took := s.strmTake h q m
  if t.poison then .next (took.strmFault h q .poisonuse)
  else match s.portOff h q w m.k with
    | none => .next (took.strmFault h q .range)
    | some o =>
      let e := portEsz w
      match took.strmAsk h q m o (if bitsN w 55 54 = 1 then .fillWrite else .write) e (leBytes e t.payload.toNat) false (.port h q m.k) with
      | none => waits s
      | some s => .next (s.updStrm h q fun m => { m with k := m.k + 1, rob := m.rob ++ [(m.k, none)] })

/-- R200: a read stream asks for its next element; one outside the group is poison. -/
def strmRead (s : State) (h q : Nat) (w : W64) (m : MStream) : Res :=
  let push (s : State) (a : Option (W64 × Bool)) : State := s.updStrm h q fun m => { m with k := m.k + 1, rob := m.rob ++ [(m.k, a)] }
  match s.portOff h q w m.k with
  | none =>
    let site : Site := { hall := h, elem := mbayOf q, eclass := 0, ctx := m.ctx }
    .next (push (s.logFault .range site).drawn (some (s.free, true)))
  | some o =>
    let op : BankOp := match bitsN w 55 54 with
      | 0 => .read
      | 1 => .syncKeep
      | _ => .syncClr
    match s.strmAsk h q m o op (portEsz w) [] false (.port h q m.k) with
    | none => waits s
    | some s => .next (push s none)

/-- R202: a token of a tag stream that is an operation of a kind, on a slot of the table. -/
def tagFits (mt : W64) (t : Token) : Bool :=
  let top := bitsN t.payload 63 61
  let slot := bitsN t.payload 47 40
  t.width == 0 && (t.poison || (top != 7 && bitsN t.payload 60 48 == 0 &&
    (if top < 2 then slot == 0 else bitsN t.payload 39 0 == 0 && slot ≤ bitsN mt 59 52)))

/-- R202: the payload of a token of a tag stream is an operation. -/
def tagReads (t : Token) : Bool := match decodeTag t.payload with
  | .ok i => wellFormed i
  | .error _ => false

/-- R203: a poisoned token of width 0 whose payload is no operation yields a poisoned result, of the width of a `tread`'s where its `top` is 6
(DESIGN CHOICE, log 54: its payload says nothing of the operation that was meant). -/
def tagPoison (s : State) (h q : Nat) (w : W64) (m : MStream) (t : Token) : Res :=
  match (s.strmTake h q m).strmSend h q w
      { t with width := if bitsN t.payload 63 61 = 6 then 0 else 1, payload := s.free } with
  | none => waits s
  | some s => .next s.drawn

/-- R200: one step of the port stream of an M-bay: an answer leaves, a token on its input is taken, or a read is asked for. -/
def execMportTokenArrival (s : State) : Res :=
  let h := s.focus.hall
  let q := s.focus.elem % 16
  match (s.bank h q).strm with
  | none => waits s
  | some m =>
    let w := s.strmWord h q m
    let mode := portMode w
    if mode = 3 || s.halted h (mbayOf q) m.ctx || (s.bank h q).stopped.contains m.ctx then waits s
    else match m.rob with
      | (_, some (v, p)) :: rest =>
        if mode = 0 then
          match s.strmSend h q w (portToken w m.ctx v p) with
          | none => waits s
          | some s => .next (s.updStrm h q fun m => { m with rob := rest })
        else .next (s.updStrm h q fun m => { m with rob := rest })
      | rob =>
        if m.ended || (mode < 2 && m.count ≤ m.k) then (if rob.isEmpty then strmEnds s h q w m else waits s)
        else match s.strmHead h q m with
          | some t =>
            if t.kind != .data then strmControl s h q w m t (mode != 0 || rob.isEmpty)
            else if mode = 1 then (if rob.length < 32 then strmWrite s h q w m t else waits s)
            else if mode = 2 && tagFits ((mbayWord (s.cfg h (mbayOf q) m.ctx).words 3).getD 0) t then
              (if tagReads t then waits s else tagPoison s h q w m t)
            else .next ((s.strmTake h q m).strmCfg h q t)
          | none => if mode = 0 && rob.length < 32 then strmRead s h q w m else waits s

/-! ### The tag table (R201–R203) -/

def tagSlots (mt : W64) : Nat := bitsN mt 59 52 + 1
def tagWays (mt : W64) : Nat := 2 ^ bitsN mt 51 50
def tagSsize (mt : W64) : Nat := 2 ^ (bitsN mt 49 46 + 6)
/-- R201: the bank offset of a slot. -/
def tagOff (mt : W64) (j : Nat) : Nat := bitsN mt 45 36 * 64 + j * tagSsize mt

/-- R193: the group offset of a bank offset of a member bank. -/
def groupOff (b : Bank) (quad boff : Nat) : Nat :=
  let (qb, n) := b.group quad
  let g := ilvBytes b.ilv
  if n = 1 then boff else (boff / g * n + (quad - qb)) * g + boff % g

def Bank.tag (b : Bank) (j : Nat) : TagEnt := Tab.get b.tags j {}
def Bank.setTag (b : Bank) (j : Nat) (e : TagEnt) : Bank := { b with tags := Tab.put b.tags j e }
/-- R203 `MakeRecent`. -/
def Bank.recent (b : Bank) (j : Nat) : Bank := { b with recency := j :: b.recency.filter (· != j) }

/-- R202: a result word. -/
def tagWord (res : Nat) (vv vd : Bool) (slot goff : Nat) : W64 :=
  w64 (res * 2 ^ 30 + (if vv then 2 ^ 29 else 0) + (if vd then 2 ^ 28 else 0) + slot * 2 ^ 20 + goff % 2 ^ 20)

/-- R203: the result on a slot. -/
def Bank.tagRes (b : Bank) (mt : W64) (quad res : Nat) (vv vd : Bool) (j : Nat) : W64 :=
  tagWord res vv vd j (groupOff b quad (tagOff mt j))

/-- R203: the least recent way of a list that is neither pinned nor pending. -/
def Bank.leastRecent (b : Bank) (ws : List Nat) : Option Nat :=
  let ok := ws.filter fun j => !(b.tag j).pin && !(b.tag j).pend
  match ok.find? fun j => !b.recency.contains j with
  | some j => some j
  | none => b.recency.reverse.find? ok.contains

/-- R203 `tlook`: the bank afterwards, the result, and the slot whose granules are set empty. -/
def Bank.tlook (b : Bank) (mt : W64) (quad : Nat) (key : BitVec 40) : Bank × W64 × Option Nat :=
  let sets := tagSlots mt / tagWays mt
  let st := key.toNat % sets
  let ws := (List.range (tagWays mt)).map (st * tagWays mt + ·)
  match ws.find? fun j => ((b.tag j).v || (b.tag j).pend) && (b.tag j).key == key with
  | some j => if (b.tag j).v then (b.recent j, b.tagRes mt quad 0 false false j, none) else (b, b.tagRes mt quad 2 false false j, none)
  | none =>
    let pick := match ws.find? fun j => !(b.tag j).v && !(b.tag j).pend with
      | some j => some j
      | none => b.leastRecent ws
    match pick with
    | none => (b, tagWord 3 false false 0 0, none)
    | some j =>
      let old := b.tag j
      (b.setTag j { key := key, v := false, pend := true }, b.tagRes mt quad 1 old.v old.dty j, some j)

/-- R203 `tfill`. -/
def Bank.tfill (b : Bank) (mt : W64) (quad : Nat) (key : BitVec 40) : Bank × W64 :=
  match (List.range (tagSlots mt)).find? fun j => (b.tag j).pend && (b.tag j).key == key with
  | none => (b, tagWord 3 false false 0 0)
  | some j => ((b.setTag j { b.tag j with v := true, pend := false }).recent j, b.tagRes mt quad 0 false false j)

/-- R203 `tevict`. -/
def Bank.tevict (b : Bank) (mt : W64) (quad j : Nat) : Bank × W64 :=
  let e := b.tag j
  (b.setTag j { e with v := false, pend := false, pin := false, dty := false }, b.tagRes mt quad 0 e.v e.dty j)

/-- R203 `tpin`, `tunpin`, `tdirty`: a change of a valid entry. -/
def Bank.tset (b : Bank) (mt : W64) (quad j : Nat) (f : TagEnt → TagEnt) : Bank × W64 :=
  if (b.tag j).v then (b.setTag j (f (b.tag j)), b.tagRes mt quad 0 false false j) else (b, b.tagRes mt quad 3 false false j)

/-- R203 `tread`. -/
def Bank.tread (b : Bank) (j : Nat) : W64 :=
  let e := b.tag j
  let f (x : Bool) (n : Nat) : Nat := if x then 2 ^ n else 0
  w64 (f e.v 63 + f e.pend 62 + f e.pin 61 + f e.dty 60 + j * 2 ^ 40 + e.key.toNat)

/-- R201, R203: applies the tag operation at the head of a tag stream, whose payload is given; its result leaves on `rco`. A poisoned
operation changes nothing and its result is poisoned. -/
def tagOp (s : State) (pay : W64) (width : BitVec 3) (f : Bank → W64 → Nat → Bank × W64 × Option Nat) : Res :=
  let h := s.focus.hall
  let q := s.focus.elem % 16
  let b := s.bank h q
  match b.strm with
  | none => waits s
  | some m =>
    let w := s.strmWord h q m
    let mt := (mbayWord (s.cfg h (mbayOf q) m.ctx).words 3).getD 0
    match s.strmHead h q m with
    | none => waits s
    | some t =>
      if portMode w != 2 || m.ended || t.kind != .data || t.payload != pay || !tagFits mt t || s.halted h (mbayOf q) m.ctx ||
          b.stopped.contains m.ctx then waits s
      else
        let out : Token := { t with width := width }
        let took := s.strmTake h q m
        if t.poison then
          match took.strmSend h q w { out with payload := s.free } with
          | none => waits s
          | some s => .next s.drawn
        else
          let (b', r, e) := f (took.bank h q) mt q
          let s1 := took.setBank h q b'
          let s2 := match e with
            | none => s1
            | some j => s1.setEmpty (granules (bankBase h q + tagOff mt j) (tagSsize mt))
          match s2.strmSend h q w { out with payload := r } with
          | none => waits s
          | some s => .next s

/-- R202: the payload of an operation with a key, and with a slot. -/
def tagKey (top : BitVec 3) (key : BitVec 40) : W64 := top ++ (0#13 ++ (0#8 ++ key))
def tagSlot (top : BitVec 3) (slot : BitVec 8) : W64 := top ++ (0#13 ++ (slot ++ 0#40))

/-- R203 `tlook`. -/
def execTlook (key : BitVec 40) (s : State) : Res := tagOp s (tagKey 0 key) 1 fun b mt q => b.tlook mt q key
/-- R203 `tfill`. -/
def execTfill (key : BitVec 40) (s : State) : Res := tagOp s (tagKey 1 key) 1 fun b mt q => let r := b.tfill mt q key; (r.1, r.2, none)
/-- R203 `tevict`. -/
def execTevict (slot : BitVec 8) (s : State) : Res :=
  tagOp s (tagSlot 2 slot) 1 fun b mt q => let r := b.tevict mt q slot.toNat; (r.1, r.2, none)
/-- R203 `tpin`. -/
def execTpin (slot : BitVec 8) (s : State) : Res :=
  tagOp s (tagSlot 3 slot) 1 fun b mt q => let r := b.tset mt q slot.toNat fun e => { e with pin := true }; (r.1, r.2, none)
/-- R203 `tunpin`. -/
def execTunpin (slot : BitVec 8) (s : State) : Res :=
  tagOp s (tagSlot 4 slot) 1 fun b mt q => let r := b.tset mt q slot.toNat fun e => { e with pin := false }; (r.1, r.2, none)
/-- R203 `tdirty`. -/
def execTdirty (slot : BitVec 8) (s : State) : Res :=
  tagOp s (tagSlot 5 slot) 1 fun b mt q => let r := b.tset mt q slot.toNat fun e => { e with dty := true }; (r.1, r.2, none)
/-- R203 `tread`. -/
def execTread (slot : BitVec 8) (s : State) : Res :=
  tagOp s (tagSlot 6 slot) 0 fun b _ _ => (b, b.tread slot.toNat, none)

/-! ### Update streams (R288–R291) -/

def updOp (w : W64) : Nat := bitsN w 24 21
def updFree (w : W64) : Bool := bitsN w 55 54 == 0
def updSize (w : W64) : Nat := if bitsN w 57 56 = 0 then 16 else 4
def updAnchor (w : W64) : BitVec 12 := w.setWidth 12

/-- R289: updates of an M-bay's stream that banks have not yet applied, window entries apart. -/
def State.updQueued (s : State) (h q ctx : Nat) : Bool :=
  (List.range 16).any fun k => (s.reqsAt h (mbayOf q) ctx k).any fun r => r.reply == .drop

/-- The member banks of a bank's group. -/
def Bank.members (b : Bank) (q : Nat) : List Nat := (List.range (b.group q).2).map ((b.group q).1 + ·)

/-- R289: an update from a data token of width 2. -/
def updData (s : State) (h q : Nat) (w : W64) (m : MStream) (t : Token) : Res :=
  let took := s.strmTake h q m
  let b := s.bank h q
  let n := updSize w
  let op := updOp w
  let o := bitsN w 44 25 + t.hi.toNat * n
  let v := t.lo.toNat
  if t.hi = sentinel || b.groupSize q < o + n then
    .next (took.logOnce .range { hall := h, elem := mbayOf q, eclass := 0, ctx := m.ctx })
  else
    let (mq, off) := groupPlace b q o
    if mq = q && updFree w then
      if t.poison && op != 9 && op != 10 then .next (took.markPois (granules (bankBase h q + off) n))
      else .next (took.winMerge h q (winEntry off m.ctx op (updAnchor w) v t.poison))
    else match took.strmAsk h q m o (.update op (updAnchor w) (updFree w)) n (leBytes 4 v) t.poison .drop (updFree w) with
      | none => waits s
      | some s => .next s

/-- R289: a token on an update stream becomes an update, or, once every earlier update is applied, is forwarded. -/
def execUpdateToken (s : State) : Res :=
  let h := s.focus.hall
  let q := s.focus.elem % 16
  let b := s.bank h q
  match b.strm with
  | none => waits s
  | some m =>
    let w := s.strmWord h q m
    if portMode w != 3 || s.halted h (mbayOf q) m.ctx || b.stopped.contains m.ctx then waits s
    else
      let flushed (go : Res) : Res :=
        if s.updQueued h q m.ctx then waits s
        else if (b.members q).any fun k => !(s.bank h k).win.isEmpty then .next ((b.members q).foldl (fun s k => s.winFlush h k) s)
        else go
      if m.ended then flushed (strmEnds s h q w m)
      else match s.strmHead h q m with
        | none => waits s
        | some t =>
          if t.kind != .data then flushed (strmControl s h q w m t true)
          else if t.width = 2 then updData s h q w m t
          else .next ((s.strmTake h q m).strmCfg h q t)

/-- R290: an entry of a window that has been held for 16 cycles is applied. -/
def execUpdateWindowExpiry (s : State) : Res :=
  let h := s.focus.hall
  let q := s.focus.elem % 16
  let b := s.bank h q
  match b.win[s.focus.idx]? with
  | none => waits s
  | some e => .next ((s.setBank h q { b with win := b.win.erase e }).applyEntry h q e)

end Sys2Proof.Machine
end

