-- ==== Sys2Proof/Machine/Galleries.lean ====
section
/-! DEFINITION. The galleries (R263–R282, R410): crossings, the control channel and its words, operand lines, rows, drains. -/

namespace Sys2Proof.Machine

/-! ### Crossing (R263, R450) -/

/-- R263: the link input on which a gallery puts a token for bay (row, 7) of its hall. -/
def galWest (h row : Nat) : Nat := lkey h (8 * row + 7) dirE
/-- R263: the link input of bay (row, 0) of the hall to the east. -/
def galEast (h row : Nat) : Option Nat := (hallBeside h dirE).map fun k => lkey k (8 * row) dirW

/-- R263, R264: `cfg` for a token that a gallery, or a west edge, discards. -/
def State.edgeCfg (s : State) (h : Nat) (t : Token) : State := s.reportElem .cfg h 80 t.ctx.toNat t

/-- R264: a token joins the control channel of its context; none while an earlier word waits. -/
def State.galControl (s : State) (h : Nat) (t : Token) : Option State :=
  let x := t.ctx.toNat
  match s.allow h 80 x with
  | none => some (s.edgeCfg h t)
  | some s =>
    let c := (s.gal h).ctx x
    if c.words.isEmpty then some (s.setGal h ((s.gal h).setCtx x { c with words := [t] })) else none

/-- R263, R450: a token at an edge of a hall: into a port, across the gallery, to the control channel, or discarded. The element is a
row of the gallery (80 + row), with the direction it comes from, or a row of a west edge with no hall beyond it (88 + row). -/
def execGalleryCrossing (s : State) : Res :=
  let h := s.focus.hall
  let e := s.focus.elem
  let dir := s.focus.idx % 4
  let k := lkey h e dir
  match s.link k with
  | [] => waits s
  | t :: _ =>
    let x := t.ctx.toNat
    let s0 := s.popLink k
    let go : Option State → Res := fun r => match r with
      | none => waits s
      | some s => .next s
    let send (s : State) (k' src : Nat) : Option State := if s.linkReady k' x src then some (s.putLink k' src t) else none
    if t.isCut || e < 80 || 96 ≤ e then waits s
    else if 88 ≤ e then
      if s.portClaimed h (32 + (e - 88)) x then go (s0.enterPort h (32 + (e - 88)) x t) else .next (s0.edgeCfg h t)
    else
      let row := e - 80
      if dir = dirW then
        if s.portClaimed h (40 + row) x then go (s0.enterPort h (40 + row) x t)
        else if t.chan = 15 then
          (match s.regionAt h x with
          | some r => if s.swapStopped h 80 x then go (s0.stoppedTake r (inKey h 80 x row) t)
              else go ((s0.galControl h t).map fun s => s.snapCopy h 80 x row t)
          | none => go (s0.galControl h t))
        else match galEast h row with
          | none => .next (s0.edgeCfg h t)
          | some k' => go (send s0 k' dirW)
      else if dir = dirE then
        match hallBeside h dirE with
        | none => waits s
        | some g => if s.portClaimed g (32 + row) x then go (s0.enterPort g (32 + row) x t) else go (send s0 (galWest h row) dirE)
      else waits s

/-! ### What a context holds (R265, R267, R271) -/

def Gal.slot (g : Gal) (n : Nat) : GSlot := Tab.get g.slots n {}
def Gal.setSlot (g : Gal) (n : Nat) (x : GSlot) : Gal := { g with slots := Tab.put g.slots n x }
def State.galCtx (s : State) (h x : Nat) : GCtx := (s.gal h).ctx x
def State.updGal (s : State) (h : Nat) (f : Gal → Gal) : State := s.setGal h (f (s.gal h))
def State.updGctx (s : State) (h x : Nat) (f : GCtx → GCtx) : State := s.updGal h fun g => g.setCtx x (f (g.ctx x))

/-- R271: releases that have been applied and not executed. -/
def GCtx.releasing (c : GCtx) (slot : Bool) (n : Nat) : Bool :=
  c.queue.any fun e => match e with
    | .release mask accm => if slot then bitB mask n else bitB accm n
    | _ => false

/-- R271: a slot, and a quarter, that a context holds as the checks see it. -/
def Gal.holdsSlot (g : Gal) (x n : Nat) : Bool := (g.slot n).held == some x && !(g.ctx x).releasing true n
def Gal.holdsQuarter (g : Gal) (x q : Nat) : Bool := Tab.find g.quarters q == some x && !(g.ctx x).releasing false q
/-- R267: rows that a context holds. -/
def Gal.holdsRows (g : Gal) (x row0 n : Nat) : Bool := (List.range n).all fun i => g.holdsQuarter x ((row0 + i) / 64)

/-- R271: a claim's resources are free, or the context's own. -/
def Gal.claimFree (g : Gal) (x : Nat) (mask : BitVec 32) (accm : BitVec 4) : Bool :=
  ((List.range 32).all fun n => !bitB mask n || (g.slot n).held.isNone || g.holdsSlot x n) &&
    (List.range 4).all fun q => !bitB accm q || (Tab.find g.quarters q).isNone || g.holdsQuarter x q

/-- R267: clears the cells of a row. -/
def Gal.clearRow (g : Gal) (m : Nat) : Gal := { g with acc := g.acc.filter fun p => p.1 / 256 != m }

/-- R271, R265, R267: a claim takes its resources, clearing present bits, cells and anchors. -/
def Gal.take (g : Gal) (x : Nat) (mask : BitVec 32) (accm : BitVec 4) : Gal :=
  let g := (List.range 32).foldl (fun g n => if bitB mask n then g.setSlot n { g.slot n with held := some x, present := [] } else g) g
  (List.range 4).foldl (fun g q =>
    if bitB accm q then { g with
      quarters := Tab.put g.quarters q x
      acc := g.acc.filter fun p => p.1 / 256 / 64 != q
      anch := g.anch.filter fun p => p.1 / 64 != q }
    else g) g

/-! ### Stops (R264, R388) -/

/-- R388: the header of a token that carries a control word; a word of the image has header 0. -/
def Token.wordHeader (t : Token) : Nat := if t.chan = 15 then t.header else 0

/-- R264, R388: a context of a gallery stops, and reports the cause with the word that caused it. -/
def State.galStop (s : State) (h x : Nat) (c : Cause) (t : Token) : State :=
  let g := s.galCtx h x
  let r := recPut (recPut (recPut (recHead c h (s.logCtx h x) 3) 384 64 t.payload.toNat) 360 24 t.wordHeader) 354 6 g.queue.length
  (s.updGctx h x fun c => { c with stopped := true }).report h x r

/-! ### Applying control words (R269–R282) -/

/-- R44, R42: formats that are not MX. -/
def wideFmt (f : BitVec 4) : Bool := f == 6 || f == 7

/-- R275: the work queue is full, so that the control channel takes no token. -/
def GCtx.full (c : GCtx) : Bool := 32 ≤ c.queue.length

/-- Applies the control word at the head of a context's control channel, if it is the given one. -/
def gword (s : State) (w : W64) (body : State → Token → GCtx → Res) : Res :=
  let h := s.focus.hall
  let x := s.focus.ctx
  let c := s.galCtx h x
  match c.words with
  | [] => waits s
  | t :: rest =>
    if t.kind != .data || t.width ≠ 0 || t.poison || t.payload ≠ w || c.stopped || c.claim.isSome || c.full || s.halted h 80 x then waits s
    else
      let s := s.updGctx h x fun c => { c with words := rest }
      body s t (s.galCtx h x)

/-- The focused context of the gallery after a word. -/
def gset (s : State) (f : GCtx → GCtx) : Res := .next (s.updGctx s.focus.hall s.focus.ctx f)
/-- R275: an entry joins the work queue. -/
def gqueue (s : State) (e : GEnt) : Res := gset s fun c => { c with queue := c.queue ++ [e] }
/-- The focused context stops at a word. -/
def gstop (s : State) (c : Cause) (t : Token) : Res := .next (s.galStop s.focus.hall s.focus.ctx c t)

/-- R271 `gclaim`: the claim waits until its resources are granted. -/
def execGclaim (mask : BitVec 32) (accm : BitVec 4) (s : State) : Res :=
  gword s (0x0#4 ++ mask ++ accm ++ 0#24) fun s t _ =>
    let h := s.focus.hall
    let g := s.gal h
    .next ((s.setGal h { g with claimSeq := g.claimSeq + 1 }).updGctx h s.focus.ctx fun c =>
      { c with claim := some (mask, accm, g.claimSeq), claimImg := t.chan ≠ 15 })

/-- R271: waiting claims meet. -/
def claimsMeet (a b : BitVec 32 × BitVec 4 × Nat) : Bool := a.1 &&& b.1 != 0 || a.2.1 &&& b.2.1 != 0

/-- R271: a claim is granted before another that waits for the same resources. -/
def State.claimFirst (s : State) (h x y : Nat) (a b : BitVec 32 × BitVec 4 × Nat) : Bool :=
  let p := s.firePrio h x
  let q := s.firePrio h y
  q < p || (p == q && (a.2.2 < b.2.2 || (a.2.2 == b.2.2 && x < y)))

/-- R271, R283: a restore that waits for resources of a gallery comes before a waiting claim of a context. -/
def State.resumeFirst (s : State) (h x : Nat) (a : BitVec 32 × BitVec 4 × Nat) : Bool :=
  match (s.gal h).resume with
  | none => false
  | some (r, mask, accm, n) =>
    (s.region r).state == 3 && claimsMeet a (mask, accm, n) &&
      (s.firePrio h x < 2 * (s.region r).eff.prio || (s.firePrio h x == 2 * (s.region r).eff.prio && n < a.2.2))

/-- R271: a waiting claim takes all its resources at once. -/
def execGclaimGrant (s : State) : Res :=
  let h := s.focus.hall
  let x := s.focus.ctx
  let g := s.gal h
  match (g.ctx x).claim with
  | none => waits s
  | some a =>
    let behind := (List.range 4).any fun y => y != x && (match (g.ctx y).claim with
      | none => false
      | some b => claimsMeet a b && !s.claimFirst h x y a b)
    if behind || s.resumeFirst h x a || !g.claimFree x a.1 a.2.1 || s.galHalted h x then waits s
    else .next ((s.setGal h (g.take x a.1 a.2.1)).updGctx h x fun c => { c with claim := none, claimImg := false })

/-- R271 `grelease`. -/
def execGrelease (mask : BitVec 32) (accm : BitVec 4) (s : State) : Res :=
  gword s (0x1#4 ++ mask ++ accm ++ 0#24) fun s _ _ => gqueue s (.release mask accm)

/-- R273: the slots of a B binding under a format are held, and a pair is even. -/
def Gal.bindOk (g : Gal) (x slot : Nat) (wide : Bool) : Bool :=
  if wide then slot % 2 == 0 && g.holdsSlot x slot && g.holdsSlot x (slot + 1) else g.holdsSlot x slot

/-- R273 `gbslot b`. -/
def execGbslotB (slot : BitVec 5) (s : State) : Res :=
  gword s (0x2#4 ++ 0#1 ++ slot ++ 0#54) fun s t c =>
    if (s.gal s.focus.hall).bindOk s.focus.ctx slot.toNat (wideFmt c.bfmt) then gset s fun c => { c with bslot := some slot.toNat }
    else gstop s .cfg t

/-- R266: the most rows of an A slot. -/
def rowLimit (f : BitVec 4) : Nat := if f = 4 then 256 else if wideFmt f then 128 else 248

/-- R274 `gbslot a`: an A entry captures the current settings. -/
def execGbslotA (slot : BitVec 5) (rows : BitVec 9) (arow0 : BitVec 8) (keep : BitVec 1) (s : State) : Res :=
  gword s (0x2#4 ++ 1#1 ++ slot ++ rows ++ arow0 ++ keep ++ 0#36) fun s t c =>
    let g := s.gal s.focus.hall
    let x := s.focus.ctx
    let mx := !wideFmt c.afmt
    let scaleOk := match c.scale with
      | some (n, _) => g.holdsSlot x n
      | none => !mx
    match c.bslot with
    | none => gstop s .cfg t
    | some b =>
      if !g.holdsSlot x slot.toNat || !g.bindOk x b (wideFmt c.bfmt) || !scaleOk || rowLimit c.afmt < rows.toNat ||
          256 < arow0.toNat + rows.toNat || !g.holdsRows x arow0.toNat rows.toNat then gstop s .cfg t
      else gqueue s (.a slot.toNat rows.toNat arow0.toNat (keep == 1) c.k c.n c.afmt c.bfmt c.anchor b c.scale 0)

/-- R268: a shape grant. -/
def galGrant (req max g : Nat) : Nat := if req ≤ max then req else max / g * g

/-- R268 `gshape`. -/
def execGshape (kreq nreq : BitVec 9) (s : State) : Res :=
  gword s (0x3#4 ++ 0#0 ++ kreq ++ nreq ++ 0#42) fun s _ _ =>
    let nmax := if Config.binned (s.focus.hall / 16) then 192 else 256
    gset s fun c => { c with k := galGrant kreq.toNat 256 32, n := galGrant nreq.toNat nmax 16 }

/-- R270 `ganchor`. -/
def execGanchor (anchor : BitVec 12) (s : State) : Res :=
  gword s (0x4#4 ++ anchor ++ 0#48) fun s _ _ => gset s fun c => { c with anchor := anchor }

/-- R277 `gclear`. -/
def execGclear (row0 : BitVec 8) (n : BitVec 9) (s : State) : Res :=
  gword s (0x5#4 ++ row0 ++ n ++ 0#43) fun s t _ =>
    if (s.gal s.focus.hall).holdsRows s.focus.ctx row0.toNat n.toNat then gqueue s (.clear row0.toNat n.toNat) else gstop s .cfg t

/-- R270 `grdfmt`. -/
def execGrdfmt (fmt rm : BitVec 3) (clr : BitVec 1) (s : State) : Res :=
  gword s (0x6#4 ++ fmt ++ rm ++ clr ++ 0#53) fun s _ _ => gset s fun c => { c with rfmt := fmt, rm := rm, rclr := clr == 1 }

/-- R280: the fields of a drain entry. -/
def gkOf (w : W64) : Nat := bitsN w 55 54
def lrowOf (w : W64) : Nat := bitsN w 53 51
def eotOf (w : W64) : Bool := bitB w 46

/-- R279 `gdrain`: captures the read-out settings, N, the route mask and the entries it names. -/
def execGdrain (row0 : BitVec 8) (n : BitVec 9) (dmask tag : BitVec 16) (s : State) : Res :=
  gword s (0x7#4 ++ row0 ++ n ++ dmask ++ tag ++ 0#11) fun s t c =>
    let mask := c.steer.getD dmask
    let es := (List.range 16).filter fun i => bitB mask i
    let routes := es.map fun i => (i, Tab.get c.routes i 0)
    if !(s.gal s.focus.hall).holdsRows s.focus.ctx row0.toNat n.toNat || routes.any (fun p => gkOf p.2 == 0) then gstop s .cfg t
    else gset s fun c => { c with
      steer := none
      queue := c.queue ++ [.drain row0.toNat n.toNat mask tag c.n c.rfmt c.rm c.rclr routes t] }

/-- R281 `gsteer`. -/
def execGsteer (smask : BitVec 16) (s : State) : Res :=
  gword s (0x8#4 ++ smask ++ 0#44) fun s _ _ => gset s fun c => { c with steer := some smask }

/-- R280 `groute`: east needs a hall to the east. -/
def execGroute (entry : BitVec 4) (gk : BitVec 2) (lrow : BitVec 3) (ochan : BitVec 4) (eot : BitVec 1) (q : BitVec 4)
    (goff : BitVec 20) (rstr : BitVec 13) (s : State) : Res :=
  let w : W64 := 0x9#4 ++ entry ++ gk ++ lrow ++ ochan ++ eot ++ q ++ goff ++ rstr ++ 0#9
  gword s w fun s t _ =>
    if gk = 2 && (hallBeside s.focus.hall dirE).isNone then gstop s .illegal t
    else gset s fun c => { c with routes := Tab.put c.routes entry.toNat w }

/-- R270 `gfmt`. -/
def execGfmt (afmt bfmt : BitVec 4) (s : State) : Res :=
  gword s (0xA#4 ++ afmt ++ bfmt ++ 0#52) fun s _ _ => gset s fun c => { c with afmt := afmt, bfmt := bfmt }

/-- R270 `gscale`. -/
def execGscale (sslot soff : BitVec 5) (s : State) : Res :=
  gword s (0xB#4 ++ sslot ++ soff ++ 0#50) fun s _ _ => gset s fun c => { c with scale := some (sslot.toNat, 2048 * soff.toNat) }

/-- R282 `gfence`. -/
def execGfence (entry : BitVec 4) (tag : BitVec 16) (s : State) : Res :=
  gword s (0xC#4 ++ entry ++ tag ++ 0#40) fun s t _ => gqueue s (.fence (some entry.toNat) tag t)

/-- R282 `gstatus`. -/
def execGstatus (entry : BitVec 4) (sel clr : BitVec 1) (s : State) : Res :=
  gword s (0xD#4 ++ entry ++ sel ++ clr ++ 0#54) fun s t _ => gqueue s (.status entry.toNat (sel == 1) (clr == 1) t)

/-! ### Other tokens of the control channel (R264, R410) -/

/-- R410: the gallery maps failed columns to its two spares. -/
def Gal.mapSpares (g : Gal) : Gal :=
  g.failedCols.foldl (fun g c =>
    if g.spares < 2 then { g with spares := g.spares + 1, faulty := setDel g.faulty c, failedCols := setDel g.failedCols c } else g) g

/-- R270: a payload is a control word that keeps the limits. -/
def wordLegal (w : W64) : Bool := match decodeGallery w with
  | .ok _ => true
  | .error _ => false

/-- R264: acts on the token at the head of a control channel that is no control word, or that a stopped context discards. -/
def execGalleryMarker (s : State) : Res :=
  let h := s.focus.hall
  let x := s.focus.ctx
  let c := s.galCtx h x
  match c.words with
  | [] => waits s
  | t :: rest =>
    let s1 := s.updGctx h x fun c => { c with words := rest }
    if c.claim.isSome || s.halted h 80 x then waits s
    else if c.stopped && !(t.kind == .marker && t.level == 0) then .next s1
    else if c.full then waits s
    else match t.kind with
      | .data =>
        if t.width ≠ 0 then .next (s1.edgeCfg h t)
        else if t.poison then .next (s1.galStop h x .poisonuse t)
        else if !wordLegal t.payload then .next (s1.galStop h x .illegal t)
        else waits s
      | .marker =>
        (match t.level.toNat with
        | 0 =>
          if !c.queue.isEmpty then waits s
          else .next (((s1.updGctx h x fun c => { c with steer := none, stopped := false }).updGal h Gal.mapSpares).invoked h 2 0 x)
        | 1 => waits s
        | 2 => .next s1
        | 3 => .next (s1.updGctx h x fun c => { c with queue := c.queue ++ [.fence none 0 t] })
        | 4 => .next (if s.sparing h then (s1.tookSpare h 80 x).updGal h Gal.mapSpares else s1.updGal h Gal.mapSpares)
        | _ => .next (s1.edgeCfg h t))
      | _ => .next s1

/-! ### Executing deferred words (R271, R275, R277, R282) -/

/-- The entry at the head of the focused work queue, if the context works, with the state in which it has retired. -/
def ghead (s : State) (body : State → GEnt → Option Res) : Res :=
  let h := s.focus.hall
  let x := s.focus.ctx
  let c := s.galCtx h x
  match c.queue with
  | [] => waits s
  | e :: rest =>
    if c.stopped || s.galHalted h x then waits s
    else (body (s.updGctx h x fun c => { c with queue := rest }) e).getD (waits s)

/-- R271: a queued release frees what the context holds; present bits change only as R265 says. -/
def execGreleaseExecute (s : State) : Res :=
  ghead s fun s1 e => match e with
    | .release mask accm =>
      let x := s.focus.ctx
      some (.next (s1.updGal s.focus.hall fun g =>
        let g := (List.range 32).foldl (fun g n =>
          if bitB mask n && (g.slot n).held == some x then g.setSlot n { g.slot n with held := none } else g) g
        (List.range 4).foldl (fun g q =>
          if bitB accm q && Tab.find g.quarters q == some x then { g with quarters := Tab.del g.quarters q } else g) g))
    | _ => none

/-- R277: clears the named rows, and leaves their anchors. -/
def execGclearExecute (s : State) : Res :=
  ghead s fun s1 e => match e with
    | .clear row0 n => some (.next (s1.updGal s.focus.hall fun g => (List.range n).foldl (fun g i => g.clearRow (row0 + i)) g))
    | _ => none

/-- R280: the link on which the tokens of a drain entry leave; none towards a hall that does not exist. -/
def entryLink (h : Nat) (w : W64) : Option Nat := if gkOf w = 2 then galEast h (lrowOf w) else some (galWest h (lrowOf w))

/-- R280, R282: a token of the focused context leaves on a drain entry; none while its link cannot take it. -/
def State.entrySend (s : State) (w : W64) (t : Token) : Option State :=
  match entryLink s.focus.hall w with
  | none => some s
  | some k => if s.linkReady k s.focus.ctx 5 then some (s.putLink k 5 t) else none

/-- R62: a vector of the focused context is open on the link of a drain entry, so that only its next beat may follow. -/
def State.entryOpen (s : State) (w : W64) : Bool := match entryLink s.focus.hall w with
  | some k => (Tab.find s.vecOpen (4 * k + s.focus.ctx)).isSome
  | none => false

/-- R280: a token that a drain entry sends. -/
def entryTok (ctx : Nat) (w : W64) (round : BitVec 4) (t : Token) : Token :=
  { t with ctx := BitVec.ofNat 2 ctx, round := round, chan := BitVec.ofNat 4 (bitsN w 50 47) }

/-- R282: sends the token of a fence or status word on its entry; an unused entry stops the context, which reports that word. -/
def gtell (s s1 : State) (entry : Nat) (word : Token) (t : Token) (f : State → State) : Res :=
  let x := s.focus.ctx
  let w := Tab.get (s.galCtx s.focus.hall x).routes entry 0
  if gkOf w = 0 then gstop s .cfg word
  else match s1.entrySend w (entryTok x w word.round t) with
    | none => waits s
    | some s => .next (f s)

/-- R282: a fence sends its tag once every earlier entry has retired; that of a marker of subtype 3 sends nothing (R264). -/
def execGfenceExecute (s : State) : Res :=
  ghead s fun s1 e => match e with
    | .fence none _ _ => some (.next s1)
    | .fence (some n) tag word => some (gtell s s1 n word { width := 1, payload := tag.setWidth 64 } id)
    | _ => none

/-- R265: all 1,024 present bits of a slot are set. -/
def GSlot.valid (x : GSlot) : Bool := (List.range 1024).all x.present.contains

/-- R282: the status word. -/
def Gal.status (g : Gal) (x : Nat) (sel : Bool) : W64 :=
  let c := g.ctx x
  let b (n : Nat) (p : Bool) : Nat := if p then 2 ^ n else 0
  if sel then
    w64 ((List.range 32).foldl (fun a n => a + b (32 + n) ((g.slot n).held == some x) + b n (g.slot n).valid) 0)
  else
    w64 (c.k * 2 ^ 55 + c.n * 2 ^ 46 + b 45 c.rev + c.queue.length * 2 ^ 39 + c.flags.toNat * 2 ^ 33 +
      (List.range 4).foldl (fun a q => a + b (29 + q) (Tab.find g.quarters q == some x)) 0)

/-- R282: a status word is sent once every earlier entry has retired. -/
def execGstatusExecute (s : State) : Res :=
  ghead s fun s1 e => match e with
    | .status n sel clr word =>
      let h := s.focus.hall
      let x := s.focus.ctx
      some (gtell s s1 n word { width := 0, payload := (s.gal h).status x sel }
        fun s => if clr && !sel then s.updGctx h x fun c => { c with flags := 0 } else s)
    | _ => none

/-! ### Drains (R279, R280) -/

/-- R270: the read-out format, and bytes of a value. -/
def drainFmt : Nat → RdFmt
  | 0 => .flt fp32
  | 1 => .flt bf16
  | 2 => .flt fp16
  | 3 => .int true
  | _ => .int false
def drainBytes (f : BitVec 3) : Nat := if f = 1 || f = 2 then 2 else 4

/-- R53, R279: a value read out: its pattern, poison, flags, and whether it is NaN or +0 with invalid. -/
structure DVal where
  v : Nat
  pois : Bool
  fl : BitVec 6
  inv : Bool

/-- R279: a cell read out under its row's anchor. -/
def Gal.readOut (g : Gal) (m n : Nat) (fmt rm : BitVec 3) : DVal :=
  match readCell (Tab.get g.acc (256 * m + n) 0) (Tab.get g.anch m 0) (drainFmt fmt.toNat) rm.toNat with
  | none => { v := 0, pois := true, fl := 0, inv := false }
  | some (v, fl) =>
    let nan := match drainFmt fmt.toNat with
      | .flt f => v == nanOf f
      | .int _ => false
    { v := v, pois := false, fl := fl, inv := nan || (v == 0 && fl &&& flInv != 0) }

/-- The bytes of a row's values; a poisoned value is zero bytes. -/
def rowBytes (sz : Nat) (vs : List DVal) : List Byte := (vs.map fun d => leBytes sz d.v).flatten

/-- R280: the tokens of a row for a link: vectors of at most sixteen beats, then a stop of level 0. -/
def rowTokens (sz : Nat) (vs : List DVal) : List Token :=
  let bs := rowBytes sz vs
  let beats := (bs.length + 7) / 8
  (List.range beats).map (fun i =>
    let last : Bool := i % 16 == 15 || i + 1 == beats
    { width := 3, beat := BitVec.ofNat 4 (i % 16), level := if last then 1 else 0,
      poison := ((vs.drop (8 * i / sz)).take (8 / sz)).any DVal.pois,
      payload := w64 (leNat ((bs.drop (8 * i)).take 8)) }) ++ [{ kind := .stop }]

/-- R280: the granule writes of a row into a bank group from a group offset. -/
def rowWrites (s : State) (h x q sz g : Nat) (vs : List DVal) : List (Nat × BankReq) :=
  let bs := rowBytes sz vs
  (List.range ((bs.length + 15) / 16)).map fun i =>
    let (mq, off) := groupPlace (s.bank h q) q (g + 16 * i)
    (mq, { op := .fillWrite, boff := off, size := 16, data := ((bs.drop (16 * i)).take 16 ++ List.replicate 16 0).take 16,
           poison := ((vs.drop (16 * i / sz)).take (16 / sz)).any DVal.pois, reply := .gal h x, ctx := x, src := (h, 80) })

/-- R280: the bytes of a drained row. -/
def rowSize (fmt : BitVec 3) (n : Nat) : Nat := n * drainBytes fmt

/-- R280, R388: reports a drain's `range` to the fault domain, with the word of the drain; the context does not stop. -/
def State.galRange (s : State) (h x : Nat) (word : Token) : State :=
  let w : Site := { hall := h, elem := 0, eclass := 2, ctx := x }
  s.reportDiscard .range w (elemRecord .range w (s.logCtx h x) word.wordHeader word.payload.toNat)

/-- R279, R280: reads the next row of a drain out; its tokens and writes wait to leave. A bank entry whose row lies beyond its group
stops the drain. -/
def drainRow (s : State) (r : GRun) (row0 nn : Nat) (fmt rm : BitVec 3) (clr : Bool) (routes : List (Nat × W64)) (word : Token) :
    State :=
  let h := s.focus.hall
  let x := s.focus.ctx
  let g := s.gal h
  let m := row0 + r.next
  let sz := drainBytes fmt
  let off (w : W64) : Nat := bitsN w 41 22 + r.next * bitsN w 21 9 * 16
  let beyond := routes.any fun p => gkOf p.2 == 3 && (s.bank h (bitsN p.2 45 42)).groupSize (bitsN p.2 45 42) < off p.2 + (sz * nn + 15) / 16 * 16
  if beyond then (s.updGctx h x fun c => { c with run := some { r with cut := true } }).galRange h x word
  else
    let vs := (List.range nn).map fun n => g.readOut m n fmt rm
    let outs := (routes.filter fun p => gkOf p.2 != 3).map fun p => (rowTokens sz vs).map fun t => (p.1, entryTok x p.2 word.round t)
    let reqs := (routes.filter fun p => gkOf p.2 == 3).map fun p => rowWrites s h x (bitsN p.2 45 42) sz (off p.2) vs
    let r' : GRun := { r with
      next := r.next + 1, outs := r.outs ++ outs.flatten, reqs := r.reqs ++ reqs.flatten,
      pois := r.pois || vs.any DVal.pois, inv := r.inv || vs.any DVal.inv }
    (s.setGal h (if clr then g.clearRow m else g)).updGctx h x fun c =>
      { c with run := some r', flags := vs.foldl (fun f d => accrue f d.fl d.pois) c.flags }

/-- R279: the payload of a drain's end-of-tile marker. -/
def drainMark (tag : BitVec 16) (row0 n : Nat) (r : GRun) : W64 :=
  w64 (tag.toNat * 2 ^ 48 + row0 * 2 ^ 40 + (n - 1) * 2 ^ 32 + (if r.pois then 2 ^ 31 else 0) + if r.inv then 2 ^ 30 else 0)

/-- R279, R280: what waits to leave: the focus may name the entry. -/
def drainSend (s : State) (r : GRun) (routes : List (Nat × W64)) : Option State :=
  let h := s.focus.hall
  let x := s.focus.ctx
  let firsts := (List.range 16).filterMap fun e => (r.outs.find? fun p => p.1 == e)
  let order := (firsts.filter fun p => p.1 == s.focus.idx) ++ firsts
  let sent := order.findSome? fun p =>
    let w := ((routes.find? fun q => q.1 == p.1).map (·.2)).getD 0
    if s.entryOpen w && !(p.2.width == 3 && p.2.beat != 0) then none
    else (s.entrySend w p.2).map fun s => s.updGctx h x fun c => { c with run := some { r with outs := r.outs.erase p } }
  match sent with
  | some s => some s
  | none => match r.reqs with
    | [] => none
    | q :: rest =>
      if s.netRoom (h, 80) h q.1 && r.unacked < 32 then
        some ((s.netSend (h, 80) h q.1 q.2).updGctx h x fun c => { c with run := some { r with reqs := rest, unacked := r.unacked + 1 } })
      else none

/-- R279: one step of the drain at the head of the work queue: it begins, sends what waits, reads the next row, makes its markers, or
retires. -/
def execGdrainExecute (s : State) : Res :=
  ghead s fun s1 e => match e with
    | .drain row0 n _ tag nn fmt rm clr routes word =>
      let h := s.focus.hall
      let x := s.focus.ctx
      some (match (s.galCtx h x).run with
      | none =>
        if routes.any fun p => gkOf p.2 == 3 && bitsN p.2 21 9 * 16 < rowSize fmt nn then
          gstop s .cfg word
        else .next (s.updGctx h x fun c => { c with run := some {} })
      | some r =>
        if !r.outs.isEmpty || !r.reqs.isEmpty then
          match drainSend s r routes with
          | some s => .next s
          | none => waits s
        else if r.next < n && !r.cut then .next (drainRow s r row0 nn fmt rm clr routes word)
        else if 0 < r.unacked then waits s
        else if !r.marked && !r.cut then
          let ms := (routes.filter fun p => eotOf p.2).map fun p =>
            (p.1, entryTok x p.2 word.round { kind := .marker, level := 2, payload := drainMark tag row0 n r })
          .next (s.updGctx h x fun c => { c with run := some { r with outs := ms, marked := true } })
        else .next (s1.updGctx h x fun c => { c with run := none }))
    | _ => none

/-! ### Operand lines (R190, R265) -/

/-- R265: an entry of a work queue names an operand slot. -/
def GEnt.usesSlot (n : Nat) : GEnt → Bool
  | .a slot _ _ _ _ _ _ bfmt _ b scale _ => slot == n || b == n || (wideFmt bfmt && b + 1 == n) || (match scale with
    | some (k, _) => k == n
    | none => false)
  | _ => false

/-- R265: the image's control record of a context has not been applied whole. -/
def State.recordPending (s : State) (h x : Nat) : Bool :=
  let st := s.slot h x
  let c := s.galCtx h x
  (st.st == .loaded && !st.liveAt.contains 80) || c.claimImg || c.words.any fun t => t.chan ≠ 15

/-- R265: the operand-load port takes a line: it is written, or discarded with `cfg` for its command. -/
def execOperandLineWrite (s : State) : Res :=
  let h := s.focus.hall
  let g := s.gal h
  match g.port[s.focus.idx]? with
  | none => waits s
  | some l =>
    let x := g.slot l.slot
    let mine := x.held == some l.ctx
    if !mine && s.recordPending h l.ctx then waits s
    else
      let first := !g.seenLoads.contains l.ticket
      let g := { g with port := g.port.eraseIdx s.focus.idx }
      let g := if first then
          { g with
            seenLoads := setIns g.seenLoads l.ticket
            refusedLoads := if x.present.isEmpty then g.refusedLoads else setIns g.refusedLoads l.ticket
            lostLoads := if mine then g.lostLoads else setIns g.lostLoads l.ticket }
        else g
      let inUse := (g.ctx l.ctx).queue.any (GEnt.usesSlot l.slot)
      if !mine || g.lostLoads.contains l.ticket || (inUse && g.refusedLoads.contains l.ticket) then
        .next ((s.setGal h g).updCmd h l.ticket fun c => if c.fault.isSome then c else { c with fault := some .cfg })
      else
        let lo := 64 * l.line
        let gs := (List.range 4).map (4 * l.line + ·)
        let y : GSlot := { x with
          present := setIns x.present l.line
          bytes := Memory.write (x.bytes.filter fun p => p.1 < lo || lo + 64 ≤ p.1) lo l.bytes
          pois := (gs.filter fun k => bitB l.marks (k % 4)).foldl setIns (x.pois.filter fun k => !gs.contains k) }
        .next (s.setGal h (g.setSlot l.slot y))

/-! ### Rows (R275, R276, R410) -/

/-- R42, R266: half-bytes of an element. -/
def elemHalf (f : BitVec 4) : Nat := if f = 4 then 1 else if wideFmt f then 4 else 2

/-- R41, R266: an element that begins at a half-byte of a slot. -/
def GSlot.elem (x : GSlot) (f : BitVec 4) (half : Nat) : FV :=
  let b := (Memory.byte x.bytes (half / 2)).toNat
  if f = 4 then decodeElem 4 (if half % 2 = 0 then b % 16 else b / 16)
  else if wideFmt f then decodeElem f.toNat (b + 256 * (Memory.byte x.bytes (half / 2 + 1)).toNat)
  else decodeElem f.toNat b
/-- The byte at a half-byte lies in a poisoned granule. -/
def GSlot.poisHalf (x : GSlot) (half : Nat) : Bool := x.pois.contains (half / 2 / 16)

/-- R266: the half-byte at which element (i, k) of an A slot begins. -/
def aHalf (f : BitVec 4) (i k : Nat) : Nat := (i * 256 + k) * elemHalf f
/-- R266: the slot, and the half-byte, of element (k, n) of B. -/
def bPlace (f : BitVec 4) (slot k n : Nat) : Nat × Nat :=
  if wideFmt f then (slot + k / 128, (k % 128 * 256 + n) * 4) else (slot, (k * 256 + n) * elemHalf f)

/-- R276: the contribution of block b of row i and column n, and its poison. -/
def Gal.block (g : Gal) (slot : Nat) (i n b k : Nat) (af bf : BitVec 4) (bslot : Nat) (scale : Option (Nat × Nat)) : Contr × Bool :=
  let a := g.slot slot
  let ks := ((List.range 32).map (32 * b + ·)).filter (· < k)
  let pb (kk : Nat) : GSlot × Nat := let p := bPlace bf bslot kk n; (g.slot p.1, p.2)
  let sum := ks.foldl (fun s kk => sumC s (prodC (a.elem af (aHalf af i kk)) ((pb kk).1.elem bf (pb kk).2))) (.fin 0 0)
  let pois := ks.any fun kk => a.poisHalf (aHalf af i kk) || (pb kk).1.poisHalf (pb kk).2
  if wideFmt af then (sum, pois)
  else
    let sc := g.slot ((scale.map (·.1)).getD 0)
    let so := (scale.map (·.2)).getD 0 + 8 * n + b
    let ao := 0xF800 + 8 * i + b
    (scaleC (scaleOf (Memory.byte a.bytes ao).toNat) (scaleOf (Memory.byte sc.bytes so).toNat) sum,
      pois || a.poisHalf (2 * ao) || sc.poisHalf (2 * so))

/-- R275: lines of a slot are present. -/
def GSlot.has (x : GSlot) (lo n : Nat) : Bool :=
  n == 0 || (List.range ((lo + n - 1) / 64 - lo / 64 + 1)).all fun i => x.present.contains (lo / 64 + i)

/-- R275: row i of an A entry is present, and what it multiplies is there. -/
def Gal.rowReady (g : Gal) (slot i k : Nat) (af bf : BitVec 4) (bslot : Nat) (scale : Option (Nat × Nat)) : Bool :=
  let a := g.slot slot
  let lo := aHalf af i 0 / 2
  let n := (k * elemHalf af + 1) / 2
  a.has lo n && (g.slot bslot).valid && (!wideFmt bf || (g.slot (bslot + 1)).valid) &&
    (wideFmt af || (a.has (0xF800 + 8 * i) 8 && (match scale with
      | some (s, o) => (g.slot s).has o 2048
      | none => false)))

/-- R276: the contributions of a row of an A entry to the cells of accumulator row m. -/
def Gal.fireRow (g : Gal) (slot i m k n : Nat) (af bf : BitVec 4) (anchor : BitVec 12) (bslot : Nat) (scale : Option (Nat × Nat)) : Gal :=
  let blocks := (k + 31) / 32
  let acc := (List.range n).foldl (fun (acc : Tab (BitVec 128)) col =>
    let c := (List.range blocks).foldl (fun c b =>
      let r := g.block slot i col b k af bf bslot scale
      enterCell c anchor r.1 r.2) (Tab.get acc (256 * m + col) 0)
    let c := if g.faulty.contains col && 0 < blocks then c ||| BitVec.ofNat 128 (2 ^ 127) else c
    if blocks = 0 then acc else Tab.put acc (256 * m + col) c) g.acc
  let bad := if blocks = 0 then [] else g.faulty.filter (· < n)
  let failed := bad.foldl setIns g.failedCols
  { g with acc := acc, anch := if blocks = 0 then g.anch else Tab.put g.anch m anchor, failedCols := failed,
           retired := g.retired || 3 ≤ g.spares + failed.length }

/-- R275: an earlier clear or drain that has not retired names an accumulator row. -/
def GEnt.names (m : Nat) : GEnt → Bool
  | .clear row0 n => row0 ≤ m && m < row0 + n
  | .drain row0 n _ _ _ _ _ _ _ _ => row0 ≤ m && m < row0 + n
  | _ => false

/-- R275: the entries before the first A entry that has still to fire, that entry, and those behind it. -/
def nextA : List GEnt → List GEnt → Option (List GEnt × GEnt × List GEnt)
  | _, [] => none
  | acc, e :: t =>
    match e with
    | .a .. => some (acc, e, t)
    | _ => nextA (acc ++ [e]) t

/-- R275: whether the next row of a context can fire; none where the context has no row to fire. -/
def Gal.nextRow (g : Gal) (x : Nat) : Option Bool :=
  match nextA [] (g.ctx x).queue with
  | some (before, .a slot _ arow0 _ k _ af bf _ bslot scale i, _) =>
    some (!before.any (GEnt.names (arow0 + i)) && g.rowReady slot i k af bf bslot scale)
  | _ => none

/-- R275, R276: the next row of a context's first A entry fires; after its last row the entry retires. -/
def execGalleryRowFire (s : State) : Res :=
  let h := s.focus.hall
  let x := s.focus.ctx
  let g := s.gal h
  let c := g.ctx x
  match nextA [] c.queue with
  | some (before, .a slot rows arow0 keep k n af bf anchor bslot scale i, after) =>
    let m := arow0 + i
    if c.stopped || s.galHalted h x || before.any (GEnt.names m) || !g.rowReady slot i k af bf bslot scale then waits s
    else
      let g := g.fireRow slot i m k n af bf anchor bslot scale
      let wide : Bool := 8 ≤ af.toNat || 8 ≤ bf.toNat
      let fl := if wide && 0 < k then c.flags ||| flSubst else c.flags
      let last : Bool := i + 1 == rows
      let g := if last && !keep then g.setSlot slot { g.slot slot with present := [] } else g
      let q := if last then before ++ after
        else before ++ .a slot rows arow0 keep k n af bf anchor bslot scale (i + 1) :: after
      .next (s.setGal h (g.setCtx x { c with queue := q, flags := fl, rows := c.rows + 1 }))
  | _ => waits s

end Sys2Proof.Machine
end

