-- ==== Sys2Proof/Machine/ArcLink.lean ====
section
/-! DEFINITION. The arcade link (R129–R134): flits, slots, packets, replay, lanes. -/

namespace Sys2Proof.Machine

def State.aport (s : State) (p : Nat) : APort := Tab.get s.arc.ports p {}
def State.setAport (s : State) (p : Nat) (x : APort) : State := { s with arc := { s.arc with ports := Tab.put s.arc.ports p x } }

/-- R127: a count of 16 bits that saturates. -/
def sat16 (n : Nat) : Nat := min n 65535

/-! ### Slots (R132) -/

/-- R132: a command slot: the header in its first 16 bytes, then the body. -/
def cmdSlot (p : Packet) : BitVec 608 :=
  let hdr : BitVec 128 := BitVec.ofNat 5 p.ptype ++ BitVec.ofNat 8 p.dst ++ BitVec.ofNat 8 p.src ++ BitVec.ofNat 8 p.cls ++
    BitVec.ofNat 16 p.seq ++ BitVec.ofNat 6 p.shall ++ BitVec.ofNat 7 p.sport ++ BitVec.ofNat 16 p.tag ++ BitVec.ofNat 4 p.nl ++
    BitVec.ofNat 50 p.addr
  p.body ++ hdr

/-- R132: a data slot of a packet. -/
def dataSlot (p : Packet) (l : Nat × BitVec 4 × W32 × List Byte) : BitVec 608 :=
  let line : Line := BitVec.ofNat 512 (leNat l.2.2.2)
  0x1F#5 ++ BitVec.ofNat 8 p.dst ++ BitVec.ofNat 8 p.src ++ BitVec.ofNat 16 p.tag ++ BitVec.ofNat 4 l.1 ++ l.2.1 ++ 0#19 ++ l.2.2.1 ++ line

/-- R132: the packet a command slot begins. -/
def slotPacket (b : BitVec 608) : Packet :=
  { ptype := bitsN b 127 123, dst := bitsN b 122 115, src := bitsN b 114 107, cls := bitsN b 106 99, seq := bitsN b 98 83,
    shall := bitsN b 82 77, sport := bitsN b 76 70, tag := bitsN b 69 54, nl := bitsN b 53 50, addr := bitsN b 49 0,
    body := b.extractLsb' 128 480 }

/-- R132: the line of a data slot: index, poison marks, check value, bytes. -/
def slotLine (b : BitVec 608) : Nat × BitVec 4 × W32 × List Byte :=
  (bitsN b 570 567, b.extractLsb' 563 4, b.extractLsb' 512 32, leBytes 64 (bitsN b 511 0))

/-- R133: the data slots that follow a command slot. -/
def Packet.dataSlots (p : Packet) : Nat :=
  match p.ptype with
  | 0x02 => p.nl + 1
  | 0x04 => if bodyGet p.body 16 4 = 0 then 0 else p.nl + 1
  | 0x05 => if bodyGet p.body 0 1 = 0 then p.nl + 1 else 0
  | 0x08 => p.nl + 1
  | _ => 0

/-- R132: the packets that slots make, in order, and the slots of a packet still incomplete. -/
def parseSlots (port : Nat) : Nat → List (BitVec 608) → List Packet × List (BitVec 608)
  | 0, l => ([], l)
  | _ + 1, [] => ([], [])
  | f + 1, b :: t =>
    let p := slotPacket b
    if t.length < p.dataSlots then ([], b :: t)
    else
      let r := parseSlots port f (t.drop p.dataSlots)
      ({ p with lines := (t.take p.dataSlots).map slotLine, rport := port } :: r.1, r.2)

/-! ### Flits (R130, R131) -/

/-- R130: one bit of the CRC-64, most significant bit first. -/
def crc64Bits : Nat → Nat → Nat
  | 0, c => c
  | n + 1, c =>
    let d := c * 2 % 2 ^ 64
    crc64Bits n (if c.testBit 63 then Nat.xor d 0x42F0E1EBA9EA3693 else d)

/-- R130: the CRC-64 register after bytes. -/
def crc64Run : List Byte → Nat → Nat
  | [], c => c
  | b :: t, c => crc64Run t (crc64Bits 8 (Nat.xor c (b.toNat * 2 ^ 56)))

/-- R130: the CRC-64 of bytes. -/
def crc64 (bs : List Byte) : Nat := Nat.xor (crc64Run bs (2 ^ 64 - 1)) (2 ^ 64 - 1)

/-- R130: the fields of a link header. -/
structure LinkHdr where
  fseq : Nat
  aseq : Nat
  nak : Bool
  sv : Nat
  cred : Nat
  deriving DecidableEq, Repr

def linkHdr (f : BitVec 2048) : LinkHdr :=
  { fseq := bitsN f 63 52, aseq := bitsN f 51 40, nak := bitB f 39, sv := bitsN f 38 36, cred := bitsN f 35 28 }

/-- A flit that takes no sequence: without slots and credits. -/
def LinkHdr.bare (h : LinkHdr) : Bool := h.sv == 0 && h.cred == 0

/-- R130: the slots that a flit's header calls valid, one bit for each. -/
def flitSlots (f : BitVec 2048) : List (BitVec 608) :=
  ((List.range 3).filter fun k => bitB f (36 + k)).map fun k => f.extractLsb' (64 + 608 * k) 608

/-- R130: a flit's own CRC is that of its bytes 0–235. -/
def flitGood (f : BitVec 2048) : Bool := crc64 (leBytes 236 (bitsN f 1887 0)) == bitsN f 1951 1888

/-- R130: the flit of a header and at most three slots. -/
def makeFlit (fseq aseq : Nat) (nak : Bool) (slots : List (BitVec 608)) (cred : BitVec 8 := 0) : BitVec 2048 :=
  let sv := 2 ^ slots.length - 1
  let hdr : W64 := BitVec.ofNat 12 fseq ++ BitVec.ofNat 12 aseq ++ (if nak then 1#1 else 0#1) ++ BitVec.ofNat 3 sv ++ cred ++ 0#28
  let body : BitVec 1888 := slots.getD 2 0 ++ slots.getD 1 0 ++ slots.getD 0 0 ++ hdr
  let all : BitVec 1952 := BitVec.ofNat 64 (crc64 (leBytes 236 body.toNat)) ++ body
  fecParity all ++ all

/-- R131: the flits of a replay buffer after the one a receiver last had. -/
def APort.after (x : APort) : List (Nat × BitVec 2048) := match x.acked with
  | none => x.kept
  | some a => match x.kept.findIdx? (fun k => k.1 == a) with
    | some i => x.kept.drop (i + 1)
    | none => x.kept

/-- R131: a flit may be sent: the replay buffer holds every flit that the receiver has not named. -/
def APort.open (x : APort) (flits : Nat := 1) : Bool := x.after.length + flits ≤ 64

/-- R130, R131: a port sends a flit with the credits it owes, and keeps its last 64. -/
def State.sendFlit (s : State) (port : Nat) (slots : List (BitVec 608)) : State :=
  let x := s.aport port
  let give := min x.owed 255
  let f := makeFlit x.tseq ((x.rseq + 4095) % 4096) x.nakOut slots (BitVec.ofNat 8 give)
  let l := x.kept ++ [(x.tseq, f)]
  let s := s.setAport port { x with
    tseq := (x.tseq + 1) % 4096, kept := l.drop (l.length - 64), nakOut := false, owed := x.owed - give, credit := x.credit - slots.length }
  { s with arc := { s.arc with tx := s.arc.tx ++ [(port, f)] } }

/-- R132: slots leave three to a flit. -/
def State.sendSlots (s : State) (port : Nat) : Nat → List (BitVec 608) → State
  | 0, _ => s
  | f + 1, l => match l with
    | [] => s
    | _ => (s.sendFlit port (l.take 3)).sendSlots port f (l.drop 3)

/-- R132: the slots of a packet. -/
def Packet.slots (p : Packet) : List (BitVec 608) := cmdSlot p :: p.lines.map (dataSlot p)

/-- R131: a flit without slots or credits names the last good flit, with `nak` where one was bad. It takes no flit sequence, so that it may
leave while the replay buffer is full (log 55). -/
def State.sendBare (s : State) (port : Nat) : State :=
  let x := s.aport port
  let f := makeFlit x.tseq ((x.rseq + 4095) % 4096) x.nakOut []
  let s := s.setAport port { x with nakOut := false, told := true }
  { s with arc := { s.arc with tx := s.arc.tx ++ [(port, f)] } }

/-- R134: a trained port with credit sends the oldest packet; with none it can send, it returns the credits it owes, or tells its sender of a
bad flit, or of the last good one. -/
def State.transmit (s : State) (port : Nat) : State :=
  let x := s.aport port
  if 16 ≤ port || !x.up then s
  else
    let idle : State :=
      if 0 < x.owed && x.open then s.sendFlit port []
      else if x.nakOut || (0 < x.owed && !x.told) then s.sendBare port
      else s
    match s.arc.outbox with
    | p :: rest =>
      let l := p.slots
      if l.length ≤ x.credit && x.open ((l.length + 2) / 3) then
        let t := { s with arc := { s.arc with outbox := rest } }.sendSlots port l.length l
        let y := t.aport port
        t.setAport port { y with sent := y.sent ++ [((y.tseq + 4095) % 4096, p)] }
      else idle
    | [] => idle

/-- R131: the receiver names the last flit it has had in order: the buffer is free of the flits up to it. -/
def APort.named (x : APort) (a : Nat) : APort :=
  if x.after.any fun k => k.1 == a then
    let y := { x with acked := some a }
    { y with sent := y.sent.filter fun p => y.after.any fun k => k.1 == p.1 }
  else x

/-- R131: a port replays. -/
def State.replay (s : State) (port : Nat) : State :=
  let x := s.aport port
  let l := x.after
  let s := s.setAport port { x with replays := sat16 (x.replays + l.length) }
  { s with arc := { s.arc with tx := s.arc.tx ++ l.map fun k => (port, k.2) } }

/-- R133: the packet types that R135 numbers. -/
def numberedType (t : Nat) : Bool := t == 0x01 || t == 0x02 || t == 0x03 || t == 0x04 || t == 0x07

/-- R131, R134: a numbered packet that has come in before, by a port that went down after it had delivered it (log 55). -/
def State.duplicate (s : State) (p : Packet) : Bool :=
  let k := quadKey p.shall p.sport p.src p.cls
  numberedType p.ptype && ((Tab.get s.arc.rxSeq k 0 + 65536 - p.seq - 1) % 65536 < 1024 ||
    s.arc.inbox.any fun q => numberedType q.ptype && quadKey q.shall q.sport q.src q.cls == k && q.seq == p.seq)

/-- R131 `FLIT_RECEIVE`: the oldest flit on the wire is decoded and checked; a good one in order is taken, another makes the
receiver ask for it again. -/
def execFlitReceive (s : State) : Res :=
  match s.arc.rx with
  | [] => waits s
  | (port, raw) :: rest =>
    let s := { s with arc := { s.arc with rx := rest } }
    let x := s.aport port
    if 16 ≤ port || !x.up then .next s
    else
      let f := (fecCorrect raw).1
      let x := if (fecCorrect raw).2 then { x with fixed := sat16 (x.fixed + 1) } else x
      if !flitGood f then .next (s.setAport port { x with nakOut := true })
      else
        let h := linkHdr f
        let x := x.named h.aseq
        let x := if h.fseq = x.rseq then x else if (h.fseq + 4096 - x.rseq) % 4096 < 2048 then { x with nakOut := true } else x
        let inOrder : Bool := h.fseq == x.rseq && !h.bare
        let l := x.part ++ flitSlots f
        let r := if inOrder then parseSlots port l.length l else ([], x.part)
        let x := if inOrder then
            { x with rseq := (x.rseq + 1) % 4096, credit := x.credit + h.cred, owed := x.owed + (flitSlots f).length, told := false }
          else x
        let s := s.setAport port { x with part := r.2 }
        let s := { s with arc := { s.arc with inbox := s.arc.inbox ++ r.1.filter fun p => !s.duplicate p } }
        .next (if h.nak then s.replay port else s)

/-! ### Lanes (R134) -/

/-- R134: a half of a port's lanes, 0–3 or 4–7, is healthy. -/
def APort.healthy (x : APort) (half : Nat) : Bool := !x.failed.any fun l => l / 4 == half

/-- R134: a port with failures in both halves is down for good: the packets its receiver has not named go to the other ports. -/
def State.moveTraffic (s : State) (port : Nat) : State :=
  let x := s.aport port
  if x.healthy 0 || x.healthy 1 then s
  else
    let s := s.setAport port { x with sent := [], part := [] }
    { s with arc := { s.arc with outbox := x.sent.map (·.2) ++ s.arc.outbox } }

/-- R134 `LANE_FAILURE`: a lane of a port fails, and the port begins to retrain, or goes down. -/
def execLaneFailure (s : State) : Res :=
  let p := s.focus.elem
  let l := s.focus.idx
  let x := s.aport p
  if 16 ≤ p || 8 ≤ l || x.failed.contains l then waits s
  else .next ((s.setAport p { x with failed := setIns x.failed l, up := false, lanes := 0 }).moveTraffic p)

/-- R134 `PORT_RETRAINED`: a port with a healthy half runs again and replays from its buffer. -/
def execPortRetrained (s : State) : Res :=
  let p := s.focus.elem
  let x := s.aport p
  if 16 ≤ p || x.up || !(x.healthy 0 || x.healthy 1) then waits s
  else .next ((s.setAport p { x with up := true, lanes := if x.failed.isEmpty then 8 else 4 }).replay p)

/-! ### Packets that have come in -/

def State.dropPacket (s : State) (k : Nat) : State := { s with arc := { s.arc with inbox := s.arc.inbox.eraseIdx k } }

/-- R133 `RESERVED_PACKET_DISCARD`: a packet of a reserved type is discarded, and counted at the port it came in on. -/
def execReservedPacketDiscard (s : State) : Res :=
  match s.arc.inbox[s.focus.idx]? with
  | none => waits s
  | some p =>
    if 1 ≤ p.ptype && p.ptype ≤ 0x0D then waits s
    else
      let x := s.aport p.rport
      .next ((s.dropPacket s.focus.idx).setAport p.rport { x with replays := sat16 (x.replays + 1) })

end Sys2Proof.Machine
end

