-- ==== Sys2Proof/Machine/ArcOwner.lean ====
section
/-! DEFINITION. The owner's side of the arcade (R126, R135–R141, R145, R153, R296, R298, R301, R302, R353): the import table and the packets that ask something of this package's memory. -/

namespace Sys2Proof.Machine

/-! ### The import table (R139–R141) -/

/-- R139: the fields of an import entry. -/
def impFrame (e : BitVec 128) : Nat := bitsN e 47 16
def impKey (e : BitVec 128) : Nat := bitsN e 55 48

/-- R139: reserved bits of an entry that are not zero. -/
def impReserved (e : BitVec 128) : Bool := bitsN e 127 96 != 0 || bitsN e 15 8 != 0 || bitsN e 6 5 != 0 || bitB e 1

/-- R140, R141: an import entry: a cached one, or one read under key slot 0 and then cached; none where it is read as poison. -/
def State.importEntry (s : State) (e : Nat) : State × Option (BitVec 128) :=
  match Tab.find s.arc.impCache e with
  | some v => (s, some v)
  | none =>
    let r := s.edgeRead (bitsN s.arc.impb 47 12 * 4096 + 16 * e) 16 0
    let s := r.s.logAll { hall := 0, eclass := 4, own := false } r.logs
    if r.poison || r.cause != .none then (s, none)
    else
      let v : BitVec 128 := BitVec.ofNat 128 (leNat r.bytes)
      ({ s with arc := { s.arc with impCache := Tab.put s.arc.impCache e v } }, some v)

/-- R140: what an entry answers to a request of a kind from a peer with an access key. -/
def State.importCheck (s : State) (v : BitVec 128) (peer akey : Nat) (k : AccKind) : Cause :=
  firstCause [(!bitB v 0, .nopage), (impReserved v, .range), (!bitB v 7 && bitsN v 63 56 != peer, .prot),
    (bitsN v 95 64 != akey, .prot),
    ((k == .read && !bitB v 2) || (k == .write && !bitB v 3) || (k == .atomic && !bitB v 4), .prot),
    (spaceOf (impFrame v * 65536) == .reserved, .range),
    (spaceOf (impFrame v * 65536) == .hbm && (s.keyPair (impKey v)).isNone, .key)]

/-- R140: the owner admits a request at an export address: the PA and its key slot, or why not. -/
def State.admitPeer (s : State) (peer akey addr : Nat) (k : AccKind) : State × Except Cause (Nat × Nat) :=
  let e := addr / 65536 % 2 ^ 32
  if s.arc.impn.toNat ≤ e then (s, .error .range)
  else match s.importEntry e with
    | (s, none) => (s, .error .range)
    | (s, some v) => match s.importCheck v peer akey k with
      | .none => (s, .ok (impFrame v * 65536 + addr % 65536, impKey v))
      | c => (s, .error c)

/-- An access of n bytes at an export address stays in its page. -/
def inPage (addr n : Nat) : Bool := addr % 65536 + n ≤ 65536

/-- R140, and an access that leaves its page, which no entry admits (DESIGN CHOICE, log 22). -/
def State.admitRange (s : State) (peer akey addr n : Nat) (k : AccKind) : State × Except Cause (Nat × Nat) :=
  if inPage addr n then s.admitPeer peer akey addr k else (s, .error .range)

/-! ### Receiving a numbered packet (R135, R144) -/

/-- R144: a peer's bit is set in some hall. -/
def State.anyDead (s : State) (p : Nat) : Bool := (List.range 64).any fun h => s.isDead h p

/-- R135, R144: a numbered packet of a type is taken when it is the next of its quadruple; one from a dead peer is discarded. -/
def takeNumbered (s : State) (ptype : Nat) (body : State → Packet → Res) : Res :=
  match s.arc.inbox[s.focus.idx]? with
  | none => waits s
  | some p =>
    if p.ptype ≠ ptype then waits s
    else if s.anyDead p.src then .next (s.dropPacket s.focus.idx)
    else
      let k := quadKey p.shall p.sport p.src p.cls
      let n := Tab.get s.arc.rxSeq k 0
      if p.seq ≠ n then waits s
      else
        let s := s.dropPacket s.focus.idx
        body { s with arc := { s.arc with rxSeq := Tab.put s.arc.rxSeq k ((n + 1) % 65536) } } p

/-- The hall that waits for the answer that a packet brings. -/
def State.waitHall (s : State) (p : Packet) : Option Nat :=
  match s.arc.outst.find? fun o => o.tag == p.tag && o.peer == p.src with
  | some o => some o.hall
  | none => (s.arc.rdfors.find? fun r => r.tag == p.tag).map Rdfor.hall

/-- R143, R144: an answer of a type is taken; one from a peer whose bit is set in the hall that waits is discarded. -/
def takeAnswer (s : State) (ptype : Nat) (body : State → Packet → Res) : Res :=
  match s.arc.inbox[s.focus.idx]? with
  | none => waits s
  | some p =>
    if p.ptype ≠ ptype then waits s
    else
      let t := s.dropPacket s.focus.idx
      if (s.waitHall p).any fun h => s.isDead h p.src then .next t else body t p

/-- R144: an unnumbered packet to a recipient is taken; one from a peer that some hall has marked dead is discarded. -/
def takeDelivery (s : State) (ptype : Nat) (body : State → Packet → Res) : Res :=
  match s.arc.inbox[s.focus.idx]? with
  | none => waits s
  | some p =>
    if p.ptype ≠ ptype then waits s
    else
      let t := s.dropPacket s.focus.idx
      if s.anyDead p.src then .next t else body t p

/-- The access key of a request. -/
def Packet.akey (p : Packet) : Nat := bodyGet p.body 0 4

/-- R137: the acknowledgement of a packet. -/
def State.sendWack (s : State) (p : Packet) (st : Nat) (old : Nat := 0) : State :=
  s.post { ptype := 0x06, dst := p.src, cls := p.cls, shall := p.shall, sport := p.sport, tag := p.tag,
           body := bodyPut (bodyPut 0 0 1 st) 8 16 old }

/-! ### Lines (R109, R110, R138) -/

/-- Where the arcade's own faults are found. -/
def arcSite : Site := { hall := 0, eclass := 4, own := false }

/-- R110: a line as it leaves: checked; one that fails, or that cannot be read, has all four poison marks set. -/
def State.egressLine (s : State) (li pa key : Nat) : State × (Nat × BitVec 4 × W32 × List Byte) :=
  let bad := s.checkBad pa key
  let marks := s.lineMarks pa
  let r := s.edgeRead pa 64 key
  let s := r.s.logAll arcSite r.logs
  let s := if bad then s.logFault .check arcSite pa true else s
  let m := if bad || r.cause != .none then 15 else if r.logs.isEmpty then marks else s.lineMarks pa
  (s, (li, BitVec.ofNat 4 m, crc32c r.bytes, r.bytes))

/-- R110: lines from a PA as they leave. -/
def State.egressLines (s : State) (pa key : Nat) : Nat → Nat → State × List (Nat × BitVec 4 × W32 × List Byte)
  | 0, _ => (s, [])
  | n + 1, i =>
    let (s, l) := s.egressLine i (pa + 64 * i) key
    let (s, ls) := s.egressLines pa key n (i + 1)
    (s, l :: ls)

/-- R138: the poison marks with which a received line is stored: all four where it fails its check value, logged once. -/
def State.ingressMarks (s : State) (l : Nat × BitVec 4 × W32 × List Byte) (pa : Nat) : State × BitVec 4 :=
  if crc32c l.2.2.2 = l.2.2.1 then (s, l.2.1) else (s.logFault .check arcSite pa true, 15)

/-- The line with an index in a packet. -/
def Packet.line (p : Packet) (i : Nat) : Nat × BitVec 4 × W32 × List Byte :=
  (p.lines.find? fun l => l.1 == i).getD (i, 15, 0, zeros 64)

/-! ### `rreq`, `wreq`, `areq` (R133, R137, R140, R296) -/

/-- R140 `RREQ`: the owner answers a read with the lines, or with the status that refuses it. -/
def execRreq (s : State) : Res :=
  takeNumbered s 0x01 fun s p =>
    let base := p.addr / 64 * 64
    let ans : Packet := { ptype := 0x05, dst := p.src, cls := p.cls, shall := p.shall, sport := p.sport, tag := p.tag, addr := p.addr }
    match s.admitRange p.src p.akey base (64 * (p.nl + 1)) .read with
    | (s, .error c) => .next (s.post { ans with body := bodyPut 0 0 1 c.code })
    | (s, .ok (pa, key)) =>
      let (s, ls) := s.egressLines pa key (p.nl + 1) 0
      .next (s.post { ans with nl := p.nl, lines := ls })

/-- The part of n bytes at an address that lies in line k of them: its address and length. -/
def linePart (a n k : Nat) : Nat × Nat :=
  let lo := max a ((a / 64 + k) * 64)
  (lo, min (a + n) ((a / 64 + k + 1) * 64) - lo)

/-- R137, R138: the lines of an admitted store of n bytes are stored. -/
def storeLines (s : State) (p : Packet) (pa key n : Nat) : Nat → State × Cause
  | 0 => (s, .none)
  | k + 1 =>
    match storeLines s p pa key n k with
    | (s, .none) =>
      let l := p.line k
      let (a, len) := linePart pa n k
      let (s, m) := s.ingressMarks l (a / 64 * 64)
      let w := s.edgeWrite a (l.2.2.2.take len) key { marks := markedGranules a len m.toNat, cv := if len = 64 ∧ m = l.2.1 then some l.2.2.1 else none }
      (w.s.logAll arcSite w.logs, w.cause)
    | r => r

/-- R111, R124: the first cause for which the edge refuses one of the lines of a store. -/
def State.rangeRefuses (s : State) (pa key n : Nat) : Nat → Cause
  | 0 => .none
  | k + 1 => match s.rangeRefuses pa key n k with
    | .none => s.edgeRefuses (linePart pa n k).1 (linePart pa n k).2 key
    | c => c

/-- R140 `WREQ`: the owner stores the lines and acknowledges, or writes nothing and answers with the status. -/
def execWreq (s : State) : Res :=
  takeNumbered s 0x02 fun s p =>
    let n := bodyGet p.body 4 1
    let len := if n = 0 then 64 * (p.nl + 1) else n
    match s.admitRange p.src p.akey p.addr len .write with
    | (s, .error c) => .next (s.sendWack p c.code)
    | (s, .ok (pa, key)) =>
      let e := if n = 0 then .none else s.rangeRefuses pa key len (p.nl + 1)
      if e != Cause.none then .next (s.sendWack p e.code)
      else
        let (s, c) := storeLines s p pa key len (p.nl + 1)
        .next (s.sendWack p c.code)

/-- R296 `AREQ`: the owner applies one atomic and answers with the old value. A poisoned element answers with the code of
`poisonuse` (DESIGN CHOICE, log 22). -/
def execAreq (s : State) : Res :=
  takeNumbered s 0x03 fun s p =>
    let b := bodyGet p.body 4 1
    let op := b % 16
    let esz := b / 16 % 4
    let n := if esz = 0 then 16 else if esz = 2 then 4 else 8
    let anchor : BitVec 12 := BitVec.ofNat 12 (bodyGet p.body 6 2)
    let cell := op = 9 || op = 10
    if 12 < op || esz = 1 || (cell && esz ≠ 0) || (!cell && esz = 0) || p.addr % n ≠ 0 then .next (s.sendWack p Cause.range.code)
    else match s.admitRange p.src p.akey p.addr n .atomic with
      | (s, .error c) => .next (s.sendWack p c.code)
      | (s, .ok (pa, key)) =>
        let u := s.edgeUpdate pa n key op (bodyGet p.body 8 8) (bodyGet p.body 24 8) anchor false
        let s := u.s.logAll arcSite u.logs
        if u.cause != .none then .next (s.sendWack p u.cause.code)
        else if u.poison then .next (s.sendWack p Cause.poisonuse.code)
        else .next (s.sendWack p 0 u.old)

/-! ### `cred` (R298, R301, R302) -/

/-- R298: the values of a `cred`, in order, with their poison: that of their granule in the line, or of a line that fails its check. -/
def Packet.values (p : Packet) (n : Nat) : List (Nat × Bool) :=
  (List.range n).map fun j =>
    let l := p.line (j / 16)
    let ok := crc32c l.2.2.2 = l.2.2.1
    (leNat ((l.2.2.2.drop (4 * (j % 16))).take 4), !ok || bitB l.2.1 (j % 16 / 4))

/-- R298: the values of a packet enter their cells one after another. -/
def credApply (s : State) (pa key op : Nat) (anchor : BitVec 12) : List (Nat × Bool) → Nat → State × Cause
  | [], _ => (s, .none)
  | (v, pois) :: t, j =>
    let u := s.edgeUpdate (pa + 16 * j) 16 key op v 0 anchor pois
    let s := u.s.logAll arcSite u.logs
    if u.cause != .none then (s, u.cause) else credApply s pa key op anchor t (j + 1)

/-- R298, R302 `CRED`: the owner admits the cells and the record, checks the record, applies the contributions, counts the member's
end, and answers with the status. -/
def execCred (s : State) : Res :=
  takeNumbered s 0x04 fun s p =>
    let n := bodyGet p.body 16 4
    let b := bodyGet p.body 4 1
    let ty := b % 16
    let round := bodyGet p.body 5 1 % 16
    let crec := bodyGet p.body 8 8
    let anchor : BitVec 12 := BitVec.ofNat 12 (bodyGet p.body 6 2)
    let op := if ty = 0 then 9 else 10
    let no (s : State) (c : Cause) : Res := .next (s.sendWack p c.code)
    if 1 < ty || 256 < n || p.addr % 16 ≠ 0 then no s .range
    else match s.admitRange p.src p.akey p.addr (max 1 (16 * n)) .atomic with
      | (s, .error c) => no s c
      | (s, .ok (pa, key)) =>
        let s := (p.lines.filter fun l => crc32c l.2.2.2 != l.2.2.1).foldl (fun s l => s.logFault .check arcSite (pa + 256 * l.1) true) s
        let apply (s : State) (fin : State → State) : Res :=
          match credApply s pa key op anchor (p.values n) 0 with
          | (s, .none) => .next ((fin s).sendWack p 0)
          | (s, c) => no s c
        if crec = 0 then apply s id
        else match s.admitRange p.src p.akey crec 64 .atomic with
          | (s, .error c) => no s c
          | (s, .ok (rpa, rkey)) =>
            let x : Xlat := { pa := rpa, key := rkey }
            match s.readRecord x round with
            | .error c => no s c
            | .ok _ => apply s fun s =>
              if b.testBit 4 then (match s.readRecord x round with
                | .ok v => s.countMember x round v
                | .error _ => s)
              else s

/-! ### `rdreq` (R153) -/

/-- R153: the lines of a range: of admitted pages as they are, of refused ones zero and poisoned; and the first refusal with the
offset of its first line. `own` is the requester's own memory, which no import entry guards. -/
def gatherLines (own : Option (Nat × Nat)) (peer akey addr : Nat) : Nat → State → Nat → Option (Cause × Nat) →
    State × List (BitVec 4 × W32 × List Byte) × Option (Cause × Nat)
  | 0, s, _, flt => (s, [], flt)
  | n + 1, s, i, flt =>
    let a := addr + 64 * i
    let (s, x) := match own with
      | some (pa, key) => (s, Except.ok (pa + 64 * i, key))
      | none => s.admitPeer peer akey a .read
    match x with
    | .ok (pa, key) =>
      let (s, l) := s.egressLine 0 pa key
      let (s, ls, f) := gatherLines own peer akey addr n s (i + 1) flt
      (s, l.2 :: ls, f)
    | .error c =>
      let z := zeros 64
      let (s, ls, f) := gatherLines own peer akey addr n s (i + 1) (if flt.isSome then flt else some (c, 64 * i))
      (s, (15, crc32c z, z) :: ls, f)

/-- R133, R153: the `rdwr` packets of a delivery, up to sixteen lines each, in window order. -/
def rdwrPackets (p : Packet) (grp : Bool) (rcpt wid kslot first total : Nat) : Nat → Nat → List (BitVec 4 × W32 × List Byte) → List Packet
  | 0, _, _ => []
  | f + 1, at_, ls => match ls with
    | [] => []
    | _ =>
      let now := ls.take 16
      let b0 := bodyPut (bodyPut (bodyPut 0 0 1 p.src) 1 1 kslot) 2 1 wid
      let b1 := bodyPut (bodyPut (bodyPut (bodyPut b0 6 2 p.tag) 8 4 (first + at_)) 12 4 first) 16 4 total
      let q : Packet := { ptype := 0x08, dst := rcpt, cls := p.cls, shall := p.shall, sport := p.sport, tag := p.tag, nl := now.length - 1,
                          body := b1, lines := now.mapIdx fun i l => (i, l.1, l.2.1, l.2.2) }
      q :: rdwrPackets p grp rcpt wid kslot first total f (at_ + 16) (ls.drop 16)

/-- R153 `RDREQ`: the owner reads the range and sends it to the recipient, then `rdflt` where a page was refused, then `rdsent`. -/
def execRdreq (s : State) : Res :=
  takeNumbered s 0x07 fun s p =>
    let d1 := bodyGet p.body 8 8
    let d2 := bodyGet p.body 16 8
    let n := d2 % 2 ^ 32 / 64
    let first := d2 / 2 ^ 32 / 64
    let grp := d1.testBit 55
    let own := if p.src = s.arc.pid then (s.arc.rdfors.find? fun r => r.tag == p.tag).bind (·.own) else none
    let (s, ls, flt) := gatherLines own p.src p.akey p.addr n s 0 none
    let ps := rdwrPackets p grp (d1 / 2 ^ 56 % 256) (d1 / 2 ^ 32 % 256) (bodyGet p.body 4 1) first n n 0 ls
    let s := ps.foldl (fun s q => s.post q grp) s
    let ans : Packet := { ptype := 0x0A, dst := p.src, cls := p.cls, shall := p.shall, sport := p.sport, tag := p.tag }
    let s := match flt with
      | none => s
      | some (c, off) => s.post { ans with body := bodyPut (bodyPut 0 0 1 c.code) 8 8 off }
    .next (s.post { ans with ptype := 0x09 })

/-! ### Watched lines (R353, R354) -/

/-- R353 `PEER_LINE_REGISTRATION`: a peer (`idx`) asks the owner to register the line of an export address (`val`), with a tag and its
access key (`aux`: the tag below 2^16, the key above). A refused request is reported as dropped. -/
def execPeerLineRegistration (s : State) : Res :=
  let peer := s.focus.idx % 256
  let tag := s.focus.aux % 65536
  match s.admitPeer peer (s.focus.aux / 65536 % 2 ^ 32) (bitsN s.focus.val 47 0) .read with
  | (s, .error _) => .next { s with arc := { s.arc with invalOut := s.arc.invalOut ++ [(peer, tag)] } }
  | (s, .ok (pa, _)) => .next { s with arc := { s.arc with peerReg := s.arc.peerReg ++ [(s.placeOf pa / 64, peer, tag)] } }

/-- R354 `ARCADE_INVALIDATION`: the owner of a peer line reports a write, or drops the registration: the entry `idx` of the focused thread
latches cause 5. -/
def execArcadeInvalidation (s : State) : Res :=
  let m := s.focus.idx % 16
  let w := s.me.watch m
  if !w.armed || w.peer.isNone then waits s
  else .next (s.setMe (s.me.setWatch m { w with armed := false, cause := 5 }))

end Sys2Proof.Machine
end

