-- ==== Sys2Proof/Machine/ArcReq.lean ====
section
/-! DEFINITION. The requester's side of the arcade (R133, R137, R142–R145, R151–R156): answers, dead peers, three-party reads; and the recipient's: receive windows and deliveries (R147–R150). -/

namespace Sys2Proof.Machine

/-! ### Answers to reads (R112, R133, R138) -/

/-- What an answer gives for a line: its bytes, poison marks and check value; none where the read was refused. -/
abbrev LineAns := Option (List Byte × BitVec 4 × W32)

/-- R138: the line of an answer as it is taken: one that fails its check value is poisoned whole, and logged once. -/
def State.answerLine (s : State) (p : Packet) : State × LineAns :=
  let l := p.line 0
  let (s, m) := s.ingressMarks l (p.addr / 64 * 64)
  (s, some (l.2.2.2, m, l.2.2.1))

/-- n bytes of a line from an offset, and whether a granule they touch is poisoned; a refused read gives poison. -/
def lineBytes (free : W64) (a : LineAns) (off n : Nat) : List Byte × Bool :=
  match a with
  | none => (leBytes n free.toNat, true)
  | some (bs, m, _) => ((bs.drop off).take n, (granules off n).any fun g => bitB m g)

/-- The element and piece that a packet with a tag asked for. -/
def Stair.tagged (x : Stair) (tag : Nat) : Option (Elem × Piece) :=
  let es := (x.out.map fun i => match i with
    | .el e => [e]
    | _ => []).flatten ++ x.auxq
  es.findSome? fun e => (e.ps.find? fun p => p.tag == some tag).map fun p => (e, p)

/-- R161, R167: a line of a peer returns to a stair: it serves the consecutive elements from the one that asked for it, or the read of an array's
entry. -/
def State.stairLine (s : State) (h n tag : Nat) (c : Cause) (a : LineAns) : State :=
  let x := s.stair h n
  match x.tagged tag with
  | none => s
  | some (e, p) =>
    let s := if c = .none then s else s.stairLog h n e.ctx c e.va
    let l : CurLine := match a with
      | none => { line := p.pa / 64, key := p.key, rem := p.rem, data := leBytes 64 s.free.toNat, pois := [0, 1, 2, 3] }
      | some (bs, m, _) => { line := p.pa / 64, key := p.key, rem := p.rem, data := bs, pois := (List.range 4).filter fun g => bitB m g }
    let s := s.drawn
    if e.aux then
      let w : PW32 := { v := w32 (leNat (l.value p).1), poison := (l.value p).2 }
      s.setStair h n { x with auxq := x.auxq.filter (· != e), run := x.run.map fun r => { r with aux := Tab.put r.aux e.va w } }
    else s.setStair h n (x.fill (fun q => q.tag == some tag && q.got.isNone) l (c == .none))

/-- R176, R181: a permanent fault of a command at an address is kept, the first. -/
def DCmd.failed (k : DCmd) (c : Cause) (va ix : Nat) : DCmd :=
  if k.fault.isSome then k else { k with fault := some c, faultVa := w64 va, faultIx := ix }

/-- R186, R298: a refused read stops the command. -/
def DCmd.strict (k : DCmd) : Bool := bitsN k.word 127 120 == 0x12 || bitsN k.word 127 120 == 0x0A

/-- R181, R186, R190: the line of a part of a command returns; a refused part is poison, or stops the command. -/
def State.cmdLine (s : State) (h ticket tag : Nat) (c : Cause) (a : LineAns) : State :=
  match s.cmd h ticket with
  | none => s
  | some k =>
    let s := if c = .none then s else s.logFault c { hall := h, elem := k.port, eclass := 4, ctx := k.ctx }
    let free := s.free
    let keeps := bitsN k.word 127 120 == 0x02 && copyCarries k.desc
    let load := bitsN k.word 127 120 == 0x16
    let fill (b : CBuf) : CBuf :=
      if b.ps.any fun p => p.tag == some tag then
        let b := { b with ps := b.ps.map fun p => if p.tag == some tag then { p with got := some (lineBytes free a (p.pa % 64) p.len) } else p }
        match a with
        | some (_, m, cv) => if keeps then { b with cv := some cv, marks := m.toNat } else if load then { b with cv := some 0, marks := m.toNat } else b
        | none => b
      else b
    let stop (k : DCmd) : DCmd := match k.buf.find? fun b => b.ps.any fun p => p.tag == some tag with
      | some b => if k.strict && c != Cause.none then k.failed c b.va b.ix else k
      | none => k
    s.drawn.updCmd h ticket fun k => { stop k with buf := k.buf.map fill }

/-- An answer to a read reaches whoever waits for it. -/
def State.readAnswered (s : State) (o : Outst) (c : Cause) (a : LineAns) : State :=
  match o.who with
  | .thread h x off n =>
    let s := if c = .none then s else s.logFault c { hall := h, eclass := 3, ctx := x }
    let v := lineBytes s.free a off n
    -- a fetch keeps the cause, for its trap
    let v := if (s.thr h x).ir.isSome then v else if c != .none then (leBytes 8 c.code, true) else if v.2 then (leBytes 8 Cause.poisonuse.code, true) else v
    s.drawn.updThr h x fun t => if t.parked then { t with served := some { v := w64 (leNat v.1), poison := v.2 } } else t
  | .load h x d off n signed =>
    let s := if c = .none then s else s.logFault c { hall := h, eclass := 3, ctx := x }
    let v := lineBytes s.free a off n
    s.drawn.updThr h x fun t => if t.loads.contains d then
        { t.wx (BitVec.ofNat 5 d) (extend n signed (w64 (leNat v.1))) v.2 with loads := t.loads.erase d }
      else t
  | .stairRead h n => s.stairLine h n o.tag c a
  | .cmd h ticket => s.cmdLine h ticket o.tag c a
  | _ => s

/-! ### Acknowledgements (R137, R140, R144) -/

/-- R295: the old value of a remote element of a `ramo`, or the fault that refused it. -/
def DCmd.elementDone (k : DCmd) (tag : Nat) (c : Cause) (bs : List Byte) : DCmd :=
  let k : DCmd := match k.buf.find? fun b => b.ps.any fun p => p.tag == some tag with
    | some b => if c = .none then k else k.failed c b.va b.ix
    | none => k
  { k with buf := k.buf.map fun b =>
      if b.ps.any fun p => p.tag == some tag then { b with ps := b.ps.map fun p => { p with got := some (bs.take p.len, c != .none) } } else b }

/-- R137: an acknowledgement, or the status that refuses an access, reaches whoever waits for it. -/
def State.ackAnswered (s : State) (o : Outst) (c : Cause) (old : Nat) : State :=
  match o.who with
  | .write h x => s.updThr h x fun t => if t.parked then { t with served := some { v := w64 c.code } } else t
  | .amo h x n =>
    let v : Reg64 := if c = .none then { v := w64 (old % 2 ^ (8 * n)) } else { v := w64 c.code, poison := true }
    s.updThr h x fun t => if t.parked then { t with served := some v } else t
  | .stairWrite h n =>
    let x := s.stair h n
    (match Tab.find x.remw o.tag with
    | none => s
    | some es =>
      let s := s.setStair h n { x with remw := Tab.del x.remw o.tag, unacked := x.unacked - 1 }
      let fill (s : State) (bs : List Byte) (pois : Bool) : State := s.updStair h n fun x => x.mapPieces fun k p =>
        if k.kind = .atomic && p.tag == some o.tag then { p with got := some (bs, pois) } else p
      es.foldl (fun s e =>
        if c = .none then fill s (leBytes e.n old) false
        else if c = .poisonuse then fill (s.drawn.stairLog h n e.ctx c e.va) (leBytes e.n s.free.toNat) true
        else s.lateStop h n c e) s)
  | .cmd h ticket =>
    (match s.cmd h ticket with
    | none => s
    | some k =>
      let ramo : Bool := bitsN k.word 127 120 == 0x09
      let bs := if c = .none then leBytes 16 old else leBytes 16 s.free.toNat
      s.drawn.updCmd h ticket fun k =>
        let w := Tab.get k.sentW o.tag (0, 0)
        let k := { k with waitAcks := k.waitAcks - 1, sentW := Tab.del k.sentW o.tag }
        if ramo && k.buf.any (fun b => b.ps.any fun p => p.tag == some o.tag) then k.elementDone o.tag c bs
        else if c = .none then k else k.failed c w.1 w.2)
  | _ => s

/-- The outstanding packet that an answer returns to. -/
def State.answered (s : State) (p : Packet) : Option Outst := s.arc.outst.find? fun o => o.tag == p.tag && o.peer == p.src
/-- It is outstanding no longer. -/
def State.closeOut (s : State) (o : Outst) : State := { s with arc := { s.arc with outst := s.arc.outst.erase o } }

/-- R133 `RRESP`: read data, or the status that refuses the read, reaches the requester. -/
def execRresp (s : State) : Res :=
  takeAnswer s 0x05 fun s p =>
    match s.answered p with
    | none => .next s
    | some o =>
      let s := s.closeOut o
      let st := bodyGet p.body 0 1
      if st = 0 then
        let (s, a) := s.answerLine p
        .next (s.readAnswered o .none a)
      else .next (s.readAnswered o (Cause.ofCode st) none)

/-- R137 `WACK`: a remote write, atomic or reduction update is acknowledged, or refused. -/
def execWack (s : State) : Res :=
  takeAnswer s 0x06 fun s p =>
    match s.answered p with
    | none => .next s
    | some o => .next ((s.closeOut o).ackAnswered o (Cause.ofCode (bodyGet p.body 0 1)) (bodyGet p.body 8 16))

/-! ### Three-party reads (R151–R156) -/

def State.rdfor (s : State) (h ticket : Nat) : Option Rdfor := s.arc.rdfors.find? fun r => r.hall == h && r.ticket == ticket
def State.updRdfor (s : State) (h ticket : Nat) (f : Rdfor → Rdfor) : State :=
  { s with arc := { s.arc with rdfors := s.arc.rdfors.map fun r => if r.hall == h && r.ticket == ticket then f r else r } }

/-- R154: `scode` and `who`. DESIGN CHOICE (log 55): where an acknowledgement is missing after an earlier `rdflt`, they name the owner's fault, as for a
recipient's refusal; the specification does not say which of the two stands then. -/
def Rdfor.scode (r : Rdfor) : Nat :=
  if r.late = 1 then 6 else if r.flt ≠ 0 then r.flt else if r.late = 2 then 6 else r.ackS.getD 0
def Rdfor.who (r : Rdfor) : Nat := if r.late = 1 || r.flt ≠ 0 then 1 else if r.scode ≠ 0 then 2 else 0

/-- R154: the status record. -/
def Rdfor.record (r : Rdfor) : Nat :=
  2 ^ 127 + (if r.pois || r.flt ≠ 0 then 2 ^ 126 else 0) + r.scode * 2 ^ 112 + r.who * 2 ^ 104 + r.acks % 2 ^ 32 * 2 ^ 64 + r.fmask.toNat

/-- R153: the command holds all it waits for. -/
def Rdfor.complete (r : Rdfor) : Bool := r.late ≠ 0 || (r.sent && r.ackS.isSome)

/-- R153, R155, R156: a complete `rdfor` leaves its stair, with its fault. -/
def State.rdforGone (s : State) (r : Rdfor) : State :=
  let gone (o : Outst) : Bool := match o.who with
    | .rdfor h t => h == r.hall && t == r.ticket
    | _ => false
  let s := { s with arc := { s.arc with
      rdfors := s.arc.rdfors.filter (fun q => !(q.hall == r.hall && q.ticket == r.ticket)), outst := s.arc.outst.filter fun o => !gone o } }
  let s := s.updStair r.hall r.port fun x => { x with rdfors := x.rdfors - 1 }
  if r.scode = 0 then s else s.updCmd r.hall r.ticket fun k => k.failed (Cause.ofCode r.scode) (dwBits k.desc 0 55 0) 0

/-- R153: a complete `rdfor` writes its status record and is done; one whose record lies at a peer is left to its command's step. -/
def State.rdforSettle (s : State) (h ticket : Nat) : State :=
  match s.rdfor h ticket with
  | none => s
  | some r =>
    if !r.complete then s
    else if r.statRem.isSome then s.updRdfor h ticket fun r => { r with ovr := true }
    else
      let va := match s.cmd h ticket with
        | some k => w64 (dwBits k.desc 0 55 0)
        | none => 0
      let w := s.edgeWrite r.stat (leBytes 16 r.record) r.statKey
      ((w.s.logAll arcSite w.logs).rdforGone r).cmdDone h ticket .none va

/-- R153: a `rdfor` begins at its requester: its status record lies at `y`. -/
def State.newRdfor (s : State) (c : DCmd) (owner : Nat) (y : Xlat) : Rdfor :=
  { hall := s.focus.hall, ticket := c.ticket, port := c.port, tag := s.arc.nextTag, owner := owner, rcpt := dwBits c.desc 1 63 56,
    grp := (dw c.desc 1).testBit 55, stat := y.pa, statKey := y.key, statRem := y.rem, wid := dwBits c.desc 1 39 32 }

/-- R151, R153: what the requester sends. -/
def rdreqPacket (owner addr kslot : Nat) (akey : W32) (w : CmdW) (d : BitVec 512) : Packet :=
  let b := bodyPut (bodyPut (bodyPut 0 0 4 akey.toNat) 4 1 kslot) 5 1 ((if w.acq then 8 else 0) + w.scope)
  { ptype := 0x07, dst := owner, addr := addr, body := bodyPut (bodyPut b 8 8 (dw d 1)) 16 8 (dw d 2) }

/-- The key slot of a context's region. -/
def State.kslotOf (s : State) (h ctx : Nat) : Nat := match s.regionAt h ctx with
  | none => 0
  | some r => (s.region r).eff.key

/-- R155: `wabort` goes to every live recipient of a `rdfor`. -/
def State.sendAborts (s : State) (r : Rdfor) : State :=
  let dst := if r.grp then (s.groupMembers r.rcpt).getD [] else [r.rcpt]
  (dst.filter fun m => !s.isDead r.hall m).foldl (fun s m =>
    s.post { ptype := 0x0D, dst := m, tag := r.tag, body := bodyPut (bodyPut 0 2 1 r.wid) 6 2 r.tag }) s

/-- R155: a `rdfor` ends because its owner has not answered. -/
def State.rdforLate (s : State) (r : Rdfor) : State :=
  ((s.sendAborts r).updRdfor r.hall r.ticket fun r => { r with late := 1 }).rdforSettle r.hall r.ticket

/-- R155: a `rdfor` that waits, and whose owner is already dead, ends as one that has been sent: aborts, and a status record. -/
def State.rdforDead (s : State) (c : DCmd) (owner : Nat) (y : Xlat) : State :=
  let r := s.newRdfor c owner y
  let s := { s with arc := { s.arc with rdfors := s.arc.rdfors ++ [r], nextTag := (s.arc.nextTag + 1) % 65536 } }
  ((s.updStair s.focus.hall c.port fun x => { x with rdfors := x.rdfors + 1 }).updMyCmd fun c => { c with acted := true }).rdforLate r

/-- R155: the owner that a `rdfor` reads from is dead, as its hall knows: the owner and the export address. -/
def State.deadOwner (s : State) (c : DCmd) : Option (Nat × Nat) :=
  match s.walk (s.rootOf s.focus.hall c.ictx) (w64 (dwBits c.desc 0 55 0)) .read with
  | (_, .leaf pte psz, _) =>
    let x := leafXlat pte psz (w64 (dwBits c.desc 0 55 0))
    (match x.rem with
    | some p => if s.peerFault s.focus.hall p false = .deadpeer then some (p, x.pa) else none
    | none => none)
  | _ => none

/-- R153 `rdfor`: clears the status record and asks the owner; later, where the record lies at a peer, writes it there. -/
def execRdfor (port : BitVec 6) (ctx : BitVec 2) (cls flags : BitVec 8) (imm : BitVec 32) (addr : BitVec 64) (s : State) : Res :=
  cmdRun s (cmdWord 0x06 port ctx cls flags imm addr) fun c =>
    let h := s.focus.hall
    let d := c.desc
    let w := cmdW c.word
    let sva := dwBits d 3 55 0
    if c.acted then
      match s.rdfor h c.ticket with
      | some r =>
        if !r.ovr then waits s
        else (match s.putBytes c { pa := r.stat, key := r.statKey, rem := r.statRem } (leBytes 16 r.record) 0 {} sva 0 with
          | .wait s => .next s
          | .fault s _ => .next (s.rdforGone r)
          | .done s => .next (s.rdforGone r))
      | none => if 0 < c.waitAcks then waits s else cmdEnds s .none c.faultVa.toNat
    else if c.fault.isSome then cmdEnds s .none c.faultVa.toNat
    else if (s.deadOwner c).isSome then
      (match s.cmdXlate c sva .write with
      | .wait s => .next s
      | .fault s e => .next (s.cmdFault e sva 0)
      | .ok s y _ => .next (s.rdforDead c ((s.deadOwner c).getD (0, 0)).1 y))
    else match s.cmdXlate c (dwBits d 0 55 0) .read with
      | .wait s => .next s
      | .fault s e => .next (s.cmdFault e (dwBits d 0 55 0) 0)
      | .ok s x _ => match s.cmdXlate c sva .write with
        | .wait s => .next s
        | .fault s e => .next (s.cmdFault e sva 0)
        | .ok s y _ =>
          let owner := x.rem.getD s.arc.pid
          if !s.quadRoom h c.port owner w.cls (if y.rem = some owner then 2 else 1) then waits s
          else match s.putBytes c y (zeros 16) 0 {} sva 0 with
            | .wait s => .next s
            | .fault s e => .next (s.cmdFault e sva 0)
            | .done s =>
              let r := { s.newRdfor c owner y with own := if x.rem.isNone then some (x.pa, x.key) else none }
              let s := s.sendCmd h c.port w.cls (rdreqPacket owner x.pa (s.kslotOf h c.ictx) (s.akeyOf h c.ictx) w d) (.rdfor h c.ticket)
              let s := { s with arc := { s.arc with rdfors := s.arc.rdfors ++ [r] } }
              .next ((s.updStair h c.port fun x => { x with rdfors := x.rdfors + 1 }).updMyCmd fun c => { c with acted := true })

/-- The `rdfor` that a packet answers. -/
def State.rdforOf (s : State) (p : Packet) : Option Rdfor := s.arc.rdfors.find? fun r => r.tag == p.tag

/-- R153 `RDSENT`. -/
def execRdsent (s : State) : Res :=
  takeAnswer s 0x09 fun s p =>
    match s.rdforOf p with
    | none => .next s
    | some r =>
      let s := match s.answered p with
        | some o => s.closeOut o
        | none => s
      .next ((s.updRdfor r.hall r.ticket fun r => { r with sent := true }).rdforSettle r.hall r.ticket)

/-- R153, R154 `RDFLT`. -/
def execRdflt (s : State) : Res :=
  takeAnswer s 0x0A fun s p =>
    match s.rdforOf p with
    | none => .next s
    | some r => .next (s.updRdfor r.hall r.ticket fun r => { r with flt := bodyGet p.body 0 1 })

/-- R153, R154 `RDACK`: the acknowledgement of the one recipient; those of a group are the switch's. -/
def execRdack (s : State) : Res :=
  takeAnswer s 0x0B fun s p =>
    match s.rdforOf p with
    | none => .next s
    | some r =>
      if r.grp then .next s
      else
        let st := bodyGet p.body 0 1
        let f (r : Rdfor) : Rdfor := { r with
          ackS := some st, acks := if st = 0 then 1 else 0, fmask := if st = 0 then 0 else 1, pois := r.pois || bodyGet p.body 1 1 % 2 = 1 }
        .next ((s.updRdfor r.hall r.ticket f).rdforSettle r.hall r.ticket)

/-- R153, R154 `GACK`: what the switch has collected from a group. -/
def execGack (s : State) : Res :=
  takeAnswer s 0x0C fun s p =>
    match s.rdforOf p with
    | none => .next s
    | some r =>
      if !r.grp then .next s
      else
        let f (r : Rdfor) : Rdfor := { r with
          ackS := some (bodyGet p.body 10 1), acks := bodyGet p.body 8 2, fmask := w64 (bodyGet p.body 0 8),
          pois := r.pois || bodyGet p.body 11 1 % 2 = 1 }
        .next ((s.updRdfor r.hall r.ticket f).rdforSettle r.hall r.ticket)

/-! ### Dead peers (R142–R145, R155) -/

/-- R144: an outstanding packet to a dead peer ends: a load delivers poison; a store, atomic or reduction update stops or faults. Each is
logged once. -/
def State.endOut (s : State) (o : Outst) : State :=
  let s := s.closeOut o
  let logs (s : State) (hall elem eclass ctx : Nat) : State := s.logFault .deadpeer { hall := hall, elem := elem, eclass := eclass, ctx := ctx }
  match o.who with
  | .rdfor _ _ => s
  | .write h x => (logs s h 0 3 x).ackAnswered o .deadpeer 0
  | .stairWrite h n => (logs s h n 1 ((s.stair h n).run.map (·.ctx) |>.getD 0)).ackAnswered o .deadpeer 0
  | .stairRead _ _ => s.readAnswered o .deadpeer none
  | .thread _ _ _ _ => s.readAnswered o .deadpeer none
  | .load _ _ _ _ _ _ => s.readAnswered o .deadpeer none
  | .amo h x _ => (logs s h 0 3 x).ackAnswered o .deadpeer 0
  | .cmd h k => (match s.cmd h k with
    | none => s
    | some c =>
      if c.buf.any (fun b => b.ps.any fun p => p.tag == some o.tag && p.got.isNone) && bitsN c.word 127 120 ≠ 0x09 then s.readAnswered o .deadpeer none
      else (logs s h c.port 4 c.ctx).ackAnswered o .deadpeer 0)

/-- R144, R353: registrations that a hall still expects of a dead peer are refused. -/
def State.failRegs (s : State) (hall p : Nat) : Nat → State
  | 0 => s
  | n + 1 => match s.arc.regOut.findIdx? fun r => r.1 == p && r.2.2.1 / 4 == hall with
    | some k => (s.regAcked k .deadpeer).failRegs hall p n
    | none => s

/-- R142, R144, R155: a hall sets a peer's bit and ends all it still expects from the peer. -/
def State.markDead (s : State) (hall p : Nat) : State :=
  if s.isDead hall p then s
  else
    let s := { s with arc := { s.arc with dead := (256 * hall + p) :: s.arc.dead } }
    let s := (s.arc.outst.filter fun o => o.hall == hall && o.peer == p).foldl State.endOut s
    let s := s.failRegs hall p s.arc.regOut.length
    (s.arc.rdfors.filter fun r => r.hall == hall && r.owner == p && !r.sent).foldl State.rdforLate s

/-- R142 `SOURCE_TIMEOUT`: an outstanding packet (`idx`) has had no answer in time: the issuing hall sets the peer's bit. -/
def execSourceTimeout (s : State) : Res :=
  match s.arc.outst[s.focus.idx]? with
  | none => waits s
  | some o => .next (s.markDead o.hall o.peer)

/-- R142 `DEAD_PEER_BROADCAST`: a hall receives a peer's bit (`idx`) that another hall has set. -/
def execDeadPeerBroadcast (s : State) : Res :=
  let p := s.focus.idx % 256
  if !s.anyDead p || s.isDead s.focus.hall p then waits s else .next (s.markDead s.focus.hall p)

/-- A `rdfor` ends, if marking its owner dead has not ended it. -/
def State.rdforLateOnce (s : State) (r : Rdfor) : State :=
  match s.rdfor r.hall r.ticket with
  | some r => if r.complete then s else s.rdforLate r
  | none => s

/-- R155 `RDFOR_TIMEOUT`: the timer of a `rdfor` (ticket `idx`) runs out: without `rdsent` the owner is dead; with it, the recipient. -/
def execRdforTimeout (s : State) : Res :=
  match s.rdfor s.focus.hall s.focus.idx with
  | none => waits s
  | some r =>
    if r.ovr || r.complete then waits s
    else if !r.sent then .next ((s.markDead r.hall r.owner).rdforLateOnce r)
    else
      let all := if r.grp then 2 ^ ((s.groupMembers r.rcpt).getD []).length - 1 else 1
      let s := if r.grp then s else s.markDead r.hall r.rcpt
      .next ((s.updRdfor r.hall r.ticket fun r => { r with late := 2, fmask := w64 all }).rdforSettle r.hall r.ticket)

/-! ### Receive windows (R147, R148) -/

/-- R147 `rwin`: records the window, marks its granules empty, and opens it. -/
def execRwin (port : BitVec 6) (ctx : BitVec 2) (cls flags : BitVec 8) (imm : BitVec 32) (addr : BitVec 64) (s : State) : Res :=
  cmdRun s (cmdWord 0x07 port ctx cls flags imm addr) fun c =>
    let h := s.focus.hall
    let w := cmdW c.word
    let wid := w.imm / 2 ^ 24
    if (Tab.find s.arc.wins wid).isSome then cmdEnds s .window w.addr
    else
      let lines := w.imm % 2 ^ 14 + 1
      let x : RWindow := { pa := c.aux, va := addr, lines := lines, adm := w.imm / 2 ^ 22 % 4, apeer := w.imm / 2 ^ 14 % 256,
                           port := if w.eot then some w.port else none, hall := h, ctx := c.ctx, cls := w.cls,
                           region := (s.regionAt h c.ictx).getD 0, kslot := s.kslotOf h c.ictx, root := s.rootOf h c.ictx }
      let gs := (List.range (4 * lines)).map fun i => s.placeOf (c.aux + 16 * i) / 16
      let s := s.setEmpty gs
      cmdEnds { s with arc := { s.arc with wins := Tab.put s.arc.wins wid x } }

/-- R148 `rwclose`: the command is complete when its window is closed. -/
def execRwclose (port : BitVec 6) (ctx : BitVec 2) (cls flags : BitVec 8) (imm : BitVec 32) (addr : BitVec 64) (s : State) : Res :=
  cmdRun s (cmdWord 0x08 port ctx cls flags imm addr) fun c =>
    let wid := imm.toNat / 2 ^ 24
    let mine (s : State) : Bool := match Tab.find s.arc.wins wid with
      | none => false
      | some w => w.closer == some (s.focus.hall, c.ticket)
    if !mine s then cmdEnds s
    else
      let s := s.closeWindow wid false
      if mine s then waits s else cmdEnds s

/-! ### Deliveries (R149, R150, R155) -/

/-- R149: the recipient's answer. -/
def State.sendRdack (s : State) (rq tag st : Nat) (pois : Bool) : State :=
  let grp := (s.arc.rdfors.find? fun r => r.tag == tag && rq == s.arc.pid).map (·.grp)
  s.post { ptype := 0x0B, dst := rq, tag := tag, body := bodyPut (bodyPut 0 0 1 st) 1 1 (if pois then 1 else 0) } (grp.getD false)

/-- R149: the end-of-tile marker of a delivery. -/
def deliveryMarker (ctx wid : Nat) (d : Delivery) (abort : Bool) : Token :=
  { kind := .marker, level := 2, ctx := BitVec.ofNat 2 ctx,
    payload := w64 (d.rq * 2 ^ 56 + wid * 2 ^ 48 + (if d.pois then 2 ^ 47 else 0) + (if abort then 2 ^ 46 else 0) + d.line0 % 65536 * 65536 +
      d.nlines % 65536) }

/-- R149, R401: a marker for a port of a region that is swapped out stands behind what its swap recorded on that input. -/
def State.recordLate (s : State) (w : RWindow) (p : Nat) (t : Token) : State :=
  let k := inKey w.hall (portElem p) w.ctx (4 + p)
  let f (v : Saved) : Saved := if v.region = w.region then { v with recorded := Tab.upd v.recorded k [] (· ++ [t]) } else v
  { s with saved := s.saved.map f }

/-- R149: a delivery ends: its marker enters the window's port, and its acknowledgement goes; none while the marker cannot enter. -/
def State.endDelivery (s : State) (wid : Nat) (w : RWindow) (d : Delivery) (abort : Bool) : Option State :=
  let s' := match w.port with
    | none => some s
    | some p =>
      if (s.region w.region).state = 3 then some (s.recordLate w p (deliveryMarker w.ctx wid d abort))
      else s.portSend w.hall p 0 (deliveryMarker w.ctx wid d abort)
  s'.map fun s =>
    let w' := { w with dels := w.dels.filter fun k => !(k.rq == d.rq && k.tag == d.tag) }
    let s := { s with arc := { s.arc with wins := Tab.put s.arc.wins wid w' } }
    (s.sendRdack d.rq d.tag 0 d.pois).settleWindow wid

/-- R149: the window admits a requester. -/
def State.windowAdmits (s : State) (w : RWindow) (rq : Nat) : Bool :=
  match w.adm with
  | 0 => w.apeer == rq
  | 1 => ((s.groupMembers w.apeer).getD []).contains rq
  | _ => true

/-- R138, R149: writes the lines of a packet, and sets their granules full. -/
def deliverLines (w : RWindow) : List (Nat × BitVec 4 × W32 × List Byte) → Nat → State → Delivery → State × Delivery
  | [], _, s, d => (s, d)
  | l :: t, at_, s, d =>
    let k := at_ + l.1
    if k < d.line0 || d.line0 + d.nlines ≤ k || d.got.contains k then deliverLines w t at_ s d
    else
      let a := w.pa + 64 * k
      let (s, m) := s.ingressMarks l a
      let e := s.edgeWrite a l.2.2.2 0 { fill := true, marks := markedGranules a 64 m.toNat, cv := some (if m = l.2.1 then l.2.2.1 else crc32c l.2.2.2) }
      deliverLines w t at_ (e.s.logAll arcSite e.logs) { d with got := k :: d.got, pois := d.pois || m != 0 }

/-- R149: lines of a delivery that are to be discarded. -/
def State.discardLines (s : State) (rq tag wid n : Nat) : State :=
  { s with arc := { s.arc with discards := s.arc.discards.filterMap fun x =>
      if x.1 = rq && x.2.1 = tag && x.2.2.1 = wid then (if x.2.2.2 ≤ n then none else some (rq, tag, wid, x.2.2.2 - n)) else some x } }

/-- R155: the granules of a delivery's lines that have not been written become poison and full. -/
def State.poisonRest (s : State) (w : RWindow) (d : Delivery) : State :=
  let ls := ((List.range d.nlines).map (d.line0 + ·)).filter fun k => !d.got.contains k
  let gs := (ls.map fun k => (List.range 4).map fun g => s.placeOf (w.pa + 64 * k + 16 * g) / 16).flatten
  let s := { s with mem := { s.mem with pois := gs.foldl setIns s.mem.pois, empties := s.mem.empties.filter fun g => !gs.contains g } }
  ((gs.map (· / 4)).eraseDups).foldl State.notifyWrite s

/-- R155: a delivery ends before it is whole: what has not been written becomes poison, its later packets are discarded, and the marker and the
acknowledgement follow; none while the marker cannot enter. `n` of its lines are still to come. -/
def State.abortDelivery (s : State) (wid n : Nat) (w : RWindow) (d : Delivery) : Option State :=
  let left := d.nlines - d.got.length
  let s := s.poisonRest w d
  let s := { s with arc := { s.arc with discards := s.arc.discards ++ (if n = 0 then [] else [(d.rq, d.tag, wid, n)]) } }
  s.endDelivery wid w { d with pois := d.pois || left != 0 } true

/-- R149 `RDWR`: the recipient takes lines of a delivery, or refuses it whole. -/
def execRdwr (s : State) : Res :=
  takeDelivery s 0x08 fun t p =>
    let rq := bodyGet p.body 0 1
    let kslot := bodyGet p.body 1 1
    let wid := bodyGet p.body 2 1
    let tag := bodyGet p.body 6 2
    let at_ := bodyGet p.body 8 4
    let first := bodyGet p.body 12 4
    let total := bodyGet p.body 16 4
    let n := p.lines.length
    let refuse : Res :=
      let rest := if n < total then [(rq, tag, wid, total - n)] else []
      .next ({ t with arc := { t.arc with discards := t.arc.discards ++ rest } }.sendRdack rq tag Cause.window.code false)
    let go (w : RWindow) (d : Delivery) : Res :=
      let (t, d) := deliverLines w p.lines at_ t d
      let others := w.dels.filter fun k => !(k.rq == rq && k.tag == tag)
      let w := { w with dels := others ++ [d] }
      let t := { t with arc := { t.arc with wins := Tab.put t.arc.wins wid w } }
      if d.got.length < total then .next t
      else match t.endDelivery wid w d false with
        | none => waits s
        | some t => .next t
    if t.arc.discards.any fun x => x.1 == rq && x.2.1 == tag && x.2.2.1 == wid then .next (t.discardLines rq tag wid n)
    else match Tab.find t.arc.wins wid with
      | none => refuse
      | some w => match w.dels.find? fun d => d.rq == rq && d.tag == tag with
        | some d => go w d
        | none =>
          if w.closing || !t.windowAdmits w rq || w.kslot ≠ kslot || w.lines < first + total || 32 ≤ w.dels.length then refuse
          else
            let d : Delivery := { rq := rq, tag := tag, line0 := first, nlines := total }
            if t.arc.aborts.contains (rq, tag, wid) then
              match { t with arc := { t.arc with aborts := t.arc.aborts.erase (rq, tag, wid) } }.abortDelivery wid (total - n) w d with
              | none => waits s
              | some t => .next t
            else go w d

/-- R155 `WABORT`: the recipient ends a delivery: what it has not written becomes poison, its later packets are discarded, and the marker
and the acknowledgement follow. -/
def execWabort (s : State) : Res :=
  takeDelivery s 0x0D fun t p =>
    let wid := bodyGet p.body 2 1
    let tag := bodyGet p.body 6 2
    match Tab.find t.arc.wins wid with
    | none => .next t
    | some w => match w.dels.find? fun d => d.rq == p.src && d.tag == tag with
      | none => .next { t with arc := { t.arc with aborts := t.arc.aborts ++ [(p.src, tag, wid)] } }
      | some d => match t.abortDelivery wid (d.nlines - d.got.length) w d with
        | none => waits s
        | some t => .next t

end Sys2Proof.Machine
end

