-- ==== Sys2Proof/Machine/Image.lean ====
section
/-! DEFINITION. Configuration images (R63–R66, R205, R206, R227, R270, R280): their records, the entries of each record, and the checks that one record carries in itself. -/

namespace Sys2Proof.Machine

/-- R63: a record of an image: the byte offset of its header, its resource type, the element code, the first entry, and the body. -/
structure ImgRec where
  off : Nat
  rtype : Nat
  elem : Nat
  index : Nat
  body : List W64
  /-- R65: the record breaks a rule by itself, or writes an entry that an earlier one writes -/
  flawed : Bool := false
  deriving DecidableEq, Repr

/-- R63: the element code of a class and number. -/
def recElem (eclass n : Nat) : Option Nat :=
  match eclass with
  | 0 => if n < 64 then some n else none
  | 1 => if n < 16 then some (stairElem n) else none
  | 2 => if n = 0 then some 80 else none
  | _ => none

/-- R64: the elements a resource type may name. -/
def recFits (rtype e : Nat) : Bool :=
  match rtype with
  | 0x01 => e < 64 && bayKind e == .a
  | 0x02 => e < 64 && bayKind e == .a
  | 0x03 => e < 80
  | 0x04 => e < 64 && bayKind e == .a
  | 0x05 => e < 64 && bayKind e == .s
  | 0x06 => 64 ≤ e && e < 80
  | 0x07 => e == 80
  | 0x08 => e == 80
  | 0x09 => e < 64 && bayKind e == .m
  | _ => false

/-- R64: the entries of a table and the bytes of each; word records have none. -/
def recTable : Nat → Option (Nat × Nat)
  | 0x01 => some (64, 64)
  | 0x02 => some (16, 8)
  | 0x03 => some (32, 4)
  | 0x04 => some (103, 8)
  | _ => none

/-- R63–R65: what a header says of its record is in order. -/
def headerOk (rtype index len e : Nat) : Bool :=
  recFits rtype e && len % 8 == 0 && (match recTable rtype with
    | none => index == 0
    | some (size, per) => len % per == 0 && index + len / per ≤ size)

/-- R65: the entries that a record writes. -/
def ImgRec.entries (r : ImgRec) : List Nat :=
  match recTable r.rtype with
  | none => []
  | some (_, per) => (List.range (8 * r.body.length / per)).map (r.index + ·)

/-- R65: two records write one entry. -/
def ImgRec.meets (a b : ImgRec) : Bool :=
  a.rtype == b.rtype && a.elem == b.elem && a.entries.any b.entries.contains

/-- R5: the 32-bit words of double words. -/
def halves (ws : List W64) : List W32 := (ws.map fun (w : W64) => [(w.setWidth 32 : W32), ((w >>> 32).setWidth 32 : W32)]).flatten

/-! ### Bay instructions (R67–R71, R210, R219–R235) -/

/-- R219–R235: the operand forms of an opcode, a bit for each form. -/
def opForms (op : Nat) : Nat :=
  if op = 0x15 || op = 0x16 then 0b0101
  else if op = 0x13 || op = 0x14 then 0b0111
  else if op < 0x18 then 0b1111
  else if op < 0x2C then (if op ≤ 0x1B || (0x1D ≤ op && op ≤ 0x1F) then 0b0111 else 0b0101)
  else if op = 0x2E || op = 0x2F || (0x30 ≤ op && op ≤ 0x3C) || op = 0x40 then 0b0100
  else if op = 0x3D || op = 0x3E || op = 0x4F || op = 0x50 || op = 0x51 then 0b0010
  else if op = 0x4C || op = 0x53 then 0b0101
  else if op = 0x4D then 0b0111
  else if op ≤ 0x5E then 0b0001
  else 0

/-- R222, R226: instructions whose register fields name vector registers. -/
def vectorOp (op : Nat) : Bool := (0x2E ≤ op && op ≤ 0x3E && op != 0x3F) || op == 0x40 || (0x4F ≤ op && op ≤ 0x51)

/-- R44: instructions whose `q` is a rounding code. -/
def roundingOp (op : Nat) : Bool :=
  (0x18 ≤ op && op ≤ 0x1C) || (0x20 ≤ op && op ≤ 0x29) || op == 0x2C || (0x30 ≤ op && op ≤ 0x32) || (0x35 ≤ op && op ≤ 0x38) ||
    op == 0x41 || op == 0x4A

/-- R44, R68, R71: `q` is a code the instruction takes. -/
def qOk (op q : Nat) : Bool :=
  if roundingOp op then q ≤ 4
  else if op = 0x13 then q ≤ 5
  else if op = 0x14 then [0, 1, 4, 5].contains q
  else if op = 0x1F || op = 0x3B then q ≤ 3
  else q == 0

/-- R220–R235: `x` of the slot form is one the instruction takes. -/
def xOk (op x : Nat) : Bool :=
  let lo := x % 16
  match op with
  | 0x2C => x < 128 && [0, 1, 2, 3, 4, 5, 8, 9].contains lo
  | 0x2D => x < 3
  | 0x3F => x < 8
  | 0x41 => true
  | 0x42 => true
  | 0x43 => lo < 8
  | 0x44 => x < 128 && lo < 10
  | 0x45 => x < 128 && lo < 10
  | 0x46 => x / 32 == 0 && lo < 5
  | 0x47 => lo < 6
  | 0x48 => x < 2
  | 0x49 => x < 2
  | 0x4A => x < 64 && lo < 5
  | 0x4B => x / 32 == 0 && lo < 5
  | 0x4C => x < 5
  | 0x4D => x < 3
  | 0x4E => x < 2
  | 0x52 => x < 9
  | 0x53 => x < 2
  | 0x54 => x < 2
  | 0x55 => x < 2
  | 0x58 => x < 4
  | 0x59 => lo < 4
  | 0x5A => x / 32 != 7
  | 0x5B => (match x / 16 with
    | 0 => true
    | 1 => lo == 0
    | 2 => lo == 0
    | 3 => lo < 2
    | 4 => true
    | 5 => lo < 2
    | 6 => lo == 0
    | _ => false)
  | 0x5C => x < 128 || x % 64 == 0
  | _ => x == 0

/-- R68, R70: the fields of a bay word hold no reserved pattern. -/
def bayWordOk (w : W32) : Bool :=
  let op := opOf w
  let f : BitVec 13 := w.setWidth 13
  (opForms op).testBit (formOf f) && (match formOf f with
    | 0 => qOk op (qOf f) && xOk op (xOf f)
    | 1 => rbOf f == 0 && qOk op (qOf f) && (!vectorOp op || raOf f < 8)
    | 2 => qOk op (qOf f) && (!vectorOp op || (raOf f < 8 && rbOf f < 8)) && (slotReads op f != .one || rbOf f == 0)
    | _ => true)

/-- R67: the slot a target names: 3 × index + (0 left, 1 right, 2 predicate). -/
def targetSlot (t : Nat) : Option Nat := if t / 16 < 3 then some (3 * (t % 16) + t / 16) else none

/-- The targets of a word. -/
def targets (w : W32) : List Nat := [bitsN w 24 19, bitsN w 18 13]

/-- R70: no slot is named twice. -/
def distinct : List Nat → Bool
  | [] => true
  | a :: l => !l.contains a && distinct l

/-- R68, R70, R210, R234: the slots named for instruction i are those it reads. -/
def slotsOk (w : W32) (i : Nat) (named : List Nat) : Bool :=
  let op := opOf w
  let l := named.contains (3 * i)
  let r := named.contains (3 * i + 1)
  let p := named.contains (3 * i + 2)
  let data : Bool := match readsOf op (w.setWidth 13) with
    | .none => !l && !r
    | .one => l != r
    | .two => l && r
    | .left => l && !r
    | .right => r && !l
  data && (if op = 0x17 || op = 0x56 then p else op != 0x5C || !p)

/-- R69, R70, R210: the sixteen words of a frame are a block and its fillers. -/
def frameOk (ws : List W32) : Bool :=
  match ws.findIdx? (fun w => opOf w == 0x5C) with
  | none => false
  | some n =>
    let blk := ws.take (n + 1)
    let named := (blk.map fun w => (targets w).filterMap targetSlot).flatten
    (ws.drop (n + 1)).all (· == 0xFFFFFFFF) && blk.all bayWordOk && distinct named &&
      (blk.mapIdx fun i w => (targets w).all fun t => match targetSlot t with
        | none => true
        | some k => i < k / 3 && k / 3 ≤ n).all id &&
      blk.all (fun w => !(opOf w == 0x5A || opOf w == 0x5C) || targets w == [0x30, 0x30]) &&
      (blk.mapIdx fun i w => slotsOk w i named).all id

/-- The frames of a record of the instruction store, with their words. -/
def ImgRec.frames (r : ImgRec) : List (Nat × List W32) :=
  let ws := halves r.body
  (List.range (r.body.length / 8)).map fun k => (r.index + k, (ws.drop (16 * k)).take 16)

/-! ### Other entries -/

/-- R227, R228: LUT i takes input select c. -/
def lutSelOk (i c : Nat) : Bool := c < 64 || 112 ≤ c || c - 64 < i

/-- R227: an entry of the LUT contents holds no reserved bit, and wires a LUT to lower ones only. -/
def lutEntryOk (e : Nat) (w : W64) : Bool :=
  if e < 48 then true
  else if e < 96 then bitsN w 63 42 == 0 && (List.range 6).all fun j => lutSelOk (e - 48) (bitsN w (7 * j + 6) (7 * j))
  else if e < 102 then bitsN w 63 60 == 0
  else bitsN w 63 16 == 0

/-- R242, R104: the bits of an S-bay word, by its opcode, that must be zero. -/
def unitReserved (op : Nat) : Nat :=
  match op with
  | 0x01 => 16 | 0x02 => 54 | 0x03 => 56 | 0x05 => 55 | 0x07 => 48 | 0x08 => 22 | 0x0A => 9 | 0x0B => 26 | 0x0C => 42 | 0x0D => 42
  | 0x0E => 38 | 0x0F => 42 | 0x10 => 58 | 0x11 => 56 | 0x12 => 54 | 0x1D => 40 | 0x1E => 52 | 0x21 => 41 | 0x22 => 53 | 0x23 => 34
  | _ => 0

/-- R254, R242: the fields of `reduce` agree. -/
def reduceOk (w : W64) : Bool :=
  let form := bitsN w 57 56
  let op := bitsN w 55 52
  let rl := bitsN w 49 47
  form ≤ 2 && op ≤ 10 && bitsN w 51 50 ≤ 2 && bitsN w 46 44 ≤ 4 &&
    (if form = 2 then rl ≤ 6 else bitsN w 51 50 == 0 && rl == 0 && bitsN w 31 0 == 0) &&
    (op == 1 || (bitsN w 46 44 == 0 && bitsN w 43 32 == 0))

/-- R242, R104: the fields of one S-bay word keep their limits. -/
def unitWordOk (w : W64) : Bool :=
  let op := bitsN w 63 58
  let zero : Bool := match op with
    | 0x04 => bitsN w 22 0 == 0
    | 0x1F => bitsN w 49 40 == 0
    | 0x20 => bitsN w 57 37 == 0
    | _ => unitReserved op == 0 || bitsN w (unitReserved op - 1) 0 == 0
  zero && (match op with
    | 0x01 => (match bitsN w 57 56 with
      | 0 => bitsN w 55 16 == 0
      | 1 => bitsN w 55 36 % 4 == 0 && bitsN w 35 16 % 4 == 0
      | 2 => bitsN w 35 16 % 8 == 0 && bitsN w 55 36 == 0
      | _ => bitsN w 55 36 % 16 == 0 && bitsN w 35 16 == 0)
    | 0x02 => bitsN w 57 54 ≤ 10
    | 0x03 => 1 ≤ bitsN w 57 56
    | 0x04 => 1 ≤ bitsN w 57 56 && (!bitB w 23 || bitsN w 57 56 ≤ 2)
    | 0x05 => bitsN w 57 55 ≤ 6
    | 0x06 => reduceOk w
    | 0x07 => bitsN w 51 50 ≤ 2
    | 0x08 => true
    | 0x09 => (match bitsN w 57 56 with
      | 0 => bitsN w 14 0 == 0 && bitsN w 54 35 == 0
      | 1 => 1 ≤ bitsN w 14 0
      | 2 => 1 ≤ bitsN w 14 7 && bitsN w 6 0 == 0 && bitsN w 54 35 % 16 == 0 && bitsN w 34 15 == 0
      | _ => false)
    | 0x0A => bitsN w 57 38 % 16 == 0 && bitsN w 37 18 % 16 == 0 && 16 ≤ bitsN w 57 38 && bitsN w 57 38 < bitsN w 37 18
    | 0x0B => true
    | 0x0C => 1 ≤ bitsN w 57 42
    | 0x0D => true
    | 0x0E => true
    | 0x0F => true
    | 0x10 => true
    | 0x11 => true
    | 0x12 => true
    | 0x1D => true
    | 0x1E => true
    | 0x1F => bitsN w 51 50 != 3
    | 0x20 => spaceOf (bitsN w 36 0 * 2048) == .hbm
    | 0x21 => bitsN w 49 41 ≤ 256
    | 0x22 => 12 ≤ bitsN w 57 53 && bitsN w 57 53 ≤ 30
    | 0x23 => true
    | _ => false)

/-- R163: the fields of one stair word keep their limits. DESIGN CHOICE (log 56): a nonzero `amo` where `dir` is `rd` or `wr` is refused as a reserved
field is; the table gives `amo` for `at` only. -/
def stairWordOk (w : W64) : Bool :=
  match bitsN w 63 58 with
  | 0x13 => bitsN w 57 55 ≤ 5 && (!bitB w 54 || bitsN w 53 30 == 0)
  | 0x14 => bitsN w 57 56 == 0 || (bitsN w 57 56 == 1 && bitsN w 55 0 == 0)
  | 0x15 => bitsN w 57 56 ≤ 2 && bitsN w 55 54 ≤ 2 && bitsN w 41 0 == 0 && (if bitsN w 57 56 = 2 then bitsN w 51 48 ≤ 8 else bitsN w 51 48 == 0)
  | 0x16 => bitsN w 57 56 == 0 && bitsN w 55 0 % 4 == 0
  | 0x17 => bitsN w 57 56 == 0 && bitsN w 55 0 % 4 == 0
  | 0x18 => bitsN w 45 0 == 0
  | 0x19 => bitsN w 49 0 == 0
  | 0x1A => bitsN w 49 0 == 0
  | 0x1B => bitsN w 36 0 == 0
  | 0x1C => bitsN w 47 0 == 0
  | _ => false

/-- R288: an update stream's fields. -/
def mportUpdOk (w : W64) : Bool :=
  let esz := bitsN w 57 56
  let ord := bitsN w 55 54
  let uop := bitsN w 24 21
  let red := uop == 9 || uop == 10
  (esz == 0 || esz == 2) && ord ≤ 1 && bitsN w 44 25 % (if esz = 0 then 16 else 4) == 0 && bitsN w 20 12 == 0 && uop ≤ 11 &&
    red == (esz == 0) && (ord == 1 || (uop != 8 && uop != 11)) && (red || bitsN w 11 0 == 0)

/-- R194: the slots, ways, slot size and base of `mtag` agree. -/
def mtagOk (w : W64) : Bool :=
  let slots := bitsN w 59 52 + 1
  let ways := 2 ^ bitsN w 51 50
  let size := 64 * 2 ^ bitsN w 49 46
  let base := 64 * bitsN w 45 36
  bitsN w 35 0 == 0 && bitsN w 49 46 ≤ 6 && slots % ways == 0 && [1, 2, 4, 8, 16, 32, 64, 128, 256].contains (slots / ways) && base % size == 0 &&
    base + slots * size ≤ 65536

/-- R194: the fields of one M-bay word of a quad keep their limits. -/
def mbayWordOk (q : Nat) (w : W64) : Bool :=
  match bitsN w 63 60 with
  | 1 =>
    let n := 2 ^ bitsN w 59 57
    let qb := bitsN w 56 52
    bitsN w 59 57 ≤ 4 && qb ≤ 15 && qb % n == 0 && qb ≤ q && q < qb + n && bitsN w 51 49 ≤ 4 && bitsN w 47 0 == 0
  | 2 =>
    let pm := bitsN w 59 58
    let fe := bitsN w 55 54
    if pm = 3 then mportUpdOk w
    else if pm = 2 then bitsN w 44 0 == 0 && fe == 0
    else bitsN w 44 25 % 2 ^ bitsN w 57 56 == 0 && 1 ≤ bitsN w 11 0 && fe ≤ (if pm = 1 then 1 else 2)
  | 3 => mtagOk w
  | _ => false

/-- R269, R270, R280: a gallery word in an image of a hall. -/
def galWordOk (hall : Nat) (route : Bool) (w : W64) : Bool :=
  (match decodeGallery w with
    | .ok _ => true
    | .error _ => false) &&
  (if bitsN w 63 60 = 9 then bitsN w 55 54 != 2 || (hallBeside hall dirE).isSome else !route)

/-- R65: a record keeps the rules that it can break by itself. -/
def ImgRec.ok (hall : Nat) (r : ImgRec) : Bool :=
  match r.rtype with
  | 0x01 => r.frames.all fun f => frameOk f.2
  | 0x02 => r.body.all fun w => bitsN w 41 0 == 0
  | 0x03 => (halves r.body).all fun e => bitsN e 18 0 == 0
  | 0x04 => (r.body.mapIdx fun i w => lutEntryOk (r.index + i) w).all id
  | 0x05 => r.body.all unitWordOk
  | 0x06 => r.body.all stairWordOk
  | 0x07 => r.body.all (galWordOk hall true)
  | 0x08 => r.body.all (galWordOk hall false)
  | 0x09 => r.body.all (mbayWordOk (quadOf r.elem))
  | _ => false

/-! ### Reading the records -/

/-- What the bytes of an image read so far give. -/
inductive ImgScan where
  /-- the image goes on; the byte offset of the record being read -/
  | more (off : Nat)
  /-- the record at a byte offset fails -/
  | bad (off : Nat)
  | recs (l : List ImgRec)
  deriving DecidableEq, Repr

/-- R63–R65: reads records in order, checking each header, that records name one slot, that no entry is written twice, and each
body. A header that fails ends the image. Where an earlier record has failed, that is the one named. `n` bounds the number of records. -/
def scanRecs (hall : Nat) : Nat → Nat → Option Nat → List ImgRec → List W64 → ImgScan
  | 0, off, _, _, _ => .more off
  | _ + 1, off, _, _, [] => .more off
  | n + 1, off, slot, seen, h :: t =>
    let rt := bitsN h 63 56
    let sl := bitsN h 55 54
    let len := bitsN h 31 0
    if (match slot with
      | none => false
      | some s => s != sl) then .bad off
    else if rt = 0xFF then (if len = 0 then .recs [] else .bad off)
    else match recElem (bitsN h 43 40) (bitsN h 53 44) with
      | none => .bad off
      | some e =>
        if !headerOk rt (bitsN h 39 32) len e then .bad off
        else if t.length < len / 8 then .more off
        else
          let r : ImgRec := { off := off, rtype := rt, elem := e, index := bitsN h 39 32, body := t.take (len / 8) }
          let r := { r with flawed := !r.ok hall || seen.any r.meets }
          match scanRecs hall n (off + 8 + len) (some sl) (seen ++ [r]) (t.drop (len / 8)) with
          | .recs l => .recs (r :: l)
          | .bad o => .bad (if r.flawed then off else o)
          | .more o => .more (if r.flawed then off else o)

/-- Double words from bytes. -/
def wordsOf : List Byte → List W64
  | a :: b :: c :: d :: e :: f :: g :: h :: t => BitVec.ofNat 64 (leNat [a, b, c, d, e, f, g, h]) :: wordsOf t
  | _ => []

end Sys2Proof.Machine
end

