-- ==== Sys2Proof/Machine/Loader.lean ====
section
/-! DEFINITION. The configuration loader (R24, R63–R66, R70, R83, R104, R164, R184, R194, R206, R234, R243): what an image's records make of each element, the checks of whole elements and of their links, and `cfgload`. -/

namespace Sys2Proof.Machine

/-! ### What the records make of an element -/

/-- Puts a list of entries at consecutive keys. -/
def Tab.putAll {β : Type} (t : Tab β) (k : Nat) : List β → Tab β
  | [] => t
  | v :: l => Tab.putAll (Tab.put t k v) (k + 1) l

/-- R64: a record's entries join the configuration of its element. Route words of a gallery come before its control words (R269). -/
def ElemCfg.add (c : ElemCfg) (r : ImgRec) : ElemCfg :=
  match r.rtype with
  | 0x01 => { c with store := Tab.putAll c.store (16 * r.index) (halves r.body) }
  | 0x02 => { c with handlers := Tab.putAll c.handlers r.index r.body }
  | 0x03 => { c with routes := Tab.putAll c.routes r.index (halves r.body) }
  | 0x04 => { c with lut := Tab.putAll c.lut r.index r.body }
  | 0x07 => { c with gctl := r.body ++ c.gctl }
  | 0x08 => { c with gctl := c.gctl ++ r.body }
  | _ => { c with words := c.words ++ r.body }

/-- The configurations an image gives, by element code. -/
def imageCfgs (l : List ImgRec) : Tab ElemCfg := l.foldl (fun t r => Tab.upd t r.elem {} (·.add r)) []

/-! ### Whole elements -/

/-- The words of a configured frame up to its `br`. -/
def ElemCfg.block (c : ElemCfg) (f : Nat) : List W32 :=
  let ws := (List.range 16).map fun k => Tab.get c.store (16 * f + k) 0xFFFFFFFF
  match ws.findIdx? (fun w => opOf w == 0x5C) with
  | some n => ws.take (n + 1)
  | none => []

/-- The configured words of an A-bay that belong to blocks. -/
def ElemCfg.code (c : ElemCfg) : List W32 := ((List.range 64).map c.block).flatten

/-- R206: the channel that a `recv`, `vget` or `loopt` names. -/
def receives (w : W32) : Option Nat :=
  let x := xOf (w.setWidth 13)
  if opOf w = 0x5B then (if x / 16 = 0 then some (x % 16) else none)
  else if opOf w = 0x43 || opOf w = 0x59 then some (x / 16)
  else none

/-- The valid handler entries of a configuration. -/
def ElemCfg.valid (c : ElemCfg) : List W64 := (c.handlers.map fun (p : Nat × W64) => p.2).filter hV

/-- R234: the direct targets, and the following frame, of a frame's `br` hold blocks. -/
def ElemCfg.branchOk (c : ElemCfg) (f : Nat) : Bool :=
  match (c.block f).getLast? with
  | none => true
  | some w =>
    let x := xOf (w.setWidth 13)
    let has (g : Nat) : Bool := g < 64 && !(c.block g).isEmpty
    (2 ≤ x / 64 || has (x % 64)) && (x / 64 != 1 || has (f + 1))

/-- R206, R234: the handlers and blocks of an A-bay agree. -/
def ElemCfg.bayOk (c : ElemCfg) : Bool :=
  let chans := c.valid.map hChan
  distinct chans && c.valid.all (fun w => !(c.block (hFrame w)).isEmpty) && (List.range 64).all c.branchOk &&
    c.code.all fun w => match receives w with
      | none => true
      | some k => !chans.contains k

/-- R243, R104: words admitted with a mode, besides the mode word. -/
def wordAdmitted (mode op : Nat) : Bool :=
  match op with
  | 0x0D => true
  | 0x0C => true
  | 0x0E => mode != 0x1D
  | 0x11 => mode != 0x1D
  | 0x0A => mode != 0x1D
  | 0x12 => mode != 0x1D && mode != 0x09
  | 0x0B => [0x01, 0x03, 0x04, 0x09].contains mode
  | 0x02 => mode == 0x01
  | 0x0F => mode == 0x03
  | _ => mode == 0x1D && [0x1E, 0x1F, 0x20, 0x21, 0x22, 0x23].contains op

/-- The mode words' opcodes (R83). -/
def modeOp (op : Nat) : Bool := [0x01, 0x03, 0x04, 0x05, 0x06, 0x07, 0x08, 0x09, 0x1D].contains op

/-- R241, R104: the inputs in use by a mode. -/
def inputsUsed (ws : List W64) : List Nat :=
  match modeWord ws with
  | none => []
  | some w => if bitsN w 63 58 = 0x1D then (List.range 4).filter fun i => xKind ws i != 3 else List.range (unitInputs ws)

/-- R243: what a mode needs of its own word and of the others. -/
def modeNeeds (ws : List W64) (m : W64) : Bool :=
  let has (op : Nat) : Bool := (cfgWord ws op).isSome
  match bitsN m 63 58 with
  | 0x01 => (bitsN m 57 56 == 1 || bitsN m 57 56 == 3 || has 0x0B) && (bitsN m 57 56 == 1 || !has 0x02)
  | 0x09 => (bitsN m 57 56 != 0 || has 0x0B) && (bitsN m 57 56 != 2 || has 0x0A)
  | 0x1D =>
    let pin := match cfgWord ws 0x1E with
      | none => 0
      | some w => bitsN w 57 52
    has 0x20 && (ws.filter fun w => bitsN w 63 58 == 0x1F).all fun w => bitsN w 57 52 < pin
  | _ => true

/-- R83, R104, R242, R243: the words of an S-bay's slot agree. -/
def unitOk (ws : List W64) : Bool :=
  let ops := ws.map fun w => bitsN w 63 58
  ws.isEmpty || ops == [0x10] ||
    (match ws.filter fun w => modeOp (bitsN w 63 58) with
    | [m] =>
      let mode := bitsN m 63 58
      let chans := (inputsUsed ws).map (inputChan ws)
      distinct (ops.filter (· != 0x1F)) && ops.all (fun op => op == mode || wordAdmitted mode op) && modeNeeds ws m && distinct chans &&
        (match cfgWord ws 0x0A with
        | none => true
        | some b => !chans.contains (bitsN b 17 14))
    | _ => false)

/-- The flights of a stair's words. -/
def flightsOf (ws : List W64) : List Nat := (ws.filter fun w => bitsN w 63 58 == 0x13).map fun w => bitsN w 57 55

/-- R163: the channels a stair's slot uses. -/
def stairChans (ws : List W64) : List Nat := (List.range 16).filter (stUses ws)

/-- R163, R164: the words of a stair's slot agree. -/
def stairOk (ws : List W64) : Bool :=
  let ops := ws.map fun w => bitsN w 63 58
  let has (op : Nat) : Bool := ops.contains op
  let fl := flightsOf ws
  let tb (k : Nat) : Bool := bitB ((stFlight ws k).getD 0) 54
  let el := (cfgWord ws 0x19).getD 0
  let esz := if has 0x19 then bitsN el 57 56 else 2
  let vec := bitB el 54
  let am := stAmode ws
  let m := (cfgWord ws 0x15).getD 0
  let used := [stWch ws] ++ (if (List.range 6).any tb then [stBch ws] else []) ++ (if am = 2 then [stAch ws] else []) ++
    (if stDir ws != 0 then [stDch ws] else [])
  ws.isEmpty || ops == [0x1C] ||
    (!has 0x1C && has 0x15 && has 0x14 && has 0x1B && distinct (ops.filter (· != 0x13)) && distinct fl && fl.all (· < fl.length) &&
      (am != 0 || fl.contains 0) &&
      (am != 1 || (has 0x16 && fl.length == 2 && bitsN ((stFlight ws 0).getD 0) 53 30 == 0 && !tb 0)) && (am != 2 || fl.isEmpty) &&
      (am == 1 || (!has 0x16 && !has 0x17)) && (!bitB m 53 || bitB m 42) && (!bitB m 42 || (esz != 3 && !vec)) &&
      (!vec || (esz == 3 && stDir ws != 2 && am == 0)) && (stDir ws != 2 || 2 ≤ esz) && distinct used)

/-- R194: the words of an M-bay's slot agree; the interleave is that of its `mbank` word, else the one in force. -/
def mbayOk (ilv : Nat) (ws : List W64) : Bool :=
  let ops := ws.map fun w => bitsN w 63 60
  let g := match mbayWord ws 1 with
    | some w => bitsN w 51 49
    | none => ilv
  distinct ops && (match mbayWord ws 2 with
    | some w => bitsN w 59 58 != 2 || ops.contains 3
    | none => true) &&
    (match mbayWord ws 3 with
    | some w => 64 * 2 ^ bitsN w 49 46 ≤ ilvBytes g
    | none => true)

/-- R194: the members of one group that hold `mbank` words hold the same. -/
def groupsOk (t : Tab ElemCfg) (e : Nat) : Bool :=
  let word (e : Nat) : Option W64 := mbayWord (Tab.get t e {}).words 1
  match word e with
  | none => true
  | some w => (List.range (2 ^ bitsN w 59 57)).all fun k => match word (mbayOf (bitsN w 56 52 + k)) with
    | none => true
    | some v => v == w

/-- R269, R65: no two route words name one entry. -/
def galleryOk (ws : List W64) : Bool := distinct ((ws.filter fun w => bitsN w 63 60 == 9).map fun w => bitsN w 59 56)

/-- R65: the configuration of an element keeps the rules of its chapter. -/
def State.elemOk (s : State) (hall : Nat) (t : Tab ElemCfg) (e : Nat) : Bool :=
  let c := Tab.get t e {}
  if e < 64 then
    (match bayKind e with
    | .a => c.bayOk
    | .s => unitOk c.words
    | .m => mbayOk (s.bank hall (quadOf e)).ilv c.words && groupsOk t e)
  else if e < 80 then stairOk c.words
  else galleryOk c.gctl

/-! ### Links (R24) -/

/-- R242: the outputs in use by a mode. -/
def outputsUsed (ws : List W64) : Nat :=
  match modeWord ws with
  | none => 0
  | some w => match bitsN w 63 58 with
    | 0x03 => bitsN w 57 56 + 1
    | 0x04 => bitsN w 57 56 + 1 + (if bitB w 23 then 1 else 0)
    | 0x09 => if bitB w 55 then 1 else 0
    | 0x1D => 0
    | _ => 1

/-- R24: the route classes of an element's own producers. -/
def ElemCfg.producers (c : ElemCfg) (e : Nat) : List Nat :=
  if e < 64 then
    (match bayKind e with
    | .a => (c.valid.filter fun w => !hCw w).map hFwd ++ c.code.filterMap fun w =>
        if opOf w = 0x5A then some (xOf (w.setWidth 13) % 32) else if opOf w = 0x42 then some (xOf (w.setWidth 13) / 8) else none
    | .s =>
      (List.range (outputsUsed c.words)).map (outputClass c.words) ++
        (match cfgWord c.words 0x0A with
        | none => []
        | some w => [bitsN w 13 9]) ++
        (match cfgWord c.words 0x1D with
        | none => []
        | some w => [bitsN w 57 53, bitsN w 52 48])
    | .m => (match mbayWord c.words 2 with
      | none => []
      | some w => [bitsN w 53 49]))
  else
    (match cfgWord c.words 0x15 with
    | none => []
    | some w => [bitsN w 47 43]) ++
      (match cfgWord c.words 0x1B with
      | none => []
      | some w => [bitsN w 57 53, bitsN w 52 48, bitsN w 47 43])

/-- The link an element's output reaches: a bay's, or a stair's towards its bay. -/
def outLink (h e d : Nat) : Option Nat :=
  if e < 64 then some (bayOut h e d)
  else if e < 80 && d == (if e < 72 then dirS else dirN) then some (lkey h (stairBay (e - 64)) (stairBaySide (e - 64)))
  else none

/-- R24, R280: what the west and bank drain entries of an image's gallery feed: bays (row, 7), by their links from the gallery. -/
def galleryFeeds (ws : List W64) : List (Nat × Nat × Nat) :=
  (ws.filter fun w => bitsN w 63 60 == 9 && (bitsN w 55 54 == 1 || bitsN w 55 54 == 3)).map fun w => (8 * bitsN w 53 51 + 7, bitsN w 50 47, dirE)

/-- R24: what an image shows to feed an entry of an element: element, route class, and source: a direction, or 5 for its own
producers. Links that leave the hall's bays and stairs feed nothing of the image. -/
def imageFeeds (h : Nat) (t : Tab ElemCfg) : List (Nat × Nat × Nat) :=
  (t.map fun (p : Nat × ElemCfg) =>
    (p.2.producers p.1).map (fun rc => (p.1, rc, 5)) ++ galleryFeeds p.2.gctl ++
      (p.2.routes.map fun (r : Nat × W32) => (entryDirs r.2).filterMap fun d => match outLink h p.1 d with
        | none => none
        | some k => if k / 8 / 128 = h && k / 8 % 128 < 80 then some (k / 8 % 128, bitsN r.2 26 23, k % 8) else none).flatten).flatten

/-- R24, R66: no output of an element has two sources. -/
def linksOk (feeds : List (Nat × Nat × Nat)) (e : Nat) (c : ElemCfg) : Bool :=
  (List.range 4).all fun d =>
    let rcs := (c.routes.filter fun (r : Nat × W32) => (entryDirs r.2).contains d).map fun (r : Nat × W32) => r.1
    match (feeds.filter fun f => f.1 == e && rcs.contains f.2.1).map fun f => f.2.2 with
    | [] => true
    | a :: l => l.all (· == a)

/-- R65: the offset of the first record of an element. A rule that several records of an element break together is broken by the first of
them: DESIGN CHOICE (log 57); the specification does not say which of them has failed. -/
def firstRec (l : List ImgRec) (e : Nat) : Nat := ((l.find? fun r => r.elem == e).map (·.off)).getD 0

/-- R65: the first record, if any, that fails by itself, or whose element fails the checks of whole elements. An element with a record that fails
by itself is not checked whole. -/
def State.imageBad (s : State) (hall : Nat) (l : List ImgRec) : Option Nat :=
  let t := imageCfgs l
  let feeds := imageFeeds hall t
  let flawed := l.filter ImgRec.flawed
  let whole := t.filter fun (p : Nat × ElemCfg) =>
    !(flawed.any fun r => r.elem == p.1) && (!s.elemOk hall t p.1 || !linksOk feeds p.1 p.2)
  (flawed.map ImgRec.off ++ whole.map fun (p : Nat × ElemCfg) => firstRec l p.1).min?

/-- What the bytes of an image read so far make of it. -/
inductive ImageAns where
  | more (off : Nat)
  | bad (off : Nat)
  | ok (t : Tab ElemCfg)

/-- R65: reads an image from its bytes. -/
def State.parseImage (s : State) (hall : Nat) (bs : List Byte) : ImageAns :=
  match scanRecs hall (bs.length / 8 + 1) 0 none [] (wordsOf bs) with
  | .more off => .more off
  | .bad off => .bad off
  | .recs l => match s.imageBad hall l with
    | some off => .bad off
    | none => .ok (imageCfgs l)

/-! ### Loading -/

/-- R372: an `mbank` word under a bay shift: `gbase` moves by the quads. -/
def shiftMword (dq : Nat) (w : W64) : W64 :=
  if bitsN w 63 60 = 1 then w64 (w.toNat - bitsN w 56 52 * 2 ^ 52 + (bitsN w 56 52 + dq) % 32 * 2 ^ 52) else w
/-- R372: the elements of an image under a region's bay shift. -/
def shiftImage (sdr sdc : Nat) (t : Tab ElemCfg) : Tab ElemCfg :=
  if sdr = 0 && sdc = 0 then t
  else t.map fun (p : Nat × ElemCfg) =>
    (shiftElem sdr sdc p.1, if p.1 < 64 && bayKind p.1 = .m then { p.2 with words := p.2.words.map (shiftMword (2 * sdr + sdc / 2)) } else p.2)

/-- R184, R372: an image, under a bay shift, becomes the configuration of a slot, which is loaded. -/
def State.loadCfg (s : State) (hall ctx : Nat) (sdr sdc : Nat) (t : Tab ElemCfg) (va : W64) : State :=
  let other := s.cfgs.filter fun (p : Nat × ElemCfg) => !(p.1 / 512 == hall && p.1 % 4 == ctx)
  let cfgs := (shiftImage sdr sdc t).foldl (fun l (p : Nat × ElemCfg) => Tab.put l (ckey hall p.1 ctx) p.2) other
  let x := s.slot hall ctx
  { s with cfgs := cfgs }.setSlot hall ctx { x with st := .loaded, imageVa := some va, shift := (sdr, sdc), liveAt := [] }

/-- R372: the bay shift of the region of a context. -/
def State.shiftOf (s : State) (hall ctx : Nat) : Nat × Nat := match s.regionAt hall ctx with
  | none => (0, 0)
  | some r => ((s.region r).sdr, (s.region r).sdc)

/-- The codes under which `cfgload` keeps the state its slot had. -/
def SlotSt.code : SlotSt → Nat
  | .empty => 0 | .loaded => 1 | .live => 2 | .saving => 3

/-- R65, R184: the image is refused; the slot is as it was, and `cfg` goes to the fault domain with the offset of the record. -/
def cfgRefuse (s : State) (c : DCmd) (ctx : Nat) (f : Cause) (off va : Nat) : Res :=
  let h := s.focus.hall
  let x := s.slot h ctx
  let s := s.setSlot h ctx { x with st := if c.aux = 1 then .loaded else .empty }
  .next ((s.updMyCmd fun c => { c with faultIx := off }).cmdDone h c.ticket f (w64 va))

/-- R184 `cfgload`: the image is read granule by granule from pages with execute rights, checked whole, and written. -/
def execCfgload (port : BitVec 6) (ctx : BitVec 2) (cls flags : BitVec 8) (imm : BitVec 32) (addr : BitVec 64) (s : State) : Res :=
  cmdRun s (cmdWord 0x0E port ctx cls flags imm addr) fun c =>
    let h := s.focus.hall
    let p := s.physOf h c.ictx (imm.toNat % 4)
    let x := s.slot h p
    if !c.acted then
      if x.st == .live || x.st == .saving then cmdEnds s .cfg addr.toNat
      else .next ((s.setSlot h p { x with st := .empty }).updMyCmd fun c => { c with acted := true, aux := x.st.code })
    else if !c.buf.all CBuf.ready then waits s
    else
      let good := c.buf.filter fun b => !b.pois
      match s.parseImage h (good.map CBuf.bytes).flatten with
      | .ok t => .next ((s.loadCfg h p (s.shiftOf h c.ictx).1 (s.shiftOf h c.ictx).2 t addr).cmdDone h c.ticket)
      | .bad off => cfgRefuse s c p .cfg off (addr.toNat + off)
      | .more off =>
        if good.length < c.buf.length then cfgRefuse s c p .cfg off (addr.toNat + off)
        else
          let k := c.buf.length
          let va := addr.toNat + 16 * k
          match s.cmdXlate c va .exec with
          | .wait s => .next s
          | .fault s e => cfgRefuse s c p e off va
          | .ok s _ _ => match s.readPart c k va 16 false false .exec with
            | .inl none => waits s
            | .inl (some s) => .next s
            | .inr (s, b) => .next (s.updMyCmd fun c => { c with buf := c.buf ++ [b] })

/-! ### Reading an image at placement -/

/-- What reading an image for the launch scheduler answers. -/
inductive PlaceImg where
  | ok (s : State) (t : Tab ElemCfg)
  /-- the cause, and the byte offset in the image -/
  | fault (s : State) (c : Cause) (off : Nat)

/-- R58, R65, R369: reads an image granule by granule from pages with execute rights under a root; `n` bounds the granules of a VA. -/
def State.readImage (hall : Nat) (root : BitVec 37) : Nat → State → Nat → List Byte → PlaceImg
  | 0, s, _, bs => .fault s .range bs.length
  | n + 1, s, va, bs =>
    if bs.isEmpty && va % 64 != 0 then .fault s .align 0
    else match s.parseImage hall bs with
    | .ok t => .ok s t
    | .bad off => .fault s .cfg off
    | .more off =>
      if 2 ^ 56 ≤ va then .fault s .range off
      else match s.walk root (w64 va) .exec with
        | (s, .fault c, l) => .fault (s.logAll { hall := hall, eclass := 4, own := false } l) c off
        | (s, .leaf pte psz, l) =>
          let x := leafXlat pte psz (w64 va)
          let s := s.logAll { hall := hall, eclass := 4, own := false } l
          if x.rem.isSome then .fault s .range off
          else
            let r := s.edgeRead x.pa 16 x.key
            let s := r.s.logAll { hall := hall, eclass := 4, own := false } r.logs
            if r.cause = .ecc then .fault s .cfg off
            else if r.cause != .none then .fault s r.cause off
            else if r.poison then .fault s .cfg off
            else State.readImage hall root n s (va + 16) (bs ++ r.bytes)

/-- The granules of a VA space. -/
def vaGranules : Nat := 2 ^ 52

end Sys2Proof.Machine
end

