-- ==== Sys2Proof/Machine/Launch.lean ====
section
/-! DEFINITION. Launching (R358, R361–R368): region control blocks, effective values, charges, the pending-launch pool, `launch`, `lwait` and launch tokens. -/

namespace Sys2Proof.Machine

/-! ### The region control block (R361, R391) -/

/-- A double word of an RCB's bytes. -/
def rcbDw (bs : List Byte) (off : Nat) : Nat := leNat ((bs.drop off).take 8)
/-- A field of an RCB: its offset, its high bit and its low bit. -/
def rcbF (bs : List Byte) (off h l : Nat) : Nat := rcbDw bs off / 2 ^ l % 2 ^ (h + 1 - l)

/-- R361, R391: the bits of each double word of an RCB that are not reserved. -/
def rcbBits : Nat → Nat
  | 0x00 => 0xFFFF0C0000000FFF | 0x08 => 0xFFFFFFFFFFFFFFFF | 0x10 => 0xFFFFFFFFFFFFFF | 0x18 => 0xFFFFFFFFFFFFFFFF
  | 0x20 => 0xFFFFFFFFFFFFFF | 0x28 => 0x1FF | 0x30 => 0x1FFF01FF7F7F | 0x38 => 0x1FFF01FF7F7F | 0x40 => 0x371FFFF0F
  | 0x48 => 0xFFFFFFFF | 0x50 => 0xFFFFFFFFFFFFFF | 0x58 => 0x10FFF0FFF0FFF | 0x60 => 0x1FFFFFFFFF | 0x68 => 0xFFFFFFFFFFFFFF
  | 0x70 => 0xFFFFFFFFFFFFFF | 0x78 => 0xFFFF | 0x80 => 0xFF000000FFFFFFFF | 0x88 => 0xFFFFFFFFFFFFFF | 0x90 => 0xFFFF0000FFFF
  | 0x98 => 3 | 0xA0 => 3 | 0xA8 => 0xFFFFFFFFFFFFFF | 0xB0 => 0xFFFFFFFF | 0xB8 => 0x1FFFF | 0xC0 => 0xFFFFFFFFFFFFFFFF
  | 0xC8 => 0xFF01FF01FF | 0xD0 => 0xFFFFFFFF00000007 | 0xD8 => 0xFFFF3F | _ => 0

/-- R365 step 3: the fields of an RCB are in order. -/
def rcbOk (bs : List Byte) : Bool :=
  rcbF bs 0 63 48 == 1 && (List.range 32).all (fun k => Nat.land (rcbDw bs (8 * k)) (rcbBits (8 * k)) == rcbDw bs (8 * k)) &&
    1 ≤ rcbF bs 0x40 24 16 && rcbF bs 0x40 24 16 ≤ 256 && 1 ≤ rcbF bs 0x40 30 28 && rcbF bs 0x40 30 28 ≤ 5 && rcbF bs 0x40 33 32 != 3 &&
    rcbF bs 0x10 55 0 % 4 == 0 && rcbF bs 0x20 55 0 % 8 == 0

/-- R361: the node's own fields. -/
def rcbOwn (bs : List Byte) : ROwn :=
  { entry := w64 (rcbF bs 0x10 55 0), arg := w64 (rcbDw bs 0x18), image := w64 (rcbF bs 0x20 55 0), pw := rcbF bs 0x28 2 0, ph := rcbF bs 0x28 5 3,
    ns := rcbF bs 0x28 7 6 + 1, gal := rcbF bs 0x28 8 8 == 1, mv := rcbF bs 0 43 43 == 1, idem := rcbF bs 0 42 42 == 1,
    flog := w64 (rcbF bs 0x88 55 0), flen := rcbF bs 0x90 15 0, snapva := w64 (rcbF bs 0xA8 55 0), snaplen := rcbF bs 0xB0 31 0,
    sptab := w64 (rcbF bs 0x70 55 0), spn := rcbF bs 0x78 15 0 }

/-- R362: the effective values of a node: its own field where its bit of `ovr` is set, or where it is a root; else its parent's. A
budget applies only where the field is its own (R363). -/
def rcbEff (bs : List Byte) (parent : Option REff) : REff :=
  let own (b : Nat) : Bool := parent.isNone || rcbF bs 0 b b == 1
  let p := parent.getD {}
  let get {α : Type} (b : Nat) (mine his : α) : α := if own b then mine else his
  let prio := rcbF bs 0x40 3 0
  { bhalls := if own 0 then some (rcbF bs 0x30 6 0) else none
    bgal := if own 1 then some (rcbF bs 0x30 14 8) else none
    bslot := if own 2 then some (rcbF bs 0x30 24 16) else none
    blaunch := if own 3 then some (rcbF bs 0x30 44 32) else none
    prio := if parent.isNone then prio else if own 4 then min prio p.prio else p.prio
    fmode := get 5 (rcbF bs 0x40 33 32) p.fmode
    fhandler := get 5 (w64 (rcbF bs 0x50 55 0)) p.fhandler
    fsq := get 5 (rcbF bs 0x58 11 0) p.fsq
    psq := get 5 (rcbF bs 0x58 27 16) p.psq
    prch := get 5 (rcbF bs 0x58 43 32) p.prch
    pgv := get 5 (rcbF bs 0x58 48 48 == 1) p.pgv
    key := get 6 (rcbF bs 0x40 15 8) p.key
    nclass := get 7 (rcbF bs 0x40 24 16) p.nclass
    akey := get 8 (w32 (rcbF bs 0x48 31 0)) p.akey
    cscope := get 9 (rcbF bs 0x40 30 28) p.cscope
    root := get 10 (BitVec.ofNat 37 (rcbF bs 0x60 36 0)) p.root
    lbase := get 11 (w64 (rcbF bs 0x68 55 0)) p.lbase }

/-! ### Charges (R363) -/

/-- A region and its ancestors, nearest first; a chain is at most 25 long (R365). -/
def State.chain (s : State) : Nat → Nat → List Nat
  | 0, _ => []
  | n + 1, r => r :: (match (s.region r).parent with
    | none => []
    | some p => s.chain n p)
def State.chainOf (s : State) (r : Option Nat) : List Nat := match r with
  | none => []
  | some r => s.chain 25 r

/-- What is charged: halls, galleries, slots and pool entries. -/
structure Charge where
  halls : Nat := 0
  gal : Nat := 0
  slot : Nat := 0
  launch : Nat := 0
  deriving DecidableEq, Repr

/-- R369: what placing a region charges. -/
def ROwn.need (o : ROwn) : Charge :=
  let nh := (o.pw + 1) * (o.ph + 1)
  { halls := nh, gal := if o.gal then nh else 0, slot := nh * o.ns }

def within (n : Nat) : Option Nat → Bool
  | none => true
  | some b => n ≤ b

/-- R363: a charge is admitted at a node, on top of what is charged there. -/
def Region.admits (g : Region) (c : Charge) : Bool :=
  within (g.uhalls + c.halls) g.eff.bhalls && within (g.ugal + c.gal) g.eff.bgal && within (g.uslot + c.slot) g.eff.bslot &&
    within (g.ulaunch + c.launch) g.eff.blaunch

/-- R361: the device's word of the amounts charged. -/
def Region.usage (g : Region) : Nat := g.uhalls % 128 + g.ugal % 128 * 2 ^ 8 + g.uslot % 512 * 2 ^ 16 + g.ulaunch % 8192 * 2 ^ 32

/-- R363: charges, or returns, amounts at a chain of nodes. -/
def State.charge (s : State) (chain : List Nat) (f : Region → Region) : State :=
  chain.foldl (fun s r => let s := s.updRegion r f
                          s.rcbWrite r 0x38 8 (s.region r).usage) s
def Region.add (c : Charge) (g : Region) : Region :=
  { g with uhalls := g.uhalls + c.halls, ugal := g.ugal + c.gal, uslot := g.uslot + c.slot, ulaunch := g.ulaunch + c.launch }
def Region.sub (c : Charge) (g : Region) : Region :=
  { g with uhalls := g.uhalls - c.halls, ugal := g.ugal - c.gal, uslot := g.uslot - c.slot, ulaunch := g.ulaunch - c.launch }

/-! ### Checking and enqueuing a launch (R365, R366) -/

/-- Who launches. -/
structure Launcher where
  parent : Option Nat
  ctx : Option (Nat × Nat)
  rroot : BitVec 37
  /-- R369: the argument of `launch`; none: the RCB's own `arg` -/
  x1 : Option W64
  deriving DecidableEq, Repr

/-- What a launch comes to. -/
inductive LaunchAns where
  | ok (s : State) (hdl : Nat)
  /-- the pool is full -/
  | full
  | fault (s : State) (c : Cause)

/-- Reads the 256 bytes of an RCB at a translated address: in HBM, and not poisoned (R361). -/
def State.readRcb (s : State) (x : Xlat) : State × Except Cause (List Byte) :=
  if x.rem.isSome || spaceOf x.pa != .hbm then (s, .error .range)
  else
    let r0 := s.edgeRead x.pa 64 x.key
    let r1 := r0.s.edgeRead (x.pa + 64) 64 x.key
    let r2 := r1.s.edgeRead (x.pa + 128) 64 x.key
    let r3 := r2.s.edgeRead (x.pa + 192) 64 x.key
    let c := firstCause ([r0, r1, r2, r3].map fun r => (r.cause != .none, r.cause))
    let s := r3.s.logAll { hall := 0, eclass := 4, own := false } (r0.logs ++ r1.logs ++ r2.logs ++ r3.logs)
    if c != .none then (s, .error c)
    else if r0.poison || r1.poison || r2.poison || r3.poison then (s, .error .range)
    else (s, .ok (r0.bytes ++ r1.bytes ++ r2.bytes ++ r3.bytes))

/-- R366: the pool entry a launch takes: which of the free ones is not stated, so the search begins at a free value (log 4). -/
def State.poolPick (s : State) : Nat :=
  let k := s.free.toNat % 4096
  (((List.range 4096).find? fun i => (Tab.find s.pool ((k + i) % 4096)).isNone).map fun i => (k + i) % 4096).getD 0

/-- R361, R365: a checked launch is enqueued: its handle, and the device's fields of its RCB. -/
def State.enqueueLaunch (s : State) (w : Launcher) (va : W64) (bs : List Byte) (eff : REff) : State × Nat :=
  let e := s.poolPick
  let gen := (Tab.get s.gens e 0 + 1) % 2 ^ 20
  let hdl := gen * 4096 + e
  let depth := match w.parent with
    | none => 0
    | some p => (s.region p).depth + 1
  let r := s.regions.length
  let own := rcbOwn bs
  let g : Region := { rcb := va, rroot := w.rroot, parent := w.parent, pctx := w.ctx, depth := depth, hdl := hdl, x1 := w.x1.getD own.arg,
                      eff := eff, own := own, gk := rcbF bs 0xC8 8 0, gn := rcbF bs 0xC8 24 16, gl := rcbF bs 0xC8 39 32,
                      fhead := rcbF bs 0x90 47 32, fcnt := rcbF bs 0x80 31 0 }
  let par := match w.parent with
    | none => 0
    | some p => (s.region p).rcb.toNat
  let s := { s.drawn with regions := s.regions ++ [g], pool := Tab.put s.pool e r, gens := Tab.put s.gens e gen }
  let s := s.charge (s.chainOf w.parent) (Region.add { launch := 1 })
  let s := s.rcbWrite r 0x08 8 (depth * 2 ^ 56 + par % 2 ^ 56)
  let s := s.rcbWrite r 0xC0 8 0
  (s.rcbWrite r 0xD0 8 (1 + hdl * 2 ^ 32), hdl)

/-- R365 steps 3–6 on the bytes of an RCB. -/
def State.launchBytes (s : State) (w : Launcher) (va : W64) (bs : List Byte) : LaunchAns :=
  let depth := match w.parent with
    | none => 0
    | some p => (s.region p).depth + 1
  let eff := rcbEff bs (w.parent.map fun p => (s.region p).eff)
  let chain := s.chainOf w.parent
  let need := (rcbOwn bs).need
  let fits (e : REff) : Bool := within need.halls e.bhalls && within need.gal e.bgal && within need.slot e.bslot
  let c := firstCause [(!rcbOk bs, .range), (rcbF bs 0xD0 2 0 != 0 && rcbF bs 0xD0 2 0 != 4, .range), (24 < depth, .depth),
    (!chain.all (fun p => (s.region p).admits { launch := 1 }) || !fits eff || !chain.all (fun p => fits (s.region p).eff), .budget)]
  if c != .none then .fault s c
  else if 4096 ≤ s.pool.length then .full
  else let r := s.enqueueLaunch w va bs eff; .ok r.1 r.2

/-- R365: checks a launch whose RCB has been translated. -/
def State.launchAt (s : State) (w : Launcher) (va : W64) (x : Except Cause Xlat) : LaunchAns :=
  match x with
  | .error c => .fault s c
  | .ok x => match s.readRcb x with
    | (s, .error c) => .fault s c
    | (s, .ok bs) => s.launchBytes w va bs

/-- R333: what `einfo` of a `launch` that faults receives: the VA where the RCB could not be translated or read, and 0 where a check of R365 failed. -/
def State.launchInfo (s : State) (va : W64) : Except Cause Xlat → W64
  | .error _ => va
  | .ok x => match s.readRcb x with
    | (_, .error _) => va
    | (_, .ok _) => 0

/-- R358 `launch`. -/
def execLaunch (d a b : BitVec 5) (s : State) : Res :=
  let t := s.me
  let h := s.focus.hall
  let x := s.focus.ctx
  let va := (t.rx a).v
  if (t.rx a).poison || (t.rx b).poison then trapRes s .poisonuse
  else if !s.quiet h x then waits s
  else if va.toNat % 256 != 0 then trapRes s .align va
  else
    let w : Launcher := { parent := s.regionAt h x, ctx := some (h, x), rroot := t.lroot, x1 := some (t.rx b).v }
    match s.xlate va .read with
    | (s, r) => match s.launchAt w va r with
      | .ok s hdl => retire s fun t => t.wx d (w64 hdl)
      | .full => waits s
      | .fault t c => trapRes t c (s.launchInfo va r)

/-- R366: the child of a context under a handle. -/
def State.childOf (s : State) (h x : Nat) (hdl : W64) : Option Nat :=
  match Tab.find s.pool (bitsN hdl 11 0) with
  | none => none
  | some r => if hdl = w64 (s.region r).hdl && (s.region r).pctx == some (h, x) && !(s.region r).freed then some r else none

/-- R366, R368: frees a region's pool entry and returns its charge. -/
def State.freeEntry (s : State) (r : Nat) : State :=
  let g := s.region r
  let s := { s with pool := Tab.del s.pool (g.hdl % 4096) }.updRegion r fun g => { g with freed := true }
  s.charge (s.chainOf g.parent) (Region.sub { launch := 1 })

/-- R358, R366 `lwait`. -/
def execLwait (d a : BitVec 5) (s : State) : Res :=
  let t := s.me
  if (t.rx a).poison then trapRes s .poisonuse
  else match s.childOf s.focus.hall s.focus.ctx (t.rx a).v with
    | none => trapRes s .range
    | some r =>
      let g := s.region r
      if g.state != 4 then waits s
      else
        let (s, bs, c, _) := s.vaRead g.rroot (g.rcb + 0xC0) 8
        if c = .none then retire (s.freeEntry r) fun t => t.wx d (w64 (leNat bs))
        else retire (s.freeEntry r).drawn fun t => t.wx d s.free true

/-- R388 `rkind` 4: the report of a refused launch token. -/
def launchRecord (s : State) (hall : Nat) (k : LaunchTok) (c : Cause) : BitVec 512 :=
  elemRecord c { hall := hall, elem := k.bay, eclass := 0, ctx := k.ctx } (s.logCtx hall k.ctx) k.tok.header k.tok.payload.toNat

/-- R365, R367: the hall's launch logic takes the oldest launch token. -/
def execLaunchToken (s : State) : Res :=
  let h := s.focus.hall
  match Tab.get s.ltoks h [] with
  | [] => waits s
  | k :: rest =>
    match s.regionAt h k.ctx with
    | none => .next { s with ltoks := Tab.put s.ltoks h rest }
    | some r =>
      let s0 : State := { s with ltoks := Tab.put s.ltoks h rest }
      let g := s.region r
      let va := g.eff.lbase + w64 (bitsN k.tok.payload 31 0 * 256)
      let w : Launcher := { parent := some r, ctx := some (h, k.ctx), rroot := g.eff.root, x1 := none }
      let refuse (s : State) (c : Cause) : Res := .next (s.report h k.ctx (launchRecord s h k c))
      if s.ctxStopped h k.ctx then waits s
      else if va.toNat % 256 != 0 then refuse s0 .align
      else if bitsN va 63 56 != 0 then refuse s0 .range
      else
        match s0.walk g.eff.root va .read with
        | (s, .fault c, _) => refuse s c
        | (s1, .leaf pte psz, _) => match s1.launchAt w va (.ok (leafXlat pte psz va)) with
          | .ok s _ => .next s
          | .full => waits s
          | .fault s c => refuse s c

end Sys2Proof.Machine
end

