-- ==== Sys2Proof/Machine/Switch.lean ====
section
/-! DEFINITION. Switching between context slots (R376, R377): the markers that travel, and the completion that hands the thread over. -/

namespace Sys2Proof.Machine

/-! ### Switch markers (R376) -/

/-- R200, R289: a switch marker on the stream of an M-bay: what comes before it is complete, and it is forwarded. -/
def mbaySwitch (s : State) (h q : Nat) : Res :=
  let b := s.bank h q
  match b.strm with
  | none => waits s
  | some m =>
    let w := s.strmWord h q m
    match s.strmHead h q m with
    | none => waits s
    | some t =>
      if !(t.kind == .marker && t.level == 1) || s.halted h (mbayOf q) m.ctx || b.stopped.contains m.ctx || m.ended then waits s
      else if portMode w = 3 && s.updQueued h q m.ctx then waits s
      else if portMode w = 3 && (b.members q).any fun k => !(s.bank h k).win.isEmpty then
        .next ((b.members q).foldl (fun s k => s.winFlush h k) s)
      else if portMode w = 0 && !m.rob.isEmpty then waits s
      else match (s.strmTake h q m).strmSend h q w t with
        | none => waits s
        | some s => .next ((s.portPass h (16 + q) t).takeSwitch h (mbayOf q) (switchSlot t))

/-- R264, R275: the gallery consumes a switch marker of its control channel; a stopped context discards it instead. -/
def gallerySwitch (s : State) (h x : Nat) : Res :=
  let c := s.galCtx h x
  match c.words with
  | [] => waits s
  | t :: rest =>
    if !(t.kind == .marker && t.level == 1) || c.claim.isSome || c.stopped || c.full || s.halted h 80 x then waits s
    else .next ((s.updGctx h x fun c => { c with words := rest }).takeSwitch h 80 (switchSlot t))

/-- R169: a switch marker at the head of a stair's channel. -/
def stairSwitch (s : State) (h n x chan : Nat) : Res :=
  match (s.stair h n).head x chan with
  | none => waits s
  | some t => if t.kind == .marker && t.level == 1 then stairControl s h n x chan else waits s

/-- R376: an element takes the switch marker at the head of a channel (`idx`), makes the slot it names live and forwards it. -/
def execSwitchMarker (s : State) : Res :=
  let h := s.focus.hall
  let e := s.focus.elem
  let x := s.focus.ctx
  let ch := s.focus.idx % 16
  if e < 64 then
    match bayKind e with
    | .a => s.takeControl h e x ch true
    | .s => s.barrier true
    | .m => mbaySwitch s h (quadOf e)
  else if e < 80 then stairSwitch s h (e - 64) x ch
  else if e = 80 then gallerySwitch s h x
  else waits s

/-! ### Completion of a switch (R377) -/

/-- R377: the sinks of a slot: its armed sink counters, and the elements of its `sinkcnt` units. -/
def State.sinkCounters (s : State) (h a : Nat) : List SinkC :=
  ((s.disp h).sinks.filter fun (p : Nat × SinkC) => p.1 % 4 == a).map fun (p : Nat × SinkC) => p.2
def State.sinkUnits (s : State) (h a : Nat) : List Nat :=
  (List.range 64).filter fun e => (cfgWord (s.cfg h e a).words 0x0C).isSome

/-- R377: a switch of a slot can complete. -/
def State.switchDone (s : State) (h a : Nat) : Bool :=
  let cs := s.sinkCounters h a
  let us := s.sinkUnits h a
  if cs.isEmpty && us.isEmpty then
    (s.disp h).cmds.all fun c => !(bitsN c.word 127 120 == 0x0F && c.ctx == a)
  else cs.all (·.switched) && us.all fun e => (s.slot h a).sinkReps.contains e

/-- Who an access, a packet or a bank request answers to, after the thread of a slot has moved to another. -/
def Issuer.moved (h a t : Nat) : Issuer → Issuer
  | .thread k c => if k = h && c = a then .thread h t else .thread k c
  | x => x
def Waiter.moved (h a t : Nat) : Waiter → Waiter
  | .thread k c o n => if k = h && c = a then .thread h t o n else .thread k c o n
  | .load k c d o n sg => if k = h && c = a then .load h t d o n sg else .load k c d o n sg
  | .write k c => if k = h && c = a then .write h t else .write k c
  | .amo k c n => if k = h && c = a then .amo h t n else .amo k c n
  | x => x
def Reply.moved (h a t : Nat) : Reply → Reply
  | .thread k c sg => if k = h && c = a then .thread h t sg else .thread k c sg
  | x => x
def BankReq.moved (h a t : Nat) (r : BankReq) : BankReq := { r with reply := r.reply.moved h a t }
def Net.moved (h a t : Nat) (n : Net) : Net :=
  let pkt (p : NetPkt) : NetPkt := { p with req := p.req.moved h a t }
  { n with fly := n.fly.map pkt, bufs := n.bufs.map fun p => (p.1, p.2.map pkt) }
def Bank.moved (h a t : Nat) (b : Bank) : Bank :=
  { b with q := b.q.map fun p => (p.1, p.2.map (BankReq.moved h a t)), parked := b.parked.map (BankReq.moved h a t) }

/-- R377: the thread of a slot continues as the thread of another, with all its state and all that is on its way to it. -/
def State.moveThread (s : State) (h a t : Nat) : State :=
  let d := s.disp h
  let key (k : Nat) : Nat := if k = tkey h a then tkey h t else k
  let region (g : Region) : Region := if g.pctx == some (h, a) then { g with pctx := some (h, t) } else g
  let s := s.setDisp h { d with
    cmds := d.cmds.map fun c => if c.ictx = a then { c with ictx := t } else c
    stats := d.stats.map fun x => if x.ctx = a then { x with ctx := t } else x }
  { s with
    threads := Tab.put (Tab.del s.threads (tkey h a)) (tkey h t) (s.thr h a)
    edge := s.edge.map fun p => { p with who := p.who.moved h a t }
    banks := s.banks.map fun p => (p.1, p.2.moved h a t)
    net := s.net.moved h a t
    regions := s.regions.map region
    stall := Tab.del s.stall (tkey h a)
    stalled := Tab.del s.stalled (tkey h a)
    arc := { s.arc with
      outst := s.arc.outst.map fun o => { o with who := o.who.moved h a t }
      regOut := s.arc.regOut.map fun r => (r.1, r.2.1, key r.2.2.1, r.2.2.2) } }

/-- R376: an element that has not made a slot live does so. -/
def State.switchAll (s : State) (h t : Nat) : State := hallElems.foldl (fun s e => s.takeSwitch h e t) s

/-- R377, R29: the region controller of a hall completes the switch of a slot, after the writes of `hmsk` issued before it. A switch of a slot to itself leaves it as it is (DESIGN CHOICE, log 40). -/
def execSwitchCompletion (s : State) : Res :=
  let h := s.focus.hall
  let a := s.focus.ctx
  let x := s.slot h a
  match x.switchTo with
  | none => waits s
  | some t =>
    if s.ctxStopped h a || !s.switchDone h a || !(s.thr h a).hmOut.isEmpty then waits s
    else if t = a then .next (s.setSlot h a { x with switchTo := none, sinkReps := [] })
    else
      let s := (s.switchAll h t).setSlot h a { x with st := .loaded, switchTo := none, liveAt := [], sinkReps := [] }
      let d := s.disp h
      let s := s.setDisp h { d with sinks := d.sinks.map fun (p : Nat × SinkC) => (p.1, if p.1 % 4 = a then { p.2 with switched := false } else p.2) }
      .next (s.moveThread h a t)

end Sys2Proof.Machine
end

