-- ==== Sys2Proof/Machine/Complete.lean ====
section
/-! DEFINITION. The end of a region (R325, R382–R384): what it still has under way, completion and its store, and what an abort shares with it. -/

namespace Sys2Proof.Machine

/-! ### Where a region is -/

/-- R364: the physical slots a region is charged. -/
def Region.slotSet (g : Region) : List Nat := g.smap.take g.own.ns
/-- The contexts of a region: halls and physical slots. -/
def Region.places (g : Region) : List (Nat × Nat) := (g.halls.map fun h => g.slotSet.map fun c => (h, c)).flatten
/-- The context for which a bank serves a request. -/
def BankReq.owner (r : BankReq) : Nat × Nat := match r.reply with
  | .drop => (r.src.1, r.ctx)
  | .bay h _ c _ _ _ => (h, c)
  | .bayLane h _ c _ _ _ => (h, c)
  | .thread h c _ => (h, c)
  | .port h _ _ => (h, r.ctx)
  | .unit h _ c => (h, c)
  | .unitRd h _ c => (h, c)
  | .gal h c => (h, c)

/-- A command of a hall belongs to a region. -/
def State.cmdOf (s : State) (r hall ticket : Nat) : Bool := match s.cmd hall ticket with
  | none => false
  | some c => c.region == some r

/-- The region on whose behalf an access was issued. -/
def State.issuedBy (s : State) (r : Nat) (ps : List (Nat × Nat)) : Issuer → Bool
  | .thread h c => ps.contains (h, c)
  | .stair h _ c => ps.contains (h, c)
  | .engine h k => s.cmdOf r h k
  | .host _ => false

/-- The region that waits for an answer of a peer. -/
def State.askedBy (s : State) (r : Nat) (ps : List (Nat × Nat)) : Waiter → Bool
  | .thread h c _ _ => ps.contains (h, c)
  | .load h c _ _ _ _ => ps.contains (h, c)
  | .write h c => ps.contains (h, c)
  | .amo h c _ => ps.contains (h, c)
  | .stairRead h n => ((s.stair h n).run.map fun x => ps.contains (h, x.ctx)).getD false
  | .stairWrite h n => ((s.stair h n).run.map fun x => ps.contains (h, x.ctx)).getD false
  | .cmd h k => s.cmdOf r h k
  | .rdfor h k => s.cmdOf r h k

/-- A bank of the module has a request of the given contexts in its queues, or on its way to them, or an update in its window. -/
def State.banksBusy (s : State) (ps : List (Nat × Nat)) : Bool :=
  s.net.reqs.any (fun r => ps.contains r.owner) ||
  s.banks.any fun p => p.2.q.any (fun q => q.2.any fun r => ps.contains r.owner) ||
    p.2.win.any fun w => ps.contains (p.1 / 16, w.ctx)

/-- R325: every access of a region that has been issued has been performed. -/
def State.performed (s : State) (r : Nat) : Bool :=
  let ps := (s.region r).places
  !s.edge.any (fun p => s.issuedBy r ps p.who) && !s.arc.outst.any (fun o => s.askedBy r ps o.who) && !s.banksBusy ps &&
    !s.arc.rdfors.any (fun x => s.cmdOf r x.hall x.ticket) &&
    ps.all fun p =>
      (List.range 64).all (fun b => (s.unit p.1 b p.2).unacked == 0) && ((s.galCtx p.1 p.2).run.map (·.unacked)).getD 0 == 0 &&
        (List.range 16).all fun n =>
          let x := s.stair p.1 n
          (x.run.map (·.ctx)) != some p.2 || (x.unacked == 0 && x.mrg.isNone)

/-! ### Completion (R382) -/

/-- R382: a hall of a region meets the conditions of completion. -/
def State.hallComplete (s : State) (r h : Nat) : Bool :=
  let g := s.region r
  let d := s.disp h
  let live := g.slotSet.filter fun c => (s.slot h c).st == .live
  let thread : Nat → Bool := fun c =>
    let t := s.thr h c
    !t.live || (t.inWfi && !t.pl && !t.dead && t.toks.isEmpty && t.reps.isEmpty)
  d.sinks.all (fun (p : Nat × SinkC) => !live.contains (p.1 % 4) || (p.2.left == 0 && p.2.hit)) &&
    live.all (fun c => (s.sinkUnits h c).all fun e => let u := s.unit h e c; u.sink == some 0 && u.sinkHit) &&
    g.slotSet.all thread && live.any (fun c => (s.thr h c).live) &&
    d.cmds.all (fun c => c.region != some r) &&
    g.slotSet.all (fun c => (s.galCtx h c).queue.isEmpty && (s.slot h c).switchTo.isNone)

/-- R382: a region completes. -/
def State.regionComplete (s : State) (r : Nat) : Bool :=
  let g := s.region r
  g.state == 2 && !g.stopped && g.swap.seq.isNone && g.halls.all (s.hallComplete r) &&
    s.regions.all (fun c => c.parent != some r || c.state == 4) && s.performed r

/-! ### Ending the contexts of a region (R384, R405) -/

/-- The items of a stair's output that are not a context's. -/
def OutItem.keeps (c : Nat) : OutItem → Bool
  | .tok t _ => t.ctx.toNat != c
  | .el e => e.ctx != c
  | .hole _ => true

/-- A stair forgets a context: a command of it is abandoned. -/
def Stair.clear (x : Stair) (c : Nat) : Stair :=
  let x := { x with
    chans := Tab.keep x.chans fun k => k / 16 != c
    held := x.held.filter fun h => h.1.ctx.toNat != c
    out := x.out.filter (OutItem.keeps c) }
  if (x.run.map (·.ctx)) == some c then
    { chans := x.chans, held := x.held, lastWin := x.lastWin, reqSeq := x.reqSeq, rdfors := x.rdfors,
      out := x.out.filter fun o => match o with
        | .hole _ => false
        | _ => true }
  else x

/-- A bank forgets the stream, the tokens and the parked reads of a context of its hall. -/
def Bank.clear (b : Bank) (h here c : Nat) : Bank :=
  { b with
    chans := if here = h then Tab.keep b.chans fun k => k / 16 != c else b.chans
    strm := if here = h && (b.strm.map (·.ctx)) == some c then none else b.strm
    stopped := if here = h then setDel b.stopped c else b.stopped
    parked := b.parked.filter fun r => r.owner != (h, c) }

/-- R384: a gallery is freed by a context. -/
def Gal.clear (g : Gal) (c : Nat) : Gal :=
  { g with
    ctxs := Tab.del g.ctxs c
    quarters := g.quarters.filter fun (p : Nat × Nat) => p.2 != c
    slots := g.slots.map fun (p : Nat × GSlot) => (p.1, if p.2.held = some c then { p.2 with held := none } else p.2)
    port := g.port.filter fun l => l.ctx != c }

/-- The thread of a context waits for an answer. -/
def Waiter.ofThread (h c : Nat) : Waiter → Bool
  | .thread k x _ _ => k == h && x == c
  | .load k x _ _ _ _ => k == h && x == c
  | .write k x => k == h && x == c
  | .amo k x _ => k == h && x == c
  | _ => false

/-- R384, R405: every element of a hall forgets a context's state and tokens, and its slot is loaded. Answers to its thread find nobody, and
skips and echoes on the hall's return lanes are discarded (R397). -/
def State.clearCtx (s : State) (h c : Nat) : State :=
  let d := s.disp h
  let s := s.setDisp h { d with sinks := Tab.keep d.sinks fun k => k % 4 != c, ports := Tab.keep d.ports fun k => k % 4 != c, ins := d.ins.filter fun k => k % 4 != c }
  let s : State := { s with
    bays := Tab.keep s.bays fun k => !(k / 256 == h && k % 4 == c)
    units := Tab.keep s.units fun k => !(k / 256 == h && k % 4 == c)
    stairs := s.stairs.map fun (p : Nat × Stair) => (p.1, if p.1 / 16 = h then p.2.clear c else p.2)
    banks := s.banks.map fun (p : Nat × Bank) => (p.1, p.2.clear h (p.1 / 16) c)
    gals := s.gals.map fun (p : Nat × Gal) => (p.1, if p.1 = h then p.2.clear c else p.2)
    threads := Tab.del s.threads (tkey h c)
    stall := Tab.del s.stall (tkey h c)
    stalled := Tab.del s.stalled (tkey h c)
    rlanes := s.rlanes.map fun (p : Nat × List RTok) => (p.1, if p.1 / 1024 = h then p.2.filter (·.ctx != c) else p.2)
    vecOpen := Tab.keep s.vecOpen fun k => !(k / 4096 == h && k % 4 == c)
    feed := Tab.keep s.feed fun k => !(k / 4096 == h && k % 4 == c)
    walks := s.walks.filter fun w => !(w.hall == h && w.ctx == c)
    arc := { s.arc with outst := s.arc.outst.filter fun o => !o.who.ofThread h c, regOut := s.arc.regOut.filter fun r => r.2.2.1 != tkey h c } }
  let x := s.slot h c
  s.setSlot h c { x with
    st := if x.st == .empty then .empty else .loaded, liveAt := [], switchTo := none, sinkReps := [] }

/-- R384 steps 1 to 3 and 6: charges are returned, the slots are loaded and free, and the threads end. -/
def State.release (s : State) (r : Nat) : State :=
  let g := s.region r
  let s := if 2 ≤ g.state && g.state != 4 then s.charge (s.chainOf (some r)) (Region.sub g.own.need) else s
  if g.state != 2 then s
  else g.places.foldl (fun s p =>
    let s := s.clearCtx p.1 p.2
    s.setSlot p.1 p.2 { s.slot p.1 p.2 with region := none }) s

/-- R368: the pool entries of children on which no `lwait` has returned are freed; so is a root's own, for which none can (R436). -/
def State.freeChildren (s : State) (r : Nat) : State :=
  let kids := (List.range s.regions.length).filter fun i => (s.region i).parent == some r && !(s.region i).freed
  let kids := if (s.region r).parent.isNone && !(s.region r).freed then kids ++ [r] else kids
  kids.foldl State.freeEntry s

/-- R383: the completion word. -/
def Region.cword (g : Region) : Nat :=
  2 ^ 63 + (if g.flt then 2 ^ 62 + g.fcause.code * 2 ^ 48 else 0) + (if g.lost then 2 ^ 61 else 0) + g.hdl % 2 ^ 32

/-- R384: a region ends: release, the completion store, then `state` 4. -/
def State.endRegion (s : State) (r : Nat) : State :=
  let s := (s.release r).freeChildren r
  let drop (d : Disp) : Disp := { d with cmds := d.cmds.filter fun c => c.region != some r }
  let s : State := { s with
    disps := s.disps.map fun (p : Nat × Disp) => (p.1, drop p.2)
    saved := s.saved.filter fun x => x.region != r }
  let s := s.rcbWrite r 0xC0 8 (s.region r).cword
  (s.rcbWrite r 0xD0 4 4).updRegion r fun g => { g with state := 4, stopped := false, swap := {} }

/-- R384: the region controller of a region (`idx`) finds completion and performs the completion store. -/
def execRegionCompletion (s : State) : Res :=
  let r := s.focus.idx
  if r < s.regions.length && s.regionComplete r then .next (s.endRegion r) else waits s

end Sys2Proof.Machine
end

