-- ==== Sys2Proof/Machine/Sched.lean ====
section
/-! DEFINITION. The launch scheduler (R364, R369–R371, R378): the order of its queue, eligible placements, loading images, and starting a region. -/

namespace Sys2Proof.Machine

/-! ### The queue (R369, R378) -/

/-- R369, R378: an entry of the queue comes before another: higher effective priority; swapped-out regions ahead of launches of
their own priority; then the order of launch. -/
def State.ahead (s : State) (a b : Nat) : Bool :=
  let x := s.region a
  let y := s.region b
  y.eff.prio < x.eff.prio || (x.eff.prio = y.eff.prio && ((x.state = 3 && y.state != 3) || ((x.state == 3) == (y.state == 3) && a < b)))

/-- The first entry of the queue: no later one is placed before it. -/
def State.queueHead (s : State) : Option Nat :=
  bestBy s.ahead ((List.range s.regions.length).filter fun r => (s.region r).state == 1 || ((s.region r).state == 3 && !(s.region r).stopped))

/-! ### Images (R361, R369) -/

/-- A double word of the image table: the VA of an image, 0 for none. -/
def State.imageEntry (s : State) (r l k : Nat) : State × Except Cause Nat :=
  let g := s.region r
  let (s, bs, c, logs) := s.vaRead g.eff.root (g.own.image + w64 (8 * (4 * l + k))) 8
  let s := s.logAll { hall := 0, eclass := 4, own := false } logs
  (s, if c != .none then .error c else .ok (leNat bs % 2 ^ 56))

/-- The image table of a region: for each hall, the VAs of its logical slots; the first cause where it cannot be read. -/
def State.imageTable (s : State) (r : Nat) : State × Except Cause (List (List Nat)) :=
  let g := s.region r
  let row (s : State) (l : Nat) : State × Except Cause (List Nat) :=
    (List.range g.own.ns).foldl (fun (p : State × Except Cause (List Nat)) k => match p.2 with
      | .error c => (p.1, .error c)
      | .ok vs => match p.1.imageEntry r l k with
        | (s, .error c) => (s, .error c)
        | (s, .ok v) => (s, .ok (vs ++ [v]))) (s, .ok [])
  (List.range g.nh).foldl (fun (p : State × Except Cause (List (List Nat))) l => match p.2 with
    | .error c => (p.1, .error c)
    | .ok rows => match row p.1 l with
      | (s, .error c) => (s, .error c)
      | (s, .ok vs) => (s, .ok (rows ++ [vs]))) (s, .ok [])

/-- R369, R372: a slot of a hall holds an image: it was last loaded from its VA, under the same bay shift. -/
def State.resident (s : State) (h c va : Nat) (shift : Nat × Nat := (0, 0)) : Bool :=
  let x := s.slot h c
  va != 0 && x.st == .loaded && x.imageVa == some (w64 va) && x.shift == shift

/-- The quads whose M-bays an image of a hall configures with `mbank`. -/
def mbankQuads (t : Tab ElemCfg) : List Nat :=
  (List.range 16).filter fun q => (mbayWord (Tab.get t (mbayOf q) {}).words 1).isSome

/-- What an image holds in a hall: its resident copy, or what memory holds at its VA. -/
def State.imageAt (s : State) (root : BitVec 37) (h c va : Nat) : Tab ElemCfg :=
  if va = 0 then []
  else if s.resident h c va then (List.range 81).map fun e => (e, s.cfg h e c)
  else match State.readImage h root vaGranules s va [] with
    | .ok _ t => t
    | .fault _ _ _ => []

/-! ### Eligible placements (R364, R371) -/

/-- The halls of a rectangle by logical hall, where it lies in the grid. -/
def rectHalls (org pw ph : Nat) : Option (List Nat) :=
  if org / 8 + ph < 8 && org % 8 + pw < 8 then
    some (({ Region.blank with org := org, own := { pw := pw, ph := ph } } : Region).halls)
  else none

/-- R364: a slot that a placement may charge: charged to no region, neither live nor saving. -/
def State.slotFree (s : State) (h c : Nat) : Bool :=
  let x := s.slot h c
  x.region.isNone && x.st != .live && x.st != .saving

/-- R364: the lowest slots that are free in every hall. -/
def State.slotSet (s : State) (hs : List Nat) (ns : Nat) : Option (List Nat) :=
  let l := ((List.range 4).filter fun c => hs.all fun h => s.slotFree h c).take ns
  if l.length = ns then some l else none

/-- R371: no other running region with `gal` holds the hall's gallery. -/
def State.galFree (s : State) (r h : Nat) : Bool :=
  !(s.gal h).retired && !((List.range s.regions.length).any fun i =>
    let g := s.region i
    i != r && g.state == 2 && g.own.gal && g.halls.contains h)

/-- R371: another region that is running or swapped out owns a bank. -/
def State.bankTaken (s : State) (r h q : Nat) : Bool := match (s.bank h q).owner with
  | none => false
  | some o => o != r && ((s.region o).state == 2 || (s.region o).state == 3)

/-- R371: a hall's wing has the gallery maxima that a region has used. -/
def wingFits (g : Region) (h : Nat) : Bool := g.gk ≤ 256 && g.gn ≤ galleryN (h / 16)

/-- R371: an origin is eligible for a region on a set of slots; `maxima` is whether its wings' maxima count (R375), `dq` the quads by which
the region is shifted (R372). -/
def State.eligibleAt (s : State) (r : Nat) (table : List (List Nat)) (hs slots : List Nat) (maxima : Bool) (dq : Nat := 0) : Bool :=
  let g := s.region r
  hs.all (fun h => !(Tab.get s.hallSt h {}).retired && (!g.own.gal || s.galFree r h) && (!maxima || wingFits g h)) &&
    (List.range hs.length).all fun l =>
      let h := hs.getD l 0
      (List.range slots.length).all fun j =>
        (mbankQuads (s.imageAt g.eff.root h (slots.getD j 0) ((table.getD l []).getD j 0))).all fun q => !s.bankTaken r h ((q + dq) % 16)

/-- A placement: origin, and slots charged. -/
structure Place where
  org : Nat
  slots : List Nat
  deriving DecidableEq, Repr

/-- R369: images of a region that a placement finds resident. -/
def State.residents (s : State) (table : List (List Nat)) (hs slots : List Nat) : Nat :=
  ((List.range hs.length).map fun l => ((List.range slots.length).filter fun j =>
    s.resident (hs.getD l 0) (slots.getD j 0) ((table.getD l []).getD j 0)).length).foldl (· + ·) 0

/-- R371: a region's placement at an origin, if it is eligible. -/
def State.placeAt (s : State) (r : Nat) (table : List (List Nat)) (maxima : Bool) (org : Nat) (dq : Nat := 0) : Option Place :=
  let g := s.region r
  match rectHalls org g.own.pw g.own.ph with
  | none => none
  | some hs => match s.slotSet hs g.own.ns with
    | none => none
    | some sl => if s.eligibleAt r table hs sl maxima dq then some { org := org, slots := sl } else none

/-- R371: the eligible placement that the scheduler takes: the most resident images, then the lowest origin. -/
def State.choosePlace (s : State) (r : Nat) (table : List (List Nat)) : Option Place :=
  let g := s.region r
  let count (p : Place) : Nat := s.residents table ((rectHalls p.org g.own.pw g.own.ph).getD []) p.slots
  let ps := (List.range 64).filterMap (s.placeAt r table true)
  bestOf (fun a b => count b < count a) ps

/-! ### Loading and starting (R369, R376) -/

/-- R65: an image that a placement could not load: the cause, the hall, the image's VA and the byte offset of the record. -/
structure ImgFault where
  cause : Cause
  hall : Nat
  va : Nat
  off : Nat
  deriving DecidableEq, Repr

/-- R369, R401: loads the images that are not resident into the slots of a placement, under a bay shift (R372). -/
def State.loadImages (s : State) (r : Nat) (p : Place) (table : List (List Nat)) (sdr sdc : Nat) : State × Option ImgFault :=
  let g := s.region r
  let hs := (rectHalls p.org g.own.pw g.own.ph).getD []
  let jobs := ((List.range hs.length).map fun l => (List.range p.slots.length).map fun j =>
    (hs.getD l 0, p.slots.getD j 0, (table.getD l []).getD j 0)).flatten
  jobs.foldl (fun (a : State × Option ImgFault) (k : Nat × Nat × Nat) =>
    if a.2.isSome || k.2.2 = 0 || a.1.resident k.1 k.2.1 k.2.2 (sdr, sdc) then a
    else match State.readImage k.1 g.eff.root vaGranules a.1 k.2.2 [] with
      | .fault s c off => (s, some { cause := c, hall := k.1, va := k.2.2, off := off })
      | .ok s t => (s.loadCfg k.1 k.2.1 sdr sdc t (w64 k.2.2), none)) (s, none)

/-- R364, R361: a region's slots are charged, and its RCB records where it is. -/
def State.bindPlace (s : State) (r : Nat) (p : Place) (sdr sdc : Nat) : State :=
  let f (g : Region) : Region := { g with org := p.org, smap := p.slots, sdr := sdr, sdc := sdc }
  let s := s.updRegion r f
  let g := s.region r
  let s := g.places.foldl (fun s q => s.setSlot q.1 q.2 { s.slot q.1 q.2 with region := some r }) s
  let sm := ((List.range p.slots.length).map fun j => p.slots.getD j 0 * 4 ^ j).foldl (· + ·) 0
  s.rcbWrite r 0xD8 8 (p.org + sdr * 2 ^ 8 + sdc * 2 ^ 12 + sm * 2 ^ 16)

/-- R369 step 4: the logical slot of a hall that is made live: the lowest with an image. A hall without an image runs in logical slot 0. -/
def liveSlot (row : List Nat) : Nat := (row.findIdx? (· != 0)).getD 0

/-- R376: makes a slot live on every element of a hall. -/
def State.allLive (s : State) (h c : Nat) : State := hallElems.foldl (fun s e => s.firstSwitch h e c) s

/-- R369: the state in which a region's thread starts in a logical hall. -/
def Region.thread (g : Region) (l : Nat) : Thread :=
  let t : Thread := { live := true, pc := g.own.entry, ie := true, rcbva := g.rcb, lroot := g.eff.root,
                      ebase := w64 (g.eff.fhandler.toNat / 4 * 4) }
  (((t.wx 1 g.x1).wx 2 g.rcb).wx 3 (w64 g.hdl)).wx 4 (w64 l)

/-- R369 steps 4 and 5 in one logical hall. -/
def State.startHall (s : State) (r : Nat) (table : List (List Nat)) (l : Nat) : State :=
  let g := s.region r
  let h := g.hallOf l
  let row := table.getD l []
  let c := g.phys (liveSlot row)
  let s := if row.any (· != 0) then s
    else { s with cfgs := s.cfgs.filter fun (p : Nat × ElemCfg) => !(p.1 / 512 == h && p.1 % 4 == c) }
  (s.allLive h c).setThr h c (g.thread l)

/-- Where a cause of the scheduler is recorded: the region's logical hall 0. -/
def placeRecord (g : Region) (c : Cause) : BitVec 512 := recHead c (g.hallOf 0) 0 2

/-- R65, R388: an image refused at placement: as the `cfgload` that the scheduler issues reports it. -/
def ImgFault.record (f : ImgFault) : BitVec 512 := recPut (recPut (recPut (recHead f.cause f.hall 0 2) 392 56 (f.va + f.off)) 384 8 0x0E) 352 32 f.off

/-- R369: an image, or an image table, that cannot be read is reported to the parent fault domain, and the region is aborted. -/
def State.refusePlace (s : State) (r : Nat) (rec : BitVec 512) : State :=
  let s := (s.bumpFcnt (some r)).route 26 r ((s.region r).hallOf 0) 0 true rec
  let f (g : Region) : Region := { g with fstate := 3, flt := true }
  ((s.updRegion r f).rcbWrite r 0xA0 1 3).endRegion r

/-- R369: places the launch at the head of the queue. -/
def execPlacement (s : State) : Res :=
  match s.queueHead with
  | none => waits s
  | some r =>
    let g := s.region r
    if g.state != 1 || s.host.pwr != 0 then waits s
    else match s.imageTable r with
      | (s, .error c) => .next (s.refusePlace r (placeRecord (s.region r) c))
      | (s1, .ok table) => match s1.choosePlace r table with
        | none => waits s
        | some p =>
          if !((s.chainOf (some r)).all fun k => (s.region k).admits g.own.need) then waits s
          else
            match s1.loadImages r p table 0 0 with
            | (s, some f) => .next (s.refusePlace r f.record)
            | (s, none) =>
              let s := s.charge (s.chainOf (some r)) (Region.add g.own.need)
              let s := s.bindPlace r p 0 0
              let s := (List.range g.nh).foldl (fun s l => s.startHall r table l) s
              .next ((s.rcbWrite r 0xD0 1 2).updRegion r fun g => { g with state := 2 })

end Sys2Proof.Machine
end

