-- ==== Sys2Proof/Machine/Swap.lean ====
section
/-! DEFINITION. Pre-emption by drain marker (R378, R395–R400, R199, R283, R451): starting a swap, drains at ports and links, what each element finishes before it saves, and the save. -/

namespace Sys2Proof.Machine

/-! ### The inputs of a region's elements (R397) -/

/-- The links on which an element sends tokens of a context, from its route classes; a gallery's from its drain entries. -/
def State.elemLinks (s : State) (h e c : Nat) : List Nat :=
  let cfg := s.cfg h e c
  if e = 80 then
    (s.galCtx h c).routes.filterMap fun (p : Nat × W64) =>
      if gkOf p.2 = 2 then galEast h (lrowOf p.2) else some (galWest h (lrowOf p.2))
  else
    let own := (cfg.routes.map fun (r : Nat × W32) => (entryDirs r.2).filterMap (outLink h e)).flatten
    let pass := match cfgWord cfg.words 0x1C with
      | none => []
      | some w =>
        let n := e - 64
        (if bitB w 57 then ((facingStair h n).map fun (f : Nat × Nat) => lkey f.1 (stairElem f.2) 1).toList else []) ++
          (if bitB w 56 then [lkey h (stairBay n) (stairBaySide n)] else [])
    if 64 ≤ e then own ++ pass else own

/-- R263: the link to which a gallery passes what reaches it on a link, where it passes tokens on. -/
def crossLink (k : Nat) : Option Nat :=
  let h := k / 8 / 128
  let e := k / 8 % 128
  if e < 80 || 88 ≤ e then none
  else if k % 8 = dirW then galEast h (e - 80)
  else if k % 8 = dirE then some (galWest h (e - 80))
  else none

/-- R397: the links on which some element of a region sends a context's tokens. -/
def State.regionLinks (s : State) (hs : List Nat) (c : Nat) : List Nat :=
  let own := (hs.map fun h => (List.range 81).map fun e => s.elemLinks h e c).flatten.flatten
  own ++ own.filterMap crossLink

/-- R397: the inputs of the elements of a context: links, and the ports through which its commands send. -/
def State.ctxInputs (s : State) (hs : List Nat) (h c : Nat) : List Nat :=
  let links := s.regionLinks hs c
  let ofLink (k : Nat) : Option Nat :=
    let e := k / 8 % 128
    if k / 8 / 128 != h || 88 ≤ e then none
    else if 80 ≤ e then some (inKey h 80 c (if k % 8 = dirW then e - 80 else 8 + (e - 80)))
    else some (inKey h e c (k % 8))
  links.filterMap ofLink ++ ((s.disp h).ins.filter fun k => k % 4 == c).map fun k => inKey h (portElem (k / 4)) c (4 + k / 4)

/-! ### Starting a swap (R378, R395) -/

/-- The live contexts of a region, 4 × hall + slot. -/
def State.liveCtxs (s : State) (r : Nat) : List Nat :=
  ((s.region r).places.filter fun (p : Nat × Nat) => (s.slot p.1 p.2).st == .live).map fun (p : Nat × Nat) => tkey p.1 p.2

/-- R396: a swap of a region begins, with the initiating hall and the sequence of its drains. -/
def State.beginSwap (s : State) (r ihall seq : Nat) : State :=
  let g := s.region r
  let cs := s.liveCtxs r
  let ins := (cs.map fun k => s.ctxInputs g.halls (k / 4) (k % 4)).flatten
  s.updRegion r fun g => { g with swap := { snapSeq := g.swap.snapSeq, snapInputs := g.swap.snapInputs, snapIn := g.swap.snapIn,
                                            snapRec := g.swap.snapRec, snapRegs := g.swap.snapRegs, snapWins := g.swap.snapWins,
                                            snapWaits := g.swap.snapWaits, snapSent := g.swap.snapSent,
                                            snapHalls := g.swap.snapHalls, snapPorts := g.swap.snapPorts, seq := some (ihall, seq), ctxs := cs, inputs := ins } }

/-- R183: commands that send tokens into the fabric through their port. -/
def sendsTokens (op : Nat) : Bool := [0x01, 0x04, 0x05, 0x0B, 0x0C, 0x0F, 0x12].contains op

/-- R395: a port is sending the tokens of a command of a context. -/
def State.portSends (s : State) (h p c : Nat) : Bool :=
  if p < 16 then
    let x := s.stair h p
    (x.run.map (·.ctx)) == some c && x.stop.isNone
  else (s.disp h).cmds.any fun k =>
    let w := cmdW k.word
    k.started && !k.done && ((k.ctx == c && sendsTokens w.op && w.port == p) ||
      (writingCmd w.op && w.eot && w.imm % 64 == p && s.physOf h k.ictx (w.imm / 64 % 4) == c))

/-- R395 step 1, R355: what a thread waits in is abandoned and will issue again; an `mwait` in which it waits ends there with cause 4. -/
def Thread.abandon (t : Thread) : Thread :=
  { (if t.mwD.isSome then { t.noMwait with mwSaved := some t.pc } else t) with inWfi := false, inWait := 0 }

/-- The place of a request in the order of its element. -/
def BankReq.turn (q : BankReq) : Nat := match q.reply with
  | .port _ _ k => k
  | _ => q.no
/-- R199: withdrawn reads in the order in which their elements issued them. -/
def inTurnOf (l : List (Nat × BankReq)) : List (Nat × BankReq) :=
  let put (l : List (Nat × BankReq)) (p : Nat × BankReq) : List (Nat × BankReq) :=
    l.takeWhile (fun q => q.2.turn ≤ p.2.turn) ++ p :: l.dropWhile fun q => q.2.turn ≤ p.2.turn
  l.foldl put []

/-- R199: a withdrawn read of a bay leaves its place in the return path. -/
def State.forgo (s : State) (q : BankReq) : State := match q.reply with
  | .bay h b c _ _ _ => s.setBayCtx h b c ((s.bayCtx h b c).forgone (s.bayWord h b c) q.no)
  | _ => s

/-- R199, R395: parked reads that satisfy a test leave the banks' wait lists and are recorded with a region. -/
def State.withdraw (s : State) (r : Nat) (f : BankReq → Bool) : State :=
  let gone := (s.banks.map fun (p : Nat × Bank) => (p.2.parked.filter f).map fun q => (p.1, q)).flatten
  let s := { s with banks := s.banks.map fun (p : Nat × Bank) => (p.1, { p.2 with parked := p.2.parked.filter fun q => !f q }) }
  (gone.foldl (fun s p => s.forgo p.2) s).updRegion r fun g => { g with swap := { g.swap with withdrawn := g.swap.withdrawn ++ inTurnOf gone } }

/-- A request comes from the thread of a context. -/
def BankReq.ofThread (h c : Nat) (r : BankReq) : Bool := match r.reply with
  | .thread k x _ => k == h && x == c
  | _ => false

/-- R395 steps 1 and 2 for one context of a hall. -/
def State.stopCtx (s : State) (r h c : Nat) : State :=
  ((s.setSlot h c { s.slot h c with st := .saving }).updThr h c Thread.abandon).withdraw r (BankReq.ofThread h c)

/-- R120, R156: a stair's port still owes what a drain may not pass: writes not acknowledged, or three-party reads not complete. -/
def State.stairOwes (s : State) (h p : Nat) : Bool :=
  let x := s.stair h p
  p < 16 && (0 < x.unacked || x.mrg.isSome || 0 < x.rdfors)
/-- R395, R120: the drain of a context may be placed at a port at once. -/
def State.placesNow (s : State) (h p c : Nat) : Bool := !s.portSends h p c && !s.stairOwes h p

/-- R395: the controller of a hall acts: it stops the contexts and their commands, and places drains at the ports; a port that already
carries a program's drain keeps it. -/
def State.hallSwap (s : State) (r h : Nat) : State :=
  let g := s.region r
  let cs := (g.swap.ctxs.filter fun k => k / 4 == h).map (· % 4)
  let s := cs.foldl (fun s c => s.stopCtx r h c) s
  let keys := (cs.map fun c => (List.range 64).map fun p => 4 * (64 * h + p) + c).flatten
  let s := s.updRegion r fun g => { g with swap := { g.swap with halls := setIns g.swap.halls h, toPlace := g.swap.toPlace ++ keys } }
  keys.foldl (fun s k => if !s.placesNow h (k / 4 % 64) (k % 4) then s else s.cutPort h (k / 4 % 64) (k % 4)) s

/-! ### The scheduler's choice (R378, R399) -/

/-- The module as it would be without a region's slots and galleries. -/
def State.without (s : State) (r : Nat) : State :=
  let s := (s.region r).places.foldl (fun s (p : Nat × Nat) => s.setSlot p.1 p.2 { s.slot p.1 p.2 with st := .loaded, region := none }) s
  s.updRegion r fun g => { g with state := 3 }
/-- The module as it would be with every slot free. -/
def State.allSlots (s : State) : State :=
  { s with slots := s.slots.map fun (p : Nat × HSlot) => (p.1, { p.2 with st := .loaded, region := none }) }

/-- R399: 4 KiB blocks of shadow storage in use in a wing, of the 2,048 it has. -/
def State.shadowUsed (s : State) (wing : Nat) : Nat :=
  ((s.saved.map fun v => (v.blocks.filter fun (b : Nat × Nat) => b.1 / 16 == wing).map fun (b : Nat × Nat) => b.2).flatten).foldl (· + ·) 0

/-- R399: lines for a list of items, `n` to a line. -/
def linesFor (k n : Nat) : Nat := (k + n - 1) / n

/-- R399: the fixed and gallery lines of a hall's image for a context. -/
def State.fixedLines (s : State) (h c : Nat) : Nat :=
  let g := s.gal h
  let quarters := (g.quarters.filter fun (p : Nat × Nat) => p.2 == c).length
  let slots := ((List.range 32).filter fun n => (g.slot n).held == some c && (g.ctx c).queue.any (GEnt.usesSlot n)).length
  1281 + 4098 * quarters + 1040 * slots

/-- R399: the lines of a hall's image for a context of a region. -/
def State.imageLines (s : State) (r h c : Nat) : Nat :=
  let bays := (List.range 64).map fun b => match bayKind b with
    | .a => linesFor (((s.bayCtx h b c).chans.map fun (p : Nat × List Token) => p.2.length).foldl (· + ·) 0) 4
    | .s =>
      let u := s.unit h b c
      let tsz := match modeWord (s.cfg h b c).words with
        | some w => if bitsN w 63 58 = 0x06 && !u.tab.isEmpty then redTsz w / 4 else 0
        | none => 0
      tsz + (if u.kept.isEmpty then 0 else 8) + linesFor (((u.q.map fun (p : Nat × List Token) => p.2.length).foldl (· + ·) 0) + u.rq.length) 4
    | .m => if (s.bank h (quadOf b)).win.any fun w => w.ctx == c then 8 else 0
  let stairs := (List.range 16).map fun n =>
    let x := s.stair h n
    if (x.run.map (·.ctx)) == some c then x.out.length + (if x.spill.isEmpty then 0 else 6) else 0
  let t := s.thr h c
  let cmds := ((s.disp h).cmds.filter fun k => k.ctx == c).length
  let rec_ := (((s.region r).swap.recorded.filter fun (p : Nat × List Token) => p.1 / 128 / 512 == h && p.1 / 128 % 4 == c).map
    fun (p : Nat × List Token) => p.2.length).foldl (· + ·) 0
  s.fixedLines h c + bays.foldl (· + ·) 0 + stairs.foldl (· + ·) 0 + linesFor t.toks.length 4 + t.reps.length + linesFor cmds 4 +
    linesFor (s.galCtx h c).queue.length 4 + linesFor rec_ 4

/-- Blocks of 4 KiB for a number of lines. -/
def blocksFor (lines : Nat) : Nat := (lines + 63) / 64

/-- R399: every wing of a region has free blocks for what a measure gives for its contexts. -/
def State.shadowFits (s : State) (cs : List Nat) (lines : Nat → Nat → Nat) : Bool :=
  (List.range 4).all fun w =>
    s.shadowUsed w + ((cs.filter fun k => k / 4 / 16 == w).map fun k => blocksFor (lines (k / 4) (k % 4))).foldl (· + ·) 0 ≤ 2048

/-- R378: some region is being swapped out. -/
def State.anySaving (s : State) : Bool := s.regions.any fun g => g.state == 2 && g.swap.seq.isSome

/-- R378, R399: the scheduler swaps a region out, one at a time: the head of the queue finds no place for lack of slots alone, and the region is, of
those below its priority whose halls would make a placement eligible, the lowest and then the latest launched. -/
def State.victim (s : State) : Option Nat :=
  match s.queueHead with
  | none => none
  | some r =>
    match (s.imageTable r).2 with
    | .error _ => none
    | .ok table =>
      if s.anySaving || (s.choosePlace r table).isSome || (s.allSlots.choosePlace r table).isNone then none
      else
        let prio (k : Nat) : Nat := (s.region k).eff.prio
        let fit (k : Nat) : Bool :=
          let g := s.region k
          g.state == 2 && !g.stopped && g.swap.seq.isNone && prio k < prio r && ((s.without k).choosePlace r table).isSome &&
            s.shadowFits (s.liveCtxs k) s.fixedLines
        bestBy (fun a b => prio a < prio b || (prio a = prio b && b < a)) ((List.range s.regions.length).filter fit)

/-- R395: the controller of a hall (of the focus) starts to save the region `idx`; the scheduler's request is made with the first hall. -/
def execSwapStart (s : State) : Res :=
  let h := s.focus.hall
  let r := s.focus.idx
  let g := s.region r
  if s.regions.length ≤ r || g.state != 2 || !g.halls.contains h || g.swap.halls.contains h then waits s
  else if g.swap.seq.isSome then .next (s.hallSwap r h)
  else if s.victim == some r then
    .next (({ s with swapCount := (s.swapCount + 1) % 65536 }.beginSwap r (g.hallOf 0) s.swapCount).hallSwap r h)
  else waits s

/-- R395, R183 `drain`: a drain of a new sequence starts a swap (one of a sequence that has swapped the region out, saved unstarted at another
port, starts none); it follows what older commands of its port have sent. On a stair it passes as R120 lets it. -/
def execDrain (port : BitVec 6) (ctx : BitVec 2) (cls flags : BitVec 8) (imm : BitVec 32) (addr : BitVec 64) (s : State) : Res :=
  cmdRun s (cmdWord 0x0D port ctx cls flags imm addr) fun c =>
    let h := s.focus.hall
    let p := port.toNat
    let x := s.stair h p
    if p < 16 && x.mrg.isSome then .next (s.flushMrg h p)
    else if s.stairOwes h p then waits s
    else match s.regionAt h c.ctx with
      | none => cmdEnds s
      | some r =>
        let g := s.region r
        let seq := imm.toNat % 65536
        let s1 := if g.swap.seq.isNone && g.drainSeq != some seq then
            (s.beginSwap r h seq).updRegion r fun g => { g with drainSeq := some seq }
          else s
        let mine := (s1.region r).swap.seq.isSome && (s1.region r).swap.ctxs.contains (tkey h c.ctx) && !(s1.region r).swap.halls.contains h
        let key := 4 * (64 * h + p) + c.ctx
        let s2 := if mine then
            (s1.updRegion r fun g => { g with swap := { g.swap with toPlace := key :: g.swap.toPlace } }).hallSwap r h
          else s1
        .next ((s2.cutPort h p c.ctx).cmdDone h c.ticket)

/-! ### What an element finishes before it saves (R398) -/

/-- A request that a bank holds for an element and a context. -/
def BankReq.ofElem (h e c : Nat) (r : BankReq) : Bool := match r.reply with
  | .drop => r.src == (h, e) && r.ctx == c
  | .bay k b x _ _ _ => e == b && k == h && x == c
  | .bayLane k b x _ _ _ => e == b && k == h && x == c
  | .unit k b x => e == b && k == h && x == c
  | .unitRd k b x => e == b && k == h && x == c
  | .port k q _ => e == mbayOf q && k == h && r.ctx == c
  | .gal k x => e == 80 && k == h && x == c
  | .thread _ _ _ => false

/-- R199, R30: an element's requests have left the packet network and the queues of the banks. -/
def State.banksQuiet (s : State) (h e c : Nat) : Bool :=
  !s.net.reqs.any (BankReq.ofElem h e c) && !s.banks.any fun p => p.2.q.any fun q => q.2.any (BankReq.ofElem h e c)

/-- R199: the queued requests of a context's region have left a bank. -/
def State.bankQuiet (s : State) (h q c : Nat) : Bool :=
  let mine (r : BankReq) : Bool := (s.regionAt h c).isSome && s.regionAt r.owner.1 r.owner.2 == s.regionAt h c
  !(s.bank h q).q.any fun k => k.2.any mine

/-- An entry of a work queue is a deferred word. -/
def GEnt.deferred : GEnt → Bool
  | .a .. => false
  | _ => true

/-- R283: the gallery still has work of a context that it can do: a drain in progress, a deferred word at the head of the queue, or a row that meets
R275. -/
def State.galWorks (s : State) (h c : Nat) : Bool :=
  let g := s.gal h
  let x := g.ctx c
  !x.stopped && (x.run.isSome || x.queue.head?.any GEnt.deferred || g.nextRow c == some true)

/-- An item of a stair's output whose bytes have not returned. -/
def OutItem.pending : OutItem → Bool
  | .el e => e.ps.any fun p => p.got.isNone
  | _ => false

/-- R398, R120, R283: an element has ended its work for a context. -/
def State.elemQuiet (s : State) (h e c : Nat) : Bool :=
  s.banksQuiet h e c &&
  if e < 64 then
    match bayKind e with
    | .a => true
    | .s =>
      let u := s.unit h e c
      u.unacked == 0 && u.xq.isEmpty && u.asks.isEmpty && u.lwHeld.isNone
    | .m => s.bankQuiet h (quadOf e) c
  else if e < 80 then
    let x := s.stair h (e - 64)
    x.rdfors == 0 && ((x.run.map (·.ctx)) != some c ||
      (x.unacked == 0 && x.mrg.isNone && x.remw.isEmpty && x.auxq.isEmpty && !x.out.any OutItem.pending))
  else !s.galWorks h c && !(s.gal h).port.any (fun l => l.ctx == c)

/-- R396: the drain of a swap, as it travels under a context. -/
def drainToken (g : RSwap) (c : Nat) : Token :=
  let p := g.seq.getD (0, 0)
  { kind := .drain, ctx := BitVec.ofNat 2 c, payload := w64 (p.1 * 2 ^ 56 + p.2) }

/-- R397: forwards one drain on each of a list of links that has not yet carried one. -/
def State.forwardDrain (s : State) (r c : Nat) (ks : List Nat) : State :=
  ks.foldl (fun s k =>
    let g := s.region r
    if g.swap.sent.contains (4 * k + c) then s
    else (s.pushLink k (drainToken g.swap c)).updRegion r fun g => { g with swap := { g.swap with sent := (4 * k + c) :: g.swap.sent } }) s

/-- R397: a bay that only passes a context's tokens through. -/
def State.passesOnly (s : State) (h e c : Nat) : Bool :=
  e < 64 && (s.cfg h e c).routes.all fun (r : Nat × W32) => !bitB r.2 27

/-- R397: the inputs of an element from which no drain has come. -/
def RSwap.awaited (g : RSwap) (h e c : Nat) : List Nat :=
  g.inputs.filter fun i => i / 128 == ckey h e c && !g.drained.contains i

/-- R397, R398, R199, R289: an element saves: the update window is flushed, parked reads are withdrawn, and the drain is forwarded. -/
def State.elemSave (s : State) (r h e c : Nat) : State :=
  let s := if e < 64 && bayKind e = .m then ((s.bank h (quadOf e)).members (quadOf e)).foldl (fun s k => s.winFlush h k) s else s
  let s := s.withdraw r (BankReq.ofElem h e c)
  let s := s.updRegion r fun g => { g with swap := { g.swap with saved := setIns g.swap.saved (ckey h e c) } }
  s.forwardDrain r c (s.elemLinks h e c)

/-- R397: a drain arrives on an input of an element. -/
def State.drainIn (s : State) (r h e c inp : Nat) : State :=
  let k := inKey h e c inp
  let g := (s.region r).swap
  if !g.inputs.contains k || g.drained.contains k then s
  else if s.passesOnly h e c then
    let s := s.updRegion r fun g => { g with swap := { g.swap with drained := setIns g.swap.drained k } }
    let src := if 4 ≤ inp then 4 else inp
    let fed := (s.elemLinks h e c).filter fun l => Tab.find s.feed (4 * l + c) == some src
    let s := s.forwardDrain r c fed
    if ((s.region r).swap.awaited h e c).isEmpty then
      (s.updRegion r fun g => { g with swap := { g.swap with stopped := setIns g.swap.stopped (ckey h e c) } }).elemSave r h e c
    else s
  else s.updRegion r fun g => { g with swap := { g.swap with drained := setIns g.swap.drained k, stopped := setIns g.swap.stopped (ckey h e c) } }

/-- R397: the drain at the head of a link, if any. -/
def State.drainHead (s : State) (k : Nat) : Option Token := match s.link k with
  | t :: _ => if t.kind == .drain then some t else none
  | [] => none

/-- R263, R397: a drain at the edge of a hall: the gallery takes it and passes it on; it ends at a port, and where no hall lies beyond. -/
def drainAtEdge (s : State) (h e dir : Nat) : Res :=
  let k := lkey h e dir
  match s.drainHead k with
  | none => waits s
  | some t =>
    let c := t.ctx.toNat
    let s1 := s.popLink k
    let s2 := match s1.regionAt h c with
      | some r => if (s1.region r).swap.seq.isSome && e < 88 then s1.drainIn r h 80 c (if dir = dirW then e - 80 else 8 + (e - 80)) else s1
      | none => s1
    match crossLink k with
    | none => .next s2
    | some k' =>
      let port := if dir = dirW then (h, 40 + (e - 80)) else (((hallBeside h dirE).getD h), 32 + (e - 80))
      .next (if s2.portClaimed port.1 port.2 c then s2 else s2.pushLink k' t)

/-- R397, R398: an element (of the focus) and an input (`idx`: 0–3 a link, 4 + p port p): the element saves once its work has ended; a drain
that waits for a port that no longer sends is placed; the drain at the head of a link is taken. -/
def execDrainArrival (s : State) : Res :=
  let h := s.focus.hall
  let e := s.focus.elem
  let c := s.focus.ctx
  let inp := s.focus.idx % 68
  let byLink : Res :=
    if 80 ≤ e then drainAtEdge s h e (inp % 4)
    else match s.drainHead (lkey h e (inp % 4)) with
      | none => waits s
      | some t =>
        let s1 := s.popLink (lkey h e (inp % 4))
        let x := t.ctx.toNat
        match s1.regionAt h x with
        | none => .next s1
        | some r => .next (if (s1.region r).swap.seq.isSome then s1.drainIn r h e x (inp % 4) else s1)
  match s.regionAt h c with
  | none => byLink
  | some r =>
    let g := (s.region r).swap
    if e ≤ 80 && g.stopped.contains (ckey h e c) && !g.saved.contains (ckey h e c) && s.elemQuiet h e c then .next (s.elemSave r h e c)
    else if 4 ≤ inp then
      (if portElem (inp - 4) == e && g.toPlace.contains (4 * (64 * h + (inp - 4)) + c) && !s.portSends h (inp - 4) c then
        (if inp - 4 < 16 && (s.stair h (inp - 4)).mrg.isSome then .next (s.flushMrg h (inp - 4))
        else if s.stairOwes h (inp - 4) then waits s
        else .next (s.cutPort h (inp - 4) c))
      else waits s)
    else byLink

/-! ### The save (R398–R400, R451, R328) -/

/-- R398: the thread of a context has completed what it had issued. -/
def State.threadQuiet (s : State) (r h c : Nat) : Bool :=
  let t := s.thr h c
  let parked := (s.region r).swap.withdrawn.any (fun p => p.2.ofThread h c) || s.banks.any fun p => p.2.parked.any (BankReq.ofThread h c)
  !t.live || ((!t.parked || parked) && t.served.isNone && t.got.isEmpty && t.hmOut.isEmpty && t.loads.isEmpty)

/-- R398: the started commands of a region have retired, but for those that sent tokens and were cut. -/
def State.cmdsQuiet (s : State) (r h : Nat) : Bool :=
  (s.disp h).cmds.all fun k => k.region != some r || !k.started || sendsTokens (bitsN k.word 127 120)

/-- R400: every element of a context has reported saved. -/
def State.ctxReported (s : State) (r h c : Nat) : Bool :=
  let g := (s.region r).swap
  (List.range 81).all fun e => g.saved.contains (ckey h e c) && (g.awaited h e c).isEmpty

/-- R400, R328: the save of a region is complete. -/
def State.saveReady (s : State) (r : Nat) : Bool :=
  let g := s.region r
  g.state == 2 && g.swap.seq.isSome && g.halls.all g.swap.halls.contains && g.swap.toPlace.isEmpty && s.performed r &&
    g.swap.ctxs.all (fun k => s.ctxReported r (k / 4) (k % 4) && s.threadQuiet r (k / 4) (k % 4)) && g.halls.all (s.cmdsQuiet r) &&
    s.shadowFits g.swap.ctxs (s.imageLines r)

/-- Keeps what a list of contexts holds in a table keyed 4 × unit + slot, `n` units to a hall. -/
def keepCtxs {β : Type} (t : Tab β) (n : Nat) (cs : List Nat) : Tab β := Tab.keep t fun k => cs.contains (4 * (k / 4 / n) + k % 4)

/-- R398: what a save keeps of a region. -/
def State.capture (s : State) (r : Nat) : Saved :=
  let g := s.region r
  let cs := g.swap.ctxs
  let slots : List Nat := g.places.map fun (p : Nat × Nat) => tkey p.1 p.2
  let perHall {β : Type} (f : Nat → List β) : List β := (g.halls.map f).flatten
  let mineCtx (h c : Nat) : Bool := slots.contains (tkey h c)
  { region := r, halls := g.halls, slots := g.slotSet, live := cs,
    blocks := cs.map fun k => (k / 4, blocksFor (s.imageLines r (k / 4) (k % 4)))
    threads := Tab.keep s.threads slots.contains
    bays := keepCtxs s.bays 64 slots
    units := keepCtxs s.units 64 slots
    stairs := s.stairs.filter fun (p : Nat × Stair) => match p.2.run with
      | none => false
      | some x => mineCtx (p.1 / 16) x.ctx
    gctxs := perHall fun h => ((s.gal h).ctxs.filter fun (p : Nat × GCtx) => mineCtx h p.1).map fun (p : Nat × GCtx) => (4 * h + p.1, p.2)
    gslots := perHall fun h => ((s.gal h).slots.filter fun (p : Nat × GSlot) => match p.2.held with
      | none => false
      | some c => mineCtx h c).map fun (p : Nat × GSlot) =>
        (32 * h + p.1, if (((s.gal h).ctx (p.2.held.getD 0)).queue.any (GEnt.usesSlot p.1)) then p.2 else { p.2 with present := [] })
    gquarters := perHall fun h => ((s.gal h).quarters.filter fun (p : Nat × Nat) => mineCtx h p.2).map fun (p : Nat × Nat) => (4 * h + p.1, p.2)
    gacc := perHall fun h => ((s.gal h).acc.filter fun (p : Nat × BitVec 128) =>
      ((Tab.find (s.gal h).quarters (p.1 / 16384)).map (mineCtx h)).getD false).map fun (p : Nat × BitVec 128) => (65536 * h + p.1, p.2)
    ganch := perHall fun h => ((s.gal h).anch.filter fun (p : Nat × BitVec 12) =>
      ((Tab.find (s.gal h).quarters (p.1 / 64)).map (mineCtx h)).getD false).map fun (p : Nat × BitVec 12) => (256 * h + p.1, p.2)
    cmds := g.halls.map fun h => (h, (s.disp h).cmds.filter fun k => k.region == some r)
    sinks := perHall fun h => ((s.disp h).sinks.filter fun (p : Nat × SinkC) => mineCtx h (p.1 % 4)).map fun (p : Nat × SinkC) => (256 * h + p.1, p.2)
    ports := perHall fun h => ((s.disp h).ports.filter fun (p : Nat × List Token) => mineCtx h (p.1 % 4)).map
      fun (p : Nat × List Token) => (256 * h + p.1, p.2)
    ins := g.halls.map fun h => (h, (s.disp h).ins.filter fun k => mineCtx h (k % 4))
    bchans := perHall fun h => ((List.range 16).map fun q => ((s.bank h q).chans.filter fun (p : Nat × List Token) => mineCtx h (p.1 / 16)).map
      fun (p : Nat × List Token) => (64 * (16 * h + q) + p.1, p.2)).flatten
    streams := perHall fun h => (List.range 16).filterMap fun q => match (s.bank h q).strm with
      | none => none
      | some m => if mineCtx h m.ctx then some (16 * h + q, m) else none
    recorded := g.swap.recorded
    withdrawn := g.swap.withdrawn
    counts := keepCtxs s.tokCnt 128 slots
    from_ := Tab.keep s.inFrom fun k => slots.contains (4 * (k / 16 / 512) + k / 16 % 4)
    vecs := Tab.keep s.vecOpen fun k => slots.contains (4 * (k / 4096) + k % 4)
    feeds := Tab.keep s.feed fun k => slots.contains (4 * (k / 4096) + k % 4)
    slotSt := Tab.keep s.slots slots.contains
    ltoks := g.halls.map fun h => (h, (Tab.get s.ltoks h []).filter fun k => mineCtx h k.ctx) }

/-- R361: the largest gallery K, gallery N and lane count that the shape registers and gallery contexts of a saved region hold. -/
def Saved.maxima (v : Saved) : Nat × Nat × Nat :=
  let sh := (v.threads.map fun (p : Nat × Thread) => p.2.sh.map fun (q : Nat × W64) => q.2).flatten
  let gals := sh.filter fun w => bitsN w 63 62 == 0
  let vecs := sh.filter fun w => bitsN w 63 62 != 0
  let cs := v.gctxs.map fun (p : Nat × GCtx) => p.2
  ((gals.map (bitsN · 15 0) ++ cs.map (·.k)).foldl max 0, (gals.map (bitsN · 31 16) ++ cs.map (·.n)).foldl max 0,
    (vecs.map (bitsN · 15 0)).foldl max 0)

/-- R400, R395: every element of every hall of a region (`idx`) has reported: the `ld.sync`s of its threads that have parked since are withdrawn, the save
is complete, its slots are loaded, and the region is swapped out. -/
def execSaveComplete (s : State) : Res :=
  let r := s.focus.idx
  if s.regions.length ≤ r || !s.saveReady r then waits s
  else
    let s := (s.region r).places.foldl (fun s (p : Nat × Nat) => s.withdraw r (BankReq.ofThread p.1 p.2)) s
    let v := s.capture r
    let g := s.region r
    let (k, n, l) := v.maxima
    let drop (d : Disp) : Disp := { d with cmds := d.cmds.filter fun c => c.region != some r }
    let s := { s with disps := s.disps.map fun (p : Nat × Disp) => (p.1, drop p.2) }
    let left (p : Nat × List LaunchTok) : Nat × List LaunchTok := (p.1, p.2.filter fun k => !g.places.contains (p.1, k.ctx))
    let s := { s with ltoks := s.ltoks.map left }
    let s := g.places.foldl (fun s (p : Nat × Nat) =>
      let s := s.clearCtx p.1 p.2
      s.setSlot p.1 p.2 { s.slot p.1 p.2 with region := none }) s
    let bound (i : Ingress) : Ingress :=
      if bitB i.bind 63 && g.places.contains (bitsN i.bind 61 56, bitsN i.bind 49 48) then { i with region := some r } else i
    let s := { s with saved := s.saved ++ [v], host := { s.host with ingress := s.host.ingress.map fun (p : Nat × Ingress) => (p.1, bound p.2) } }
    let s := s.rcbWrite r 0xC8 8 (k + n * 2 ^ 16 + l * 2 ^ 32)
    let f (g : Region) : Region := { g with state := 3, gk := k, gn := n, gl := l, swap := {} }
    .next ((s.rcbWrite r 0xD0 1 3).updRegion r f)

end Sys2Proof.Machine
end

