-- ==== Sys2Proof/Machine/Restore.lean ====
section
/-! DEFINITION. Restoring a swapped-out region (R372–R375, R394, R401, R402, R451): where it may go, moving its banks, page tables and bindings, and putting its state back. -/

namespace Sys2Proof.Machine

/-! ### From a saved placement to another (R364, R372) -/

/-- Halls and slots of the saved placement and of the new one, and the bay shift between them. -/
structure Move where
  halls : List Nat
  halls' : List Nat
  slots : List Nat
  slots' : List Nat
  dr : Int
  dc : Int
  /-- what is added to the tickets of the region's commands, so that none names another command of the new hall -/
  tk : Nat := 0
  deriving DecidableEq, Repr

/-- The place of an element of a list in another list; elsewhere it stands for itself. -/
def renamed (a b : List Nat) (x : Nat) : Nat := match a.findIdx? (· == x) with
  | none => x
  | some i => b.getD i x
def Move.hall (m : Move) (h : Nat) : Nat := renamed m.halls m.halls' h
def Move.slot (m : Move) (c : Nat) : Nat := renamed m.slots m.slots' c
def Move.elem (m : Move) (e : Nat) : Nat := shiftElem m.dr m.dc e
def Move.quad (m : Move) (q : Nat) : Nat := quadOf (m.elem (mbayOf q)) % 16
def Move.port (m : Move) (p : Nat) : Nat := shiftPort m.dr m.dc p
def Move.tkey (m : Move) (k : Nat) : Nat := 4 * m.hall (k / 4) + m.slot (k % 4)
def Move.bkey (m : Move) (k : Nat) : Nat := 4 * (64 * m.hall (k / 256) + m.elem (k / 4 % 64)) + m.slot (k % 4)
def Move.ckey (m : Move) (k : Nat) : Nat := 4 * (128 * m.hall (k / 512) + m.elem (k / 4 % 128)) + m.slot (k % 4)
/-- A key of `vecOpen` and `feed`: a link into an element, and a slot. -/
def Move.linkKey (m : Move) (k : Nat) : Nat := 32 * (128 * m.hall (k / 4096) + m.elem (k / 32 % 128)) + 4 * (k / 4 % 8) + m.slot (k % 4)
/-- The keys of a table renamed. -/
def rekeyed {β : Type} (t : Tab β) (f : Nat → Nat) (g : β → β) : Tab β := t.foldl (fun l (p : Nat × β) => Tab.put l (f p.1) (g p.2)) []
/-- A table laid over another. -/
def overTab {β : Type} (t base : Tab β) : Tab β := t.foldl (fun l (p : Nat × β) => Tab.put l p.1 p.2) base

def Move.tok (m : Move) (t : Token) : Token := { t with ctx := BitVec.ofNat 2 (m.slot t.ctx.toNat) }
def Move.toks (m : Move) (l : List Token) : List Token := l.map m.tok
def Move.bay (m : Move) (b : BayCtx) : BayCtx :=
  { b with chans := b.chans.map fun p => (p.1, m.toks p.2), task := b.task.map fun k => { k with last := m.tok k.last } }
def Move.unit (m : Move) (tlb : List TlbEnt) (u : SCtx) : SCtx :=
  { u with
    q := u.q.map fun p => (p.1, m.toks p.2)
    rq := m.toks u.rq
    xq := u.xq.map fun r => { r with tok := m.tok r.tok, ans := r.ans.map m.tok }
    tlb := tlb }
def Move.el (m : Move) (e : Elem) : Elem := { e with ctx := m.slot e.ctx }
def Move.item (m : Move) : OutItem → OutItem
  | .tok t p => .tok (m.tok t) (p.map (· + 2 * m.tk))
  | .el e => .el (m.el e)
  | .hole n => .hole n
/-- R401, R398: a stair as it comes back: its windows are dropped. `now` is the stair it comes back to. -/
def Move.stair (m : Move) (now x : Stair) : Stair :=
  { x with
    run := x.run.map fun r => { r with ctx := m.slot r.ctx, ticket := r.ticket + m.tk }
    wins := []
    want := x.want.map m.el
    out := x.out.map m.item
    spill := x.spill.map fun q => { q with e := m.el q.e }
    reqs := []
    reqSeq := now.reqSeq
    chans := overTab ((x.chans.filter fun (p : Nat × List Token) => m.slots.contains (p.1 / 16)).map fun (p : Nat × List Token) =>
      (16 * m.slot (p.1 / 16) + p.1 % 16, m.toks p.2)) now.chans
    held := x.held.map fun (h : Token × Option Nat) => (m.tok h.1, h.2.map (· + m.tk))
    asks := []
    cur := none
    aside := x.aside.map m.el }
def Move.cmd (m : Move) (c : DCmd) : DCmd :=
  { c with ticket := c.ticket + m.tk, ctx := m.slot c.ctx, ictx := m.slot c.ictx, word := shiftWord m.dr m.dc c.word, asked := none }
def Move.stream (m : Move) (x : MStream) : MStream := { x with ctx := m.slot x.ctx, ticket := x.ticket + m.tk }
def Move.reply (m : Move) : Reply → Reply
  | .drop => .drop
  | .bay h b c f i sg => .bay (m.hall h) (m.elem b) (m.slot c) f i sg
  | .bayLane h b c f i l => .bayLane (m.hall h) (m.elem b) (m.slot c) f i l
  | .thread h c sg => .thread (m.hall h) (m.slot c) sg
  | .port h q k => .port (m.hall h) (m.quad q) k
  | .unit h b c => .unit (m.hall h) (m.elem b) (m.slot c)
  | .unitRd h b c => .unitRd (m.hall h) (m.elem b) (m.slot c)
  | .gal h c => .gal (m.hall h) (m.slot c)
def Move.req (m : Move) (r : BankReq) : BankReq :=
  { r with reply := m.reply r.reply, ctx := m.slot r.ctx, src := (m.hall r.src.1, m.elem r.src.2) }

/-! ### Where a region may be restored (R372, R373) -/

/-- The images of a saved region, by logical hall and slot. -/
def Saved.table (v : Saved) : List (List Nat) :=
  v.halls.map fun h => v.slots.map fun c =>
    let x := Tab.get v.slotSt (tkey h c) {}
    if x.st == .empty then 0 else (x.imageVa.getD 0).toNat

/-- Elements that an image configures, and its `mbank` group sizes. -/
def imageElems (t : Tab ElemCfg) : List Nat := (t.filter fun (p : Nat × ElemCfg) => p.2 != {}).map fun (p : Nat × ElemCfg) => p.1
def imageGroups (t : Tab ElemCfg) : List Nat :=
  (mbankQuads t).filterMap fun q => (mbayWord (Tab.get t (mbayOf q) {}).words 1).map fun w => 2 ^ bitsN w 59 57
/-- R372: an image uses a stair. -/
def imageStairs (t : Tab ElemCfg) : Bool := (imageElems t).any fun e => 64 ≤ e && e < 80
/-- R25: a stair of an image is configured as pass-through. -/
def imagePasses (t : Tab ElemCfg) : Bool :=
  t.any fun (p : Nat × ElemCfg) => 64 ≤ p.1 && p.1 < 80 && (cfgWord p.2.words 0x1C).isSome
/-- R372, R25: an image uses an edge port, the gallery or a route between halls, a pass-through stair among them. -/
def imageEdges (t : Tab ElemCfg) : Bool :=
  (imageElems t).any (fun e => e == 80) || imagePasses t || t.any fun (p : Nat × ElemCfg) =>
    p.1 < 64 && p.2.routes.any fun (r : Nat × W32) =>
      (p.1 % 8 = 7 && (entryDirs r.2).contains dirE) || (p.1 % 8 = 0 && (entryDirs r.2).contains dirW)

/-- R372: a bay shift is topologically equal for the images of a region. `ports` says that its commands name an edge port. -/
def shiftEqual (imgs : List (Tab ElemCfg)) (ports : Bool) (dr dc : Nat) : Bool :=
  dr % 2 == 0 && dc % 2 == 0 &&
  (dr == 0 || !imgs.any imageStairs) && (dc == 0 || !(ports || imgs.any imageEdges)) &&
  imgs.all fun t =>
    (imageElems t).all (fun e => if e < 64 then e / 8 + dr < 8 && e % 8 + dc < 8 else if e < 80 then e % 8 + dc < 8 else true) &&
      (imageGroups t).all fun n => (2 * dr + dc / 2) % n == 0

/-- Bay shifts, smaller ones first. -/
def bayShifts : List (Nat × Nat) :=
  [(0, 0), (0, 2), (2, 0), (0, 4), (2, 2), (4, 0), (0, 6), (2, 4), (4, 2), (6, 0), (2, 6), (4, 4), (6, 2), (4, 6), (6, 4), (6, 6)]

/-- R373: the placement on which a saved region is restored: its own, or, with `mv`, another origin, or another bay shift. -/
def State.restorePlace (s : State) (r : Nat) (v : Saved) (maxima : Bool) : Option (Place × Nat × Nat) :=
  let g := s.region r
  let tb := v.table
  let at_ (sh : Nat × Nat) (o : Nat) : Option (Place × Nat × Nat) :=
    (s.placeAt r tb maxima o (2 * sh.1 + sh.2 / 2)).map fun p => (p, sh.1, sh.2)
  let own := (g.sdr, g.sdc)
  match at_ own g.org with
  | some p => some p
  | none =>
    if !g.own.mv then none
    else
      let imgs := ((List.range v.halls.length).map fun l => (List.range v.slots.length).map fun j =>
        s.imageAt g.eff.root (v.halls.getD l 0) (v.slots.getD j 0) ((tb.getD l []).getD j 0)).flatten
      let ports := v.ins.any fun (p : Nat × List Nat) => p.2.any fun k => 32 ≤ k / 4 && k / 4 < 48
      let shifts := own :: (bayShifts.filter fun sh => sh != own && shiftEqual imgs ports sh.1 sh.2)
      (shifts.map fun sh => (List.range 64).map fun o => (sh, o)).flatten.findSome? fun x => at_ x.1 x.2

/-! ### What moves to another placement (R373, R374) -/

/-- The frame, PA<47:16>, of a scratchpad bank; its hall and quad again. -/
def frameOf (h q : Nat) : Nat := bankBase h q / 65536
/-- Frames of the banks that a saved region owns, and the frames to which they go. -/
def State.bankMoves (s : State) (r : Nat) (m : Move) : List (Nat × Nat) :=
  (m.halls.map fun h => ((List.range 16).filter fun q => (s.bank h q).owner == some r).map fun q =>
    (frameOf h q, frameOf (m.hall h) (m.quad q))).flatten

/-- A table keyed by address, `n` keys to a bank, with the banks copied. -/
def movedTab {β : Type} (fs : List (Nat × Nat)) (n : Nat) (put : Tab β → Nat → β → Tab β) (t : Tab β) : Tab β :=
  let kept := t.filter fun (p : Nat × β) => !fs.any fun f => f.2 == p.1 / n
  fs.foldl (fun l f => (t.filter fun (p : Nat × β) => p.1 / n == f.1).foldl (fun l (p : Nat × β) => put l (f.2 * n + p.1 % n) p.2) l) kept
/-- A set of granules with the banks copied. -/
def movedSet (fs : List (Nat × Nat)) (n : Nat) (l : List Nat) : List Nat :=
  let kept := l.filter fun g => !fs.any fun f => f.2 == g / n
  fs.foldl (fun a f => (l.filter fun g => g / n == f.1).foldl (fun a g => setIns a (f.2 * n + g % n)) a) kept

/-- R373 step 1: a bank's own state at its new place. -/
def Move.bank (m : Move) (r : Nat) (now old : Bank) : Bank :=
  { now with owner := some r, gsz := old.gsz, gbase := m.quad old.gbase, ilv := old.ilv, tags := old.tags, recency := old.recency,
             mbPend := old.mbPend.map fun p => (m.slot p.1, p.2) }

/-- R373 step 1: copies the banks a region owned. -/
def State.moveBanks (s : State) (r : Nat) (m : Move) (fs : List (Nat × Nat)) : State :=
  let (s, logs) := fs.foldl (fun (a : State × List (Cause × Nat)) f =>
    let x := a.1.takeEcc (f.1 * 65536) (f.1 * 65536) 65536
    (x.1, a.2 ++ x.2)) (s, [])
  let s := s.logAll { hall := m.halls.headD 0, eclass := 4, own := false } logs
  let old := fs.map fun f => (f.2 % 1024, s.bank (f.1 % 1024 / 16) (f.1 % 16))
  let freed := fs.foldl (fun s f => s.setBank (f.1 % 1024 / 16) (f.1 % 16) { s.bank (f.1 % 1024 / 16) (f.1 % 16) with owner := none }) s
  let s := old.foldl (fun s (b : Nat × Bank) => s.setBank (b.1 / 16) (b.1 % 16) (m.bank r (s.bank (b.1 / 16) (b.1 % 16)) b.2)) freed
  { s with mem := { s.mem with
      cells := movedTab fs 65536 Memory.set s.mem.cells
      empties := movedSet fs 4096 s.mem.empties
      pois := movedSet fs 4096 s.mem.pois
      cvals := movedTab fs 1024 Tab.put s.mem.cvals } }

/-- R373 step 2: one entry of `sptab`: the PTE it names has its frame moved. -/
def State.movePte (s : State) (root : BitVec 37) (fs : List (Nat × Nat)) (entry : W64) : State :=
  match s.vaRead root entry 8 with
  | (s, bs, c, l) =>
    let s := s.logAll { hall := 0, eclass := 4, own := false } l
    if c != .none then s
    else
      let va := w64 (leNat bs)
      match s.vaRead root va 8 with
      | (s, bs, c, l) =>
        let s := s.logAll { hall := 0, eclass := 4, own := false } l
        let e := leNat bs
        if c != .none then s
        else match fs.find? fun f => f.1 == e / 65536 % 2 ^ 32 with
          | none => s
          | some f => s.vaWrite root va (leBytes 8 (e - f.1 * 65536 + f.2 * 65536))

/-- R373 step 2: every entry of a region's `sptab`. -/
def State.movePtes (s : State) (r : Nat) (fs : List (Nat × Nat)) : State :=
  let g := s.region r
  if g.own.sptab = 0 then s
  else (List.range g.own.spn).foldl (fun s i => s.movePte g.eff.root fs (g.own.sptab + w64 (8 * i))) s

/-- A translation leads into one of the banks. -/
def ofFrames (fs : List (Nat × Nat)) (pte : W64) : Bool := !bitB pte 8 && fs.any fun f => f.1 == bitsN pte 47 16

/-- A PA lies in one of the banks. -/
def inFrames (fs : List (Nat × Nat)) (pa : Nat) : Bool := fs.any fun f => f.1 == pa / 65536

/-- R373 step 3, R122: an access under an old translation is not complete: at an edge, on its way to one of the banks or in its queues, in a stair or
in a command. -/
def State.framesBusy (s : State) (fs : List (Nat × Nat)) : Bool :=
  let piece (p : Piece) : Bool := p.rem.isNone && p.got.isNone && inFrames fs p.pa
  let item : OutItem → Bool := fun i => match i with
    | .el e => e.ps.any piece
    | _ => false
  s.edge.any (fun p => p.rem.isNone && inFrames fs p.pa) ||
    fs.any (fun f => !(s.bank (f.1 % 1024 / 16) (f.1 % 16)).requests.isEmpty ||
      s.net.fly.any (fun p => p.dst == f.1 % 1024) || !(Tab.get s.net.bufs (f.1 % 1024) []).isEmpty) ||
    s.stairs.any (fun (p : Nat × Stair) => p.2.out.any item || p.2.auxq.any (fun e => e.ps.any piece) || p.2.mrg.any fun q => q.rem.isNone && inFrames fs q.pa) ||
    s.disps.any fun (p : Nat × Disp) => p.2.cmds.any fun c => c.buf.any fun b => b.ps.any piece

/-- R354, R373: an armed entry on a line of one of the banks latches eviction. -/
def Thread.evictFrames (fs : List (Nat × Nat)) (t : Thread) : Thread :=
  { t with m := t.m.map fun q => (q.1, if q.2.armed && q.2.peer.isNone && inFrames fs q.2.pa then { q.2 with armed := false, cause := 3 } else q.2) }

/-- R373 step 3: every translating part drops what it holds of the pages that lay in the banks, window answers on their way to stairs included, and
watched lines there are evicted; receive windows there refuse new deliveries (R148). The drain is one step: the restore has waited for the accesses
that it covers. -/
def State.shootFrames (s : State) (fs : List (Nat × Nat)) : State :=
  let keep (l : List TlbEnt) : List TlbEnt := l.filter fun e => !ofFrames fs e.pte
  let again (hb : Nat) (u : SCtx) : List Walk := (u.xq.filter (XReq.stale 0 (2 ^ 56))).filterMap fun q => q.kind.map fun k =>
    { hall := hb / 256, bay := hb / 4 % 64, ctx := hb % 4, va := q.va, kind := k }
  let unit (u : SCtx) : SCtx := { u with tlb := keep u.tlb, xq := u.xq.map fun q => if q.stale 0 (2 ^ 56) then { q with ans := none } else q }
  let stair (x : Stair) : Stair := { x with
    wins := x.wins.filter fun w => !(inFrames fs (w.place w.va).pa && (w.place w.va).rem.isNone)
    cur := none
    asks := x.asks.map fun a => (a.1, a.2.1, (0, 2 ^ 56) :: a.2.2)
    want := x.want.map fun e => { e with ps := [] } }
  let win (w : RWindow) : RWindow := match fs.find? fun f => f.1 == w.pa / 65536 with
    | none => w
    | some f => { w with closing := true, pa := f.2 * 65536 + w.pa % 65536 }
  { s with
    units := s.units.map fun (p : Nat × SCtx) => (p.1, unit p.2)
    walks := s.walks ++ (s.units.map fun (p : Nat × SCtx) => again p.1 p.2).flatten
    threads := s.threads.map fun (p : Nat × Thread) => (p.1, p.2.evictFrames fs)
    lctlb := s.lctlb.map fun (p : Nat × List TlbEnt) => (p.1, keep p.2)
    stairs := s.stairs.map fun (p : Nat × Stair) => (p.1, stair p.2)
    arc := { s.arc with wins := s.arc.wins.map fun (p : Nat × RWindow) => (p.1, win p.2) } }

/-- R374: an ingress binding of the region under its new placement. -/
def Move.ingress (m : Move) (r : Nat) (g : Ingress) : Ingress :=
  if g.region != some r || !bitB g.bind 63 then g
  else
    let b := bitsN g.bind 55 50
    let b := if bitB g.bind 62 then b else m.elem b
    { g with bind := w64 (bitsN g.bind 63 62 * 2 ^ 62 + m.hall (bitsN g.bind 61 56) % 64 * 2 ^ 56 + b % 64 * 2 ^ 50 +
                        m.slot (bitsN g.bind 49 48) % 4 * 2 ^ 48 + bitsN g.bind 47 44 * 2 ^ 44) }

/-- What names a region's halls, slots or ports elsewhere: its receive windows, ingress bindings (R374), and the contexts that launched
its children. -/
def State.moveNames (s : State) (r : Nat) (m : Move) : State :=
  let win (w : RWindow) : RWindow :=
    if w.region = r then { w with hall := m.hall w.hall, ctx := m.slot w.ctx, port := w.port.map m.port } else w
  let kid (g : Region) : Region := match g.pctx with
    | none => g
    | some p => if g.parent == some r then { g with pctx := some (m.hall p.1, m.slot p.2) } else g
  { s with
    regions := s.regions.map kid
    arc := { s.arc with wins := s.arc.wins.map fun (p : Nat × RWindow) => (p.1, win p.2) }
    host := { s.host with ingress := s.host.ingress.map fun (p : Nat × Ingress) => (p.1, m.ingress r p.2) } }

/-- R373, R374: what a restore onto another placement moves. -/
def State.relocate (s : State) (r : Nat) (m : Move) : State :=
  let fs := s.bankMoves r m
  if m.halls == m.halls' && m.slots == m.slots' && m.dr == 0 && m.dc == 0 then s
  else (((s.moveBanks r m fs).movePtes r fs).shootFrames fs).moveNames r m

/-! ### Putting the saved state back (R401, R451) -/

/-- R401, R354: a thread comes back: every watch entry reads disarmed, with cause 4. -/
def Thread.restored (t : Thread) : Thread :=
  { t with m := (List.range 16).map fun i => (i, { t.watch i with armed := false, cause := 4 }) }

/-- A slot comes back to a region. -/
def Move.hslot (m : Move) (r : Nat) (now x : HSlot) : HSlot :=
  { now with
    st := if x.st == .saving then .live else if x.st == .empty then .empty else if x.st == .live then .live else .loaded
    region := some r
    liveAt := x.liveAt.map m.elem
    switchTo := x.switchTo.map m.slot
    sinkReps := x.sinkReps.map m.elem }

/-- R376: the elements at which the saved slots were live are reset as at a first switch, so that the saved state can be laid over them; the
banks keep what they hold. -/
def State.reviveSlots (s : State) (m : Move) (v : Saved) : State :=
  let t := v.slotSt.foldl (fun s (p : Nat × HSlot) =>
    p.2.liveAt.foldl (fun s e => s.firstSwitch (m.hall (p.1 / 4)) (m.elem e) (m.slot (p.1 % 4))) s) s
  { t with banks := s.banks }

/-- R398: bays, S-bays, stairs and counts. -/
def State.restoreElems (s : State) (m : Move) (v : Saved) : State :=
  let unit (t : Tab SCtx) (p : Nat × SCtx) : Tab SCtx := Tab.put t (m.bkey p.1) (m.unit (Tab.get t (m.bkey p.1) {}).tlb p.2)
  let bay (t : Tab BayCtx) (p : Nat × BayCtx) : Tab BayCtx :=
    Tab.put t (m.bkey p.1) { m.bay p.2 with robSeq := max p.2.robSeq (Tab.get t (m.bkey p.1) {}).robSeq }
  let skey (k : Nat) : Nat := 16 * m.hall (k / 16) + (m.elem (64 + k % 16) - 64)
  let stair (t : Tab Stair) (p : Nat × Stair) : Tab Stair := Tab.put t (skey p.1) (m.stair (Tab.get t (skey p.1) {}) p.2)
  { s with
    threads := overTab (rekeyed v.threads m.tkey Thread.restored) s.threads
    bays := v.bays.foldl bay s.bays
    units := v.units.foldl unit s.units
    stairs := v.stairs.foldl stair s.stairs
    tokCnt := overTab (rekeyed v.counts m.ckey id) s.tokCnt
    inFrom := overTab (rekeyed v.from_ (fun k => 16 * m.ckey (k / 16) + k % 16) id) s.inFrom
    vecOpen := overTab (rekeyed v.vecs m.linkKey id) s.vecOpen
    feed := overTab (rekeyed v.feeds m.linkKey id) s.feed
    ltoks := v.ltoks.foldl (fun t (p : Nat × List LaunchTok) => Tab.upd t (m.hall p.1) [] (· ++ p.2.map fun k =>
      { k with bay := m.elem k.bay, ctx := m.slot k.ctx, tok := m.tok k.tok })) s.ltoks }

/-- R398, R283: the galleries. -/
def State.restoreGals (s : State) (m : Move) (v : Saved) : State :=
  let at_ (h n k : Nat) : Bool := k / n == h
  m.halls.foldl (fun s h =>
    let g := s.gal (m.hall h)
    let part {β : Type} (t : Tab β) (n : Nat) : Tab β := (t.filter fun (p : Nat × β) => at_ h n p.1).map fun (p : Nat × β) => (p.1 % n, p.2)
    let run (r : GRun) : GRun := { r with outs := r.outs.map fun p => (p.1, m.tok p.2), reqs := r.reqs.map fun p => (m.quad p.1, m.req p.2) }
    let ctx (x : GCtx) : GCtx := { x with words := m.toks x.words, run := x.run.map run }
    let slot (x : GSlot) : GSlot := { x with held := x.held.map m.slot }
    s.setGal (m.hall h) { g with
      ctxs := overTab (rekeyed (part v.gctxs 4) m.slot ctx) g.ctxs
      slots := overTab (rekeyed (part v.gslots 32) id slot) g.slots
      quarters := overTab (rekeyed (part v.gquarters 4) id m.slot) g.quarters
      acc := overTab (part v.gacc 65536) (g.acc.filter fun (p : Nat × BitVec 128) => !(part v.gquarters 4).any fun q => q.1 == p.1 / 16384)
      anch := overTab (part v.ganch 256) (g.anch.filter fun (p : Nat × BitVec 12) => !(part v.gquarters 4).any fun q => q.1 == p.1 / 64) }) s

/-- R398, R451: the dispatchers: commands in ticket order ahead of those of other contexts, the status of tickets, sink counters and the
tokens that wait at ports. -/
def State.restoreDisps (s : State) (r : Nat) (m : Move) (v : Saved) : State :=
  let pkey (k : Nat) : Nat := 4 * m.port (k / 4) + m.slot (k % 4)
  m.halls.foldl (fun s h =>
    let old := (s.disp h).stats.filter fun x => x.region == r
    let s := s.setDisp h { s.disp h with stats := (s.disp h).stats.filter fun x => x.region != r }
    let d := s.disp (m.hall h)
    let part {β : Type} (t : Tab β) : Tab β := (t.filter fun (p : Nat × β) => p.1 / 256 == h).map fun (p : Nat × β) => (p.1 % 256, p.2)
    s.setDisp (m.hall h) { d with
      cmds := (Tab.get v.cmds h []).map m.cmd ++ d.cmds
      stats := d.stats ++ old.map fun x => { x with ticket := x.ticket + m.tk, ctx := m.slot x.ctx }
      sinks := overTab (rekeyed (part v.sinks) pkey id) d.sinks
      ports := overTab (rekeyed (part v.ports) pkey m.toks) d.ports
      ins := ((Tab.get v.ins h []).map pkey).foldl setIns d.ins }) s

/-- R199, R328: a withdrawn read is issued again at a bank, ahead of what its element issues later: in its element's own queue, or over the packet
network, and in a new place of its return path. -/
def State.reissue (s : State) (h q : Nat) (r : BankReq) : State :=
  let put (s : State) (k : Nat) (r : BankReq) : State := if k = 3 then s.netSend r.src h q r else s.bankEnqueue h q k r
  match r.reply with
  | .bay hb b c _ _ _ =>
    let x := s.bayCtx hb b c
    put (s.setBayCtx hb b c (x.expects r.reply)) (bayQueue b q) { r with no := x.robSeq }
  | .port _ own _ => put s (if own = q then 2 else 3) r
  | _ => put s 3 r

/-- R398, R199: M-bay streams and their input channels, and the withdrawn reads, which are issued again. -/
def State.restoreBanks (s : State) (m : Move) (fs : List (Nat × Nat)) (v : Saved) : State :=
  let qkey (k : Nat) : Nat := 16 * m.hall (k / 16) + m.quad (k % 16)
  let upd (s : State) (k : Nat) (f : Bank → Bank) : State := s.setBank (k / 16) (k % 16) (f (s.bank (k / 16) (k % 16)))
  let s := v.bchans.foldl (fun s (p : Nat × List Token) => upd s (qkey (p.1 / 64)) fun b =>
    { b with chans := Tab.put b.chans (16 * m.slot (p.1 % 64 / 16) + p.1 % 16) (m.toks p.2) }) s
  let s := v.streams.foldl (fun s (p : Nat × MStream) => upd s (qkey p.1) fun b => { b with strm := some (m.stream p.2) }) s
  v.withdrawn.foldl (fun s (p : Nat × BankReq) =>
    let k := match fs.find? fun f => f.1 % 1024 == p.1 with
      | none => p.1
      | some f => f.2 % 1024
    s.reissue (k / 16) (k % 16) (m.req p.2)) s

/-- R401 step 2, R451: the recorded tokens of an input stand ahead of every later arrival on it. -/
def State.restoreRecorded (s : State) (m : Move) (v : Saved) : State :=
  v.recorded.foldl (fun s (p : Nat × List Token) =>
    let h := m.hall (p.1 / 128 / 512)
    let e := p.1 / 128 / 4 % 128
    let inp := p.1 % 128
    let k := if e = 80 then (if inp < 8 then lkey h (80 + inp) dirW else lkey h (80 + inp % 8) dirE)
      else lkey h (m.elem e) (if inp < 4 then inp else 4)
    { s with links := Tab.upd s.links k [] (m.toks p.2 ++ ·) }) s

/-- R394, R401 step 3: a new request for each page for which a stair's spilled elements wait. -/
def State.askAgain (s : State) (h n : Nat) : State :=
  let x := s.stair h n
  let waiting := x.spill.filter fun q => q.ok.isNone
  ((waiting.map (·.page)).eraseDups).foldl (fun s p =>
    match waiting.find? fun q => q.page == p with
    | none => s
    | some q =>
      let (s, seq, no) := s.askPage h n q.e.ctx (65536 * p) q.e.kind
      let f (k : Spill) : Spill := if k.page = p && k.ok.isNone then { k with seq := seq, ok := if no then some false else none } else k
      s.updStair h n fun x => { x with spill := x.spill.map f }) s

/-- R401: a stair that was stopped when saved delivers its report again, from where it now is. -/
def State.stopAgain (s : State) (h n : Nat) : State :=
  let x := s.stair h n
  match x.stop, x.run with
  | some p, some r =>
    let base := p.record.toNat
    let place := BitVec.ofNat 512 (base - bitsN p.record 503 494 * 2 ^ 494 + (h % 64 * 2 ^ 4 + n % 16) * 2 ^ 494)
    (s.setStair h n { x with stop := some { p with record := place } }).report h r.ctx place
  | _, _ => s

/-- R401 steps 3 and 5: the stairs of a restored region ask for their pages and report their stops. -/
def State.restoreStairs (s : State) (m : Move) (v : Saved) : State :=
  v.stairs.foldl (fun s (p : Nat × Stair) =>
    let h := m.hall (p.1 / 16)
    let n := m.elem (64 + p.1 % 16) - 64
    (s.askAgain h n).stopAgain h n) s

/-- The smallest change that gives the commands of a moved region tickets no other command of their new halls has. -/
def State.ticketGap (s : State) (m : Move) (v : Saved) : Nat :=
  let clash (k : Nat) : Bool := m.halls.any fun h => m.hall h != h && (Tab.get v.cmds h []).any fun c =>
    (s.disp (m.hall h)).cmds.any fun d => d.ticket == c.ticket + 65536 * k
  65536 * ((List.range 64).find? fun k => !clash k).getD 0

/-- R283: the slots and quarters that the saved state claims in a hall. -/
def Saved.claims (v : Saved) (h : Nat) : BitVec 32 × BitVec 4 :=
  (BitVec.ofNat 32 (((v.gslots.filter fun p => p.1 / 32 == h).map fun p => 2 ^ (p.1 % 32)).foldl Nat.lor 0),
    BitVec.ofNat 4 (((v.gquarters.filter fun p => p.1 / 4 == h).map fun p => 2 ^ (p.1 % 4)).foldl Nat.lor 0))

/-- R283, R271: a hall's gallery cannot give the restored region all it held: some of it is not free, or a waiting claim comes first. -/
def State.galBusy (s : State) (v : Saved) (h dest : Nat) : Bool :=
  let g := s.gal dest
  let a := v.claims h
  let n := match g.resume with
    | some (r, _, _, n) => if r = v.region then n else g.claimSeq
    | none => g.claimSeq
  let p := 2 * (s.region v.region).eff.prio
  ((List.range 32).any fun k => bitB a.1 k && (g.slot k).held.isSome) || ((List.range 4).any fun k => bitB a.2 k && (Tab.find g.quarters k).isSome) ||
    (List.range 4).any fun y => match (g.ctx y).claim with
      | none => false
      | some b => claimsMeet (a.1, a.2, n) b && (p < s.firePrio dest y || (p == s.firePrio dest y && b.2.2 < n))

/-- R283: the galleries for which a restore has to wait, as it waits: halls of the saved placement. -/
def State.galsBusy (s : State) (m : Move) (v : Saved) : List Nat := m.halls.filter fun h => s.galBusy v h (m.hall h)

/-- R283: a restore that waits for galleries takes its place among the claims that wait there. -/
def State.claimGals (s : State) (m : Move) (v : Saved) : State :=
  (s.galsBusy m v).foldl (fun s h =>
    let g := s.gal (m.hall h)
    if (g.resume.map (·.1)) == some v.region then s
    else
      let a := v.claims h
      s.setGal (m.hall h) { g with claimSeq := g.claimSeq + 1, resume := some (v.region, a.1, a.2, g.claimSeq) }) s

/-- A resource that the saved state needs at its new place is in use by another context. -/
def State.restoreBusy (s : State) (m : Move) (v : Saved) : Bool :=
  !(s.galsBusy m v).isEmpty ||
    v.stairs.any (fun (p : Nat × Stair) => (s.stair (m.hall (p.1 / 16)) (m.elem (64 + p.1 % 16) - 64)).run.isSome) ||
    v.streams.any (fun (p : Nat × MStream) => (s.bank (m.hall (p.1 / 16)) (m.quad (p.1 % 16))).strm.isSome) ||
    v.cmds.any fun (p : Nat × List DCmd) => p.2.any fun c => c.started && (s.disp (m.hall p.1)).cmds.any fun d =>
      d.started && !d.done && d.lane == (m.cmd c).lane

/-! ### Restoring (R401, R402) -/

/-- R401: restores a region on a placement with a saved state. -/
def State.restoreAt (s : State) (r : Nat) (v : Saved) (m : Move) (table : List (List Nat)) (p : Place) (sdr sdc : Nat) : Res :=
  let fs := s.bankMoves r m
  let (s, c) := (s.relocate r m).loadImages r p table sdr sdc
  if c.isSome then .next (s.refusePlace r ((c.map ImgFault.record).getD 0))
  else
    let s := (s.bindPlace r p sdr sdc).reviveSlots m v
    let s := (((s.restoreElems m v).restoreGals m v).restoreDisps r m v).restoreBanks m fs v
    let s := v.slotSt.foldl (fun s (q : Nat × HSlot) =>
      let h := m.hall (q.1 / 4)
      let x := m.slot (q.1 % 4)
      s.setSlot h x (m.hslot r (s.slot h x) q.2)) s
    let free (g : Gal) : Gal := if (g.resume.map (·.1)) == some r then { g with resume := none } else g
    let s := { s with saved := s.saved.filter fun w => w.region != r, gals := s.gals.map fun (p : Nat × Gal) => (p.1, free p.2) }
    let s := (s.updRegion r fun g => { g with state := 2 }).rcbWrite r 0xD0 1 2
    .next ((s.restoreRecorded m v).restoreStairs m v)

/-- The move from a saved placement to one that has been chosen. -/
def State.moveTo (s : State) (r : Nat) (v : Saved) (p : Place) (sdr sdc : Nat) : Move :=
  let g := s.region r
  let m : Move := { halls := v.halls, halls' := (rectHalls p.org g.own.pw g.own.ph).getD v.halls, slots := v.slots, slots' := p.slots,
                    dr := (sdr : Int) - g.sdr, dc := (sdc : Int) - g.sdc }
  { m with tk := s.ticketGap m v }

/-- The swapped-out region at the head of the scheduler's queue, with its saved state. -/
def State.restorable (s : State) : Option (Nat × Saved) :=
  match s.queueHead with
  | none => none
  | some r =>
    if (s.region r).state != 3 || s.host.pwr != 0 then none
    else (s.saved.find? fun v => v.region == r).map fun v => (r, v)

/-- R375: no placement is eligible, and a hall of the saved placement has been retired. -/
def State.mustLower (s : State) (r : Nat) (v : Saved) : Bool :=
  (s.restorePlace r v true).isNone && v.halls.any fun h => (Tab.get s.hallSt h {}).retired

/-- R375: the region cannot be restored with its grants, nor without them. -/
def State.shapeFault (s : State) (r : Nat) : State :=
  let g := s.region r
  (s.bumpFcnt (some r)).route 26 r (g.hallOf 0) (g.phys 0) (g.eff.fmode == 0) (placeRecord g .shape)

/-- R373, R122: the restore is onto another placement, and an access under an old translation is not complete. -/
def State.moveBusy (s : State) (r : Nat) (m : Move) : Bool :=
  !(m.halls == m.halls' && m.slots == m.slots' && m.dr == 0 && m.dc == 0) && s.framesBusy (s.bankMoves r m)

/-- R401: the scheduler restores the swapped-out region at the head of its queue. -/
def execRestore (s : State) : Res :=
  match s.restorable with
  | none => waits s
  | some (r, v) => match s.restorePlace r v true with
    | some (p, sdr, sdc) =>
      let m := s.moveTo r v p sdr sdc
      if s.restoreBusy m v || s.moveBusy r m then .next (s.claimGals m v) else s.restoreAt r v m v.table p sdr sdc
    | none => if s.mustLower r v && !(s.region r).own.idem then .next (s.shapeFault r) else waits s

/-! ### Restoring with grants revoked (R402) -/

/-- R402, R218: an A-bay at its last invocation marker, its shape revoked. -/
def BayCtx.revoked (b : BayCtx) : BayCtx :=
  { b.invocation with chans := [], ingr := [], task := none, trapped := false, waits := [], since := [], vsN := 0, vsRev := true }
/-- R402: an S-bay at its last invocation marker. -/
def SCtx.revoked (u : SCtx) (ws : List W64) : SCtx := { { u with q := [], rq := [], arr := [] }.invocation ws with xq := [] }
/-- R402, R394: a stair at its last invocation marker. -/
def Stair.revoked (x : Stair) : Stair := { x with out := [], spill := [], reqs := [], chans := [], asks := [], want := none, auxq := [] }.restart
/-- R402, R268: a gallery's state for a context, its grants revoked. -/
def GCtx.revoked (g : GCtx) : GCtx := { g with k := 0, n := 0, rev := true, words := [], steer := none, stopped := false }
/-- R402, R369, R351: the thread of a logical hall restarts, its shape registers revoked. -/
def Region.revokedThread (g : Region) (l : Nat) : Thread :=
  { (g.thread l).wx 5 1 with sh := [(0, w64 (2 ^ 60)), (1, w64 (2 ^ 60)), (2, w64 (2 ^ 60)), (3, w64 (2 ^ 60))] }
/-- R402: of the commands of a hall, those that had started stay; a token one of them had still to place is gone. -/
def DCmd.revoked (c : DCmd) : DCmd := if c.acted && [0x0B, 0x0C, 0x0F, 0x12].contains (bitsN c.word 127 120) then { c with done := true } else c

/-- R402: the saved state of a region as a revoking restore puts it back. -/
def Saved.revoked (v : Saved) (s : State) (g : Region) : Saved :=
  { v with
    threads := v.threads.map fun (p : Nat × Thread) => (p.1, if p.2.live then g.revokedThread ((v.halls.findIdx? (· == p.1 / 4)).getD 0) else p.2)
    bays := v.bays.map fun (p : Nat × BayCtx) => (p.1, p.2.revoked)
    units := v.units.map fun (p : Nat × SCtx) =>
      let va := ((Tab.get v.slotSt (tkey (p.1 / 256) (p.1 % 4)) {}).imageVa.getD 0).toNat
      (p.1, p.2.revoked (Tab.get (s.imageAt g.eff.root (p.1 / 256) (p.1 % 4) va) (p.1 / 4 % 64) {}).words)
    stairs := v.stairs.map fun (p : Nat × Stair) => (p.1, p.2.revoked)
    gctxs := v.gctxs.map fun (p : Nat × GCtx) => (p.1, p.2.revoked)
    cmds := v.cmds.map fun (p : Nat × List DCmd) => (p.1, (p.2.filter (·.started)).map DCmd.revoked)
    ports := []
    bchans := []
    recorded := []
    withdrawn := []
    vecs := []
    ltoks := [] }

/-- R402, R375: the scheduler restores an idempotent region, whose saved wing has been retired, onto lower maxima. -/
def execRevokingRestore (s : State) : Res :=
  match s.restorable with
  | none => waits s
  | some (r, v) =>
    if !s.mustLower r v || !(s.region r).own.idem then waits s
    else match s.restorePlace r v false with
      | none => waits s
      | some (p, sdr, sdc) =>
        let w := v.revoked s (s.region r)
        let m := s.moveTo r w p sdr sdc
        if s.restoreBusy m w || s.moveBusy r m then .next (s.claimGals m w) else s.restoreAt r w m v.table p sdr sdc

end Sys2Proof.Machine
end

