-- ==== Sys2Proof/Machine/Faultctl.lean ====
section
/-! DEFINITION. Resolving faults (R334, R390, R392, R409): resuming and aborting a stopped region, removing a report, and sparing a bay. -/

namespace Sys2Proof.Machine

/-! ### Commands of the handler to a stopped region (R390) -/

/-- R390, R391: what `fcmd` of a region holds; 0 where it cannot be read. -/
def State.fcmd (s : State) (r : Nat) : Nat :=
  let g := s.region r
  match s.vaRead g.rroot (g.rcb + 0x98) 8 with
  | (_, bs, c, _) => if c != .none then 0 else leNat bs % 4

/-- R390: the controller of a stopped region acts on a value of `fcmd`, and then stores 0 there. -/
def fcmdStep (s : State) (n : Nat) (act : State → Nat → Option State) : Res :=
  let r := s.focus.idx
  if s.regions.length ≤ r || !(s.region r).stopped || (s.region r).fstate = 3 || s.fcmd r != n then waits s
  else match act s r with
    | none => waits s
    | some s => .next (s.rcbWrite r 0x98 8 0)

/-- R172, R390: a stopped stair of a context resumes, with or without the recorded element. -/
def Stair.resume (x : Stair) (h : Nat) (ps : List (Nat × Nat)) (skip : Bool) : Stair :=
  match x.run, x.stop with
  | some r, some _ =>
    if !ps.contains (h, r.ctx) then x else if skip then x.passOver r else { x with stop := none }
  | _, _ => x

/-- R380, R390, R392: a trapped A-bay context abandons its task and selects again. -/
def BayCtx.untrap (b : BayCtx) (hs : Tab W64) : BayCtx :=
  if b.trapped then BayCtx.refresh { b with trapped := false, task := none } hs else b

/-- R264, R390: a stopped gallery context is cleared as a marker of subtype 0 clears it. -/
def GCtx.resume (g : GCtx) : GCtx := if g.stopped then { g with stopped := false, steer := none } else g

/-- R390: a stopped region resumes. -/
def State.resume (s : State) (r : Nat) (skip : Bool) : State :=
  let ps := (s.region r).places
  let bay (p : Nat × BayCtx) : Nat × BayCtx :=
    (p.1, if ps.contains (p.1 / 256, p.1 % 4) then p.2.untrap (s.cfg (p.1 / 256) (p.1 / 4 % 64) (p.1 % 4)).handlers else p.2)
  let gal (p : Nat × Gal) : Nat × Gal :=
    (p.1, { p.2 with ctxs := p.2.ctxs.map fun (c : Nat × GCtx) => (c.1, if ps.contains (p.1, c.1) then c.2.resume else c.2) })
  let thread (p : Nat × Thread) : Nat × Thread := (p.1, if ps.contains (p.1 / 4, p.1 % 4) then { p.2 with dead := false } else p.2)
  let s := if (s.region r).state != 2 then s
    else { s with
      stairs := s.stairs.map fun (p : Nat × Stair) => (p.1, p.2.resume (p.1 / 16) ps skip)
      bays := s.bays.map bay
      gals := s.gals.map gal
      threads := s.threads.map thread }
  (s.updRegion r fun g => { g with stopped := false, fstate := 0 }).rcbWrite r 0xA0 1 0

/-- R390: `fcmd` 1: the stopped region `idx` resumes. -/
def execFcmdResume (s : State) : Res := fcmdStep s 1 fun s r => some (s.resume r false)
/-- R390: `fcmd` 2: it resumes, and stopped stairs do not apply their recorded elements. -/
def execFcmdResumeSkip (s : State) : Res := fcmdStep s 2 fun s r => some (s.resume r true)

/-- R390: a region and, before it, all its descendants that have not completed; a chain of parents is at most 25 long (R365). -/
def State.family (s : State) : Nat → Nat → List Nat
  | 0, r => [r]
  | n + 1, r => (((List.range s.regions.length).filter fun k => (s.region k).parent == some r && (s.region k).state != 4).map (s.family n)).flatten ++ [r]

/-- R172, R394: what abandoning a stair's command does that can still be seen: a spilled write or atomic is discarded and logged. -/
def State.dropSpill (s : State) (h n : Nat) (ps : List (Nat × Nat)) : State :=
  let x := s.stair h n
  match x.run with
  | none => s
  | some r =>
    if !ps.contains (h, r.ctx) then s
    else match x.spill.find? fun q => !q.e.aux && q.e.kind != .read with
      | none => s
      | some q => s.stairLog h n r.ctx .nopage q.e.va

/-- R390: one region of those aborted: its contexts stop for good and it completes with `flt`. -/
def State.abortOne (s : State) (r : Nat) (lost : Bool) : State :=
  let g := s.region r
  let ps := g.places
  let s := if g.state != 2 then s
    else g.halls.foldl (fun s h => (List.range 16).foldl (fun s n => s.dropSpill h n ps) s) s
  let f (g : Region) : Region := { g with flt := true, fstate := 3, lost := g.lost || lost }
  ((s.updRegion r f).rcbWrite r 0xA0 1 3).endRegion r

/-- R390, R325: the writes that stairs of a region hold back are issued before it is aborted. -/
def State.flushFamily (s : State) (rs : List Nat) : State :=
  rs.foldl (fun s r =>
    let g := s.region r
    if g.state != 2 then s
    else g.halls.foldl (fun s h => (List.range 16).foldl (fun s n => match (s.stair h n).run with
      | none => s
      | some x => if g.places.contains (h, x.ctx) then s.flushMrg h n else s) s) s) s

/-- R390: `fcmd` 3: the children of the region are aborted, and then the region, once all they had issued has been performed. -/
def execFcmdAbort (s : State) : Res :=
  let r := s.focus.idx
  if s.regions.length ≤ r || !(s.region r).stopped || (s.fcmd r != 3 && (s.region r).fstate != 3) then waits s
  else
    let rs := s.family 25 r
    let halt (s : State) (k : Nat) : State := s.updRegion k fun g => { g with stopped := true, fstate := 3 }
    let s1 := (rs.foldl halt s).flushFamily rs
    if !rs.all s1.performed then .next s1
    else .next ((rs.foldl (fun s k => s.abortOne k false) s1).rcbWrite r 0x98 8 0)

/-! ### Removing a report (R334, R392) -/

/-- R392, R216: the handler has resolved the trap of an A-bay's record: the bay abandons its task and selects again. -/
def State.resolveBay (s : State) (h c : Nat) (rec : BitVec 512) : State :=
  if bitsN rec 471 464 != 1 then s
  else
    let b := bitsN rec 483 478
    let x := match s.regionAt h c with
      | none => bitsN rec 493 492
      | some r => (s.region r).phys (bitsN rec 493 492)
    if (Tab.find s.bays (bkey h b x)).isNone then s
    else s.setBayCtx h b x ((s.bayCtx h b x).untrap (s.cfg h b x).handlers)

/-- R334, R336: a write to `trpop` removes the oldest report of a thread. -/
def State.popReport (s : State) (h c : Nat) : State :=
  let t := s.thr h c
  match t.reps with
  | [] => s
  | rec :: rest => (s.setThr h c { t with reps := rest }).resolveBay (bitsN rec 503 498) c rec

/-- R334: the oldest report of the focused thread is removed. -/
def execTrpop (s : State) : Res := .next (s.popReport s.focus.hall s.focus.ctx)

/-! ### Sparing (R409, R18) -/

/-- The live contexts of a hall. -/
def State.liveSlots (s : State) (h : Nat) : List Nat := (List.range 4).filter fun c => (s.slot h c).st == .live

/-- A bay's route class is fed by a neighbour's link. -/
def State.linkFeeds (s : State) (h b c ch : Nat) : Bool :=
  let lists (e : Nat × Nat) (d : Nat) : Bool :=
    (s.cfg e.1 e.2 c).routes.any fun (r : Nat × W32) => (entryDirs r.2).contains d && bitsN r.2 26 23 == ch
  (List.range 4).any fun d => match bayBeside h b d with
    | some e => lists e ((d + 2) % 4)
    | none =>
      if d = dirN then lists (h, stairElem (b % 8)) dirS
      else if d = dirS then lists (h, stairElem (8 + b % 8)) dirN
      else false

/-- R409: the channels under which a marker of subtype 4 is placed at a port: of a bay's port, its route classes that no link feeds. -/
def State.spareChans (s : State) (h p c : Nat) : List Nat :=
  if p < 32 then [0]
  else (List.range 16).filter fun ch => s.route66 h (portBay p) c ch != 0 && !s.linkFeeds h (portBay p) c ch

/-- R409: places the markers of a port; none while the port cannot take one. -/
def State.placeSpare (s : State) (h p c : Nat) : Option State :=
  let send (s : State) (t : Token) : Option State :=
    if p < 32 then s.portSend h p 0 t else (s.enterBay h (portBay p) 4 t 0 (4 + p)).map fun s => s.portCount h p t
  (s.spareChans h p c).foldl (fun (r : Option State) ch => r.bind fun s =>
    send s { kind := .marker, level := 4, ctx := BitVec.ofNat 2 c, chan := BitVec.ofNat 4 ch }) (some s)

def State.updHallSt (s : State) (h : Nat) (f : HallSt → HallSt) : State := { s with hallSt := Tab.upd s.hallSt h {} f }

/-- R409: a failed bay's report for a context. -/
def State.bayReport (s : State) (h b c : Nat) : State :=
  let w : Site := { hall := h, elem := b, eclass := 0, ctx := c }
  s.report h c (elemRecord .ecc w (s.logCtx h c) 0 0)

/-- The word of bay state that a failing array names: the kind in bits 2:0, a first number in bits 15:8, a second in bits 31:16. -/
def BayWord.ofVal (v : Nat) : BayWord :=
  let i := v / 256 % 256
  let k := v / 65536 % 65536
  match v % 8 with
  | 0 => .reg (i % 16)
  | 1 => .beat (i % 8) (k % 32)
  | 2 => .slot k
  | 3 => .chan (i % 16) k
  | 4 => .input (i % 4) k
  | 5 => .mchan (i % 64) k
  | _ => .request (i % 4) k

/-- R112: a token of a queue whose word fails: a data token holds poison. -/
def Token.poisonAt (ts : List Token) (k : Nat) : List Token :=
  ts.modify k fun t => if t.kind = .data then { t with poison := true } else t

/-- R112, R409: a word of an A-bay context that fails holds poison. -/
def BayCtx.poisonWord (b : BayCtx) : BayWord → BayCtx
  | .reg i => { b with b := Tab.upd b.b i {} fun x => { x with poison := true } }
  | .beat i k => { b with v := Tab.upd b.v i {} fun x => { x with pois := x.pois ||| 1#32 <<< k } }
  | .slot k =>
    let slots (ss : Tab SlotVal) : Tab SlotVal := ss.map fun (p : Nat × SlotVal) => (p.1, match p.2 with
      | .null => .null
      | .val w => .val (if p.1 = k then { w with poison := true } else w))
    { b with task := b.task.map fun (t : Task) => { t with blk := { t.blk with slots := slots t.blk.slots } } }
  | .chan ch k => { b with chans := Tab.upd b.chans ch [] (Token.poisonAt · k) }
  | _ => b

/-- R112, R409: a word of a moved bay that fails holds poison. -/
def State.poisonWord (s : State) (h b c : Nat) (w : BayWord) : State :=
  match bayKind b with
  | .a => s.setBayCtx h b c ((s.bayCtx h b c).poisonWord w)
  | .s => match w with
    | .input i k => s.setUnit h b c { s.unit h b c with q := Tab.upd (s.unit h b c).q i [] (Token.poisonAt · k) }
    | _ => s
  | .m => match w with
    | .mchan ch k => s.updBank h (b / 16 * 4 + b % 8 / 2) fun x => { x with chans := Tab.upd x.chans ch [] (Token.poisonAt · k) }
    | .request n k => s.updBank h (b / 16 * 4 + b % 8 / 2) fun x =>
      { x with q := Tab.upd x.q n [] fun l => l.modify k fun (r : BankReq) => { r with poison := true } }
    | _ => s

/-- R409: an elem's bay fails (`aux` 0); a marker of subtype 4 is placed at the port `idx` for a context (`aux` 1); or the ECC of a word
of the bay's state has failed, which is found when the state moves (`aux` 2; `val` names the word). -/
def execBayFailure (s : State) : Res :=
  let h := s.focus.hall
  let b := s.focus.elem % 64
  let x := Tab.get s.hallSt h {}
  if s.focus.aux = 1 then
    let p := s.focus.idx % 64
    let c := s.focus.ctx
    if !x.toPlace.contains (4 * p + c) || s.portSends h p c then waits s
    else match s.placeSpare h p c with
      | none => waits s
      | some s => .next (s.updHallSt h fun x => { x with toPlace := setDel x.toPlace (4 * p + c) })
  else if s.focus.aux = 2 then
    .next (s.updHallSt h fun x => { x with badWords := x.badWords ++ [(b, s.focus.ctx, .ofVal s.focus.val.toNat)] })
  else if x.retired then waits s
  else
    let cs := s.liveSlots h
    let s := s.logFault .ecc { hall := h, elem := b, eclass := 0, own := false }
    let s := cs.foldl (fun s c => s.bayReport h b c) s
    if x.spare || x.failed.isSome then .next (s.updHallSt h fun x => { x with retired := true, failed := none, toPlace := [] })
    else
      let keys := (cs.map fun c => ((List.range 64).filter fun p => (s.disp h).ins.contains (4 * p + c)).map fun p => 4 * p + c).flatten
      .next (s.updHallSt h fun x => { x with failed := some b, toPlace := keys, taken := [] })

/-- R409: an element has an input from which a marker of subtype 4 reaches it. -/
def State.mustSpare (s : State) (h e c : Nat) : Bool :=
  let from_ (ch : Nat) : Bool := (Tab.find s.inFrom (16 * ckey h e c + ch)).isSome
  match bayKind e with
  | .a => !(s.usedChans h e c).isEmpty
  | .s => let ws := (s.cfg h e c).words; (List.range (unitInputs ws)).any fun i => from_ (inputChan ws i)
  | .m => false

/-- R409: every element has taken the marker for every live context. -/
def State.spareReady (s : State) (h : Nat) : Bool :=
  let x := Tab.get s.hallSt h {}
  x.failed.isSome && x.toPlace.isEmpty &&
    (s.liveSlots h).all fun c => (List.range 64).all fun e => !s.mustSpare h e c || x.taken.contains (4 * e + c)

/-- R409, R18: the bays from the failed one's column on move one column east, words whose ECC fails (granules of the scratchpad, and
registers, slots and queue entries of the moved bays, R112) are written poisoned, and the spare
column is switched in; the coordinates of every bay stay. -/
def execSpareSwitchIn (s : State) : Res :=
  let h := s.focus.hall
  if !s.spareReady h then waits s
  else
    let f := (Tab.get s.hallSt h {}).failed.getD 0 % 8
    let moved := (List.range 16).filter fun q => f ≤ mbayOf q % 8
    let (s, logs) := moved.foldl (fun (a : State × List (Cause × Nat)) q =>
      let x := a.1.takeEcc (bankBase h q) (bankBase h q) 65536
      (x.1, a.2 ++ x.2)) (s, [])
    let bad := (Tab.get s.hallSt h {}).badWords.filter fun w => f ≤ w.1 % 8
    let s := bad.foldl (fun s w => s.poisonWord h w.1 w.2.1 w.2.2) s
    .next ((s.logAll { hall := h, eclass := 4, own := false } logs).updHallSt h fun x =>
      { x with failed := none, spare := true, taken := [], badWords := [] })

end Sys2Proof.Machine
end

