-- ==== Sys2Proof/Machine/Watch.lean ====
section
/-! DEFINITION. The watchdogs (R403–R405) and snapshots (R406–R408). -/

namespace Sys2Proof.Machine

/-! ### Watchdog registers (R403) -/

/-- R403: `wdcfg` of a hall at reset: enabled, `wrun` 3,125, `wsave` 12,800. -/
def wdReset : W64 := w64 (2 ^ 63 + 3125 * 2 ^ 32 + 12800)
def State.wdcfg (s : State) (h : Nat) : W64 := Tab.get s.host.wdcfg h wdReset
/-- R403: a watchdog of a hall expires: `nexp` counts, saturating. -/
def State.wdExpire (s : State) (h : Nat) : State :=
  { s with host := { s.host with nexp := Tab.upd s.host.nexp h 0 fun n => min (n + 1) (2 ^ 32 - 1) } }
/-- R403: `stl` of a hall. -/
def State.setStl (s : State) (h c : Nat) (v : Bool) : State :=
  let bit : BitVec 4 := BitVec.ofNat 4 (2 ^ c)
  { s with host := { s.host with stl := Tab.upd s.host.stl h 0 fun x => if v then x ||| bit else x &&& ~~~bit } }

/-! ### Waiting (R403, R404) -/

/-- R403: bit 0 and bit 1: a read parked at a bank by a bay or a stream, or by the thread, of a context. -/
def State.parkedWait (s : State) (h c : Nat) (thread : Bool) : Bool :=
  s.banks.any fun p => p.2.parked.any fun r => r.owner == (h, c) && r.ofThread h c == thread

/-- R435: what the device knows of a sink queue. -/
def State.sinkQ (s : State) (q : Nat) : SinkQ := Tab.get s.host.sinkqs q {}
/-- R437: 64 entries wait for a sink queue, and a producer of one more is held back. -/
def State.sinkFull (s : State) (q : Nat) : Bool := 64 ≤ (s.sinkQ q).wait.length

/-- R437: a step that would leave more than 64 entries waiting for a queue at which some waited before; its producer is held back,
and the step takes place once the queue has room. -/
def State.holdsBack (before s : State) : Bool :=
  s.host.sinkqs.any fun (p : Nat × SinkQ) => 64 < p.2.wait.length && (before.sinkQ p.1).wait.length < p.2.wait.length &&
    !(before.sinkQ p.1).wait.isEmpty

/-- R437: a stair of a context has met a page not present, and is held because the queue of its page requests (R116) is full. -/
def State.stairHeld (s : State) (h c n : Nat) : Bool :=
  let x := s.stair h n
  match x.run, x.want, x.head c (stWch (s.stWords h n c)) with
  | some r, some e, some t =>
    let unit := match s.stairUnit h n c e.kind with
      | none => []
      | some (k, b) => (s.cfg k b c).words
    r.ctx == c && (x.asks.head?.map fun a => a.2.1) == some true && t.width == 5 && t.isFault && !t.poison && bitsN t.payload 63 61 == 1 &&
      x.spill.length < 16 && !(x.reqs.any fun q => q.2 == e.va / 65536) &&
      (match cfgWord unit 0x23 with
        | none => false
        | some w => s.sinkFull (bitsN w 45 34))
  | _, _, _ => false

/-- R403: the waits that a context holds, one bit each. -/
def State.waitBits (s : State) (h c : Nat) : Nat :=
  let t := s.thr h c
  let link := s.links.any fun (p : Nat × List Token) => p.1 / 8 / 128 == h && (p.2.head?.map fun x => x.ctx.toNat == c).getD false
  let stair := (List.range 16).any fun n => ((s.stair h n).run.map (·.ctx)) == some c && (s.stair h n).spill.any (·.ok.isNone)
  let held := (List.range 16).any fun n => s.stairHeld h c n
  let row := (s.gal h).nextRow c == some false
  let bit (n : Nat) (b : Bool) : Nat := if b then 2 ^ n else 0
  bit 0 (s.parkedWait h c false) + bit 1 (s.parkedWait h c true) + bit 2 link + bit 3 (t.inWait == 3) + bit 4 (t.inWait == 4) +
    bit 5 (stair || held) + bit 6 row

/-- R404: what a context has done so far; it has made progress where this changes. -/
def State.progress (s : State) (h c : Nat) : List Nat × W64 × List (Nat × BayCtx) × List (Nat × SCtx) × GCtx × Nat :=
  (((List.range 82).map fun e => Tab.get s.tokCnt (ckey h e c) []).flatten, (s.thr h c).instret,
    s.bays.filter (fun (p : Nat × BayCtx) => p.1 / 256 == h && p.1 % 4 == c), s.units.filter (fun (p : Nat × SCtx) => p.1 / 256 == h && p.1 % 4 == c),
    s.galCtx h c, (s.edge.filter fun p => match p.who with
      | .thread k x => k == h && x == c
      | .stair k _ x => k == h && x == c
      | _ => false).length)

/-- R404: contexts that have made progress since an earlier state count from 0 again. -/
def State.restartStalls (s before : State) : State :=
  let moved (k : Nat) : Bool := before.progress (k / 4) (k % 4) != s.progress (k / 4) (k % 4)
  let gone := (s.stall.filter fun (p : Nat × Nat) => moved p.1).map fun (p : Nat × Nat) => p.1
  let off := (s.stalled.filter fun (p : Nat × Bool) => p.2 && moved p.1).map fun (p : Nat × Bool) => p.1
  let s := { s with stall := s.stall.filter fun (p : Nat × Nat) => !gone.contains p.1, stalled := s.stalled.filter fun (p : Nat × Bool) => !off.contains p.1 }
  off.foldl (fun s k => s.setStl (k / 4) (k % 4) false) s

/-- R7, R336, R355, R404, R405: the clock of a hall advances. -/
def State.tick (s : State) (h n : Nat) : State :=
  let mw (t : Thread) : Thread :=
    if t.mwD.isSome then { t with mwLeft := t.mwLeft.map fun p => (p.1, if p.1 = t.pc.toNat then p.2 - n else p.2) } else t
  let region (g : Region) : Region := match Tab.find g.swap.timer h with
    | none => g
    | some k => { g with swap := { g.swap with timer := Tab.put g.swap.timer h (k + n) } }
  let waiting := (s.liveSlots h).filter fun c => s.waitBits h c != 0
  { s with
    cycle := Tab.upd s.cycle h 0 (· + w64 n)
    threads := s.threads.map fun (p : Nat × Thread) => (p.1, if p.1 / 4 = h then mw p.2 else p.2)
    regions := s.regions.map region
    stall := waiting.foldl (fun t c => Tab.upd t (tkey h c) 0 (· + n)) s.stall }

/-- R388 `rkind` 6: the report of a watchdog. -/
def State.wdRecord (s : State) (h c wkind left : Nat) : BitVec 512 :=
  recPut (recPut (recPut (recHead .watchdog h (s.logCtx h c) 6) 460 4 wkind) 416 32 (s.waitBits h c)) 384 32 left

/-- R404: a context that has waited for the stall period without progress is reported, a second time to the parent fault domain. -/
def execWatchdogStall (s : State) : Res :=
  let h := s.focus.hall
  let c := s.focus.ctx
  let w := s.wdcfg h
  let lim := bitsN w 55 32 * 256
  let k := tkey h c
  if !bitB w 63 || lim = 0 || s.waitBits h c = 0 || Tab.get s.stall k 0 < lim then waits s
  else
    let again := Tab.get s.stalled k false
    let s1 := ({ s with stall := Tab.del s.stall k, stalled := Tab.put s.stalled k true }.wdExpire h).setStl h c true
    .next (if again then s1.reportUp h c (s.wdRecord h c 2 0) else s1.report h c (s.wdRecord h c 1 0))

/-! ### The save watchdog (R405) -/

/-- Elements of a hall that have not saved a region's contexts. -/
def State.unsaved (s : State) (r h : Nat) : Nat :=
  let g := (s.region r).swap
  (((g.ctxs.filter fun k => k / 4 == h).map fun k => (List.range 81).filter fun e =>
    !(g.saved.contains (ckey h e (k % 4)) && (g.awaited h e (k % 4)).isEmpty)).flatten).length

/-- R405: the hall has reported saved. -/
def State.hallSaved (s : State) (r h : Nat) : Bool :=
  s.unsaved r h == 0 && s.cmdsQuiet r h && (s.region r).swap.ctxs.all fun k => k / 4 != h || s.threadQuiet r h (k % 4)

/-- R405: a hall whose save of the region `idx` takes too long abandons it: the region is lost and aborted. -/
def execSaveWatchdogExpiry (s : State) : Res :=
  let h := s.focus.hall
  let r := s.focus.idx
  let g := s.region r
  let w := s.wdcfg h
  let lines := ((g.swap.ctxs.filter fun k => k / 4 == h).map fun k => s.imageLines r h (k % 4)).foldl (· + ·) 0
  match Tab.find g.swap.timer h with
  | none => waits s
  | some n =>
    if s.regions.length ≤ r || g.state != 2 || !bitB w 63 || n < bitsN w 23 0 + lines || s.hallSaved r h then waits s
    else
      let rec0 := s.wdRecord h ((g.swap.ctxs.find? fun k => k / 4 == h).getD 0 % 4) 3 (s.unsaved r h)
      let s := ((s.wdExpire h).bumpFcnt (some r)).route 26 r h 0 true rec0
      let s := s.updRegion r fun g => { g with fcause := .watchdog }
      let s := (s.family 25 r).foldl (fun s k => s.abortOne k (k == r)) s
      .next ((s.updRegion r fun g => { g with fstate := 2 }).rcbWrite r 0xA0 1 2)

/-! ### Snapshots (R406, R407) -/

/-- R406: the parts of a hall that take a snapshot: its elements, and its thread as element 81. -/
def snapElems : List Nat := List.range 82

/-- R406: the snapshot registers of an element. -/
def State.snapWord (s : State) (h e c seq : Nat) : BitVec 512 :=
  let (n, k) := if e < 64 then (e, 0) else if e < 80 then (e - 64, 1) else if e = 80 then (0, 2) else (0, 3)
  let cnt := Tab.get s.tokCnt (ckey h e c) [0, 0, 0, 0, 0, 0]
  let own := if e = 81 then (s.thr h c).instret.toNat
    else if e = 80 then (s.galCtx h c).rows
    else if 64 ≤ e then ((s.stair h (e - 64)).run.map fun r => if r.ctx = c then r.idx.toNat else 0).getD 0
    else match bayKind e with
      | .a => (s.bayCtx h e c).tasks
      | .s => if (modeWord (s.cfg h e c).words).map (fun w => bitsN w 63 58) = some 0x01 then (s.unit h e c).eCnt.toNat else 0
      | .m => 0
  let r := recPut (recPut (recPut (recPut 0 54 10 n) 50 4 k) 48 2 (s.logCtx h c)) 0 16 seq
  recPut ((List.range 6).foldl (fun r i => recPut r (64 * (i + 1)) 64 (cnt.getD i 0)) r) 448 64 own

/-- R406, R396: the snapshot token of a region under a context. -/
def snapToken (h seq c : Nat) : Token := { kind := .snapshot, ctx := BitVec.ofNat 2 c, payload := w64 (h % 64 * 2 ^ 56 + seq % 65536) }

/-- R406, R289, R199: an element latches its snapshot registers; an M-bay also the entries of its window and its wait list, which stay in place. -/
def State.latchSnap (s : State) (r h e c : Nat) : State :=
  let g := (s.region r).swap
  let k := ckey h e c
  if (Tab.find g.snapRegs k).isSome then s
  else
    let w := s.snapWord h e c (g.snapSeq.getD 0)
    let s := s.updSwap r fun g => { g with snapRegs := Tab.put g.snapRegs k w }
    if e < 64 && bayKind e = .m then
      let b := s.bank h (quadOf e)
      s.updSwap r fun g => { g with
        snapWins := Tab.put g.snapWins k (b.win.filter fun w => w.ctx == c)
        snapWaits := Tab.put g.snapWaits k (b.parked.filter fun q => s.regionAt q.owner.1 q.owner.2 == some r) }
    else s

/-- R105: an element is a translate unit. -/
def State.translates (s : State) (h e c : Nat) : Bool := e < 64 && (modeWord (s.cfg h e c).words).map (fun w => bitsN w 63 58) == some 0x1D

/-- R406, R105: the snapshot leaves an element on its outputs; in a translate unit it stands behind the requests that came before it. -/
def State.snapOn (s : State) (r h e c : Nat) (t : Token) (ks : List Nat) : State :=
  if s.translates h e c then
    let u := s.unit h e c
    if (Tab.get u.q 4 []).any (fun k => k.payload == t.payload) || u.xq.any (fun x => x.tok.kind == .snapshot && x.tok.payload == t.payload) then s
    else s.setUnit h e c (u.snapAfter t)
  else s.forwardSnap r c t ks

/-- R406: inputs of an element that the snapshot has not reached. -/
def RSwap.snapAwaited (g : RSwap) (h e c : Nat) : List Nat := g.snapInputs.filter fun i => i / 128 == ckey h e c && !g.snapIn.contains i

/-- R406: a snapshot reaches an input of an element, which latches at the first and forwards one on each output; a router that only passes
tokens through forwards on the outputs that the input feeds. -/
def State.snapTake (s : State) (r h e c inp : Nat) (t : Token) : State :=
  let k := inKey h e c inp
  let g := (s.region r).swap
  if !g.snapInputs.contains k || g.snapIn.contains k then s
  else
    let fresh := (Tab.find g.snapRegs (ckey h e c)).isNone
    let s := (s.latchSnap r h e c).updSwap r fun g => { g with snapIn := setIns g.snapIn k }
    let src := if 4 ≤ inp then 4 else inp
    let outs := s.elemLinks h e c
    let now := if s.passesOnly h e c && !((s.region r).swap.snapAwaited h e c).isEmpty then
        outs.filter fun l => Tab.find s.feed (4 * l + c) == some src
      else outs
    if !fresh && s.translates h e c then s else s.snapOn r h e c t now

/-- R406: a snapshot of a region begins. -/
def State.beginSnap (s : State) (r seq : Nat) : State :=
  let g := s.region r
  let ins := ((s.liveCtxs r).map fun k => s.ctxInputs g.halls (k / 4) (k % 4)).flatten
  s.updSwap r fun g => { g with snapSeq := some seq, snapInputs := ins, snapIn := [], snapRec := [], snapRegs := [], snapWins := [], snapWaits := [], snapSent := [],
                                snapPorts := [], snapHalls := [] }

/-- R406: the parts of a context that have no inputs latch once the snapshot has been placed at every port of their hall. -/
def State.latchIdle (s : State) (r h c : Nat) (t : Token) : State :=
  let g := (s.region r).swap
  if !(List.range 64).all fun p => g.snapPorts.contains (4 * (64 * h + p) + c) then s
  else
    (snapElems.filter fun e => !g.snapInputs.any fun i => i / 128 == ckey h e c).foldl (fun s e =>
      if (Tab.find (s.region r).swap.snapRegs (ckey h e c)).isSome then s
      else (s.latchSnap r h e c).snapOn r h e c t (s.elemLinks h e c)) s

/-- R183, R406 `snapshot`: the port's snapshot reaches the element that the port feeds; one of a later sequence waits. -/
def execSnapshot (port : BitVec 6) (ctx : BitVec 2) (cls flags : BitVec 8) (imm : BitVec 32) (addr : BitVec 64) (s : State) : Res :=
  cmdRun s (cmdWord 0x10 port ctx cls flags imm addr) fun c =>
    let h := s.focus.hall
    let p := port.toNat
    let seq := imm.toNat % 65536
    match s.regionAt h c.ctx with
    | none => cmdEnds s
    | some r =>
      let g := (s.region r).swap
      if g.snapSeq.isSome && g.snapSeq != some seq then waits s
      else
        let s1 := if g.snapSeq.isNone then s.beginSnap r seq else s
        let t := snapToken h seq c.ctx
        let s2 := s1.updSwap r fun g => { g with snapPorts := setIns g.snapPorts (4 * (64 * h + p) + c.ctx) }
        .next (((s2.snapTake r h (portElem p) c.ctx (4 + p) t).latchIdle r h c.ctx t).cmdDone h c.ticket)

/-- R263, R406: a snapshot at the edge of a hall: the gallery takes it and passes it on. -/
def snapAtEdge (s : State) (h e dir : Nat) (t : Token) (r : Option Nat) : State :=
  let k := lkey h e dir
  let c := t.ctx.toNat
  let s1 := s.popLink k
  let s2 := match r with
    | some r => if e < 88 then s1.snapTake r h 80 c (if dir = dirW then e - 80 else 8 + (e - 80)) t else s1
    | none => s1
  match crossLink k with
  | none => s2
  | some k' => s2.pushLink k' t

/-- R406: the snapshot at the head of a link (`idx`) reaches the element there. One of a later sequence than that in progress waits. -/
def execSnapshotArrival (s : State) : Res :=
  let h := s.focus.hall
  let e := s.focus.elem
  let d := s.focus.idx % 4
  let k := lkey h e d
  match s.link k with
  | [] => waits s
  | t :: _ =>
    if t.kind != .snapshot then waits s
    else
      let c := t.ctx.toNat
      let r := s.regionAt h c
      let cur := match r with
        | none => none
        | some r => (s.region r).swap.snapSeq
      let mine := cur == some (bitsN t.payload 15 0)
      if cur.isSome && !mine then waits s
      else if 80 ≤ e then .next (snapAtEdge s h e d t (if mine then r else none))
      else match r with
        | some r => .next (if mine then (s.popLink k).snapTake r h e c d t else s.popLink k)
        | none => .next (s.popLink k)

/-- R407: every part of a hall has latched, and the snapshot has reached every input. -/
def State.snapDone (s : State) (r h : Nat) : Bool :=
  let g := (s.region r).swap
  (s.liveCtxs r).all fun k => k / 4 != h || (snapElems.all (fun e => (Tab.find g.snapRegs (ckey h e (k % 4))).isSome) &&
    (List.range 81).all fun e => (g.snapAwaited h e (k % 4)).isEmpty)

/-- R407: the recorded tokens of a hall: for each, an input tag, whose layout is not stated (log 4), and a record of R186. -/
def State.snapTokens (s : State) (r h : Nat) : State × List (List Byte) :=
  let l := ((s.region r).swap.snapRec.filter fun (p : Nat × List Token) => p.1 / 128 / 512 == h).map fun (p : Nat × List Token) => p.2
  l.flatten.foldl (fun (a : State × List (List Byte)) t =>
    (a.1.drawn, a.2 ++ [leBytes 8 a.1.free.toNat ++ leBytes 8 t.header ++ leBytes 8 t.payload.toNat])) (s, [])

/-- R407: the longest beginning of a list of records that fits into a number of bytes, and whether one was dropped. -/
def fitting : Nat → List (List Byte) → List Byte × Bool
  | _, [] => ([], false)
  | n, b :: t => if n < b.length then ([], true) else
    let (l, o) := fitting (n - b.length) t
    (b ++ l, o)

/-- R407: a hall writes its part of the snapshot buffer, the header last. -/
def State.writePart (s : State) (r h : Nat) : State :=
  let g := s.region r
  let l := (g.halls.findIdx? (· == h)).getD 0
  let size := g.own.snaplen / g.nh / 64 * 64
  let at_ := g.own.snapva + w64 (l * size)
  if g.own.snapva = 0 || size < 64 then s
  else
    let regs := (g.swap.snapRegs.filter fun (p : Nat × BitVec 512) => p.1 / 512 == h).map fun (p : Nat × BitVec 512) => leBytes 64 p.2.toNat
    let (s, toks) := s.snapTokens r h
    let (body, ovf) := fitting (size - 64) (regs ++ toks)
    let n := min regs.length (body.length / 64)
    let head := g.swap.snapSeq.getD 0 % 65536 + n % 2 ^ 32 * 2 ^ 16 + (if ovf then 2 ^ 62 else 0) + 2 ^ 63
    let put (s : State) (i : Nat) : State := s.vaWrite g.rroot (at_ + w64 (64 + 8 * i)) ((body.drop (8 * i)).take 8)
    let s := (List.range (body.length / 8)).foldl put s
    let s := (List.range 7).foldl (fun s i => s.vaWrite g.rroot (at_ + w64 (8 * (i + 1))) (leBytes 8 0)) s
    s.vaWrite g.rroot at_ (leBytes 8 head)

/-- R407: a hall's snapshot block writes its part for the region `idx`; logical hall 0 records the sequence once all have. -/
def execSnapshotComplete (s : State) : Res :=
  let h := s.focus.hall
  let r := s.focus.idx
  let g := s.region r
  match g.swap.snapSeq with
  | none => waits s
  | some seq =>
    if s.regions.length ≤ r || g.state != 2 || !g.halls.contains h then waits s
    else if !g.swap.snapHalls.contains h then
      (if s.snapDone r h then .next ((s.writePart r h).updSwap r fun g => { g with snapHalls := setIns g.snapHalls h }) else waits s)
    else if h = g.hallOf 0 && g.halls.all g.swap.snapHalls.contains then
      .next ((s.rcbWrite r 0xB8 8 (seq + 65536)).updSwap r fun g => { g with
        snapSeq := none, snapInputs := [], snapIn := [], snapRec := [], snapRegs := [], snapWins := [], snapWaits := [], snapSent := [], snapPorts := [],
        snapHalls := [] })
    else waits s

end Sys2Proof.Machine
end

