-- ==== Sys2Proof/Machine/Host.lean ====
section
/-! DEFINITION. The host link (R322–R324, R412–R414, R430–R437): host writes, the resync summary, ingress channels and sink queues. -/

namespace Sys2Proof.Machine

/-- Changes the host side. -/
def State.updHost (s : State) (f : HostSide → HostSide) : State := { s with host := f s.host }

/-- The device itself, where no hall found a fault. -/
def devSite : Site := { hall := 0, eclass := 4, own := false }

/-- R94: the PA of a host bus address. -/
def hostPa (bus : Nat) : Nat := 0x800000000000 + bus % 2 ^ 47

/-- Writes bytes to host memory in rising order, 64 bytes at a time, each within a line where the address is a multiple of 64. -/
def State.hostWrite (s : State) (bus : Nat) (bs : List Byte) : State :=
  (List.range ((bs.length + 63) / 64)).foldl (fun s i => (s.edgeWrite (hostPa (bus + 64 * i)) ((bs.drop (64 * i)).take 64) 0).s) s

/-- R430: an MSI-X vector is raised. -/
def State.msi (s : State) (vec : Nat) : State := s.updHost fun h => { h with msix := h.msix ++ [vec] }

/-! ### Resync (R412–R414) -/

/-- R414: the thread of a slot: 0 none, 1 running, 2 waiting, 3 stopped. -/
def State.threadCode (s : State) (h c : Nat) : Nat :=
  let t := s.thr h c
  if !t.live then 0
  else if t.dead || s.ctxStopped h c then 3
  else if t.inWfi || t.mwD.isSome || t.inWait != 0 || t.parked then 2
  else 1

/-- R414: the codes of a slot's state: 00 empty, 01 loaded, 10 live, 11 saving. -/
def State.slotCode (s : State) (h c : Nat) : Nat := (s.slot h c).st.code

/-- R414: the record of a hall. -/
def State.hallRecord (s : State) (h : Nat) : List Byte :=
  let x := Tab.get s.hallSt h {}
  let g := s.gal h
  let four (f : Nat → Nat) (n : Nat) : Nat := f 0 + f 1 * 2 ^ n + f 2 * 2 ^ (2 * n) + f 3 * 2 ^ (3 * n)
  let rcb (c : Nat) : Nat := match s.regionAt h c with
    | none => 0
    | some r => bitsN (s.region r).rcb 55 0
  let d0 := h % 64 * 2 ^ 58 + (if x.retired then 2 ^ 57 else 0) + (if x.spare then 2 ^ 56 else 0) + g.spares % 4 * 2 ^ 54 +
    (if g.retired then 2 ^ 53 else 0) + four (s.threadCode h) 2 * 2 ^ 8 + four (s.slotCode h) 2
  let d5 := four (fun c => (s.thr h c).reps.length) 6 + (s.disp h).cmds.length % 128 * 2 ^ 24 + Tab.get s.host.nexp h 0 * 2 ^ 32
  leBytes 8 d0 ++ ((List.range 4).map fun c => leBytes 8 (rcb c)).flatten ++ leBytes 8 d5 ++ zeros 16

/-- R414: regions neither idle nor completed. -/
def Region.busy (g : Region) : Bool := 1 ≤ g.state && g.state ≤ 3

/-- R414: the sections of a summary, in the order of the section table. -/
def State.sections (s : State) : List (List Byte) :=
  let rs := List.range s.regions.length
  let roots := rs.filter fun r => (s.region r).parent.isNone && (s.family 25 r).any fun k => (s.region k).busy
  let launches := rs.filter fun r => (s.region r).state == 1
  let root (r : Nat) : List Byte := leBytes 8 ((s.region r).state * 2 ^ 56 + bitsN (s.region r).rcb 55 0)
  let launch (r : Nat) : List Byte :=
    let g := s.region r
    leBytes 8 (g.hdl % 2 ^ 32 + g.eff.prio % 16 * 2 ^ 32 + g.depth % 32 * 2 ^ 40) ++ leBytes 8 (bitsN g.rcb 55 0)
  let mask (n : Nat) (f : Nat → Bool) : Nat := ((List.range n).map fun k => if f k then 2 ^ k else 0).foldl (· + ·) 0
  let hbm (k : Nat) : List Byte :=
    leBytes 8 (Tab.get s.mem.corrected k 0 % 2 ^ 32 + Tab.get s.mem.uncorr k 0 % 2 ^ 32 * 2 ^ 32) ++
      leBytes 8 (mask 32 fun c => s.mem.retired.contains (32 * k + c))
  let meas (i : Nat) (m : Nat × Nat) : List Byte := leBytes 4 i ++ leBytes 4 m.1 ++ zeros 8 ++ leBytes 32 (Config.measurement m.2).toNat
  [((List.range 64).map s.hallRecord).flatten, (roots.map root).flatten, (launches.map launch).flatten,
    (s.log.map fun e => leBytes 16 e.toNat).flatten, leBytes 32 (mask 256 fun p => s.arc.dead.any fun d => d % 256 == p),
    leBytes 32 (mask 256 fun k => k == 0 || (Tab.find s.keys k).isSome), ((List.range 12).map hbm).flatten, (s.host.meas.mapIdx meas).flatten]

/-- R412: the sections that fit into a number of bytes, cut off at the first that does not; and whether any was cut off. -/
def fitSections : Nat → List (List Byte) → List (List Byte) × Bool
  | _, [] => ([], false)
  | n, b :: t => if n < b.length then ((b :: t).map fun _ => [], true) else
    let (l, o) := fitSections (n - b.length) t
    (b :: l, o)

/-- R413: the section table: an offset and a length for each section. -/
def sectionTable : Nat → List (List Byte) → List Byte
  | _, [] => []
  | at_, b :: t => leBytes 8 (if b.isEmpty then 0 else at_ * 2 ^ 32 + b.length) ++ sectionTable (at_ + b.length) t

/-- R412–R414: a resync word makes the device write its summary, the header's first double word last. -/
def State.resyncWord (s : State) (w : W64) : State :=
  let npg := bitsN w 11 0
  if bitsN w 63 60 != 1 || npg = 0 then s.logFault .cfg devSite
  else
    let bus := bitsN w 46 12 * 4096
    let s := s.updHost fun h => { h with rseq := h.rseq + 1 }
    let (secs, cut) := fitSections (4096 * npg - 256) s.sections
    let body := secs.flatten
    let given := (secs.getD 3 []).length / 16
    let head := leBytes 8 s.host.rseq ++ leBytes 8 (featWord 0).toNat ++ leBytes 8 (s.lseq % 2 ^ 32 * 2 ^ 32 + given) ++ sectionTable 256 secs ++ zeros 160
    let first := 2 ^ 63 + (if cut then 2 ^ 62 else 0) + 2 ^ 32 + (256 + body.length)
    let s := s.hostWrite (bus + 256) body
    let s := (s.edgeWrite (hostPa (bus + 8)) (head.take 56) 0).s
    let s := s.hostWrite (bus + 64) (head.drop 56)
    let s := (s.edgeWrite (hostPa bus) (leBytes 8 first) 0).s
    if bitB s.host.rsvec 63 then s.msi (bitsN s.host.rsvec 11 0) else s

/-- R412: a resync word on the management register. -/
def execResyncRequest (s : State) : Res := .next (s.resyncWord s.focus.val)

/-! ### Ingress channels (R433, R434) -/

def State.ingress (s : State) (n : Nat) : Ingress := Tab.get s.host.ingress n {}
def State.setIngress (s : State) (n : Nat) (g : Ingress) : State := s.updHost fun h => { h with ingress := Tab.put h.ingress n g }

/-- R374, R395, R434: the region that a hall's slot belongs to: the one charged, or one swapped out of it. -/
def State.ownerOf (s : State) (h c : Nat) : Option Nat := match s.regionAt h c with
  | some r => some r
  | none => (s.saved.find? fun v => v.slotSt.any fun (p : Nat × HSlot) => p.1 == tkey h c).map (·.region)

/-- R433: a write of `ingbn`; one that breaks a field is ignored and logged. -/
def State.bindWrite (s : State) (n : Nat) (v : W64) : State :=
  let bay := bitsN v 55 50
  let bad := bitsN v 43 0 != 0 || (if bitB v 62 then bay != 0 || bitsN v 47 44 != 0 else bayKind bay != .a)
  if n = 0 then s
  else if bad then s.logFault .cfg devSite
  else s.setIngress n { s.ingress n with bind := v, region := s.ownerOf (bitsN v 61 56) (bitsN v 49 48) }

/-- R433: the binding of the channel `idx` is written. -/
def execIngbWrite (s : State) : Res := .next (s.bindWrite (s.focus.idx % 4096) s.focus.val)

/-- R434: words of a channel that sit in their targets' queues. -/
def State.queuedWords (s : State) (n : Nat) : Nat :=
  let inBay (b : BayCtx) : Nat := ((b.ingr.map fun (p : Nat × List Nat) => p.2.countP (· == n))).foldl (· + ·) 0
  let inThr (t : Thread) : Nat := t.tokChans.countP (· == n)
  (s.threads.map fun (p : Nat × Thread) => inThr p.2).foldl (· + ·) 0 + (s.bays.map fun (p : Nat × BayCtx) => inBay p.2).foldl (· + ·) 0 +
    (s.saved.map fun v => (v.threads.map fun (p : Nat × Thread) => inThr p.2).foldl (· + ·) 0 +
      (v.bays.map fun (p : Nat × BayCtx) => inBay p.2).foldl (· + ·) 0).foldl (· + ·) 0

/-- R434: `free` of a channel. -/
def State.ingressFree (s : State) (n : Nat) : Nat := 16 - (s.queuedWords n + (s.ingress n).wait.length)

/-- R117: a channel carries page-ready words: an `xfault` word of its hall, or the RCB of its region, names it. -/
def State.pageChannel (s : State) (n : Nat) (v : W64) : Bool :=
  let h := bitsN v 61 56
  bitB v 62 &&
    (s.cfgs.any (fun (p : Nat × ElemCfg) => p.1 / 512 == h && (match cfgWord p.2.words 0x23 with
      | none => false
      | some w => bitsN w 57 46 == n)) ||
    (match s.ownerOf h (bitsN v 49 48) with
      | none => false
      | some r => (s.region r).eff.pgv && (s.region r).eff.prch == n))

/-- R434: the slot of a binding is live. -/
def State.bindLive (s : State) (v : W64) : Bool :=
  bitB v 63 && (s.slot (bitsN v 61 56) (bitsN v 49 48)).st == .live

/-- R395, R434: the target of a channel is saved or being saved: its words wait. -/
def State.bindOut (s : State) (g : Ingress) : Bool :=
  bitB g.bind 63 && ((s.slot (bitsN g.bind 61 56) (bitsN g.bind 49 48)).st == .saving || (match g.region with
    | none => false
    | some r => (s.region r).state == 3))

/-- R434, R335, R208: a word of a channel becomes a token of its target; none where the target cannot take it. -/
def State.ingressToken (s : State) (n : Nat) (g : Ingress) (w : W64) : Option State :=
  let v := g.bind
  let h := bitsN v 61 56
  let c := bitsN v 49 48
  let chan := bitsN v 47 44
  let t : Token := { ctx := BitVec.ofNat 2 c, chan := BitVec.ofNat 4 chan, payload := w }
  if !s.bindLive v || s.bindOut g then none
  else if bitB v 62 then
    let x := s.thr h c
    if 64 ≤ x.toks.length then none else some (s.setThr h c { x with toks := x.toks ++ [t], tokChans := x.tokChans ++ [n] })
  else
    let b := bitsN v 55 50
    if s.swapStopped h b c then none
    else (s.allow h b c).bind fun s => s.deliver h b c chan t n

/-- R335: a word delivered earlier still waits for the token queue of the thread that a channel is bound to. -/
def State.ingressBehind (s : State) (n : Nat) (g : Ingress) (seq : Nat) : Bool :=
  bitB g.bind 62 && s.host.ingress.any fun (p : Nat × Ingress) =>
    p.1 != n && bitB p.2.bind 62 && bitsN p.2.bind 61 56 == bitsN g.bind 61 56 && bitsN p.2.bind 49 48 == bitsN g.bind 49 48 &&
      p.2.wait.any fun q => q.1 < seq

/-- R395, R434: a word waits at its channel, behind those delivered before it. -/
def State.ingressWait (s : State) (n : Nat) (g : Ingress) (w : W64) : State :=
  (s.setIngress n { g with wait := g.wait ++ [(s.host.ingSeq, w)] }).updHost fun h => { h with ingSeq := h.ingSeq + 1 }

/-- R434: a word that a channel discards; the first since `drop` was read is logged. -/
def State.ingressDrop (s : State) (n : Nat) (g : Ingress) : State :=
  let s := s.setIngress n { g with drop := min (g.drop + 1) 65535, dropLogged := true }
  if g.dropLogged then s else s.logFault .cfg { hall := bitsN g.bind 61 56, eclass := 4, ctx := bitsN g.bind 49 48 }

/-- R434, R117, R412: a host word reaches the ingress page of the channel `idx`; with `aux` 1, the oldest word that waits at a channel goes to
its target. -/
def execIngressWord (s : State) : Res :=
  let n := s.focus.idx % 4096
  let g := s.ingress n
  let w := s.focus.val
  if s.focus.aux = 1 then
    match g.wait with
    | [] => waits s
    | (k, w) :: rest => if s.ingressBehind n g k then waits s else match s.ingressToken n g w with
      | none => waits s
      | some s => .next (s.setIngress n { g with wait := rest })
  else if n = 0 then .next (s.resyncWord w)
  else if bitB g.bind 63 && s.pageChannel n g.bind then .next (s.pageReady w)
  else if !(s.bindLive g.bind || s.bindOut g) || s.ingressFree n = 0 then .next (s.ingressDrop n g)
  else if !g.wait.isEmpty || s.ingressBehind n g s.host.ingSeq then .next (s.ingressWait n g w)
  else match s.ingressToken n g w with
    | none => .next (s.ingressWait n g w)
    | some s => .next s

/-- R434: what a host read of a channel's page gives; it lets the next discard be logged again. -/
def State.ingressRead (s : State) (n off : Nat) : State × W64 :=
  let g := s.ingress n
  if off != 8 then (s, 0)
  else (s.setIngress n { g with dropLogged := false },
    w64 ((if s.bindLive g.bind then 2 ^ 63 else 0) + g.drop * 2 ^ 32 + s.ingressFree n))

/-! ### Sink queues (R435, R437) -/

def State.setSinkQ (s : State) (q : Nat) (k : SinkQ) : State := s.updHost fun h => { h with sinkqs := Tab.put h.sinkqs q k }

/-- R435: a queue's descriptor, read once and cached. -/
def State.sinkDesc (s : State) (q : Nat) : State × BitVec 256 :=
  match (s.sinkQ q).desc with
  | some d => (s, d)
  | none =>
    let r := s.edgeRead (bitsN s.host.sqtb 47 5 * 32 + 32 * q) 32 0
    let d := if r.cause != .none || r.poison then 0 else BitVec.ofNat 256 (leNat r.bytes)
    let s := r.s.logAll devSite r.logs
    (s.setSinkQ q { s.sinkQ q with desc := some d }, d)

/-- R435: a descriptor is valid and takes entries of a size. -/
def descOk (d : BitVec 256) (size : Nat) : Bool :=
  bitB d 63 && 1 ≤ bitsN d 68 64 && bitsN d 68 64 ≤ 20 && (bitB d 62 == (size == 64))

/-- R437: the device delivers the oldest entry of the queue `idx`, once the host has room for it. -/
def execSinkQueueDelivery (s : State) : Res :=
  let q := s.focus.idx % 4096
  match (s.sinkQ q).wait with
  | [] => waits s
  | (size, e) :: rest =>
    let (s1, d) := s.sinkDesc q
    let k := s1.sinkQ q
    if !descOk d size then .next ((s1.setSinkQ q { k with wait := rest }).logFault .cfg devSite)
    else
      let n := 2 ^ bitsN d 68 64
      if n ≤ (k.prod + 2 ^ 32 - k.cons) % 2 ^ 32 then waits s
      else
        let p := (k.prod + 1) % 2 ^ 32
        let s2 := (s1.edgeWrite (hostPa (bitsN d 46 4 * 16 + k.prod % n * size)) (leBytes size e.toNat) 0).s
        let s3 := (s2.edgeWrite (hostPa (bitsN d 174 131 * 8)) (leBytes 8 p) 0).s
        let s4 := s3.setSinkQ q { k with prod := p, wait := rest }
        .next (if bitB d 127 then s4.msi (bitsN d 106 96) else s4)

/-- R437: the host writes the consumer index of the queue `idx`; one out of its range is ignored and logged. -/
def execConsumerIndexWrite (s : State) : Res :=
  let q := s.focus.idx % 4096
  let (s, d) := s.sinkDesc q
  let k := s.sinkQ q
  let c := bitsN s.focus.val 31 0
  if 2 ^ bitsN d 68 64 < (k.prod + 2 ^ 32 - c) % 2 ^ 32 then .next (s.logFault .range devSite)
  else .next (s.setSinkQ q { k with cons := c })

end Sys2Proof.Machine
end

