-- ==== Sys2Proof/Machine/Mgmt.lean ====
section
/-! DEFINITION. The management window (R127, R403, R430, R431), the steps that its writes start (R124, R141, R145, R435, R436, R438, R440), accesses through the memory aperture (R432), and the condition of the device (R440). -/

namespace Sys2Proof.Machine

/-! ### Arcade registers (R127, R141, R145) -/

/-- R142, R145: bit p of the dead-peer bitmap of a hall, 64 peers to a register. -/
def State.deadWord (s : State) (hall k : Nat) : W64 :=
  w64 (((List.range 64).map fun i => if s.isDead hall (64 * k + i) then 2 ^ i else 0).foldl (· + ·) 0)

/-- R142, R145: clears a peer's bit in every hall, and both sequence counters for it. -/
def State.revive (s : State) (p : Nat) : State :=
  let mine (k : Nat) : Bool := k / 256 % 256 == p
  { s with arc := { s.arc with
      dead := s.arc.dead.filter fun d => d % 256 != p
      txSeq := s.arc.txSeq.filter fun (q : Nat × Nat) => !mine q.1
      rxSeq := s.arc.rxSeq.filter fun (q : Nat × Nat) => !mine q.1 } }

/-- R145: a write to `arc_dead` k: every bit written 1 is cleared. -/
def State.deadWrite (s : State) (k : Nat) (v : W64) : State :=
  ((List.range 64).filter fun i => bitB v i).foldl (fun s i => s.revive (64 * k + i)) s

/-- R145: the dead-peer register `idx` is written. -/
def execArcDeadWrite (s : State) : Res := .next (s.deadWrite (s.focus.idx % 4) s.focus.val)

/-- R141: no request is admitted under an old entry any more. -/
def State.importInval (s : State) : State := { s with arc := { s.arc with impCache := [], iinvBusy := true } }
/-- R141: `arc_iinv` is written. -/
def execArcIinv (s : State) : Res := .next s.importInval

/-! ### Launches, channels, queues, keys, power (R124, R435, R436, R438, R440) -/

/-- R436, R365: the checks of a root launch, and what they answer; with the pool full the launch stays in hand. -/
def State.rootLaunch (s : State) (va : W64) : State :=
  let w : Launcher := { parent := none, ctx := none, rroot := s.host.rlroot, x1 := none }
  let refuse (s : State) (c : Cause) : State := s.updHost fun h => { h with rlBusy := false, rlPend := none, rlCause := c }
  if va.toNat % 256 != 0 then refuse s .align
  else
    let (s1, r) : State × Except Cause Xlat := match s.walk s.host.rlroot va .read with
      | (s, .fault c, l) => (s.logAll devSite l, .error c)
      | (s, .leaf pte psz, l) => (s.logAll devSite l, .ok (leafXlat pte psz va))
    match s1.launchAt w va r with
    | .ok s hdl => s.updHost fun h => { h with rlBusy := false, rlPend := none, rlHdl := w32 hdl }
    | .full => s.updHost fun h => { h with rlBusy := true, rlPend := some va }
    | .fault s c => refuse s c

/-- R436: `rlaunch` is written; a write that arrives while a launch is in hand is discarded, and that launch is tried again. -/
def execRlaunch (s : State) : Res := match s.host.rlPend with
  | some va => .next (s.rootLaunch va)
  | none => .next (s.rootLaunch (w64 (bitsN s.focus.val 55 0)))

/-- R124: `hbmret` is written: with `go`, the named channel is retired. -/
def State.retireChannel (s : State) (v : W64) : State :=
  if bitB v 63 && bitsN v 11 8 < 12 then { s with mem := { s.mem with retired := setIns s.mem.retired (32 * bitsN v 11 8 + bitsN v 4 0) } } else s
def execHbmret (s : State) : Res := .next (s.retireChannel s.focus.val)

/-- R435: the cached descriptors are dropped. -/
def State.sinkInval (s : State) : State :=
  s.updHost fun h => { h with sqinvBusy := true, sinkqs := h.sinkqs.map fun (p : Nat × SinkQ) => (p.1, { p.2 with desc := none }) }
def execSqinv (s : State) : Res := .next s.sinkInval

/-- R438: the pair in the `kdata` registers. -/
def HostSide.pair (h : HostSide) : BitVec 512 :=
  BitVec.ofNat 512 (((List.range 8).map fun i => (Tab.get h.kdata i 0).toNat * 2 ^ (64 * i)).foldl (· + ·) 0)

/-- R438: `kcmd` load. `ide` says that the write came from a landing core or in an IDE stream. -/
def State.keyLoad (s : State) (ide : Bool) : State :=
  let k := s.host.kslot
  let code := if k = 0 then 3 else if (Tab.find s.keys k).isSome then 1 else if !ide || !s.host.kdataOut.isEmpty then 2 else 0
  if s.host.kBusy.isSome then s
  else if code != 0 then s.updHost fun h => { h with kres := code }
  else
    let s := { s with keys := Tab.put s.keys k { pair := s.host.pair } }
    s.updHost fun h => { h with kres := 0, kdata := [], kdataOut := [] }

/-- R438: an access admitted under a key slot has still to be performed. -/
def State.keyInUse (s : State) (k : Nat) : Bool :=
  s.edge.any (fun p => p.key == k && p.rem.isNone && spaceOf p.pa == .hbm) ||
    s.stairs.any fun (p : Nat × Stair) => (p.2.mrg.map fun m => m.key == k && spaceOf m.pa == .hbm).getD false

/-- R438: a key slot is emptied. -/
def State.keyEmpty (s : State) (k : Nat) : State :=
  { s with keys := Tab.del s.keys k }.updHost fun h => { h with kBusy := none, kres := 0 }

/-- R438: `kcmd` clear; it stays busy until the accesses admitted under the slot have been performed. -/
def State.keyClear (s : State) : State :=
  let k := s.host.kslot
  if s.host.kBusy.isSome then s
  else if k = 0 then s.updHost fun h => { h with kres := 3 }
  else if s.keyInUse k then s.updHost fun h => { h with kBusy := some k }
  else s.keyEmpty k

/-- R438: `kcmd` load; `aux` 1 says that the write came in an IDE stream. -/
def execKcmdLoad (s : State) : Res := .next (s.keyLoad (s.focus.aux = 1 && s.host.spdm.ide))
/-- R438: `kcmd` clear. -/
def execKcmdClear (s : State) : Res := .next s.keyClear

/-- R141, R435, R438: an invalidation, or the clearing of a key slot, that is under way completes. -/
def State.settle (s : State) : State :=
  let s := { s with arc := { s.arc with iinvBusy := false } }.updHost fun h => { h with sqinvBusy := false }
  match s.host.kBusy with
  | none => s
  | some k => if s.keyInUse k then s else s.keyEmpty k

/-- R440: a region is live. -/
def State.anyLive (s : State) : Bool := s.regions.any fun g => g.state == 2
/-- R440: `pwr` is written: 0 run, 1 idle, 2 D3hot-ready, which needs that no region is live. -/
def State.powerWrite (s : State) (n : Nat) : State :=
  if n = 3 || (n = 2 && s.anyLive) then s else s.updHost fun h => { h with pwr := n }
def execPwrRun (s : State) : Res := .next (s.powerWrite 0)
def execPwrIdle (s : State) : Res := .next (s.powerWrite 1)
def execPwrD3hot (s : State) : Res := .next (s.powerWrite 2)

/-! ### The window (R431) -/

/-- R127: the word of an arcade port. -/
def APort.word (p : APort) : W64 := w64 ((if p.up then 2 ^ 63 else 0) + p.lanes % 16 * 2 ^ 56 + p.fixed % 65536 * 2 ^ 16 + p.replays % 65536)

/-- R127, R403, R431: a register of the management window, by byte offset, read for a hall. -/
def State.mgmtRead (s : State) (hall off : Nat) : W64 :=
  let h := s.host
  let a := s.arc
  if off = 0x0000 then w64 ((if a.en then 2 ^ 63 else 0) + a.pid % 256 * 256 + 3)
  else if off = 0x0008 then w64 (a.tmo % 2 ^ 32)
  else if 0x40 ≤ off && off < 0x80 then Tab.get a.lvl ((off - 0x40) / 8) 0
  else if 0x80 ≤ off && off < 0xA0 then s.deadWord hall ((off - 0x80) / 8)
  else if off = 0xA0 then a.impb
  else if off = 0xA8 then a.impn.setWidth 64
  else if off = 0xB0 then a.grpb
  else if off = 0xB8 then w64 (a.grpn % 512)
  else if off = 0xC0 then if a.iinvBusy then 1 else 0
  else if 0x100 ≤ off && off < 0x180 then (s.aport ((off - 0x100) / 8)).word
  else if off = 0x208 then h.rsvec
  else if off = 0x218 then h.rlroot.setWidth 64
  else if off = 0x220 then w64 ((if h.rlBusy then 2 ^ 63 else 0) + h.rlCause.code * 2 ^ 48 + h.rlHdl.toNat)
  else if off = 0x230 then h.sqtb
  else if off = 0x238 then if h.sqinvBusy then 1 else 0
  else if off = 0x240 then w64 (h.kslot % 256)
  else if off = 0x290 then w64 ((if h.kBusy.isSome then 2 ^ 63 else 0) + h.kres % 256)
  else if off = 0x298 then w64 (h.pwr % 4)
  else if off = 0x2A0 then w64 (h.tj % 256 * 256 + h.tst % 4)
  else if 0x400 ≤ off && off < 0x700 then Tab.get h.hapk ((off - 0x400) / 8) 0
  else if 0x1000 ≤ off && off < 0x1400 then
    let k := (off - 0x1000) / 16
    if off % 16 = 0 then s.wdcfg k
    else w64 (Tab.get h.nexp k 0 % 2 ^ 32 * 2 ^ 32 + (Tab.get h.stl k 0).toNat)
  else if 0x8000 ≤ off && off < 0x10000 then (s.ingress ((off - 0x8000) / 8)).bind
  else 0

/-- Bits h:l of a written value, at their places; the others are reserved and read zero (R8). -/
def keepBits (v : W64) (h l : Nat) : W64 := w64 (bitsN v h l * 2 ^ l)

/-- A count whose written value is below the least its field takes: which value it then has is not stated (log 4). -/
def State.atLeast (s : State) (lo v bits : Nat) : State × Nat := if v < lo then (s.drawn, s.free.toNat % 2 ^ bits) else (s, v)

/-- R403: a write of `wdcfg`. -/
def State.wdWrite (s : State) (k : Nat) (v : W64) : State :=
  let (s, n) := s.atLeast 800 (bitsN v 23 0) 24
  s.updHost fun h => { h with wdcfg := Tab.put h.wdcfg k (keepBits v 63 63 ||| keepBits v 55 32 ||| w64 n) }

/-- R127: a write to an arcade register. -/
def State.arcWrite (s : State) (off : Nat) (v : W64) : State :=
  let set (f : Arcade → Arcade) : State := { s with arc := f s.arc }
  if off = 0x0000 then set fun a => { a with en := bitB v 63, pid := bitsN v 15 8 }
  else if off = 0x0008 then
    let (s, n) := s.atLeast 800 (bitsN v 31 0) 32
    { s with arc := { s.arc with tmo := n } }
  else if 0x40 ≤ off && off < 0x80 then set fun a => { a with lvl := Tab.put a.lvl ((off - 0x40) / 8) v }
  else if 0x80 ≤ off && off < 0xA0 then s.deadWrite ((off - 0x80) / 8) v
  else if off = 0xA0 then set fun a => { a with impb := keepBits v 47 12 }
  else if off = 0xA8 then set fun a => { a with impn := v.setWidth 32 }
  else if off = 0xB0 then set fun a => { a with grpb := keepBits v 47 6 }
  else if off = 0xB8 then set fun a => { a with grpn := bitsN v 8 0 }
  else if off = 0xC0 then s.importInval
  else s

/-- R431, R433, R438: a write to the management window at a byte offset; `ide` says that it came from a landing core or in an IDE stream. -/
def State.mgmtWrite (s : State) (off : Nat) (v : W64) (ide : Bool) : State :=
  if off < 0x200 then s.arcWrite off v
  else if off = 0x200 then s.resyncWord v
  else if off = 0x208 then s.updHost fun h => { h with rsvec := keepBits v 63 63 ||| keepBits v 11 0 }
  else if off = 0x210 then if s.host.rlBusy then s else s.rootLaunch (keepBits v 55 0)
  else if off = 0x218 then s.updHost fun h => { h with rlroot := v.setWidth 37 }
  else if off = 0x228 then s.retireChannel v
  else if off = 0x230 then s.updHost fun h => { h with sqtb := keepBits v 47 5 }
  else if off = 0x238 then s.sinkInval
  else if off = 0x240 then s.updHost fun h => { h with kslot := bitsN v 7 0 }
  else if off = 0x248 then (if bitsN v 1 0 = 1 then s.keyLoad ide else if bitsN v 1 0 = 2 then s.keyClear else s)
  else if 0x250 ≤ off && off < 0x290 then
    let k := (off - 0x250) / 8
    s.updHost fun h => { h with kdata := Tab.put h.kdata k v, kdataOut := if ide then setDel h.kdataOut k else setIns h.kdataOut k }
  else if off = 0x298 then s.powerWrite (bitsN v 1 0)
  else if 0x400 ≤ off && off < 0x700 then s.updHost fun h => { h with hapk := Tab.put h.hapk ((off - 0x400) / 8) v }
  else if 0x1000 ≤ off && off < 0x1400 then if off % 16 = 0 then s.wdWrite ((off - 0x1000) / 16) v else s
  else if 0x8000 ≤ off && off < 0x10000 then s.bindWrite ((off - 0x8000) / 8) v
  else s

/-- R430: a host write of a double word in BAR 0. -/
def State.bar0Write (s : State) (off : Nat) (v : W64) (ide : Bool) : State :=
  if off % 8 != 0 then s
  else if off < 0x10000 then s.mgmtWrite off v ide
  else if 0x18000 ≤ off && off < 0x20000 then s.updHost fun h => { h with msixTab := Tab.put h.msixTab ((off - 0x18000) / 8) v }
  else s

/-- R92, R430: a host read of a double word in BAR 0; none where it completes with Unsupported Request. -/
def State.bar0Read (s : State) (off : Nat) : Option W64 :=
  if off % 8 != 0 then none
  else if off < 0x10000 then some (s.mgmtRead 0 off)
  else if off < 0x11000 then some (featWord ((off - 0x10000) / 8))
  else if 0x18000 ≤ off && off < 0x20000 then some (Tab.get s.host.msixTab ((off - 0x18000) / 8) 0)
  else some 0

/-- R439: what the device answers in its recovery state: the device information table. -/
def inInfo (bar off : Nat) : Bool := bar == 0 && 0x10000 ≤ off && off < 0x11000

/-- R92, R430, R434: a host read: of a double word of BAR 0, or of an ingress page in BAR 2. What it completes with is kept for the host. -/
def State.hostRead (s : State) (bar off : Nat) : State :=
  let (s, v) : State × Option W64 :=
    if bar = 0 then (s, s.bar0Read off)
    else
      let (t, v) := s.ingressRead (off / 4096 % 4096) (off % 4096)
      (t, some v)
  s.updHost fun h => { h with readback := some (match v with
    | some v => (leBytes 8 v.toNat, 0)
    | none => (zeros 8, 1)) }

/-! ### The memory aperture (R432) -/

/-- R432: the key slot of an HBM address through BAR 4. -/
def State.hostKey (s : State) (pa : Nat) : Nat := (Tab.get s.host.hapk (pa / 2 ^ 30 / 8) 0).toNat / 2 ^ (8 * (pa / 2 ^ 30 % 8)) % 256

/-- R432, R109, R110: a host read of up to 64 bytes within a line: bytes and how it completes. -/
def State.apertureRead (s : State) (pa n : Nat) : State × List Byte × Nat :=
  if spaceOf pa = .reserved then (s.logFault .range devSite pa true, zeros n, 1)
  else
    let bad := s.checkBad pa (s.hostKey pa)
    let r := s.edgeRead pa n (s.hostKey pa)
    let s := r.s.logAll devSite (r.logs ++ if bad then [(.check, pa)] else [])
    let s := if r.cause != .none then s.logFault r.cause devSite pa true else s
    (s, r.bytes, if r.poison || bad || r.cause != .none then 2 else 0)

/-- R432: a host write of up to 64 bytes within a line. -/
def State.apertureWrite (s : State) (pa : Nat) (bs : List Byte) : State :=
  let e := s.edgeWrite pa bs (s.hostKey pa)
  let s := e.s.logAll devSite e.logs
  if e.cause != .none then s.logFault e.cause devSite pa true else s

/-- R432: a host access through BAR 4: `val` is the offset, `aux` the bytes, 1–64 and within a line, with 128 added for a write, and `idx` the
bytes written, little-endian. -/
def execBar4Access (s : State) : Res :=
  let pa := bitsN s.focus.val 40 0
  let n := s.focus.aux % 128
  if n = 0 || 64 < pa % 64 + n then waits s
  else if s.focus.aux / 128 % 2 = 1 then .next (s.apertureWrite pa (leBytes n s.focus.idx))
  else
    let (s, bs, st) := s.apertureRead pa n
    .next (s.updHost fun h => { h with readback := some (bs, st) })

/-! ### Reset, temperature and power (R440) -/

/-- R440: the device at its reset state. Host memory is not the device's, and the order of the agents goes on. -/
def State.restart (s : State) : State :=
  { State.reset with
    agenda := s.agenda
    focus := s.focus
    fresh := s.fresh
    mem := { State.reset.mem with
      cells := s.mem.cells.filter fun (c : Nat × Byte) => spaceOf c.1 == .host
      pois := s.mem.pois.filter fun g => spaceOf (16 * g) == .host } }

/-- R440: the host asserts PERST#: the device is in its reset state and does nothing until the release. -/
def execPerstAssertion (s : State) : Res := .next (s.restart.updHost fun h => { h with perst := true, meas := [] })

/-- R440, R439: PERST# is released: the ROM is verified, HBM is trained, slot 0 gets its key, memory is zeroed and the link trained. With `aux`
1 an image fails its verification and the device stays in its recovery state. -/
def execBringUp (s : State) : Res :=
  if !s.host.perst then waits s
  else if s.focus.aux = 1 then .next (s.restart.updHost fun h => { h with recovery := true, meas := [] })
  else .next s.restart

/-- R440: the junction temperature, `idx`, reaches 105 °C. -/
def execThermalThrottle (s : State) : Res :=
  let t := s.focus.idx
  if s.host.tst = 0 && 105 ≤ t && t < 115 then .next (s.updHost fun h => { h with tj := t, tst := 1 }) else waits s
/-- R440: it falls below 100 °C. -/
def execThermalRecover (s : State) : Res :=
  let t := s.focus.idx
  if s.host.tst = 1 && t < 100 then .next (s.updHost fun h => { h with tj := t, tst := 0 }) else waits s
/-- R440: it reaches 115 °C. -/
def execThermalShutdown (s : State) : Res :=
  let t := s.focus.idx
  if s.host.tst != 2 && 115 ≤ t && t < 256 then .next (s.updHost fun h => { h with tj := t, tst := 2 }) else waits s
/-- R440: 1 ms after a shutdown has become pending, the device resets itself. -/
def execThermalReset (s : State) : Res := if s.host.tst = 2 then .next s.restart else waits s

/-- R440: the host moves the function to D3hot (`aux` 1) or to D0, and the power state follows. -/
def execPciePowerStateChange (s : State) : Res :=
  let d3 := s.focus.aux = 1
  .next ((s.updHost fun h => { h with d3hot := d3 }).powerWrite (if d3 then 2 else 0))

/-! ### Attestation (R439) -/

/-- R439: a request of SPDM over DOE is answered where the protocol has come far enough, else with an error response (0). -/
def spdmStep (s : State) (ready : Spdm → Bool) (code : Nat) (f : Spdm → Spdm) : Res :=
  .next (s.updHost fun h =>
    let p := h.spdm
    { h with spdm := if ready p then { f p with outbox := p.outbox ++ [code] } else { p with outbox := p.outbox ++ [0] } })

/-- R439: GET_VERSION opens a connection anew. -/
def execGetVersion (s : State) : Res :=
  spdmStep s (fun _ => true) 1 fun p => { p with version := true, caps := false, algs := false, session := false, secured := false }
def execGetCapabilities (s : State) : Res := spdmStep s (·.version) 2 fun p => { p with caps := true }
/-- R439: only ML-DSA-44 with SHA3-256 is negotiated; `aux` 1 says that the host offers both. -/
def execNegotiateAlgorithms (s : State) : Res := spdmStep s (fun p => p.caps && s.focus.aux = 1) 3 fun p => { p with algs := true }
def execGetDigests (s : State) : Res := spdmStep s (·.algs) 4 id
def execGetCertificate (s : State) : Res := spdmStep s (·.algs) 5 id
def execChallenge (s : State) : Res := spdmStep s (·.algs) 6 id
def execGetMeasurements (s : State) : Res := spdmStep s (·.algs) 7 id
def execKeyExchange (s : State) : Res := spdmStep s (·.algs) 8 fun p => { p with session := true }
def execFinish (s : State) : Res := spdmStep s (·.session) 9 fun p => { p with secured := true }
/-- R439: IDE keys are programmed within a secured session. -/
def execIdeKm (s : State) : Res := spdmStep s (·.secured) 10 fun p => { p with ide := true }

end Sys2Proof.Machine
end

