-- ==== Sys2Proof/Machine/Csr.lean ====
section
/-! DEFINITION. Control registers (R333, R334, R336, R356, R359): reading and writing each, and the traps of `csrr` and `csrw`. -/

namespace Sys2Proof.Machine

/-! ### Which registers there are (R336) -/

/-- R336: a number names a register. -/
def csrListed (n : Nat) : Bool :=
  n ≤ 0x02 || n = 0x08 || n = 0x09 || (0x10 ≤ n && n ≤ 0x21) || (0x30 ≤ n && n ≤ 0x33) || (0x80 ≤ n && n ≤ 0xC1)

/-- R336: a read at pl0 traps. -/
def csrReadPl1 (n : Nat) : Bool := n = 0x09 || (0x10 ≤ n && n ≤ 0x1F) || n = 0x30 || n = 0x31 || (0xA0 ≤ n && n ≤ 0xC1)
/-- R336: a write at pl0 traps. -/
def csrWritePl1 (n : Nat) : Bool := n = 0x08 || csrReadPl1 n || (0x80 ≤ n && n ≤ 0x9F)

/-! ### Reading -/

/-- R336 `hmsk`: the masks of a bay's handlers in a context. -/
def State.hmskWord (s : State) (h b c : Nat) : W64 :=
  let x := s.bayCtx h b c
  let hs := (s.cfg h b c).handlers
  w64 (((List.range 16).map fun i => if x.masked' (Tab.get hs i 0) i then 2 ^ i else 0).foldl (· + ·) 0)

/-- R336, R245: `sf` of a bay in a context; 0 where the bay is no S-bay. -/
def State.sfWord (s : State) (h b c : Nat) : W64 := if bayKind b = .s then (s.unit h b c).sf.setWidth 64 else 0

/-- R356 `barcfgN`; at pl0 the phase alone. -/
def Barrier.word (b : Barrier) (pl : Bool) : W64 :=
  w64 ((if pl then (if b.en then 2 ^ 63 else 0) + b.scope.toNat * 2 ^ 56 + b.home % 64 * 2 ^ 48 + b.cnt % 65536 * 2 ^ 32 else 0) + b.phase % 2 ^ 27)

/-- R333 `estat`. -/
def Thread.estat (t : Thread) : W64 := w64 ((if t.ie then 4 else 0) + (if t.ppl then 2 else 0) + (if t.pl then 1 else 0))

/-- R334, R335, R336: what a register reads as, for a thread; `tkpay` apart. -/
def State.csrValue (s : State) (h c n : Nat) : W64 :=
  let t := s.thr h c
  if n = 0x00 then w64 (h % 64 * 256 + s.logCtx h c % 4 * 64 + (if t.pl then 1 else 0))
  else if n = 0x01 then Tab.get s.cycle h 0
  else if n = 0x02 then t.instret
  else if n = 0x08 then t.rcbva
  else if n = 0x09 then t.lroot.setWidth 64
  else if n = 0x10 then t.estat
  else if n = 0x11 then t.epc
  else if n = 0x12 then t.ecause
  else if n = 0x13 then t.einfo
  else if n = 0x14 then t.ebase
  else if n = 0x15 then t.escr
  else if n = 0x16 then w64 t.reps.length
  else if 0x18 ≤ n && n ≤ 0x1F then w64 (bitsN (t.reps.headD 0) (64 * (n - 0x18) + 63) (64 * (n - 0x18)))
  else if n = 0x20 then (match t.toks with
    | [] => 0
    | k :: _ => w64 (2 ^ 63 + k.header))
  else if n = 0x30 then t.hmsel.setWidth 64
  else if n = 0x31 then s.hmskWord h t.hmsel.toNat c
  else if n = 0x32 then t.sfsel.setWidth 64
  else if n = 0x33 then s.sfWord h t.sfsel.toNat c
  else if 0x80 ≤ n && n ≤ 0x9F then (s.bar h (n - 0x80)).word t.pl
  else if 0xA0 ≤ n && n ≤ 0xBF then (s.bar h (n - 0xA0)).mask
  else if n = 0xC0 then t.mwsel
  else if n = 0xC1 then s.mgmtRead h (bitsN t.mwsel 15 3 * 8)
  else 0

/-- R335: a read of `tkpay`: the head token's payload and poison, and the thread without it. -/
def Thread.takeToken (t : Thread) : Reg64 × Thread :=
  match t.toks with
  | [] => ({}, t)
  | k :: rest => ({ v := k.payload, poison := k.kind == .data && k.poison }, { t with toks := rest, tokChans := t.tokChans.drop 1 })

/-- R335: the head token's payload goes to a register (`idx`) of the focused thread, and the token leaves. -/
def execTkpay (s : State) : Res :=
  let (v, t) := s.me.takeToken
  .next (s.setMe (t.wx (BitVec.ofNat 5 s.focus.idx) v.v v.poison))

/-- R359 `csrr`. -/
def execCsrr (d : BitVec 5) (csr : BitVec 8) (s : State) : Res :=
  let n := csr.toNat
  let t := s.me
  if !csrListed n then illegalRes s (.csrr d csr)
  else if csrReadPl1 n && !t.pl then trapRes s .prot
  else if n = 0x31 && t.hmOut.any (fun p => p.1 == t.hmsel.toNat) then waits s
  else if n = 0x21 then
    let (v, t) := t.takeToken
    .next (s.setMe (t.wx d v.v v.poison).next)
  else
    let v := s.csrValue s.focus.hall s.focus.ctx n
    retire s fun t => t.wx d v

/-! ### Writing -/

/-- R336, R380: the masks of a bay's handlers change in a context. A handler that is unmasked becomes eligible anew and keeps its wait count. -/
def State.writeHmsk (s : State) (h b c : Nat) (m : W64) : State :=
  let x := s.bayCtx h b c
  let hs := (s.cfg h b c).handlers
  let off (i : Nat) : Bool := x.masked' (Tab.get hs i 0) i && !bitB m i
  let since := (List.range 16).foldl (fun t i => if off i && (Tab.find t i).isSome then Tab.put t i x.selCnt else t) x.since
  s.setBayCtx h b c { x with msk := some (m.setWidth 16), since := since, selCnt := x.selCnt + 1 }

/-- R336: the oldest write of `hmsk` of the focused thread reaches its bay. -/
def execHmskWrite (s : State) : Res :=
  match s.me.hmOut with
  | [] => waits s
  | (b, m) :: rest => .next ((s.setMe { s.me with hmOut := rest }).writeHmsk s.focus.hall b s.focus.ctx m)

/-- R336: a write of `sfrd` clears the flags set in the written value. -/
def State.clearSf (s : State) (h b c : Nat) (v : W64) : State :=
  if bayKind b != .s then s
  else
    let u := s.unit h b c
    s.setUnit h b c { u with sf := u.sf &&& ~~~(v.setWidth 6) }

/-- R336: `sfrd` of the S-bay that the focused thread selects is written. -/
def execSfrdWrite (s : State) : Res := .next (s.clearSf s.focus.hall s.me.sfsel.toNat s.focus.ctx s.focus.val)

/-- R356: a word for `barcfgN` is refused, given the members. -/
def barcfgBad (h : Nat) (v mask : W64) : Bool :=
  let scope := bitsN v 58 56
  let home := bitsN v 53 48
  let cnt := bitsN v 47 32
  let outside (f : Nat → Bool) : Bool := !f home || (List.range 64).any fun k => bitB mask k && !f k
  bitB v 63 && (scope = 0 || 3 < scope || cnt = 0 || 4096 < cnt || (scope = 1 && outside (· == h)) ||
    (scope = 2 && outside fun k => k / 16 == h / 16) || !bitB mask h || !bitB mask home)

/-- R356, R448: `barcfgN` of a hall is written: the phase is 0, the home's counts are cleared (unless the home runs the barrier without this hall,
R2, log 53), and every context's arrival counter is invalid. -/
def State.writeBarcfg (s : State) (h n : Nat) (v : W64) : State :=
  let home := bitsN v 53 48
  let b := s.bar h n
  let s := s.setBar h n { b with en := bitB v 63, scope := BitVec.ofNat 3 (bitsN v 58 56), home := home, cnt := bitsN v 47 32, phase := 0, count := [] }
  let s := if !(s.bar home n).en || (s.bar home n).joins home h then s.setBar home n { s.bar home n with count := [] } else s
  { s with threads := s.threads.map fun (p : Nat × Thread) => (p.1, if p.1 / 4 = h then { p.2 with own := Tab.del p.2.own n } else p.2) }

/-- R356: `barcfg` `idx` of the focused hall is written; a word that breaks the rules of R356 is refused. -/
def execBarcfgWrite (s : State) : Res :=
  let n := s.focus.idx % 32
  let h := s.focus.hall
  if barcfgBad h s.focus.val (s.bar h n).mask then trapRes s .illegal else .next (s.writeBarcfg h n s.focus.val)

/-- R333, R336: the thread's own registers. -/
def Thread.writeCsr (t : Thread) (n : Nat) (v : W64) : Thread :=
  if n = 0x08 then { t with rcbva := keepBits v 55 0 }
  else if n = 0x09 then { t with lroot := v.setWidth 37 }
  else if n = 0x10 then { t with ie := bitB v 2, ppl := bitB v 1 }
  else if n = 0x11 then { t with epc := keepBits v 55 0 }
  else if n = 0x12 then { t with ecause := keepBits v 63 62 ||| keepBits v 15 0 }
  else if n = 0x13 then { t with einfo := v }
  else if n = 0x14 then { t with ebase := keepBits v 55 2 }
  else if n = 0x15 then { t with escr := v }
  else if n = 0x30 then { t with hmsel := v.setWidth 6 }
  else if n = 0x32 then { t with sfsel := v.setWidth 6 }
  else if n = 0xC0 then { t with mwsel := keepBits v 15 3 }
  else t

/-- R336: the effect of writing a register of a thread; read-only registers ignore it. -/
def State.writeCsr (s : State) (h c n : Nat) (v : W64) : State :=
  let t := s.thr h c
  if n = 0x17 then s.popReport h c
  else if n = 0x31 then s.setThr h c { t with hmOut := t.hmOut ++ [(t.hmsel.toNat, v)] }
  else if n = 0x33 then s.clearSf h t.sfsel.toNat c v
  else if 0x80 ≤ n && n ≤ 0x9F then s.writeBarcfg h (n - 0x80) v
  else if 0xA0 ≤ n && n ≤ 0xBF then s.setBar h (n - 0xA0) { s.bar h (n - 0xA0) with mask := v }
  else if n = 0xC1 then s.mgmtWrite (bitsN t.mwsel 15 3 * 8) v true
  else s.setThr h c (t.writeCsr n v)

/-- R336, R430: a register that has no row of its own is written: register `idx` of the focused thread, or, with `aux` 1, the double word at
offset `idx` of BAR 0, by the host. -/
def execRegisterWrite (s : State) : Res :=
  if s.focus.aux = 1 then .next (s.bar0Write s.focus.idx s.focus.val false)
  else if [0x17, 0x31, 0x33].contains s.focus.idx || (0x80 ≤ s.focus.idx && s.focus.idx ≤ 0x9F) then waits s
  else .next (s.writeCsr s.focus.hall s.focus.ctx s.focus.idx s.focus.val)

/-- R336: the cause for which a write of a register is refused. -/
def State.csrRefuses (s : State) (h n : Nat) (v : W64) : Cause :=
  if n = 0x30 && bayKind (bitsN v 5 0) != .a then .range
  else if n = 0x32 && bayKind (bitsN v 5 0) != .s then .range
  else if 0x80 ≤ n && n ≤ 0x9F && barcfgBad h v (s.bar h (n - 0x80)).mask then .illegal
  else .none

/-- R359 `csrw`. -/
def execCsrw (a : BitVec 5) (csr : BitVec 8) (s : State) : Res :=
  let n := csr.toNat
  let t := s.me
  let v := (t.rx a).v
  if !csrListed n then illegalRes s (.csrw a csr)
  else if csrWritePl1 n && !t.pl then trapRes s .prot
  else if (t.rx a).poison then trapRes s .poisonuse
  else match s.csrRefuses s.focus.hall n v with
    | .none =>
      let s := s.writeCsr s.focus.hall s.focus.ctx n v
      retire s id
    | .illegal => illegalRes s (.csrw a csr)
    | c => trapRes s c

/-! ### Words that are no instruction (R78) -/

/-- R78, R333: a fetched word (`val`) that no instruction has traps with `illegal`, the word in `einfo`. -/
def execIllegalInstruction (s : State) : Res := trapRes s .illegal s.focus.val

end Sys2Proof.Machine
end

