-- ==== Sys2Proof/Machine/Dispatch.lean ====
section
/-! DEFINITION. One arm for every instruction and event of the opcode table. -/

namespace Sys2Proof.Machine

def exec (i : Instr) (s : State) : Host.Outcome State Fault Refusal :=
  match i with
  | .add d a b => Sys2Proof.Machine.execAdd d a b s
  | .sub d a b => Sys2Proof.Machine.execSub d a b s
  | .and d a b => Sys2Proof.Machine.execAnd d a b s
  | .or d a b => Sys2Proof.Machine.execOr d a b s
  | .xor d a b => Sys2Proof.Machine.execXor d a b s
  | .shl d a b => Sys2Proof.Machine.execShl d a b s
  | .shr d a b => Sys2Proof.Machine.execShr d a b s
  | .sra d a b => Sys2Proof.Machine.execSra d a b s
  | .mul d a b => Sys2Proof.Machine.execMul d a b s
  | .mulh d a b => Sys2Proof.Machine.execMulh d a b s
  | .mulhN d a b => Sys2Proof.Machine.execMulhN d a b s
  | .div d a b => Sys2Proof.Machine.execDiv d a b s
  | .divN d a b => Sys2Proof.Machine.execDivN d a b s
  | .rem d a b => Sys2Proof.Machine.execRem d a b s
  | .remN d a b => Sys2Proof.Machine.execRemN d a b s
  | .slt d a b => Sys2Proof.Machine.execSlt d a b s
  | .sltN d a b => Sys2Proof.Machine.execSltN d a b s
  | .min d a b => Sys2Proof.Machine.execMin d a b s
  | .max d a b => Sys2Proof.Machine.execMax d a b s
  | .minN d a b => Sys2Proof.Machine.execMinN d a b s
  | .maxN d a b => Sys2Proof.Machine.execMaxN d a b s
  | .clz d a => Sys2Proof.Machine.execClz d a s
  | .popc d a => Sys2Proof.Machine.execPopc d a s
  | .addi d a imm => Sys2Proof.Machine.execAddi d a imm s
  | .andi d a imm => Sys2Proof.Machine.execAndi d a imm s
  | .ori d a imm => Sys2Proof.Machine.execOri d a imm s
  | .xori d a imm => Sys2Proof.Machine.execXori d a imm s
  | .slti d a imm => Sys2Proof.Machine.execSlti d a imm s
  | .sltiN d a imm => Sys2Proof.Machine.execSltiN d a imm s
  | .shli d a s' => Sys2Proof.Machine.execShli d a s' s
  | .shri d a s' => Sys2Proof.Machine.execShri d a s' s
  | .srai d a s' => Sys2Proof.Machine.execSrai d a s' s
  | .lui d imm => Sys2Proof.Machine.execLui d imm s
  | .luh d a imm => Sys2Proof.Machine.execLuh d a imm s
  | .luhh d a imm => Sys2Proof.Machine.execLuhh d a imm s
  | .ldI8 d a imm => Sys2Proof.Machine.execLdI8 d a imm s
  | .ldN8 d a imm => Sys2Proof.Machine.execLdN8 d a imm s
  | .ldI16 d a imm => Sys2Proof.Machine.execLdI16 d a imm s
  | .ldN16 d a imm => Sys2Proof.Machine.execLdN16 d a imm s
  | .ldI32 d a imm => Sys2Proof.Machine.execLdI32 d a imm s
  | .ldN32 d a imm => Sys2Proof.Machine.execLdN32 d a imm s
  | .ld64 d a imm => Sys2Proof.Machine.execLd64 d a imm s
  | .st8 a b imm => Sys2Proof.Machine.execSt8 a b imm s
  | .st16 a b imm => Sys2Proof.Machine.execSt16 a b imm s
  | .st32 a b imm => Sys2Proof.Machine.execSt32 a b imm s
  | .st64 a b imm => Sys2Proof.Machine.execSt64 a b imm s
  | .ldAcq d a size scope sx => Sys2Proof.Machine.execLdAcq d a size scope sx s
  | .stRel a b size scope => Sys2Proof.Machine.execStRel a b size scope s
  | .ldSync d a size clr sx => Sys2Proof.Machine.execLdSync d a size clr sx s
  | .ldSyncAcq d a size scope clr sx => Sys2Proof.Machine.execLdSyncAcq d a size scope clr sx s
  | .ldm d a n => Sys2Proof.Machine.execLdm d a n s
  | .stm d a n => Sys2Proof.Machine.execStm d a n s
  | .amo d a b dbl scope order op => Sys2Proof.Machine.execAmo d a b dbl scope order op s
  | .cas d a b dbl scope order => Sys2Proof.Machine.execCas d a b dbl scope order s
  | .fence scope => Sys2Proof.Machine.execFence scope s
  | .br imm => Sys2Proof.Machine.execBr imm s
  | .call imm => Sys2Proof.Machine.execCall imm s
  | .jl d a imm => Sys2Proof.Machine.execJl d a imm s
  | .setp p cond a b => Sys2Proof.Machine.execSetp p cond a b s
  | .setpi p cond a imm => Sys2Proof.Machine.execSetpi p cond a imm s
  | .bp p sense imm => Sys2Proof.Machine.execBp p sense imm s
  | .plog p op pa pb => Sys2Proof.Machine.execPlog p op pa pb s
  | .cmov c quarter a imm => Sys2Proof.Machine.execCmov c quarter a imm s
  | .cld c a imm => Sys2Proof.Machine.execCld c a imm s
  | .cst c a imm => Sys2Proof.Machine.execCst c a imm s
  | .issue c a => Sys2Proof.Machine.execIssue c a s
  | .cstat a wait => Sys2Proof.Machine.execCstat a wait s
  | .shape d a b kind => Sys2Proof.Machine.execShape d a b kind s
  | .shrd d sh clr f => Sys2Proof.Machine.execShrd d sh clr f s
  | .watch m a => Sys2Proof.Machine.execWatch m a s
  | .mwait d a => Sys2Proof.Machine.execMwait d a s
  | .unwatch m => Sys2Proof.Machine.execUnwatch m s
  | .arrive d n => Sys2Proof.Machine.execArrive d n s
  | .await a => Sys2Proof.Machine.execAwait a s
  | .launch d a b => Sys2Proof.Machine.execLaunch d a b s
  | .lwait d a => Sys2Proof.Machine.execLwait d a s
  | .csrr d csr => Sys2Proof.Machine.execCsrr d csr s
  | .csrw a csr => Sys2Proof.Machine.execCsrw a csr s
  | .feat d n => Sys2Proof.Machine.execFeat d n s
  | .trap code => Sys2Proof.Machine.execTrap code s
  | .eret => Sys2Proof.Machine.execEret s
  | .invalTlb => Sys2Proof.Machine.execInvalTlb s
  | .invalTlbva a => Sys2Proof.Machine.execInvalTlbva a s
  | .invalIcache => Sys2Proof.Machine.execInvalIcache s
  | .invalIline a => Sys2Proof.Machine.execInvalIline a s
  | .wfi => Sys2Proof.Machine.execWfi s
  | .reportTrap => Sys2Proof.Machine.execReportTrap s
  | .bayAddI32 t u f => Sys2Proof.Machine.execBayAddI32 t u f s
  | .baySubI32 t u f => Sys2Proof.Machine.execBaySubI32 t u f s
  | .bayAddsI32 t u f => Sys2Proof.Machine.execBayAddsI32 t u f s
  | .baySubsI32 t u f => Sys2Proof.Machine.execBaySubsI32 t u f s
  | .bayAddsN32 t u f => Sys2Proof.Machine.execBayAddsN32 t u f s
  | .baySubsN32 t u f => Sys2Proof.Machine.execBaySubsN32 t u f s
  | .bayMulI32 t u f => Sys2Proof.Machine.execBayMulI32 t u f s
  | .bayMulhI32 t u f => Sys2Proof.Machine.execBayMulhI32 t u f s
  | .bayMulhN32 t u f => Sys2Proof.Machine.execBayMulhN32 t u f s
  | .bayMinI32 t u f => Sys2Proof.Machine.execBayMinI32 t u f s
  | .bayMaxI32 t u f => Sys2Proof.Machine.execBayMaxI32 t u f s
  | .bayMinN32 t u f => Sys2Proof.Machine.execBayMinN32 t u f s
  | .bayMaxN32 t u f => Sys2Proof.Machine.execBayMaxN32 t u f s
  | .bayAnd t u f => Sys2Proof.Machine.execBayAnd t u f s
  | .bayOr t u f => Sys2Proof.Machine.execBayOr t u f s
  | .bayXor t u f => Sys2Proof.Machine.execBayXor t u f s
  | .bayShl t u f => Sys2Proof.Machine.execBayShl t u f s
  | .bayShr t u f => Sys2Proof.Machine.execBayShr t u f s
  | .baySra t u f => Sys2Proof.Machine.execBaySra t u f s
  | .bayCmpI32 t u f => Sys2Proof.Machine.execBayCmpI32 t u f s
  | .bayCmpN32 t u f => Sys2Proof.Machine.execBayCmpN32 t u f s
  | .bayClz t u f => Sys2Proof.Machine.execBayClz t u f s
  | .bayPopc t u f => Sys2Proof.Machine.execBayPopc t u f s
  | .baySel t u f => Sys2Proof.Machine.execBaySel t u f s
  | .bayAddFp32 t u f => Sys2Proof.Machine.execBayAddFp32 t u f s
  | .baySubFp32 t u f => Sys2Proof.Machine.execBaySubFp32 t u f s
  | .bayMulFp32 t u f => Sys2Proof.Machine.execBayMulFp32 t u f s
  | .bayDivFp32 t u f => Sys2Proof.Machine.execBayDivFp32 t u f s
  | .baySqrtFp32 t u f => Sys2Proof.Machine.execBaySqrtFp32 t u f s
  | .bayMinFp32 t u f => Sys2Proof.Machine.execBayMinFp32 t u f s
  | .bayMaxFp32 t u f => Sys2Proof.Machine.execBayMaxFp32 t u f s
  | .bayCmpFp32 t u f => Sys2Proof.Machine.execBayCmpFp32 t u f s
  | .bayRcpFp32 t u f => Sys2Proof.Machine.execBayRcpFp32 t u f s
  | .bayRsqrtFp32 t u f => Sys2Proof.Machine.execBayRsqrtFp32 t u f s
  | .bayExp2Fp32 t u f => Sys2Proof.Machine.execBayExp2Fp32 t u f s
  | .bayLog2Fp32 t u f => Sys2Proof.Machine.execBayLog2Fp32 t u f s
  | .bayCvtFp32I32 t u f => Sys2Proof.Machine.execBayCvtFp32I32 t u f s
  | .bayCvtI32Fp32 t u f => Sys2Proof.Machine.execBayCvtI32Fp32 t u f s
  | .bayCvtFp32N32 t u f => Sys2Proof.Machine.execBayCvtFp32N32 t u f s
  | .bayCvtN32Fp32 t u f => Sys2Proof.Machine.execBayCvtN32Fp32 t u f s
  | .bayCvtBf16Fp32 t u f => Sys2Proof.Machine.execBayCvtBf16Fp32 t u f s
  | .bayCvtFp16Fp32 t u f => Sys2Proof.Machine.execBayCvtFp16Fp32 t u f s
  | .bayCvtFp32Bf16 t u f => Sys2Proof.Machine.execBayCvtFp32Bf16 t u f s
  | .bayCvtFp32Fp16 t u f => Sys2Proof.Machine.execBayCvtFp32Fp16 t u f s
  | .bayCvtmx t u f => Sys2Proof.Machine.execBayCvtmx t u f s
  | .bayVshape t u f => Sys2Proof.Machine.execBayVshape t u f s
  | .bayVaddI32 t u f => Sys2Proof.Machine.execBayVaddI32 t u f s
  | .bayVmulI32 t u f => Sys2Proof.Machine.execBayVmulI32 t u f s
  | .bayVaddFp32 t u f => Sys2Proof.Machine.execBayVaddFp32 t u f s
  | .bayVsubFp32 t u f => Sys2Proof.Machine.execBayVsubFp32 t u f s
  | .bayVmulFp32 t u f => Sys2Proof.Machine.execBayVmulFp32 t u f s
  | .bayVminFp32 t u f => Sys2Proof.Machine.execBayVminFp32 t u f s
  | .bayVmaxFp32 t u f => Sys2Proof.Machine.execBayVmaxFp32 t u f s
  | .bayVaddBf16 t u f => Sys2Proof.Machine.execBayVaddBf16 t u f s
  | .bayVmulBf16 t u f => Sys2Proof.Machine.execBayVmulBf16 t u f s
  | .bayVaddFp16 t u f => Sys2Proof.Machine.execBayVaddFp16 t u f s
  | .bayVmulFp16 t u f => Sys2Proof.Machine.execBayVmulFp16 t u f s
  | .bayVaddI8 t u f => Sys2Proof.Machine.execBayVaddI8 t u f s
  | .bayVaddI16 t u f => Sys2Proof.Machine.execBayVaddI16 t u f s
  | .bayVcmpFp32 t u f => Sys2Proof.Machine.execBayVcmpFp32 t u f s
  | .bayVsel t u f => Sys2Proof.Machine.execBayVsel t u f s
  | .bayVbcast t u f => Sys2Proof.Machine.execBayVbcast t u f s
  | .bayVext t u f => Sys2Proof.Machine.execBayVext t u f s
  | .bayVins t u f => Sys2Proof.Machine.execBayVins t u f s
  | .bayVperm t u f => Sys2Proof.Machine.execBayVperm t u f s
  | .bayVcvt t u f => Sys2Proof.Machine.execBayVcvt t u f s
  | .bayVput t u f => Sys2Proof.Machine.execBayVput t u f s
  | .bayVget t u f => Sys2Proof.Machine.execBayVget t u f s
  | .bayDot t u f => Sys2Proof.Machine.execBayDot t u f s
  | .bayDots t u f => Sys2Proof.Machine.execBayDots t u f s
  | .bayLacc t u f => Sys2Proof.Machine.execBayLacc t u f s
  | .bayLvacc t u f => Sys2Proof.Machine.execBayLvacc t u f s
  | .bayLanchor t u f => Sys2Proof.Machine.execBayLanchor t u f s
  | .bayLclr t u f => Sys2Proof.Machine.execBayLclr t u f s
  | .bayLread t u f => Sys2Proof.Machine.execBayLread t u f s
  | .bayLraw t u f => Sys2Proof.Machine.execBayLraw t u f s
  | .bayLd t u f => Sys2Proof.Machine.execBayLd t u f s
  | .baySt t u f => Sys2Proof.Machine.execBaySt t u f s
  | .bayLdSync t u f => Sys2Proof.Machine.execBayLdSync t u f s
  | .bayVld t u f => Sys2Proof.Machine.execBayVld t u f s
  | .bayVst t u f => Sys2Proof.Machine.execBayVst t u f s
  | .bayVgather t u f => Sys2Proof.Machine.execBayVgather t u f s
  | .bayAmo t u f => Sys2Proof.Machine.execBayAmo t u f s
  | .bayLut t u f => Sys2Proof.Machine.execBayLut t u f s
  | .bayLutst t u f => Sys2Proof.Machine.execBayLutst t u f s
  | .bayLutrd t u f => Sys2Proof.Machine.execBayLutrd t u f s
  | .baySteer t u f => Sys2Proof.Machine.execBaySteer t u f s
  | .bayMerge t u f => Sys2Proof.Machine.execBayMerge t u f s
  | .bayLoop t u f => Sys2Proof.Machine.execBayLoop t u f s
  | .bayLoopt t u f => Sys2Proof.Machine.execBayLoopt t u f s
  | .baySend x => Sys2Proof.Machine.execBaySend x s
  | .bayRecv t u f => Sys2Proof.Machine.execBayRecv t u f s
  | .bayBr x => Sys2Proof.Machine.execBayBr x s
  | .bayLaunch t u f => Sys2Proof.Machine.execBayLaunch t u f s
  | .bayIspois t u f => Sys2Proof.Machine.execBayIspois t u f s
  | .blockRetire => Sys2Proof.Machine.execBlockRetire s
  | .handlerSelect => Sys2Proof.Machine.execHandlerSelect s
  | .controlTokenTake => Sys2Proof.Machine.execControlTokenTake s
  | .linkTokenArrival => Sys2Proof.Machine.execLinkTokenArrival s
  | .returnLaneToken => Sys2Proof.Machine.execReturnLaneToken s
  | .gallopProbeReturn => Sys2Proof.Machine.execGallopProbeReturn s
  | .scanReference => Sys2Proof.Machine.execScanReference s
  | .isectStep => Sys2Proof.Machine.execIsectStep s
  | .unionStep => Sys2Proof.Machine.execUnionStep s
  | .sbayBarrier => Sys2Proof.Machine.execSbayBarrier s
  | .repeatToken => Sys2Proof.Machine.execRepeatToken s
  | .reduceToken => Sys2Proof.Machine.execReduceToken s
  | .selectToken => Sys2Proof.Machine.execSelectToken s
  | .partToken => Sys2Proof.Machine.execPartToken s
  | .lwriteToken => Sys2Proof.Machine.execLwriteToken s
  | .lwriteHeadEntry => Sys2Proof.Machine.execLwriteHeadEntry s
  | .bumpRequest => Sys2Proof.Machine.execBumpRequest s
  | .translateRequest => Sys2Proof.Machine.execTranslateRequest s
  | .pageTableWalk => Sys2Proof.Machine.execPageTableWalk s
  | .pageReady => Sys2Proof.Machine.execPageReady s
  | .shootdownDrainArrival => Sys2Proof.Machine.execShootdownDrainArrival s
  | .stairElementIssue => Sys2Proof.Machine.execStairElementIssue s
  | .stairWindowAnswer => Sys2Proof.Machine.execStairWindowAnswer s
  | .stairLineReturn => Sys2Proof.Machine.execStairLineReturn s
  | .stairWriteAck => Sys2Proof.Machine.execStairWriteAck s
  | .stairTokenArrival => Sys2Proof.Machine.execStairTokenArrival s
  | .fenceRelease => Sys2Proof.Machine.execFenceRelease s
  | .memoryPortDone => Sys2Proof.Machine.execMemoryPortDone s
  | .commandStart => Sys2Proof.Machine.execCommandStart s
  | .commandRetire => Sys2Proof.Machine.execCommandRetire s
  | .bind port ctx cls flags imm addr => Sys2Proof.Machine.execBind port ctx cls flags imm addr s
  | .bindResume port ctx cls flags imm addr => Sys2Proof.Machine.execBindResume port ctx cls flags imm addr s
  | .bindResumeSkip port ctx cls flags imm addr => Sys2Proof.Machine.execBindResumeSkip port ctx cls flags imm addr s
  | .bindAbandon port ctx cls flags imm addr => Sys2Proof.Machine.execBindAbandon port ctx cls flags imm addr s
  | .copy port ctx cls flags imm addr => Sys2Proof.Machine.execCopy port ctx cls flags imm addr s
  | .fill port ctx cls flags imm addr => Sys2Proof.Machine.execFill port ctx cls flags imm addr s
  | .gather port ctx cls flags imm addr => Sys2Proof.Machine.execGather port ctx cls flags imm addr s
  | .scatter port ctx cls flags imm addr => Sys2Proof.Machine.execScatter port ctx cls flags imm addr s
  | .rdfor port ctx cls flags imm addr => Sys2Proof.Machine.execRdfor port ctx cls flags imm addr s
  | .rwin port ctx cls flags imm addr => Sys2Proof.Machine.execRwin port ctx cls flags imm addr s
  | .rwclose port ctx cls flags imm addr => Sys2Proof.Machine.execRwclose port ctx cls flags imm addr s
  | .ramo port ctx cls flags imm addr => Sys2Proof.Machine.execRamo port ctx cls flags imm addr s
  | .rred port ctx cls flags imm addr => Sys2Proof.Machine.execRred port ctx cls flags imm addr s
  | .rredReadout port ctx cls flags imm addr => Sys2Proof.Machine.execRredReadout port ctx cls flags imm addr s
  | .marker port ctx cls flags imm addr => Sys2Proof.Machine.execMarker port ctx cls flags imm addr s
  | .round port ctx cls flags imm addr => Sys2Proof.Machine.execRound port ctx cls flags imm addr s
  | .drain port ctx cls flags imm addr => Sys2Proof.Machine.execDrain port ctx cls flags imm addr s
  | .cfgload port ctx cls flags imm addr => Sys2Proof.Machine.execCfgload port ctx cls flags imm addr s
  | .cfgswitch port ctx cls flags imm addr => Sys2Proof.Machine.execCfgswitch port ctx cls flags imm addr s
  | .snapshot port ctx cls flags imm addr => Sys2Proof.Machine.execSnapshot port ctx cls flags imm addr s
  | .sfence port ctx cls flags imm addr => Sys2Proof.Machine.execSfence port ctx cls flags imm addr s
  | .inject port ctx cls flags imm addr => Sys2Proof.Machine.execInject port ctx cls flags imm addr s
  | .collect port ctx cls flags imm addr => Sys2Proof.Machine.execCollect port ctx cls flags imm addr s
  | .sink port ctx cls flags imm addr => Sys2Proof.Machine.execSink port ctx cls flags imm addr s
  | .shoot port ctx cls flags imm addr => Sys2Proof.Machine.execShoot port ctx cls flags imm addr s
  | .tload port ctx cls flags imm addr => Sys2Proof.Machine.execTload port ctx cls flags imm addr s
  | .prefetch port ctx cls flags imm addr => Sys2Proof.Machine.execPrefetch port ctx cls flags imm addr s
  | .nop port ctx cls flags imm addr => Sys2Proof.Machine.execNop port ctx cls flags imm addr s
  | .portwait port ctx cls flags imm addr => Sys2Proof.Machine.execPortwait port ctx cls flags imm addr s
  | .sinkCountZero => Sys2Proof.Machine.execSinkCountZero s
  | .bankRequestServe => Sys2Proof.Machine.execBankRequestServe s
  | .parkedReadServe => Sys2Proof.Machine.execParkedReadServe s
  | .mbankApply => Sys2Proof.Machine.execMbankApply s
  | .mportTokenArrival => Sys2Proof.Machine.execMportTokenArrival s
  | .tlook key => Sys2Proof.Machine.execTlook key s
  | .tfill key => Sys2Proof.Machine.execTfill key s
  | .tevict slot => Sys2Proof.Machine.execTevict slot s
  | .tpin slot => Sys2Proof.Machine.execTpin slot s
  | .tunpin slot => Sys2Proof.Machine.execTunpin slot s
  | .tdirty slot => Sys2Proof.Machine.execTdirty slot s
  | .tread slot => Sys2Proof.Machine.execTread slot s
  | .updateToken => Sys2Proof.Machine.execUpdateToken s
  | .updateWindowExpiry => Sys2Proof.Machine.execUpdateWindowExpiry s
  | .memoryEdgeAccess => Sys2Proof.Machine.execMemoryEdgeAccess s
  | .galleryCrossing => Sys2Proof.Machine.execGalleryCrossing s
  | .galleryMarker => Sys2Proof.Machine.execGalleryMarker s
  | .gclaim mask accm => Sys2Proof.Machine.execGclaim mask accm s
  | .gclaimGrant => Sys2Proof.Machine.execGclaimGrant s
  | .grelease mask accm => Sys2Proof.Machine.execGrelease mask accm s
  | .greleaseExecute => Sys2Proof.Machine.execGreleaseExecute s
  | .gbslotB slot => Sys2Proof.Machine.execGbslotB slot s
  | .gbslotA slot rows arow0 keep => Sys2Proof.Machine.execGbslotA slot rows arow0 keep s
  | .gshape kreq nreq => Sys2Proof.Machine.execGshape kreq nreq s
  | .ganchor anchor => Sys2Proof.Machine.execGanchor anchor s
  | .gclear row0 n => Sys2Proof.Machine.execGclear row0 n s
  | .gclearExecute => Sys2Proof.Machine.execGclearExecute s
  | .grdfmt fmt rm clr => Sys2Proof.Machine.execGrdfmt fmt rm clr s
  | .gdrain row0 n dmask tag => Sys2Proof.Machine.execGdrain row0 n dmask tag s
  | .gdrainExecute => Sys2Proof.Machine.execGdrainExecute s
  | .gsteer smask => Sys2Proof.Machine.execGsteer smask s
  | .groute entry gk lrow ochan eot q goff rstr => Sys2Proof.Machine.execGroute entry gk lrow ochan eot q goff rstr s
  | .gfmt afmt bfmt => Sys2Proof.Machine.execGfmt afmt bfmt s
  | .gscale sslot soff => Sys2Proof.Machine.execGscale sslot soff s
  | .gfence entry tag => Sys2Proof.Machine.execGfence entry tag s
  | .gfenceExecute => Sys2Proof.Machine.execGfenceExecute s
  | .gstatus entry sel clr => Sys2Proof.Machine.execGstatus entry sel clr s
  | .gstatusExecute => Sys2Proof.Machine.execGstatusExecute s
  | .operandLineWrite => Sys2Proof.Machine.execOperandLineWrite s
  | .galleryRowFire => Sys2Proof.Machine.execGalleryRowFire s
  | .flitReceive => Sys2Proof.Machine.execFlitReceive s
  | .laneFailure => Sys2Proof.Machine.execLaneFailure s
  | .portRetrained => Sys2Proof.Machine.execPortRetrained s
  | .rreq => Sys2Proof.Machine.execRreq s
  | .wreq => Sys2Proof.Machine.execWreq s
  | .areq => Sys2Proof.Machine.execAreq s
  | .cred => Sys2Proof.Machine.execCred s
  | .rresp => Sys2Proof.Machine.execRresp s
  | .wack => Sys2Proof.Machine.execWack s
  | .rdreq => Sys2Proof.Machine.execRdreq s
  | .rdwr => Sys2Proof.Machine.execRdwr s
  | .rdsent => Sys2Proof.Machine.execRdsent s
  | .rdflt => Sys2Proof.Machine.execRdflt s
  | .rdack => Sys2Proof.Machine.execRdack s
  | .gack => Sys2Proof.Machine.execGack s
  | .wabort => Sys2Proof.Machine.execWabort s
  | .reservedPacketDiscard => Sys2Proof.Machine.execReservedPacketDiscard s
  | .sourceTimeout => Sys2Proof.Machine.execSourceTimeout s
  | .deadPeerBroadcast => Sys2Proof.Machine.execDeadPeerBroadcast s
  | .rdforTimeout => Sys2Proof.Machine.execRdforTimeout s
  | .launchToken => Sys2Proof.Machine.execLaunchToken s
  | .placement => Sys2Proof.Machine.execPlacement s
  | .switchMarker => Sys2Proof.Machine.execSwitchMarker s
  | .switchCompletion => Sys2Proof.Machine.execSwitchCompletion s
  | .regionCompletion => Sys2Proof.Machine.execRegionCompletion s
  | .swapStart => Sys2Proof.Machine.execSwapStart s
  | .drainArrival => Sys2Proof.Machine.execDrainArrival s
  | .saveComplete => Sys2Proof.Machine.execSaveComplete s
  | .restore => Sys2Proof.Machine.execRestore s
  | .revokingRestore => Sys2Proof.Machine.execRevokingRestore s
  | .watchdogStall => Sys2Proof.Machine.execWatchdogStall s
  | .saveWatchdogExpiry => Sys2Proof.Machine.execSaveWatchdogExpiry s
  | .snapshotArrival => Sys2Proof.Machine.execSnapshotArrival s
  | .snapshotComplete => Sys2Proof.Machine.execSnapshotComplete s
  | .bayFailure => Sys2Proof.Machine.execBayFailure s
  | .spareSwitchIn => Sys2Proof.Machine.execSpareSwitchIn s
  | .fcmdResume => Sys2Proof.Machine.execFcmdResume s
  | .fcmdResumeSkip => Sys2Proof.Machine.execFcmdResumeSkip s
  | .fcmdAbort => Sys2Proof.Machine.execFcmdAbort s
  | .barrierArrival => Sys2Proof.Machine.execBarrierArrival s
  | .barrierPhaseComplete => Sys2Proof.Machine.execBarrierPhaseComplete s
  | .barrierPhaseReceive => Sys2Proof.Machine.execBarrierPhaseReceive s
  | .mwaitWake => Sys2Proof.Machine.execMwaitWake s
  | .mwaitTimeout => Sys2Proof.Machine.execMwaitTimeout s
  | .trpop => Sys2Proof.Machine.execTrpop s
  | .tkpay => Sys2Proof.Machine.execTkpay s
  | .hmskWrite => Sys2Proof.Machine.execHmskWrite s
  | .sfrdWrite => Sys2Proof.Machine.execSfrdWrite s
  | .barcfgWrite => Sys2Proof.Machine.execBarcfgWrite s
  | .registerWrite => Sys2Proof.Machine.execRegisterWrite s
  | .arcDeadWrite => Sys2Proof.Machine.execArcDeadWrite s
  | .arcIinv => Sys2Proof.Machine.execArcIinv s
  | .resyncRequest => Sys2Proof.Machine.execResyncRequest s
  | .rlaunch => Sys2Proof.Machine.execRlaunch s
  | .hbmret => Sys2Proof.Machine.execHbmret s
  | .sqinv => Sys2Proof.Machine.execSqinv s
  | .kcmdLoad => Sys2Proof.Machine.execKcmdLoad s
  | .kcmdClear => Sys2Proof.Machine.execKcmdClear s
  | .pwrRun => Sys2Proof.Machine.execPwrRun s
  | .pwrIdle => Sys2Proof.Machine.execPwrIdle s
  | .pwrD3hot => Sys2Proof.Machine.execPwrD3hot s
  | .ingbWrite => Sys2Proof.Machine.execIngbWrite s
  | .ingressWord => Sys2Proof.Machine.execIngressWord s
  | .consumerIndexWrite => Sys2Proof.Machine.execConsumerIndexWrite s
  | .sinkQueueDelivery => Sys2Proof.Machine.execSinkQueueDelivery s
  | .bar4Access => Sys2Proof.Machine.execBar4Access s
  | .bringUp => Sys2Proof.Machine.execBringUp s
  | .thermalThrottle => Sys2Proof.Machine.execThermalThrottle s
  | .thermalRecover => Sys2Proof.Machine.execThermalRecover s
  | .thermalShutdown => Sys2Proof.Machine.execThermalShutdown s
  | .thermalReset => Sys2Proof.Machine.execThermalReset s
  | .getVersion => Sys2Proof.Machine.execGetVersion s
  | .getCapabilities => Sys2Proof.Machine.execGetCapabilities s
  | .negotiateAlgorithms => Sys2Proof.Machine.execNegotiateAlgorithms s
  | .getDigests => Sys2Proof.Machine.execGetDigests s
  | .getCertificate => Sys2Proof.Machine.execGetCertificate s
  | .challenge => Sys2Proof.Machine.execChallenge s
  | .getMeasurements => Sys2Proof.Machine.execGetMeasurements s
  | .keyExchange => Sys2Proof.Machine.execKeyExchange s
  | .finish => Sys2Proof.Machine.execFinish s
  | .ideKm => Sys2Proof.Machine.execIdeKm s
  | .illegalInstruction => Sys2Proof.Machine.execIllegalInstruction s
  | .arcadeInvalidation => Sys2Proof.Machine.execArcadeInvalidation s
  | .peerLineRegistration => Sys2Proof.Machine.execPeerLineRegistration s
  | .perstAssertion => Sys2Proof.Machine.execPerstAssertion s
  | .pciePowerStateChange => Sys2Proof.Machine.execPciePowerStateChange s

end Sys2Proof.Machine
end

