-- ==== Sys2Proof/Machine/Fetch.lean ====
section
/-! DEFINITION. Fetching a landing-core instruction (R58, R337, R338), and when a thread may issue its next one (R331, R390, R395). -/

namespace Sys2Proof.Machine

/-- What a fetch answers. -/
inductive Fetched where
  /-- the word at `pc` -/
  | word (s : State) (w : W32)
  /-- a peer has still to answer -/
  | wait (s : State)
  /-- R337, R345: a precise trap at the target -/
  | trap (s : State) (c : Cause)

/-- R5: the word at a byte offset of a line. -/
def lineWord (l : List Byte) (off : Nat) : W32 := BitVec.ofNat 32 (leNat ((l.drop off).take 4))

/-- The focused thread has its next word in hand. -/
def State.inHand (s : State) (w : W32) : Fetched := .word (s.setMe { s.me with ir := some w }) w

/-- R338: a line enters the instruction cache of 512 lines; of a full one the first listed leaves. -/
def cacheLine (t : Tab (List Byte)) (k : Nat) (l : List Byte) : Tab (List Byte) := Tab.put (if 512 ≤ t.length then t.drop 1 else t) k l

/-- R337, R338: the word at a local address: from the instruction cache, else from the line at its edge, which the cache then keeps. The own
stores to the line are performed first (log 41). A line that cannot be read whole is not kept, and its word is read alone. -/
def State.fetchLocal (s : State) (x : Xlat) : Fetched :=
  let h := s.focus.hall
  match Tab.find (Tab.get s.icache h []) (x.pa / 64) with
  | some l => s.inHand (lineWord l (x.pa % 64))
  | none =>
    if !s.lcOpen x.pa then .wait s else
    let s := s.flushLine h s.focus.ctx (x.pa / 64)
    let r := s.edgeRead (x.pa / 64 * 64) 64 x.key
    if r.cause = .none && !r.poison then
      let s := r.s.logAll s.lcSite r.logs
      State.inHand { s with icache := Tab.upd s.icache h [] fun t => cacheLine t (x.pa / 64) r.bytes } (lineWord r.bytes (x.pa % 64))
    else
      let r := s.edgeRead x.pa 4 x.key
      let s := r.s.logAll s.lcSite r.logs
      if r.cause != .none then .trap s r.cause
      else if r.poison then .trap s .poisonuse
      else s.inHand (BitVec.ofNat 32 (leNat r.bytes))

/-- R337: the word at a peer's address: it is asked for and waited for. -/
def State.fetchRemote (s : State) (p : Nat) (x : Xlat) : Fetched :=
  let h := s.focus.hall
  let c := s.focus.ctx
  match s.me.served with
  | some v =>
    let s := s.answerTaken
    if v.poison then .trap s (Cause.ofCode v.v.toNat) else s.inHand (v.v.setWidth 32)
  | none =>
    if s.me.parked then .wait s
    else match s.peerFault h p false with
      | .none =>
        if s.quadRoom h 64 p 0 then
          let s := s.sendCmd h 64 0 (rreqPacket p x.pa 4 (s.akeyOf h c)) (.thread h c (x.pa % 64) 4)
          .wait s.park
        else .wait s
      | f => .trap s f

/-- R58, R337, R345: fetches the word at the focused thread's `pc`; one that is in hand is not fetched again. -/
def State.fetch (s : State) : Fetched :=
  match s.me.ir with
  | some w => .word s w
  | none =>
    if s.me.pc.toNat % 4 != 0 then .trap s .align
    else match s.xlate s.me.pc .exec with
      | (s, .error c) => .trap s c
      | (s, .ok x) =>
        match x.rem with
        | none => s.fetchLocal x
        | some p => s.fetchRemote p x

/-- The thread has issued an instruction that waits for an answer from memory. -/
def Thread.midway (t : Thread) : Bool := t.parked || t.served.isSome || !t.got.isEmpty

/-- R331, R333, R390, R395: the thread of a context may issue: it lives, no double fault or region stop holds it, and while its context is saved
only an instruction that has begun goes on. -/
def State.threadRuns (s : State) (h c : Nat) : Bool :=
  let t := s.thr h c
  t.live && !t.dead && !s.ctxStopped h c && ((s.slot h c).st != .saving || t.midway)

end Sys2Proof.Machine
end

