-- ==== Sys2Proof/Machine/Moves.lean ====
section
/-! DEFINITION. What an act of the agenda asks of the module (log 1): which instruction runs, at which unit, and from which state. -/

namespace Sys2Proof.Machine

/-- What an act comes to. -/
inductive Deed where
  /-- an instruction runs -/
  | run (i : Instr) (s : State)
  /-- the state that follows, without an instruction -/
  | goes (s : State)
  /-- the act names a unit that does not exist -/
  | illFormed

/-- The acts that the device takes in its reset and recovery states (R439, R440): the release of PERST#; after a failed verification, DOE, the
device information table and PERST#. -/
def State.takesEvent (s : State) (i : Instr) : Bool :=
  if s.host.perst then i == .bringUp
  else if s.host.recovery then [.perstAssertion, .getVersion, .getCapabilities, .negotiateAlgorithms, .getDigests, .getCertificate, .challenge,
    .getMeasurements, .keyExchange, .finish, .ideKm].contains i
  else true
/-- The device is neither held in reset nor in its recovery state. -/
def State.powered (s : State) : Bool := !s.host.perst && !s.host.recovery

/-- R73, R74: the landing-core registers that a word's fields name; x0 apart. -/
def wordRegs (w : W32) : List Nat :=
  let m := bitsN w 31 26
  let d := bitsN w 25 21
  let a := bitsN w 20 16
  let b := bitsN w 15 11
  let l :=
    if m = 0x1F || m = 0x23 then a :: (List.range (bitsN w 3 0 + 1)).map (d + ·)
    else if m = 0x01 || (0x1C ≤ m && m ≤ 0x22) || (0x3C ≤ m && m ≤ 0x3F) then [d, a, b]
    else if (0x02 ≤ m && m ≤ 0x1B) || m = 0x2A || m = 0x39 || m = 0x3B then [d, a]
    else if m = 0x29 then [31]
    else if m = 0x2B then [bitsN w 19 15, bitsN w 14 10]
    else if m = 0x2C then [bitsN w 19 15]
    else if m = 0x36 then [a, b]
    else if m = 0x37 then [d]
    else if (0x30 ≤ m && m ≤ 0x34) || m = 0x38 then [a]
    else []
  l.filter (· != 0)

/-- R331: an instruction waits for the registers it names that a load has still to write. -/
def Thread.holds (t : Thread) (w : W32) : Bool := (wordRegs w).any t.loads.contains

/-- R331: a thread's turn: it fetches, and runs what it has fetched; R78: a word that is no instruction traps; R345: a fetch that faults traps,
with the address. R334: between two instructions a report that can be taken traps it first. -/
def State.threadMove (s : State) (h c : Nat) : Deed :=
  let s := { s with focus := { hall := h, elem := 0, ctx := c } }
  if !s.threadRuns h c then .goes s
  else if s.me.takesReport then .run .reportTrap s
  else match s.fetch with
    | .wait s => .goes s
    | .trap s c => .goes (s.precise c s.me.pc)
    | .word s w => if s.me.holds w then .goes s else match decodeLanding w with
      | .ok i => .run i s
      | .error _ => .run .illegalInstruction { s with focus := { s.focus with val := w.setWidth 64 } }

/-- R69, R209: an A-bay's turn at an instruction of its active block. -/
def State.fireMove (s : State) (h b c i : Nat) : Deed :=
  let s := { s with focus := { hall := h, elem := b, ctx := c, idx := i } }
  match (s.bayCtx h b c).task with
  | none => .goes s
  | some k => match decodeBay (s.bayWord h b c k.blk.frame i) with
    | .ok i => .run i s
    | .error _ => .goes s

/-- R299: an `rred` whose descriptor asks for the read-out form runs as that. -/
def readOutForm (k : DCmd) : Instr → Instr
  | .rred port ctx cls flags imm addr =>
    if (dw k.desc 3).testBit 42 then .rredReadout port ctx cls flags imm addr else .rred port ctx cls flags imm addr
  | i => i

/-- R79: a command's turn. -/
def State.commandMove (s : State) (h ticket pick : Nat) : Deed :=
  match s.cmd h ticket with
  | none => .goes s
  | some k =>
    let s := { s with focus := { hall := h, elem := 0, ctx := k.ctx, idx := ticket, aux := pick } }
    match decodeCommand k.word with
    | .ok i => .run (readOutForm k i) s
    | .error _ => .goes s

/-- R264, R269, R270: a gallery's turn at the token on a context's control channel; one that is no control word is taken as R264 gives. -/
def State.gwordMove (s : State) (h c : Nat) : Deed :=
  let s := { s with focus := { hall := h, elem := 80, ctx := c } }
  match (s.galCtx h c).words with
  | [] => .goes s
  | t :: _ => if t.kind != .data || t.width != 0 || t.poison || (s.galCtx h c).stopped then .run .galleryMarker s
    else match decodeGallery t.payload with
      | .ok i => if wellFormed i then .run i s else .run .galleryMarker s
      | .error _ => .run .galleryMarker s

/-- R200, R202: an M-bay's turn at the token on its stream's input; one that is no tag operation is taken as R200 gives. -/
def State.tagMove (s : State) (h q : Nat) : Deed :=
  let s := { s with focus := { hall := h, elem := q, ctx := 0 } }
  match (s.bank h q).strm with
  | none => .goes s
  | some m => match s.strmHead h q m with
    | none => .goes s
    | some t => match decodeTag t.payload with
      | .ok i => if wellFormed i then .run i s else .run .mportTokenArrival s
      | .error _ => .run .mportTokenArrival s

/-- R16–R19: the numbers of a unit are in range. -/
def partOk (h e c : Nat) : Bool := h < 64 && e < 128 && c < 4

/-- What an act comes to in a state. -/
def State.moveOf (s : State) : Act → Deed
  | .event i f => if !f.ok then .illFormed else if !s.takesEvent i then .goes s else .run i { s with focus := f }
  | .thread h c => if !partOk h 0 c then .illFormed else if !s.powered then .goes s else s.threadMove h c
  | .fire h b c i => if !partOk h b c || 64 ≤ b then .illFormed else if !s.powered then .goes s else s.fireMove h b c i
  | .command h t pick => if !partOk h 0 0 then .illFormed else if !s.powered then .goes s else s.commandMove h t pick
  | .gword h c => if !partOk h 0 c then .illFormed else if !s.powered then .goes s else s.gwordMove h c
  | .tagop h q => if !partOk h q 0 || 16 ≤ q then .illFormed else if !s.powered then .goes s else s.tagMove h q
  | .eccError g => .goes { s with mem := { s.mem with ecc := setIns s.mem.ecc g } }
  | .columnError h col =>
    if !partOk h 0 0 || 256 ≤ col then .illFormed else .goes (s.updGal h fun g => { g with faulty := setIns g.faulty col })
  | .eccCorrected pa => .goes { s with mem := { s.mem with corrected := Tab.upd s.mem.corrected (hbmPlace pa).1 0 (· + 1) } }
  | .dropRegistration line => .goes (s.unregister 3 line)
  | .registered k => .goes (s.regAcked k .none)
  | .netCycle => if s.powered then .goes { s with net := s.net.cycle } else .goes s
  | .netDeliver h q => if !partOk h q 0 || 16 ≤ q then .illFormed else if s.powered then .goes (s.netDeliver h q) else .goes s
  | .hostRead bar off => if s.powered || (!s.host.perst && inInfo bar off) then .goes (s.hostRead bar off) else .goes s
  | .settle => if s.powered then .goes s.settle else .goes s
  | .transmit p => if s.powered then .goes (s.transmit p) else .goes s
  | .tick h n => if !partOk h 0 0 then .illFormed else .goes (s.tick h n)

end Sys2Proof.Machine
end

