-- ==== Sys2Proof/Machine/Order.lean ====
section
/-! DEFINITION. The model's own order (log 1): what can move next when the agenda is empty. It is one of the orders the specification allows; an agenda gives any other. -/

namespace Sys2Proof.Machine

/-- Acts of a hall's dispatcher: commands start, run and retire. -/
def State.dispActs (s : State) : List Act :=
  (s.disps.map fun (p : Nat × Disp) => (p.2.cmds.map fun k =>
    [.event .commandStart { hall := p.1, idx := k.ticket }, .command p.1 k.ticket 0, .event .commandRetire { hall := p.1, idx := k.ticket }]).flatten ++
      (p.2.sinks.map fun (q : Nat × SinkC) => .event .sinkCountZero { hall := p.1, ctx := q.1 % 4, idx := q.1 / 4 })).flatten

/-- Acts on the links: a token arrives, a drain or a snapshot is taken. -/
def State.linkActs (s : State) : List Act :=
  (s.links.map fun (p : Nat × List Token) => match p.2 with
    | [] => []
    | t :: _ =>
      let h := p.1 / 1024
      let e := p.1 / 8 % 128
      let f : Focus := { hall := h, elem := e, ctx := t.ctx.toNat, idx := p.1 % 8 }
      [.event .drainArrival f, .event .snapshotArrival f, if e < 64 then .event .linkTokenArrival f
        else if e < 80 then .event .stairTokenArrival { f with elem := e - 64 } else .event .galleryCrossing f]).flatten ++
    s.rlanes.map fun (p : Nat × List RTok) => .event .returnLaneToken { hall := p.1 / 1024, elem := p.1 / 8 % 128, idx := p.1 % 8 }

/-- The place of a context of an element, from its key in `bays` or `units`. -/
def keyFocus (k : Nat) : Focus := { hall := k / 256, elem := k / 4 % 64, ctx := k % 4 }

/-- Acts of the A-bays. -/
def State.bayActs (s : State) : List Act :=
  (s.bays.map fun (p : Nat × BayCtx) =>
    let f := keyFocus p.1
    ((List.range 16).map fun i => .fire f.hall f.elem f.ctx i) ++ [.event .blockRetire f, .event .handlerSelect f] ++
      ((List.range 16).map fun i => [.event .controlTokenTake { f with idx := i }, .event .switchMarker { f with idx := i }]).flatten).flatten

/-- The steps in which an S-bay works for a context. -/
def sbaySteps : List Instr :=
  [.gallopProbeReturn, .scanReference, .isectStep, .unionStep, .repeatToken, .reduceToken, .selectToken, .partToken, .lwriteHeadEntry, .lwriteToken,
    .bumpRequest, .translateRequest, .sbayBarrier, .switchMarker]

/-- Acts of the S-bays. -/
def State.unitActs (s : State) : List Act :=
  (s.units.map fun (p : Nat × SCtx) =>
    let f := keyFocus p.1
    sbaySteps.map (fun i => Act.event i f) ++ [.event .sinkCountZero { f with aux := 1 }]).flatten

/-- Acts of the stairs. -/
def State.stairActs (s : State) : List Act :=
  (s.stairs.map fun (p : Nat × Stair) =>
    let f : Focus := { hall := p.1 / 16, elem := p.1 % 16 }
    ([.stairWriteAck, .fenceRelease, .stairLineReturn, .memoryPortDone, .stairElementIssue] : List Instr).map (fun i => Act.event i f) ++
      ((List.range 4).map fun c => .event .stairWindowAnswer { f with ctx := c }) ++
      (p.2.chans.map fun (q : Nat × List Token) => .event .stairTokenArrival { f with ctx := q.1 / 16, idx := q.1 % 16, aux := 1 })).flatten

/-- Acts of the M-bays. -/
def State.bankActs (s : State) : List Act :=
  (s.banks.map fun (p : Nat × Bank) =>
    let f : Focus := { hall := p.1 / 16, elem := p.1 % 16 }
    ([.bankRequestServe, .parkedReadServe, .mbankApply, .updateToken] : List Instr).map (fun i => Act.event i f) ++
      [.tagop f.hall f.elem, .event .mportTokenArrival f] ++ (if p.2.win.isEmpty then [] else [.event .updateWindowExpiry f])).flatten

/-- Acts of the packet network. -/
def State.netActs (s : State) : List Act :=
  (s.net.bufs.map fun (p : Nat × List NetPkt) => .netDeliver (p.1 / 16) (p.1 % 16)) ++ (if s.net.fly.isEmpty then [] else [.netCycle])

/-- Acts of the galleries. -/
def State.galActs (s : State) : List Act :=
  (s.gals.map fun (p : Nat × Gal) =>
    (if p.2.port.isEmpty then [] else [.event .operandLineWrite { hall := p.1 }]) ++
      (p.2.ctxs.map fun (q : Nat × GCtx) =>
        let f : Focus := { hall := p.1, elem := 80, ctx := q.1 }
        [.gword p.1 q.1, .event .galleryMarker f, .event .gclaimGrant f, .event .galleryRowFire f, .event .greleaseExecute f, .event .gclearExecute f,
          .event .gdrainExecute f, .event .gfenceExecute f, .event .gstatusExecute f]).flatten).flatten

/-- R133: the step that takes a packet of a type. -/
def packetEvent : Nat → Instr
  | 0x01 => .rreq | 0x02 => .wreq | 0x03 => .areq | 0x04 => .cred | 0x05 => .rresp | 0x06 => .wack | 0x07 => .rdreq
  | 0x08 => .rdwr | 0x09 => .rdsent | 0x0A => .rdflt | 0x0B => .rdack | 0x0C => .gack | 0x0D => .wabort
  | _ => .reservedPacketDiscard

/-- Acts of the arcade interface. -/
def State.arcActs (s : State) : List Act :=
  (if s.arc.rx.isEmpty then [] else [.event .flitReceive {}]) ++
    (s.arc.inbox.mapIdx fun k p => .event (packetEvent p.ptype) { idx := k }) ++
    (if s.arc.outbox.isEmpty && s.arc.ports.isEmpty then [] else (List.range 16).map Act.transmit)

/-- Acts of regions, of the scheduler and of the hall controllers. -/
def State.regionActs (s : State) : List Act :=
  ((List.range s.regions.length).map fun r =>
    let g := s.region r
    let f : Focus := { idx := r }
    [.event .fcmdResume f, .event .fcmdResumeSkip f, .event .fcmdAbort f, .event .regionCompletion f, .event .saveComplete f] ++
      (g.halls.map fun h => [.event .swapStart { f with hall := h }, .event .snapshotComplete { f with hall := h }, .event .saveWatchdogExpiry { f with hall := h }]).flatten ++
      (g.swap.inputs.map fun i => .event .drainArrival { hall := i / 65536, elem := i / 512 % 128, ctx := i / 128 % 4, idx := i % 128 }) ++
      (g.swap.ctxs.map fun k => (List.range 81).map fun e => .event .drainArrival { hall := k / 4, elem := e, ctx := k % 4 }).flatten).flatten ++
    (if s.regions.isEmpty then [] else [.event .restore {}, .event .revokingRestore {}, .event .placement {}]) ++
    (s.ltoks.map fun (p : Nat × List LaunchTok) => .event .launchToken { hall := p.1 }) ++
    (s.slots.map fun (p : Nat × HSlot) => .event .switchCompletion { hall := p.1 / 4, ctx := p.1 % 4 }) ++
    (s.slots.map fun (p : Nat × HSlot) => .event .watchdogStall { hall := p.1 / 4, ctx := p.1 % 4 }) ++
    s.hallSt.map fun (p : Nat × HallSt) => .event .spareSwitchIn { hall := p.1 }

/-- Acts of the host side. -/
def State.hostActs (s : State) : List Act :=
  (s.host.sinkqs.map fun (p : Nat × SinkQ) => .event .sinkQueueDelivery { idx := p.1 }) ++
    (s.host.ingress.map fun (p : Nat × Ingress) => .event .ingressWord { idx := p.1, aux := 1 }) ++
    (if s.host.rlPend.isSome then [.event .rlaunch {}] else []) ++
    (if s.host.sqinvBusy || s.arc.iinvBusy || s.host.kBusy.isSome then [.settle] else [])

/-- Acts at the memory edges, of walks and shootdowns, and of hardware barriers. -/
def State.edgeActs (s : State) : List Act :=
  ((List.range s.edge.length).map fun k => .event .memoryEdgeAccess { idx := k }) ++
    ((List.range s.walks.length).map fun k => .event .pageTableWalk { idx := k }) ++
    ((List.range s.shoots.length).map fun k => .event .shootdownDrainArrival { idx := k }) ++
    (if s.barArr.isEmpty then [] else [.event .barrierArrival {}]) ++ (if s.barPh.isEmpty then [] else [.event .barrierPhaseReceive {}]) ++
    s.bars.map fun (p : Nat × Barrier) => .event .barrierPhaseComplete { hall := p.1 / 32, idx := p.1 % 32 }

/-- Acts that move a thread from outside. -/
def State.threadActs (s : State) : List Act :=
  (s.threads.map fun (p : Nat × Thread) =>
    let f : Focus := { hall := p.1 / 4, ctx := p.1 % 4 }
    [.event .reportTrap f, .event .mwaitWake f, .event .mwaitTimeout f, .event .hmskWrite f]).flatten

/-- What may move in the model's own order, first things first. -/
def State.ownActs (s : State) : List Act :=
  s.edgeActs ++ s.netActs ++ s.bankActs ++ s.stairActs ++ s.arcActs ++ s.linkActs ++ s.galActs ++ s.unitActs ++ s.bayActs ++ s.dispActs ++ s.hostActs ++
    s.threadActs ++ s.regionActs

/-- R331: the threads that may issue, as 4 × hall + slot, in the order in which their turn comes: those from the turn on first. Between threads
of one hall the firing priority decides before that (`State.rivals`). -/
def State.turns (s : State) : List Nat :=
  let ks := (s.threads.map fun (p : Nat × Thread) => p.1).filter fun k => k < 256 && s.threadRuns (k / 4) (k % 4)
  ks.filter (s.turn ≤ ·) ++ ks.filter (· < s.turn)

/-! ### Firing priority (R378) -/

/-- The contexts of a hall of higher firing priority than one of them. -/
def State.firesBefore (s : State) (hall ctx : Nat) : List Nat :=
  (List.range 4).filter fun c => s.firePrio hall ctx < s.firePrio hall c

/-- R217: the instruction at a place of an A-bay's active block is an ordered one. -/
def State.ordAt (s : State) (hall bay ctx i : Nat) : Bool :=
  match (s.bayCtx hall bay ctx).task with
  | none => false
  | some k => isOrdered (opOf (s.bayWord hall bay ctx k.blk.frame i))

/-- R378: the acts of the same kind at the same unit of contexts of higher firing priority: a thread's (R331), an A-bay's free or ordered
instructions (R217), a step of an S-bay (R262), a gallery row (R278). While one of them can move, the act does not take place. Link beats
are compared where they are sent (R24, `State.outBid`), claims where they are granted (R271). -/
def State.rivals (s : State) : Act → List Act
  | .thread h c => (s.firesBefore h c).map (.thread h ·)
  | .fire h b c i => ((s.firesBefore h c).map fun d =>
      ((List.range 16).filter fun j => s.ordAt h b d j == s.ordAt h b c i).map (.fire h b d ·)).flatten
  | .event i f =>
    if i == .galleryRowFire then (s.firesBefore f.hall f.ctx).map fun d => .event .galleryRowFire { f with ctx := d }
    else if sbaySteps.contains i && f.elem < 64 && bayKind f.elem == .s then
      ((s.firesBefore f.hall f.ctx).map fun d => sbaySteps.map fun j => .event j { f with ctx := d }).flatten
    else []
  | _ => []

/-- A step has done something: more than the focus and the count of free values has changed. -/
def State.moved (s t : State) : Bool := { t with focus := s.focus, fresh := s.fresh } != s

end Sys2Proof.Machine
end

