-- ==== Sys2Proof/Machine/Place.lean ====
section
/-! DEFINITION. Placing one word where the next step takes its instruction from: it stands for the load of a program from outside the machine (log 42). -/

namespace Sys2Proof.Machine

/-- Hall 0 and its slot 0 are live and not stopped, the device runs, and the given act is next. -/
def State.readied (s : State) (a : Act) : State :=
  let x := s.slot 0 0
  let x := { x with st := .live, region := if s.ctxStopped 0 0 then none else x.region }
  { s with
    agenda := [a]
    slots := Tab.put s.slots (tkey 0 0) x
    hallSt := Tab.del s.hallSt 0
    host := { s.host with perst := false, recovery := false } }

/-- The address at which a landing-core word is placed, both VA and PA. -/
def placePc : Nat := 0x10000
/-- R98: the leaf of its page: present, accessed, execute. -/
def placePte : W64 := 0x10063

/-- A landing-core word at the `pc` of the thread of hall 0 and slot 0, in a page that the translation buffer holds. -/
def State.placeLanding (s : State) (w : W32) : State :=
  let t := { s.thr 0 0 with live := true, dead := false, pc := w64 placePc, ir := none, parked := false, served := none, got := [],
                                loads := [], ie := (s.thr 0 0).ie && (s.thr 0 0).reps.isEmpty }
  let e : TlbEnt := { root := t.lroot, va := placePc, psz := 16, pte := placePte }
  let s := (s.edgeWrite placePc (leBytes 4 w.toNat) 0).s
  let s := { s with
    lctlb := Tab.put s.lctlb 0 (e :: ((Tab.get s.lctlb 0 []).filter fun (x : TlbEnt) => !x.covers t.lroot placePc).take 31)
    icache := Tab.upd s.icache 0 [] fun l => Tab.del l (placePc / 64) }
  (s.setThr 0 0 t).readied (.thread 0 0)

/-- A bay word as instruction 0 of frame 0 of bay (0, 0) in slot 0, with a `br` behind it, in a task whose slots are filled. -/
def State.placeBay (s : State) (w : W32) : State :=
  let ends := (encodeBay (.bayBr 0xC0)).getD 0
  let cfg := s.cfg 0 0 0
  let cfg := { cfg with store := Tab.put (Tab.put cfg.store 0 w) 1 ends }
  let blk : Block := { slots := [(0, .val {}), (1, .val {}), (2, .val { v := 1 })] }
  let c := { s.bayCtx 0 0 0 with task := some { hent := 0, last := {}, blk := blk }, trapped := false }
  State.readied { s with cfgs := Tab.put s.cfgs (ckey 0 0 0) cfg, bays := Tab.put s.bays (bkey 0 0 0) c } (.fire 0 0 0 0)

/-- A command, started, as ticket 1 of hall 0's dispatcher. -/
def State.placeCommand (s : State) (w : BitVec 128) : State :=
  let d := s.disp 0
  let k : DCmd := { ticket := 1, ctx := 0, ictx := 0, region := none, word := w, started := true }
  (s.setDisp 0 { d with cmds := k :: d.cmds.filter fun c => c.ticket != 1 }).readied (.command 0 1 0)

/-- A control word at the head of the control channel of slot 0 of hall 0's gallery. -/
def State.placeGallery (s : State) (w : W64) : State :=
  let t : Token := { width := 0, payload := w }
  let f (c : GCtx) : GCtx := { c with words := t :: c.words, stopped := false, claim := none }
  (s.updGctx 0 0 f).readied (.gword 0 0)

/-- R195: words of the M-bay of quad 0 for a tag stream on channel 0: `mport` and `mtag` with 256 slots. -/
def placeTagWords : List W64 := [0x2800000000000000, 0x3FF0000000000000]

/-- A tag operation at the head of the input of a tag stream of the M-bay of quad 0 of hall 0, in slot 0. -/
def State.placeTag (s : State) (w : W64) : State :=
  let b := s.bank 0 0
  let t : Token := { width := 0, payload := w }
  let b := { b with strm := some { ticket := 0, ctx := 0 }, chans := Tab.put b.chans 0 [t], stopped := setDel b.stopped 0 }
  let cfg := { s.cfg 0 (mbayOf 0) 0 with words := placeTagWords }
  State.readied { s.setBank 0 0 b with cfgs := Tab.put s.cfgs (ckey 0 (mbayOf 0) 0) cfg } (.tagop 0 0)

/-- A word in the layer in which the numbering of the opcode table reads it. -/
def State.placeWord (s : State) (nbits w : Nat) : State :=
  let v := w % 2 ^ nbits
  match tableLayer nbits w with
  | .landing => s.placeLanding (BitVec.ofNat 32 v)
  | .bay => s.placeBay (BitVec.ofNat 32 v)
  | .command => s.placeCommand (BitVec.ofNat 128 v)
  | .gallery => s.placeGallery (BitVec.ofNat 64 v)
  | .tag => s.placeTag (BitVec.ofNat 64 v)

end Sys2Proof.Machine
end

