-- ==== Sys2Proof/Machine/Step.lean ====
section
/-! DEFINITION. One step of the module: the next act of the agenda, or, with none, the model's own order (log 1). -/

namespace Sys2Proof.Machine

/-- R404, R437: after a step, the contexts that have made progress wait anew; a step whose producer is held back has not happened. -/
def settled (before : State) : Host.Outcome State Fault Refusal → Host.Outcome State Fault Refusal
  | .next s => .next (if before.holdsBack s then before else s.restartStalls before)
  | .fault f => .fault f
  | .refused r => .refused r

/-- Carries out what an act has come to. -/
def perform (before : State) : Deed → Host.Outcome State Fault Refusal
  | .run i s => settled before (exec i s)
  | .goes s => .next s
  | .illFormed => .fault .illFormed

/-- The act can move: it leads to another state. -/
def State.canMove (s : State) (a : Act) : Bool :=
  match perform s (s.moveOf a) with
  | .next t => s.moved t
  | _ => false

/-- R378: an act waits while an act of the same kind of a context of higher firing priority can move. -/
def State.outranked (s : State) (a : Act) : Bool := (s.rivals a).any s.canMove

/-- The step of an act. -/
def act (a : Act) (s : State) : Host.Outcome State Fault Refusal :=
  if s.outranked a then .next s else perform s (s.moveOf a)

/-- The first of some acts that changes the state. -/
def firstMove (s : State) : List Act → Option State
  | [] => none
  | a :: rest => match act a s with
    | .next t => if s.moved t then some t else firstMove s rest
    | _ => firstMove s rest

/-- The first of some threads that can move issues, and its hall's clock advances by a cycle; where none can, the clocks of all their halls do. -/
def threadTurn (s : State) : List Nat → Host.Outcome State Fault Refusal
  | [] => .next ((s.turns.map (· / 4)).eraseDups.foldl (fun s h => s.tick h 1) s)
  | k :: rest => match act (.thread (k / 4) (k % 4)) s with
    | .next t => if s.moved t then .next ({ t with turn := k + 1 }.tick (k / 4) 1) else threadTurn s rest
    | r => r

/-- With no agenda: what can move by itself moves; otherwise the next thread issues. -/
def ownStep (s : State) : Host.Outcome State Fault Refusal :=
  if !s.powered then .next s
  else match firstMove s s.ownActs with
    | some t => .next t
    | none => threadTurn s s.turns

/-- One step. -/
def step (s : State) : Host.Outcome State Fault Refusal :=
  match s.agenda with
  | a :: rest => act a { s with agenda := rest }
  | [] => ownStep s

/-- A state with a word placed so that the next step takes it for its instruction. -/
def State.withFetchWord (s : State) (nbits w : Nat) : State := s.placeWord nbits w

end Sys2Proof.Machine
end

