-- ==== Sys2Proof/Laws/Fields.lean ====
section
/-! SUPPORT. Reading the fields of a word that is written as an append of its fields, and the value of little-endian bytes. -/

namespace Sys2Proof

theorem fld_toNat {m : Nat} (w : BitVec m) (l n : Nat) : (fld w l n).toNat = w.toNat / 2 ^ l % 2 ^ n := by
  simp [fld, Nat.shiftRight_eq_div_pow]

theorem fld_above {a b l n : Nat} (x : BitVec a) (y : BitVec b) (h : b ≤ l) : fld (x ++ y) l n = fld x (l - b) n := by
  ext i hi
  simp only [fld, BitVec.getElem_extractLsb', BitVec.getLsbD_append]
  rw [if_neg (by omega)]
  congr 1
  omega

theorem fld_below {a b l n : Nat} (x : BitVec a) (y : BitVec b) (h : l + n ≤ b) : fld (x ++ y) l n = fld y l n := by
  ext i hi
  simp only [fld, BitVec.getElem_extractLsb', BitVec.getLsbD_append]
  rw [if_pos (by omega)]

theorem fld_all {n : Nat} (x : BitVec n) : fld x 0 n = x := by
  simp [fld]

/-- A field that takes in the low operand whole, and the low bits of the high one. -/
theorem fld_across {a b n : Nat} (x : BitVec a) (y : BitVec b) : fld (x ++ y) 0 (n + b) = fld x 0 n ++ y := by
  ext i hi
  simp only [fld, BitVec.getElem_extractLsb', BitVec.getLsbD_append, BitVec.getElem_append]
  by_cases h : i < b
  · simp [h, BitVec.getLsbD_eq_getElem]
  · simp [h]

theorem fld_bit {n : Nat} (x : BitVec n) (i : Nat) : fld x i 1 = BitVec.ofBool (x.getLsbD i) := by
  ext j hj
  have : j = 0 := by omega
  simp [fld, this]

theorem leNat_leBytes (n v : Nat) : leNat (leBytes n v) = v % 256 ^ n := by
  induction n generalizing v with
  | zero => simp [leBytes, leNat, Nat.mod_one]
  | succ n ih =>
    rw [leBytes, leNat, ih, BitVec.toNat_ofNat]
    show v % 256 + 256 * (v / 256 % 256 ^ n) = v % 256 ^ (n + 1)
    rw [Nat.pow_succ, Nat.mul_comm (256 ^ n) 256, Nat.mod_mul]

theorem leBytes_length (n v : Nat) : (leBytes n v).length = n := by
  induction n generalizing v with
  | zero => rfl
  | succ n ih => simp [leBytes, ih]

/-! ### Words of the shape (6 5 5 5 11) -/

theorem fld_w1_26_6 (x0 : BitVec 6) (x1 : BitVec 5) (x2 : BitVec 5) (x3 : BitVec 5) (x4 : BitVec 11) : fld (m := 32) (x0 ++ x1 ++ x2 ++ x3 ++ x4) 26 6 = x0 :=
  (@fld_above 21 11 26 6 (x0 ++ x1 ++ x2 ++ x3) x4 (by decide)).trans ((@fld_above 16 5 15 6 (x0 ++ x1 ++ x2) x3 (by decide)).trans ((@fld_above 11 5 10 6 (x0 ++ x1) x2 (by decide)).trans ((@fld_above 6 5 5 6 x0 x1 (by decide)).trans (fld_all x0))))
theorem fld_w1_23_3 (x0 : BitVec 6) (x1 : BitVec 5) (x2 : BitVec 5) (x3 : BitVec 5) (x4 : BitVec 11) : fld (m := 32) (x0 ++ x1 ++ x2 ++ x3 ++ x4) 23 3 = fld x1 2 3 :=
  (@fld_above 21 11 23 3 (x0 ++ x1 ++ x2 ++ x3) x4 (by decide)).trans ((@fld_above 16 5 12 3 (x0 ++ x1 ++ x2) x3 (by decide)).trans ((@fld_above 11 5 7 3 (x0 ++ x1) x2 (by decide)).trans ((@fld_below 6 5 2 3 x0 x1 (by decide)).trans (rfl))))
theorem fld_w1_21_5 (x0 : BitVec 6) (x1 : BitVec 5) (x2 : BitVec 5) (x3 : BitVec 5) (x4 : BitVec 11) : fld (m := 32) (x0 ++ x1 ++ x2 ++ x3 ++ x4) 21 5 = x1 :=
  (@fld_above 21 11 21 5 (x0 ++ x1 ++ x2 ++ x3) x4 (by decide)).trans ((@fld_above 16 5 10 5 (x0 ++ x1 ++ x2) x3 (by decide)).trans ((@fld_above 11 5 5 5 (x0 ++ x1) x2 (by decide)).trans ((@fld_below 6 5 0 5 x0 x1 (by decide)).trans (fld_all x1))))
theorem fld_w1_16_5 (x0 : BitVec 6) (x1 : BitVec 5) (x2 : BitVec 5) (x3 : BitVec 5) (x4 : BitVec 11) : fld (m := 32) (x0 ++ x1 ++ x2 ++ x3 ++ x4) 16 5 = x2 :=
  (@fld_above 21 11 16 5 (x0 ++ x1 ++ x2 ++ x3) x4 (by decide)).trans ((@fld_above 16 5 5 5 (x0 ++ x1 ++ x2) x3 (by decide)).trans ((@fld_below 11 5 0 5 (x0 ++ x1) x2 (by decide)).trans (fld_all x2)))
theorem fld_w1_11_5 (x0 : BitVec 6) (x1 : BitVec 5) (x2 : BitVec 5) (x3 : BitVec 5) (x4 : BitVec 11) : fld (m := 32) (x0 ++ x1 ++ x2 ++ x3 ++ x4) 11 5 = x3 :=
  (@fld_above 21 11 11 5 (x0 ++ x1 ++ x2 ++ x3) x4 (by decide)).trans ((@fld_below 16 5 0 5 (x0 ++ x1 ++ x2) x3 (by decide)).trans (fld_all x3))
theorem fld_w1_0_21 (x0 : BitVec 6) (x1 : BitVec 5) (x2 : BitVec 5) (x3 : BitVec 5) (x4 : BitVec 11) : fld (m := 32) (x0 ++ x1 ++ x2 ++ x3 ++ x4) 0 21 = x2 ++ x3 ++ x4 :=
  (@fld_across 21 11 10 (x0 ++ x1 ++ x2 ++ x3) x4).trans (congrArg (fun z : BitVec 10 => z ++ x4) ((@fld_across 16 5 5 (x0 ++ x1 ++ x2) x3).trans (congrArg (fun z : BitVec 5 => z ++ x3) ((@fld_below 11 5 0 5 (x0 ++ x1) x2 (by decide)).trans (fld_all x2)))))
theorem fld_w1_0_16 (x0 : BitVec 6) (x1 : BitVec 5) (x2 : BitVec 5) (x3 : BitVec 5) (x4 : BitVec 11) : fld (m := 32) (x0 ++ x1 ++ x2 ++ x3 ++ x4) 0 16 = x3 ++ x4 :=
  (@fld_across 21 11 5 (x0 ++ x1 ++ x2 ++ x3) x4).trans (congrArg (fun z : BitVec 5 => z ++ x4) ((@fld_below 16 5 0 5 (x0 ++ x1 ++ x2) x3 (by decide)).trans (fld_all x3)))
theorem fld_w1_0_11 (x0 : BitVec 6) (x1 : BitVec 5) (x2 : BitVec 5) (x3 : BitVec 5) (x4 : BitVec 11) : fld (m := 32) (x0 ++ x1 ++ x2 ++ x3 ++ x4) 0 11 = x4 :=
  (@fld_below 21 11 0 11 (x0 ++ x1 ++ x2 ++ x3) x4 (by decide)).trans (fld_all x4)

/-! ### Words of the shape (6 5 5 16) -/

theorem fld_w2_26_6 (x0 : BitVec 6) (x1 : BitVec 5) (x2 : BitVec 5) (x3 : BitVec 16) : fld (m := 32) (x0 ++ x1 ++ x2 ++ x3) 26 6 = x0 :=
  (@fld_above 16 16 26 6 (x0 ++ x1 ++ x2) x3 (by decide)).trans ((@fld_above 11 5 10 6 (x0 ++ x1) x2 (by decide)).trans ((@fld_above 6 5 5 6 x0 x1 (by decide)).trans (fld_all x0)))
theorem fld_w2_23_3 (x0 : BitVec 6) (x1 : BitVec 5) (x2 : BitVec 5) (x3 : BitVec 16) : fld (m := 32) (x0 ++ x1 ++ x2 ++ x3) 23 3 = fld x1 2 3 :=
  (@fld_above 16 16 23 3 (x0 ++ x1 ++ x2) x3 (by decide)).trans ((@fld_above 11 5 7 3 (x0 ++ x1) x2 (by decide)).trans ((@fld_below 6 5 2 3 x0 x1 (by decide)).trans (rfl)))
theorem fld_w2_21_5 (x0 : BitVec 6) (x1 : BitVec 5) (x2 : BitVec 5) (x3 : BitVec 16) : fld (m := 32) (x0 ++ x1 ++ x2 ++ x3) 21 5 = x1 :=
  (@fld_above 16 16 21 5 (x0 ++ x1 ++ x2) x3 (by decide)).trans ((@fld_above 11 5 5 5 (x0 ++ x1) x2 (by decide)).trans ((@fld_below 6 5 0 5 x0 x1 (by decide)).trans (fld_all x1)))
theorem fld_w2_16_5 (x0 : BitVec 6) (x1 : BitVec 5) (x2 : BitVec 5) (x3 : BitVec 16) : fld (m := 32) (x0 ++ x1 ++ x2 ++ x3) 16 5 = x2 :=
  (@fld_above 16 16 16 5 (x0 ++ x1 ++ x2) x3 (by decide)).trans ((@fld_below 11 5 0 5 (x0 ++ x1) x2 (by decide)).trans (fld_all x2))
theorem fld_w2_11_5 (x0 : BitVec 6) (x1 : BitVec 5) (x2 : BitVec 5) (x3 : BitVec 16) : fld (m := 32) (x0 ++ x1 ++ x2 ++ x3) 11 5 = fld x3 11 5 :=
  (@fld_below 16 16 11 5 (x0 ++ x1 ++ x2) x3 (by decide)).trans (rfl)
theorem fld_w2_0_16 (x0 : BitVec 6) (x1 : BitVec 5) (x2 : BitVec 5) (x3 : BitVec 16) : fld (m := 32) (x0 ++ x1 ++ x2 ++ x3) 0 16 = x3 :=
  (@fld_below 16 16 0 16 (x0 ++ x1 ++ x2) x3 (by decide)).trans (fld_all x3)

/-! ### Words of the shape (6 5 5 (10 6)) -/

theorem fld_w3_26_6 (x0 : BitVec 6) (x1 : BitVec 5) (x2 : BitVec 5) (x3 : BitVec 10) (x4 : BitVec 6) : fld (m := 32) (x0 ++ x1 ++ x2 ++ (x3 ++ x4 : BitVec 16)) 26 6 = x0 :=
  (@fld_above 16 16 26 6 (x0 ++ x1 ++ x2) (x3 ++ x4) (by decide)).trans ((@fld_above 11 5 10 6 (x0 ++ x1) x2 (by decide)).trans ((@fld_above 6 5 5 6 x0 x1 (by decide)).trans (fld_all x0)))
theorem fld_w3_23_3 (x0 : BitVec 6) (x1 : BitVec 5) (x2 : BitVec 5) (x3 : BitVec 10) (x4 : BitVec 6) : fld (m := 32) (x0 ++ x1 ++ x2 ++ (x3 ++ x4 : BitVec 16)) 23 3 = fld x1 2 3 :=
  (@fld_above 16 16 23 3 (x0 ++ x1 ++ x2) (x3 ++ x4) (by decide)).trans ((@fld_above 11 5 7 3 (x0 ++ x1) x2 (by decide)).trans ((@fld_below 6 5 2 3 x0 x1 (by decide)).trans (rfl)))
theorem fld_w3_21_5 (x0 : BitVec 6) (x1 : BitVec 5) (x2 : BitVec 5) (x3 : BitVec 10) (x4 : BitVec 6) : fld (m := 32) (x0 ++ x1 ++ x2 ++ (x3 ++ x4 : BitVec 16)) 21 5 = x1 :=
  (@fld_above 16 16 21 5 (x0 ++ x1 ++ x2) (x3 ++ x4) (by decide)).trans ((@fld_above 11 5 5 5 (x0 ++ x1) x2 (by decide)).trans ((@fld_below 6 5 0 5 x0 x1 (by decide)).trans (fld_all x1)))
theorem fld_w3_16_5 (x0 : BitVec 6) (x1 : BitVec 5) (x2 : BitVec 5) (x3 : BitVec 10) (x4 : BitVec 6) : fld (m := 32) (x0 ++ x1 ++ x2 ++ (x3 ++ x4 : BitVec 16)) 16 5 = x2 :=
  (@fld_above 16 16 16 5 (x0 ++ x1 ++ x2) (x3 ++ x4) (by decide)).trans ((@fld_below 11 5 0 5 (x0 ++ x1) x2 (by decide)).trans (fld_all x2))
theorem fld_w3_11_5 (x0 : BitVec 6) (x1 : BitVec 5) (x2 : BitVec 5) (x3 : BitVec 10) (x4 : BitVec 6) : fld (m := 32) (x0 ++ x1 ++ x2 ++ (x3 ++ x4 : BitVec 16)) 11 5 = fld x3 5 5 :=
  (@fld_below 16 16 11 5 (x0 ++ x1 ++ x2) (x3 ++ x4) (by decide)).trans ((@fld_above 10 6 11 5 x3 x4 (by decide)).trans (rfl))
theorem fld_w3_6_10 (x0 : BitVec 6) (x1 : BitVec 5) (x2 : BitVec 5) (x3 : BitVec 10) (x4 : BitVec 6) : fld (m := 32) (x0 ++ x1 ++ x2 ++ (x3 ++ x4 : BitVec 16)) 6 10 = x3 :=
  (@fld_below 16 16 6 10 (x0 ++ x1 ++ x2) (x3 ++ x4) (by decide)).trans ((@fld_above 10 6 6 10 x3 x4 (by decide)).trans (fld_all x3))
theorem fld_w3_0_16 (x0 : BitVec 6) (x1 : BitVec 5) (x2 : BitVec 5) (x3 : BitVec 10) (x4 : BitVec 6) : fld (m := 32) (x0 ++ x1 ++ x2 ++ (x3 ++ x4 : BitVec 16)) 0 16 = x3 ++ x4 :=
  (@fld_below 16 16 0 16 (x0 ++ x1 ++ x2) (x3 ++ x4) (by decide)).trans ((@fld_across 10 6 10 x3 x4).trans (congrArg (fun z : BitVec 10 => z ++ x4) (fld_all x3)))
theorem fld_w3_0_6 (x0 : BitVec 6) (x1 : BitVec 5) (x2 : BitVec 5) (x3 : BitVec 10) (x4 : BitVec 6) : fld (m := 32) (x0 ++ x1 ++ x2 ++ (x3 ++ x4 : BitVec 16)) 0 6 = x4 :=
  (@fld_below 16 16 0 6 (x0 ++ x1 ++ x2) (x3 ++ x4) (by decide)).trans ((@fld_below 10 6 0 6 x3 x4 (by decide)).trans (fld_all x4))

/-! ### Words of the shape (6 5 5 5 (2 3 2 (3 1))) -/

theorem fld_w4_26_6 (x0 : BitVec 6) (x1 : BitVec 5) (x2 : BitVec 5) (x3 : BitVec 5) (x4 : BitVec 2) (x5 : BitVec 3) (x6 : BitVec 2) (x7 : BitVec 3) (x8 : BitVec 1) : fld (m := 32) (x0 ++ x1 ++ x2 ++ x3 ++ (x4 ++ x5 ++ x6 ++ (x7 ++ x8 : BitVec 4) : BitVec 11)) 26 6 = x0 :=
  (@fld_above 21 11 26 6 (x0 ++ x1 ++ x2 ++ x3) (x4 ++ x5 ++ x6 ++ (x7 ++ x8 : BitVec 4)) (by decide)).trans ((@fld_above 16 5 15 6 (x0 ++ x1 ++ x2) x3 (by decide)).trans ((@fld_above 11 5 10 6 (x0 ++ x1) x2 (by decide)).trans ((@fld_above 6 5 5 6 x0 x1 (by decide)).trans (fld_all x0))))
theorem fld_w4_23_3 (x0 : BitVec 6) (x1 : BitVec 5) (x2 : BitVec 5) (x3 : BitVec 5) (x4 : BitVec 2) (x5 : BitVec 3) (x6 : BitVec 2) (x7 : BitVec 3) (x8 : BitVec 1) : fld (m := 32) (x0 ++ x1 ++ x2 ++ x3 ++ (x4 ++ x5 ++ x6 ++ (x7 ++ x8 : BitVec 4) : BitVec 11)) 23 3 = fld x1 2 3 :=
  (@fld_above 21 11 23 3 (x0 ++ x1 ++ x2 ++ x3) (x4 ++ x5 ++ x6 ++ (x7 ++ x8 : BitVec 4)) (by decide)).trans ((@fld_above 16 5 12 3 (x0 ++ x1 ++ x2) x3 (by decide)).trans ((@fld_above 11 5 7 3 (x0 ++ x1) x2 (by decide)).trans ((@fld_below 6 5 2 3 x0 x1 (by decide)).trans (rfl))))
theorem fld_w4_21_5 (x0 : BitVec 6) (x1 : BitVec 5) (x2 : BitVec 5) (x3 : BitVec 5) (x4 : BitVec 2) (x5 : BitVec 3) (x6 : BitVec 2) (x7 : BitVec 3) (x8 : BitVec 1) : fld (m := 32) (x0 ++ x1 ++ x2 ++ x3 ++ (x4 ++ x5 ++ x6 ++ (x7 ++ x8 : BitVec 4) : BitVec 11)) 21 5 = x1 :=
  (@fld_above 21 11 21 5 (x0 ++ x1 ++ x2 ++ x3) (x4 ++ x5 ++ x6 ++ (x7 ++ x8 : BitVec 4)) (by decide)).trans ((@fld_above 16 5 10 5 (x0 ++ x1 ++ x2) x3 (by decide)).trans ((@fld_above 11 5 5 5 (x0 ++ x1) x2 (by decide)).trans ((@fld_below 6 5 0 5 x0 x1 (by decide)).trans (fld_all x1))))
theorem fld_w4_16_5 (x0 : BitVec 6) (x1 : BitVec 5) (x2 : BitVec 5) (x3 : BitVec 5) (x4 : BitVec 2) (x5 : BitVec 3) (x6 : BitVec 2) (x7 : BitVec 3) (x8 : BitVec 1) : fld (m := 32) (x0 ++ x1 ++ x2 ++ x3 ++ (x4 ++ x5 ++ x6 ++ (x7 ++ x8 : BitVec 4) : BitVec 11)) 16 5 = x2 :=
  (@fld_above 21 11 16 5 (x0 ++ x1 ++ x2 ++ x3) (x4 ++ x5 ++ x6 ++ (x7 ++ x8 : BitVec 4)) (by decide)).trans ((@fld_above 16 5 5 5 (x0 ++ x1 ++ x2) x3 (by decide)).trans ((@fld_below 11 5 0 5 (x0 ++ x1) x2 (by decide)).trans (fld_all x2)))
theorem fld_w4_11_5 (x0 : BitVec 6) (x1 : BitVec 5) (x2 : BitVec 5) (x3 : BitVec 5) (x4 : BitVec 2) (x5 : BitVec 3) (x6 : BitVec 2) (x7 : BitVec 3) (x8 : BitVec 1) : fld (m := 32) (x0 ++ x1 ++ x2 ++ x3 ++ (x4 ++ x5 ++ x6 ++ (x7 ++ x8 : BitVec 4) : BitVec 11)) 11 5 = x3 :=
  (@fld_above 21 11 11 5 (x0 ++ x1 ++ x2 ++ x3) (x4 ++ x5 ++ x6 ++ (x7 ++ x8 : BitVec 4)) (by decide)).trans ((@fld_below 16 5 0 5 (x0 ++ x1 ++ x2) x3 (by decide)).trans (fld_all x3))
theorem fld_w4_9_2 (x0 : BitVec 6) (x1 : BitVec 5) (x2 : BitVec 5) (x3 : BitVec 5) (x4 : BitVec 2) (x5 : BitVec 3) (x6 : BitVec 2) (x7 : BitVec 3) (x8 : BitVec 1) : fld (m := 32) (x0 ++ x1 ++ x2 ++ x3 ++ (x4 ++ x5 ++ x6 ++ (x7 ++ x8 : BitVec 4) : BitVec 11)) 9 2 = x4 :=
  (@fld_below 21 11 9 2 (x0 ++ x1 ++ x2 ++ x3) (x4 ++ x5 ++ x6 ++ (x7 ++ x8 : BitVec 4)) (by decide)).trans ((@fld_above 7 4 9 2 (x4 ++ x5 ++ x6) (x7 ++ x8) (by decide)).trans ((@fld_above 5 2 5 2 (x4 ++ x5) x6 (by decide)).trans ((@fld_above 2 3 3 2 x4 x5 (by decide)).trans (fld_all x4))))
theorem fld_w4_6_3 (x0 : BitVec 6) (x1 : BitVec 5) (x2 : BitVec 5) (x3 : BitVec 5) (x4 : BitVec 2) (x5 : BitVec 3) (x6 : BitVec 2) (x7 : BitVec 3) (x8 : BitVec 1) : fld (m := 32) (x0 ++ x1 ++ x2 ++ x3 ++ (x4 ++ x5 ++ x6 ++ (x7 ++ x8 : BitVec 4) : BitVec 11)) 6 3 = x5 :=
  (@fld_below 21 11 6 3 (x0 ++ x1 ++ x2 ++ x3) (x4 ++ x5 ++ x6 ++ (x7 ++ x8 : BitVec 4)) (by decide)).trans ((@fld_above 7 4 6 3 (x4 ++ x5 ++ x6) (x7 ++ x8) (by decide)).trans ((@fld_above 5 2 2 3 (x4 ++ x5) x6 (by decide)).trans ((@fld_below 2 3 0 3 x4 x5 (by decide)).trans (fld_all x5))))
theorem fld_w4_4_2 (x0 : BitVec 6) (x1 : BitVec 5) (x2 : BitVec 5) (x3 : BitVec 5) (x4 : BitVec 2) (x5 : BitVec 3) (x6 : BitVec 2) (x7 : BitVec 3) (x8 : BitVec 1) : fld (m := 32) (x0 ++ x1 ++ x2 ++ x3 ++ (x4 ++ x5 ++ x6 ++ (x7 ++ x8 : BitVec 4) : BitVec 11)) 4 2 = x6 :=
  (@fld_below 21 11 4 2 (x0 ++ x1 ++ x2 ++ x3) (x4 ++ x5 ++ x6 ++ (x7 ++ x8 : BitVec 4)) (by decide)).trans ((@fld_above 7 4 4 2 (x4 ++ x5 ++ x6) (x7 ++ x8) (by decide)).trans ((@fld_below 5 2 0 2 (x4 ++ x5) x6 (by decide)).trans (fld_all x6)))
theorem fld_w4_1_3 (x0 : BitVec 6) (x1 : BitVec 5) (x2 : BitVec 5) (x3 : BitVec 5) (x4 : BitVec 2) (x5 : BitVec 3) (x6 : BitVec 2) (x7 : BitVec 3) (x8 : BitVec 1) : fld (m := 32) (x0 ++ x1 ++ x2 ++ x3 ++ (x4 ++ x5 ++ x6 ++ (x7 ++ x8 : BitVec 4) : BitVec 11)) 1 3 = x7 :=
  (@fld_below 21 11 1 3 (x0 ++ x1 ++ x2 ++ x3) (x4 ++ x5 ++ x6 ++ (x7 ++ x8 : BitVec 4)) (by decide)).trans ((@fld_below 7 4 1 3 (x4 ++ x5 ++ x6) (x7 ++ x8) (by decide)).trans ((@fld_above 3 1 1 3 x7 x8 (by decide)).trans (fld_all x7)))
theorem fld_w4_0_16 (x0 : BitVec 6) (x1 : BitVec 5) (x2 : BitVec 5) (x3 : BitVec 5) (x4 : BitVec 2) (x5 : BitVec 3) (x6 : BitVec 2) (x7 : BitVec 3) (x8 : BitVec 1) : fld (m := 32) (x0 ++ x1 ++ x2 ++ x3 ++ (x4 ++ x5 ++ x6 ++ (x7 ++ x8 : BitVec 4) : BitVec 11)) 0 16 = x3 ++ (x4 ++ x5 ++ x6 ++ (x7 ++ x8 : BitVec 4)) :=
  (@fld_across 21 11 5 (x0 ++ x1 ++ x2 ++ x3) (x4 ++ x5 ++ x6 ++ (x7 ++ x8 : BitVec 4))).trans (congrArg (fun z : BitVec 5 => z ++ (x4 ++ x5 ++ x6 ++ (x7 ++ x8 : BitVec 4))) ((@fld_below 16 5 0 5 (x0 ++ x1 ++ x2) x3 (by decide)).trans (fld_all x3)))
theorem fld_w4_0_4 (x0 : BitVec 6) (x1 : BitVec 5) (x2 : BitVec 5) (x3 : BitVec 5) (x4 : BitVec 2) (x5 : BitVec 3) (x6 : BitVec 2) (x7 : BitVec 3) (x8 : BitVec 1) : fld (m := 32) (x0 ++ x1 ++ x2 ++ x3 ++ (x4 ++ x5 ++ x6 ++ (x7 ++ x8 : BitVec 4) : BitVec 11)) 0 4 = x7 ++ x8 :=
  (@fld_below 21 11 0 4 (x0 ++ x1 ++ x2 ++ x3) (x4 ++ x5 ++ x6 ++ (x7 ++ x8 : BitVec 4)) (by decide)).trans ((@fld_below 7 4 0 4 (x4 ++ x5 ++ x6) (x7 ++ x8) (by decide)).trans ((@fld_across 3 1 3 x7 x8).trans (congrArg (fun z : BitVec 3 => z ++ x8) (fld_all x7))))
theorem fld_w4_0_1 (x0 : BitVec 6) (x1 : BitVec 5) (x2 : BitVec 5) (x3 : BitVec 5) (x4 : BitVec 2) (x5 : BitVec 3) (x6 : BitVec 2) (x7 : BitVec 3) (x8 : BitVec 1) : fld (m := 32) (x0 ++ x1 ++ x2 ++ x3 ++ (x4 ++ x5 ++ x6 ++ (x7 ++ x8 : BitVec 4) : BitVec 11)) 0 1 = x8 :=
  (@fld_below 21 11 0 1 (x0 ++ x1 ++ x2 ++ x3) (x4 ++ x5 ++ x6 ++ (x7 ++ x8 : BitVec 4)) (by decide)).trans ((@fld_below 7 4 0 1 (x4 ++ x5 ++ x6) (x7 ++ x8) (by decide)).trans ((@fld_below 3 1 0 1 x7 x8 (by decide)).trans (fld_all x8)))

/-! ### Words of the shape (6 5 5 5 (2 3 2 4)) -/

theorem fld_w5_26_6 (x0 : BitVec 6) (x1 : BitVec 5) (x2 : BitVec 5) (x3 : BitVec 5) (x4 : BitVec 2) (x5 : BitVec 3) (x6 : BitVec 2) (x7 : BitVec 4) : fld (m := 32) (x0 ++ x1 ++ x2 ++ x3 ++ (x4 ++ x5 ++ x6 ++ x7 : BitVec 11)) 26 6 = x0 :=
  (@fld_above 21 11 26 6 (x0 ++ x1 ++ x2 ++ x3) (x4 ++ x5 ++ x6 ++ x7) (by decide)).trans ((@fld_above 16 5 15 6 (x0 ++ x1 ++ x2) x3 (by decide)).trans ((@fld_above 11 5 10 6 (x0 ++ x1) x2 (by decide)).trans ((@fld_above 6 5 5 6 x0 x1 (by decide)).trans (fld_all x0))))
theorem fld_w5_23_3 (x0 : BitVec 6) (x1 : BitVec 5) (x2 : BitVec 5) (x3 : BitVec 5) (x4 : BitVec 2) (x5 : BitVec 3) (x6 : BitVec 2) (x7 : BitVec 4) : fld (m := 32) (x0 ++ x1 ++ x2 ++ x3 ++ (x4 ++ x5 ++ x6 ++ x7 : BitVec 11)) 23 3 = fld x1 2 3 :=
  (@fld_above 21 11 23 3 (x0 ++ x1 ++ x2 ++ x3) (x4 ++ x5 ++ x6 ++ x7) (by decide)).trans ((@fld_above 16 5 12 3 (x0 ++ x1 ++ x2) x3 (by decide)).trans ((@fld_above 11 5 7 3 (x0 ++ x1) x2 (by decide)).trans ((@fld_below 6 5 2 3 x0 x1 (by decide)).trans (rfl))))
theorem fld_w5_21_5 (x0 : BitVec 6) (x1 : BitVec 5) (x2 : BitVec 5) (x3 : BitVec 5) (x4 : BitVec 2) (x5 : BitVec 3) (x6 : BitVec 2) (x7 : BitVec 4) : fld (m := 32) (x0 ++ x1 ++ x2 ++ x3 ++ (x4 ++ x5 ++ x6 ++ x7 : BitVec 11)) 21 5 = x1 :=
  (@fld_above 21 11 21 5 (x0 ++ x1 ++ x2 ++ x3) (x4 ++ x5 ++ x6 ++ x7) (by decide)).trans ((@fld_above 16 5 10 5 (x0 ++ x1 ++ x2) x3 (by decide)).trans ((@fld_above 11 5 5 5 (x0 ++ x1) x2 (by decide)).trans ((@fld_below 6 5 0 5 x0 x1 (by decide)).trans (fld_all x1))))
theorem fld_w5_16_5 (x0 : BitVec 6) (x1 : BitVec 5) (x2 : BitVec 5) (x3 : BitVec 5) (x4 : BitVec 2) (x5 : BitVec 3) (x6 : BitVec 2) (x7 : BitVec 4) : fld (m := 32) (x0 ++ x1 ++ x2 ++ x3 ++ (x4 ++ x5 ++ x6 ++ x7 : BitVec 11)) 16 5 = x2 :=
  (@fld_above 21 11 16 5 (x0 ++ x1 ++ x2 ++ x3) (x4 ++ x5 ++ x6 ++ x7) (by decide)).trans ((@fld_above 16 5 5 5 (x0 ++ x1 ++ x2) x3 (by decide)).trans ((@fld_below 11 5 0 5 (x0 ++ x1) x2 (by decide)).trans (fld_all x2)))
theorem fld_w5_11_5 (x0 : BitVec 6) (x1 : BitVec 5) (x2 : BitVec 5) (x3 : BitVec 5) (x4 : BitVec 2) (x5 : BitVec 3) (x6 : BitVec 2) (x7 : BitVec 4) : fld (m := 32) (x0 ++ x1 ++ x2 ++ x3 ++ (x4 ++ x5 ++ x6 ++ x7 : BitVec 11)) 11 5 = x3 :=
  (@fld_above 21 11 11 5 (x0 ++ x1 ++ x2 ++ x3) (x4 ++ x5 ++ x6 ++ x7) (by decide)).trans ((@fld_below 16 5 0 5 (x0 ++ x1 ++ x2) x3 (by decide)).trans (fld_all x3))
theorem fld_w5_9_2 (x0 : BitVec 6) (x1 : BitVec 5) (x2 : BitVec 5) (x3 : BitVec 5) (x4 : BitVec 2) (x5 : BitVec 3) (x6 : BitVec 2) (x7 : BitVec 4) : fld (m := 32) (x0 ++ x1 ++ x2 ++ x3 ++ (x4 ++ x5 ++ x6 ++ x7 : BitVec 11)) 9 2 = x4 :=
  (@fld_below 21 11 9 2 (x0 ++ x1 ++ x2 ++ x3) (x4 ++ x5 ++ x6 ++ x7) (by decide)).trans ((@fld_above 7 4 9 2 (x4 ++ x5 ++ x6) x7 (by decide)).trans ((@fld_above 5 2 5 2 (x4 ++ x5) x6 (by decide)).trans ((@fld_above 2 3 3 2 x4 x5 (by decide)).trans (fld_all x4))))
theorem fld_w5_6_3 (x0 : BitVec 6) (x1 : BitVec 5) (x2 : BitVec 5) (x3 : BitVec 5) (x4 : BitVec 2) (x5 : BitVec 3) (x6 : BitVec 2) (x7 : BitVec 4) : fld (m := 32) (x0 ++ x1 ++ x2 ++ x3 ++ (x4 ++ x5 ++ x6 ++ x7 : BitVec 11)) 6 3 = x5 :=
  (@fld_below 21 11 6 3 (x0 ++ x1 ++ x2 ++ x3) (x4 ++ x5 ++ x6 ++ x7) (by decide)).trans ((@fld_above 7 4 6 3 (x4 ++ x5 ++ x6) x7 (by decide)).trans ((@fld_above 5 2 2 3 (x4 ++ x5) x6 (by decide)).trans ((@fld_below 2 3 0 3 x4 x5 (by decide)).trans (fld_all x5))))
theorem fld_w5_4_2 (x0 : BitVec 6) (x1 : BitVec 5) (x2 : BitVec 5) (x3 : BitVec 5) (x4 : BitVec 2) (x5 : BitVec 3) (x6 : BitVec 2) (x7 : BitVec 4) : fld (m := 32) (x0 ++ x1 ++ x2 ++ x3 ++ (x4 ++ x5 ++ x6 ++ x7 : BitVec 11)) 4 2 = x6 :=
  (@fld_below 21 11 4 2 (x0 ++ x1 ++ x2 ++ x3) (x4 ++ x5 ++ x6 ++ x7) (by decide)).trans ((@fld_above 7 4 4 2 (x4 ++ x5 ++ x6) x7 (by decide)).trans ((@fld_below 5 2 0 2 (x4 ++ x5) x6 (by decide)).trans (fld_all x6)))
theorem fld_w5_0_16 (x0 : BitVec 6) (x1 : BitVec 5) (x2 : BitVec 5) (x3 : BitVec 5) (x4 : BitVec 2) (x5 : BitVec 3) (x6 : BitVec 2) (x7 : BitVec 4) : fld (m := 32) (x0 ++ x1 ++ x2 ++ x3 ++ (x4 ++ x5 ++ x6 ++ x7 : BitVec 11)) 0 16 = x3 ++ (x4 ++ x5 ++ x6 ++ x7) :=
  (@fld_across 21 11 5 (x0 ++ x1 ++ x2 ++ x3) (x4 ++ x5 ++ x6 ++ x7)).trans (congrArg (fun z : BitVec 5 => z ++ (x4 ++ x5 ++ x6 ++ x7)) ((@fld_below 16 5 0 5 (x0 ++ x1 ++ x2) x3 (by decide)).trans (fld_all x3)))
theorem fld_w5_0_4 (x0 : BitVec 6) (x1 : BitVec 5) (x2 : BitVec 5) (x3 : BitVec 5) (x4 : BitVec 2) (x5 : BitVec 3) (x6 : BitVec 2) (x7 : BitVec 4) : fld (m := 32) (x0 ++ x1 ++ x2 ++ x3 ++ (x4 ++ x5 ++ x6 ++ x7 : BitVec 11)) 0 4 = x7 :=
  (@fld_below 21 11 0 4 (x0 ++ x1 ++ x2 ++ x3) (x4 ++ x5 ++ x6 ++ x7) (by decide)).trans ((@fld_below 7 4 0 4 (x4 ++ x5 ++ x6) x7 (by decide)).trans (fld_all x7))

/-! ### Words of the shape (6 5 5 5 (2 3 2 (2 1 1))) -/

theorem fld_w6_26_6 (x0 : BitVec 6) (x1 : BitVec 5) (x2 : BitVec 5) (x3 : BitVec 5) (x4 : BitVec 2) (x5 : BitVec 3) (x6 : BitVec 2) (x7 : BitVec 2) (x8 : BitVec 1) (x9 : BitVec 1) : fld (m := 32) (x0 ++ x1 ++ x2 ++ x3 ++ (x4 ++ x5 ++ x6 ++ (x7 ++ x8 ++ x9 : BitVec 4) : BitVec 11)) 26 6 = x0 :=
  (@fld_above 21 11 26 6 (x0 ++ x1 ++ x2 ++ x3) (x4 ++ x5 ++ x6 ++ (x7 ++ x8 ++ x9 : BitVec 4)) (by decide)).trans ((@fld_above 16 5 15 6 (x0 ++ x1 ++ x2) x3 (by decide)).trans ((@fld_above 11 5 10 6 (x0 ++ x1) x2 (by decide)).trans ((@fld_above 6 5 5 6 x0 x1 (by decide)).trans (fld_all x0))))
theorem fld_w6_23_3 (x0 : BitVec 6) (x1 : BitVec 5) (x2 : BitVec 5) (x3 : BitVec 5) (x4 : BitVec 2) (x5 : BitVec 3) (x6 : BitVec 2) (x7 : BitVec 2) (x8 : BitVec 1) (x9 : BitVec 1) : fld (m := 32) (x0 ++ x1 ++ x2 ++ x3 ++ (x4 ++ x5 ++ x6 ++ (x7 ++ x8 ++ x9 : BitVec 4) : BitVec 11)) 23 3 = fld x1 2 3 :=
  (@fld_above 21 11 23 3 (x0 ++ x1 ++ x2 ++ x3) (x4 ++ x5 ++ x6 ++ (x7 ++ x8 ++ x9 : BitVec 4)) (by decide)).trans ((@fld_above 16 5 12 3 (x0 ++ x1 ++ x2) x3 (by decide)).trans ((@fld_above 11 5 7 3 (x0 ++ x1) x2 (by decide)).trans ((@fld_below 6 5 2 3 x0 x1 (by decide)).trans (rfl))))
theorem fld_w6_21_5 (x0 : BitVec 6) (x1 : BitVec 5) (x2 : BitVec 5) (x3 : BitVec 5) (x4 : BitVec 2) (x5 : BitVec 3) (x6 : BitVec 2) (x7 : BitVec 2) (x8 : BitVec 1) (x9 : BitVec 1) : fld (m := 32) (x0 ++ x1 ++ x2 ++ x3 ++ (x4 ++ x5 ++ x6 ++ (x7 ++ x8 ++ x9 : BitVec 4) : BitVec 11)) 21 5 = x1 :=
  (@fld_above 21 11 21 5 (x0 ++ x1 ++ x2 ++ x3) (x4 ++ x5 ++ x6 ++ (x7 ++ x8 ++ x9 : BitVec 4)) (by decide)).trans ((@fld_above 16 5 10 5 (x0 ++ x1 ++ x2) x3 (by decide)).trans ((@fld_above 11 5 5 5 (x0 ++ x1) x2 (by decide)).trans ((@fld_below 6 5 0 5 x0 x1 (by decide)).trans (fld_all x1))))
theorem fld_w6_16_5 (x0 : BitVec 6) (x1 : BitVec 5) (x2 : BitVec 5) (x3 : BitVec 5) (x4 : BitVec 2) (x5 : BitVec 3) (x6 : BitVec 2) (x7 : BitVec 2) (x8 : BitVec 1) (x9 : BitVec 1) : fld (m := 32) (x0 ++ x1 ++ x2 ++ x3 ++ (x4 ++ x5 ++ x6 ++ (x7 ++ x8 ++ x9 : BitVec 4) : BitVec 11)) 16 5 = x2 :=
  (@fld_above 21 11 16 5 (x0 ++ x1 ++ x2 ++ x3) (x4 ++ x5 ++ x6 ++ (x7 ++ x8 ++ x9 : BitVec 4)) (by decide)).trans ((@fld_above 16 5 5 5 (x0 ++ x1 ++ x2) x3 (by decide)).trans ((@fld_below 11 5 0 5 (x0 ++ x1) x2 (by decide)).trans (fld_all x2)))
theorem fld_w6_11_5 (x0 : BitVec 6) (x1 : BitVec 5) (x2 : BitVec 5) (x3 : BitVec 5) (x4 : BitVec 2) (x5 : BitVec 3) (x6 : BitVec 2) (x7 : BitVec 2) (x8 : BitVec 1) (x9 : BitVec 1) : fld (m := 32) (x0 ++ x1 ++ x2 ++ x3 ++ (x4 ++ x5 ++ x6 ++ (x7 ++ x8 ++ x9 : BitVec 4) : BitVec 11)) 11 5 = x3 :=
  (@fld_above 21 11 11 5 (x0 ++ x1 ++ x2 ++ x3) (x4 ++ x5 ++ x6 ++ (x7 ++ x8 ++ x9 : BitVec 4)) (by decide)).trans ((@fld_below 16 5 0 5 (x0 ++ x1 ++ x2) x3 (by decide)).trans (fld_all x3))
theorem fld_w6_9_2 (x0 : BitVec 6) (x1 : BitVec 5) (x2 : BitVec 5) (x3 : BitVec 5) (x4 : BitVec 2) (x5 : BitVec 3) (x6 : BitVec 2) (x7 : BitVec 2) (x8 : BitVec 1) (x9 : BitVec 1) : fld (m := 32) (x0 ++ x1 ++ x2 ++ x3 ++ (x4 ++ x5 ++ x6 ++ (x7 ++ x8 ++ x9 : BitVec 4) : BitVec 11)) 9 2 = x4 :=
  (@fld_below 21 11 9 2 (x0 ++ x1 ++ x2 ++ x3) (x4 ++ x5 ++ x6 ++ (x7 ++ x8 ++ x9 : BitVec 4)) (by decide)).trans ((@fld_above 7 4 9 2 (x4 ++ x5 ++ x6) (x7 ++ x8 ++ x9) (by decide)).trans ((@fld_above 5 2 5 2 (x4 ++ x5) x6 (by decide)).trans ((@fld_above 2 3 3 2 x4 x5 (by decide)).trans (fld_all x4))))
theorem fld_w6_6_3 (x0 : BitVec 6) (x1 : BitVec 5) (x2 : BitVec 5) (x3 : BitVec 5) (x4 : BitVec 2) (x5 : BitVec 3) (x6 : BitVec 2) (x7 : BitVec 2) (x8 : BitVec 1) (x9 : BitVec 1) : fld (m := 32) (x0 ++ x1 ++ x2 ++ x3 ++ (x4 ++ x5 ++ x6 ++ (x7 ++ x8 ++ x9 : BitVec 4) : BitVec 11)) 6 3 = x5 :=
  (@fld_below 21 11 6 3 (x0 ++ x1 ++ x2 ++ x3) (x4 ++ x5 ++ x6 ++ (x7 ++ x8 ++ x9 : BitVec 4)) (by decide)).trans ((@fld_above 7 4 6 3 (x4 ++ x5 ++ x6) (x7 ++ x8 ++ x9) (by decide)).trans ((@fld_above 5 2 2 3 (x4 ++ x5) x6 (by decide)).trans ((@fld_below 2 3 0 3 x4 x5 (by decide)).trans (fld_all x5))))
theorem fld_w6_4_2 (x0 : BitVec 6) (x1 : BitVec 5) (x2 : BitVec 5) (x3 : BitVec 5) (x4 : BitVec 2) (x5 : BitVec 3) (x6 : BitVec 2) (x7 : BitVec 2) (x8 : BitVec 1) (x9 : BitVec 1) : fld (m := 32) (x0 ++ x1 ++ x2 ++ x3 ++ (x4 ++ x5 ++ x6 ++ (x7 ++ x8 ++ x9 : BitVec 4) : BitVec 11)) 4 2 = x6 :=
  (@fld_below 21 11 4 2 (x0 ++ x1 ++ x2 ++ x3) (x4 ++ x5 ++ x6 ++ (x7 ++ x8 ++ x9 : BitVec 4)) (by decide)).trans ((@fld_above 7 4 4 2 (x4 ++ x5 ++ x6) (x7 ++ x8 ++ x9) (by decide)).trans ((@fld_below 5 2 0 2 (x4 ++ x5) x6 (by decide)).trans (fld_all x6)))
theorem fld_w6_2_2 (x0 : BitVec 6) (x1 : BitVec 5) (x2 : BitVec 5) (x3 : BitVec 5) (x4 : BitVec 2) (x5 : BitVec 3) (x6 : BitVec 2) (x7 : BitVec 2) (x8 : BitVec 1) (x9 : BitVec 1) : fld (m := 32) (x0 ++ x1 ++ x2 ++ x3 ++ (x4 ++ x5 ++ x6 ++ (x7 ++ x8 ++ x9 : BitVec 4) : BitVec 11)) 2 2 = x7 :=
  (@fld_below 21 11 2 2 (x0 ++ x1 ++ x2 ++ x3) (x4 ++ x5 ++ x6 ++ (x7 ++ x8 ++ x9 : BitVec 4)) (by decide)).trans ((@fld_below 7 4 2 2 (x4 ++ x5 ++ x6) (x7 ++ x8 ++ x9) (by decide)).trans ((@fld_above 3 1 2 2 (x7 ++ x8) x9 (by decide)).trans ((@fld_above 2 1 1 2 x7 x8 (by decide)).trans (fld_all x7))))
theorem fld_w6_1_1 (x0 : BitVec 6) (x1 : BitVec 5) (x2 : BitVec 5) (x3 : BitVec 5) (x4 : BitVec 2) (x5 : BitVec 3) (x6 : BitVec 2) (x7 : BitVec 2) (x8 : BitVec 1) (x9 : BitVec 1) : fld (m := 32) (x0 ++ x1 ++ x2 ++ x3 ++ (x4 ++ x5 ++ x6 ++ (x7 ++ x8 ++ x9 : BitVec 4) : BitVec 11)) 1 1 = x8 :=
  (@fld_below 21 11 1 1 (x0 ++ x1 ++ x2 ++ x3) (x4 ++ x5 ++ x6 ++ (x7 ++ x8 ++ x9 : BitVec 4)) (by decide)).trans ((@fld_below 7 4 1 1 (x4 ++ x5 ++ x6) (x7 ++ x8 ++ x9) (by decide)).trans ((@fld_above 3 1 1 1 (x7 ++ x8) x9 (by decide)).trans ((@fld_below 2 1 0 1 x7 x8 (by decide)).trans (fld_all x8))))
theorem fld_w6_0_16 (x0 : BitVec 6) (x1 : BitVec 5) (x2 : BitVec 5) (x3 : BitVec 5) (x4 : BitVec 2) (x5 : BitVec 3) (x6 : BitVec 2) (x7 : BitVec 2) (x8 : BitVec 1) (x9 : BitVec 1) : fld (m := 32) (x0 ++ x1 ++ x2 ++ x3 ++ (x4 ++ x5 ++ x6 ++ (x7 ++ x8 ++ x9 : BitVec 4) : BitVec 11)) 0 16 = x3 ++ (x4 ++ x5 ++ x6 ++ (x7 ++ x8 ++ x9 : BitVec 4)) :=
  (@fld_across 21 11 5 (x0 ++ x1 ++ x2 ++ x3) (x4 ++ x5 ++ x6 ++ (x7 ++ x8 ++ x9 : BitVec 4))).trans (congrArg (fun z : BitVec 5 => z ++ (x4 ++ x5 ++ x6 ++ (x7 ++ x8 ++ x9 : BitVec 4))) ((@fld_below 16 5 0 5 (x0 ++ x1 ++ x2) x3 (by decide)).trans (fld_all x3)))
theorem fld_w6_0_4 (x0 : BitVec 6) (x1 : BitVec 5) (x2 : BitVec 5) (x3 : BitVec 5) (x4 : BitVec 2) (x5 : BitVec 3) (x6 : BitVec 2) (x7 : BitVec 2) (x8 : BitVec 1) (x9 : BitVec 1) : fld (m := 32) (x0 ++ x1 ++ x2 ++ x3 ++ (x4 ++ x5 ++ x6 ++ (x7 ++ x8 ++ x9 : BitVec 4) : BitVec 11)) 0 4 = x7 ++ x8 ++ x9 :=
  (@fld_below 21 11 0 4 (x0 ++ x1 ++ x2 ++ x3) (x4 ++ x5 ++ x6 ++ (x7 ++ x8 ++ x9 : BitVec 4)) (by decide)).trans ((@fld_below 7 4 0 4 (x4 ++ x5 ++ x6) (x7 ++ x8 ++ x9) (by decide)).trans ((@fld_across 3 1 3 (x7 ++ x8) x9).trans (congrArg (fun z : BitVec 3 => z ++ x9) ((@fld_across 2 1 2 x7 x8).trans (congrArg (fun z : BitVec 2 => z ++ x8) (fld_all x7))))))
theorem fld_w6_0_1 (x0 : BitVec 6) (x1 : BitVec 5) (x2 : BitVec 5) (x3 : BitVec 5) (x4 : BitVec 2) (x5 : BitVec 3) (x6 : BitVec 2) (x7 : BitVec 2) (x8 : BitVec 1) (x9 : BitVec 1) : fld (m := 32) (x0 ++ x1 ++ x2 ++ x3 ++ (x4 ++ x5 ++ x6 ++ (x7 ++ x8 ++ x9 : BitVec 4) : BitVec 11)) 0 1 = x9 :=
  (@fld_below 21 11 0 1 (x0 ++ x1 ++ x2 ++ x3) (x4 ++ x5 ++ x6 ++ (x7 ++ x8 ++ x9 : BitVec 4)) (by decide)).trans ((@fld_below 7 4 0 1 (x4 ++ x5 ++ x6) (x7 ++ x8 ++ x9) (by decide)).trans ((@fld_below 3 1 0 1 (x7 ++ x8) x9 (by decide)).trans (fld_all x9)))

/-! ### Words of the shape (6 5 5 5 ((1 1) 3 2 4)) -/

theorem fld_w7_26_6 (x0 : BitVec 6) (x1 : BitVec 5) (x2 : BitVec 5) (x3 : BitVec 5) (x4 : BitVec 1) (x5 : BitVec 1) (x6 : BitVec 3) (x7 : BitVec 2) (x8 : BitVec 4) : fld (m := 32) (x0 ++ x1 ++ x2 ++ x3 ++ ((x4 ++ x5 : BitVec 2) ++ x6 ++ x7 ++ x8 : BitVec 11)) 26 6 = x0 :=
  (@fld_above 21 11 26 6 (x0 ++ x1 ++ x2 ++ x3) ((x4 ++ x5 : BitVec 2) ++ x6 ++ x7 ++ x8) (by decide)).trans ((@fld_above 16 5 15 6 (x0 ++ x1 ++ x2) x3 (by decide)).trans ((@fld_above 11 5 10 6 (x0 ++ x1) x2 (by decide)).trans ((@fld_above 6 5 5 6 x0 x1 (by decide)).trans (fld_all x0))))
theorem fld_w7_23_3 (x0 : BitVec 6) (x1 : BitVec 5) (x2 : BitVec 5) (x3 : BitVec 5) (x4 : BitVec 1) (x5 : BitVec 1) (x6 : BitVec 3) (x7 : BitVec 2) (x8 : BitVec 4) : fld (m := 32) (x0 ++ x1 ++ x2 ++ x3 ++ ((x4 ++ x5 : BitVec 2) ++ x6 ++ x7 ++ x8 : BitVec 11)) 23 3 = fld x1 2 3 :=
  (@fld_above 21 11 23 3 (x0 ++ x1 ++ x2 ++ x3) ((x4 ++ x5 : BitVec 2) ++ x6 ++ x7 ++ x8) (by decide)).trans ((@fld_above 16 5 12 3 (x0 ++ x1 ++ x2) x3 (by decide)).trans ((@fld_above 11 5 7 3 (x0 ++ x1) x2 (by decide)).trans ((@fld_below 6 5 2 3 x0 x1 (by decide)).trans (rfl))))
theorem fld_w7_21_5 (x0 : BitVec 6) (x1 : BitVec 5) (x2 : BitVec 5) (x3 : BitVec 5) (x4 : BitVec 1) (x5 : BitVec 1) (x6 : BitVec 3) (x7 : BitVec 2) (x8 : BitVec 4) : fld (m := 32) (x0 ++ x1 ++ x2 ++ x3 ++ ((x4 ++ x5 : BitVec 2) ++ x6 ++ x7 ++ x8 : BitVec 11)) 21 5 = x1 :=
  (@fld_above 21 11 21 5 (x0 ++ x1 ++ x2 ++ x3) ((x4 ++ x5 : BitVec 2) ++ x6 ++ x7 ++ x8) (by decide)).trans ((@fld_above 16 5 10 5 (x0 ++ x1 ++ x2) x3 (by decide)).trans ((@fld_above 11 5 5 5 (x0 ++ x1) x2 (by decide)).trans ((@fld_below 6 5 0 5 x0 x1 (by decide)).trans (fld_all x1))))
theorem fld_w7_16_5 (x0 : BitVec 6) (x1 : BitVec 5) (x2 : BitVec 5) (x3 : BitVec 5) (x4 : BitVec 1) (x5 : BitVec 1) (x6 : BitVec 3) (x7 : BitVec 2) (x8 : BitVec 4) : fld (m := 32) (x0 ++ x1 ++ x2 ++ x3 ++ ((x4 ++ x5 : BitVec 2) ++ x6 ++ x7 ++ x8 : BitVec 11)) 16 5 = x2 :=
  (@fld_above 21 11 16 5 (x0 ++ x1 ++ x2 ++ x3) ((x4 ++ x5 : BitVec 2) ++ x6 ++ x7 ++ x8) (by decide)).trans ((@fld_above 16 5 5 5 (x0 ++ x1 ++ x2) x3 (by decide)).trans ((@fld_below 11 5 0 5 (x0 ++ x1) x2 (by decide)).trans (fld_all x2)))
theorem fld_w7_11_5 (x0 : BitVec 6) (x1 : BitVec 5) (x2 : BitVec 5) (x3 : BitVec 5) (x4 : BitVec 1) (x5 : BitVec 1) (x6 : BitVec 3) (x7 : BitVec 2) (x8 : BitVec 4) : fld (m := 32) (x0 ++ x1 ++ x2 ++ x3 ++ ((x4 ++ x5 : BitVec 2) ++ x6 ++ x7 ++ x8 : BitVec 11)) 11 5 = x3 :=
  (@fld_above 21 11 11 5 (x0 ++ x1 ++ x2 ++ x3) ((x4 ++ x5 : BitVec 2) ++ x6 ++ x7 ++ x8) (by decide)).trans ((@fld_below 16 5 0 5 (x0 ++ x1 ++ x2) x3 (by decide)).trans (fld_all x3))
theorem fld_w7_10_1 (x0 : BitVec 6) (x1 : BitVec 5) (x2 : BitVec 5) (x3 : BitVec 5) (x4 : BitVec 1) (x5 : BitVec 1) (x6 : BitVec 3) (x7 : BitVec 2) (x8 : BitVec 4) : fld (m := 32) (x0 ++ x1 ++ x2 ++ x3 ++ ((x4 ++ x5 : BitVec 2) ++ x6 ++ x7 ++ x8 : BitVec 11)) 10 1 = x4 :=
  (@fld_below 21 11 10 1 (x0 ++ x1 ++ x2 ++ x3) ((x4 ++ x5 : BitVec 2) ++ x6 ++ x7 ++ x8) (by decide)).trans ((@fld_above 7 4 10 1 ((x4 ++ x5 : BitVec 2) ++ x6 ++ x7) x8 (by decide)).trans ((@fld_above 5 2 6 1 ((x4 ++ x5 : BitVec 2) ++ x6) x7 (by decide)).trans ((@fld_above 2 3 4 1 (x4 ++ x5) x6 (by decide)).trans ((@fld_above 1 1 1 1 x4 x5 (by decide)).trans (fld_all x4)))))
theorem fld_w7_9_2 (x0 : BitVec 6) (x1 : BitVec 5) (x2 : BitVec 5) (x3 : BitVec 5) (x4 : BitVec 1) (x5 : BitVec 1) (x6 : BitVec 3) (x7 : BitVec 2) (x8 : BitVec 4) : fld (m := 32) (x0 ++ x1 ++ x2 ++ x3 ++ ((x4 ++ x5 : BitVec 2) ++ x6 ++ x7 ++ x8 : BitVec 11)) 9 2 = x4 ++ x5 :=
  (@fld_below 21 11 9 2 (x0 ++ x1 ++ x2 ++ x3) ((x4 ++ x5 : BitVec 2) ++ x6 ++ x7 ++ x8) (by decide)).trans ((@fld_above 7 4 9 2 ((x4 ++ x5 : BitVec 2) ++ x6 ++ x7) x8 (by decide)).trans ((@fld_above 5 2 5 2 ((x4 ++ x5 : BitVec 2) ++ x6) x7 (by decide)).trans ((@fld_above 2 3 3 2 (x4 ++ x5) x6 (by decide)).trans ((@fld_across 1 1 1 x4 x5).trans (congrArg (fun z : BitVec 1 => z ++ x5) (fld_all x4))))))
theorem fld_w7_9_1 (x0 : BitVec 6) (x1 : BitVec 5) (x2 : BitVec 5) (x3 : BitVec 5) (x4 : BitVec 1) (x5 : BitVec 1) (x6 : BitVec 3) (x7 : BitVec 2) (x8 : BitVec 4) : fld (m := 32) (x0 ++ x1 ++ x2 ++ x3 ++ ((x4 ++ x5 : BitVec 2) ++ x6 ++ x7 ++ x8 : BitVec 11)) 9 1 = x5 :=
  (@fld_below 21 11 9 1 (x0 ++ x1 ++ x2 ++ x3) ((x4 ++ x5 : BitVec 2) ++ x6 ++ x7 ++ x8) (by decide)).trans ((@fld_above 7 4 9 1 ((x4 ++ x5 : BitVec 2) ++ x6 ++ x7) x8 (by decide)).trans ((@fld_above 5 2 5 1 ((x4 ++ x5 : BitVec 2) ++ x6) x7 (by decide)).trans ((@fld_above 2 3 3 1 (x4 ++ x5) x6 (by decide)).trans ((@fld_below 1 1 0 1 x4 x5 (by decide)).trans (fld_all x5)))))
theorem fld_w7_6_3 (x0 : BitVec 6) (x1 : BitVec 5) (x2 : BitVec 5) (x3 : BitVec 5) (x4 : BitVec 1) (x5 : BitVec 1) (x6 : BitVec 3) (x7 : BitVec 2) (x8 : BitVec 4) : fld (m := 32) (x0 ++ x1 ++ x2 ++ x3 ++ ((x4 ++ x5 : BitVec 2) ++ x6 ++ x7 ++ x8 : BitVec 11)) 6 3 = x6 :=
  (@fld_below 21 11 6 3 (x0 ++ x1 ++ x2 ++ x3) ((x4 ++ x5 : BitVec 2) ++ x6 ++ x7 ++ x8) (by decide)).trans ((@fld_above 7 4 6 3 ((x4 ++ x5 : BitVec 2) ++ x6 ++ x7) x8 (by decide)).trans ((@fld_above 5 2 2 3 ((x4 ++ x5 : BitVec 2) ++ x6) x7 (by decide)).trans ((@fld_below 2 3 0 3 (x4 ++ x5) x6 (by decide)).trans (fld_all x6))))
theorem fld_w7_4_2 (x0 : BitVec 6) (x1 : BitVec 5) (x2 : BitVec 5) (x3 : BitVec 5) (x4 : BitVec 1) (x5 : BitVec 1) (x6 : BitVec 3) (x7 : BitVec 2) (x8 : BitVec 4) : fld (m := 32) (x0 ++ x1 ++ x2 ++ x3 ++ ((x4 ++ x5 : BitVec 2) ++ x6 ++ x7 ++ x8 : BitVec 11)) 4 2 = x7 :=
  (@fld_below 21 11 4 2 (x0 ++ x1 ++ x2 ++ x3) ((x4 ++ x5 : BitVec 2) ++ x6 ++ x7 ++ x8) (by decide)).trans ((@fld_above 7 4 4 2 ((x4 ++ x5 : BitVec 2) ++ x6 ++ x7) x8 (by decide)).trans ((@fld_below 5 2 0 2 ((x4 ++ x5 : BitVec 2) ++ x6) x7 (by decide)).trans (fld_all x7)))
theorem fld_w7_0_16 (x0 : BitVec 6) (x1 : BitVec 5) (x2 : BitVec 5) (x3 : BitVec 5) (x4 : BitVec 1) (x5 : BitVec 1) (x6 : BitVec 3) (x7 : BitVec 2) (x8 : BitVec 4) : fld (m := 32) (x0 ++ x1 ++ x2 ++ x3 ++ ((x4 ++ x5 : BitVec 2) ++ x6 ++ x7 ++ x8 : BitVec 11)) 0 16 = x3 ++ ((x4 ++ x5 : BitVec 2) ++ x6 ++ x7 ++ x8) :=
  (@fld_across 21 11 5 (x0 ++ x1 ++ x2 ++ x3) ((x4 ++ x5 : BitVec 2) ++ x6 ++ x7 ++ x8)).trans (congrArg (fun z : BitVec 5 => z ++ ((x4 ++ x5 : BitVec 2) ++ x6 ++ x7 ++ x8)) ((@fld_below 16 5 0 5 (x0 ++ x1 ++ x2) x3 (by decide)).trans (fld_all x3)))
theorem fld_w7_0_4 (x0 : BitVec 6) (x1 : BitVec 5) (x2 : BitVec 5) (x3 : BitVec 5) (x4 : BitVec 1) (x5 : BitVec 1) (x6 : BitVec 3) (x7 : BitVec 2) (x8 : BitVec 4) : fld (m := 32) (x0 ++ x1 ++ x2 ++ x3 ++ ((x4 ++ x5 : BitVec 2) ++ x6 ++ x7 ++ x8 : BitVec 11)) 0 4 = x8 :=
  (@fld_below 21 11 0 4 (x0 ++ x1 ++ x2 ++ x3) ((x4 ++ x5 : BitVec 2) ++ x6 ++ x7 ++ x8) (by decide)).trans ((@fld_below 7 4 0 4 ((x4 ++ x5 : BitVec 2) ++ x6 ++ x7) x8 (by decide)).trans (fld_all x8))

/-! ### Words of the shape (6 26) -/

theorem fld_w8_26_6 (x0 : BitVec 6) (x1 : BitVec 26) : fld (m := 32) (x0 ++ x1) 26 6 = x0 :=
  (@fld_above 6 26 26 6 x0 x1 (by decide)).trans (fld_all x0)
theorem fld_w8_23_3 (x0 : BitVec 6) (x1 : BitVec 26) : fld (m := 32) (x0 ++ x1) 23 3 = fld x1 23 3 :=
  (@fld_below 6 26 23 3 x0 x1 (by decide)).trans (rfl)
theorem fld_w8_21_5 (x0 : BitVec 6) (x1 : BitVec 26) : fld (m := 32) (x0 ++ x1) 21 5 = fld x1 21 5 :=
  (@fld_below 6 26 21 5 x0 x1 (by decide)).trans (rfl)
theorem fld_w8_16_5 (x0 : BitVec 6) (x1 : BitVec 26) : fld (m := 32) (x0 ++ x1) 16 5 = fld x1 16 5 :=
  (@fld_below 6 26 16 5 x0 x1 (by decide)).trans (rfl)
theorem fld_w8_11_5 (x0 : BitVec 6) (x1 : BitVec 26) : fld (m := 32) (x0 ++ x1) 11 5 = fld x1 11 5 :=
  (@fld_below 6 26 11 5 x0 x1 (by decide)).trans (rfl)
theorem fld_w8_0_26 (x0 : BitVec 6) (x1 : BitVec 26) : fld (m := 32) (x0 ++ x1) 0 26 = x1 :=
  (@fld_below 6 26 0 26 x0 x1 (by decide)).trans (fld_all x1)
theorem fld_w8_0_16 (x0 : BitVec 6) (x1 : BitVec 26) : fld (m := 32) (x0 ++ x1) 0 16 = fld x1 0 16 :=
  (@fld_below 6 26 0 16 x0 x1 (by decide)).trans (rfl)

/-! ### Words of the shape (6 3 3 5 5 10) -/

theorem fld_w9_26_6 (x0 : BitVec 6) (x1 : BitVec 3) (x2 : BitVec 3) (x3 : BitVec 5) (x4 : BitVec 5) (x5 : BitVec 10) : fld (m := 32) (x0 ++ x1 ++ x2 ++ x3 ++ x4 ++ x5) 26 6 = x0 :=
  (@fld_above 22 10 26 6 (x0 ++ x1 ++ x2 ++ x3 ++ x4) x5 (by decide)).trans ((@fld_above 17 5 16 6 (x0 ++ x1 ++ x2 ++ x3) x4 (by decide)).trans ((@fld_above 12 5 11 6 (x0 ++ x1 ++ x2) x3 (by decide)).trans ((@fld_above 9 3 6 6 (x0 ++ x1) x2 (by decide)).trans ((@fld_above 6 3 3 6 x0 x1 (by decide)).trans (fld_all x0)))))
theorem fld_w9_23_3 (x0 : BitVec 6) (x1 : BitVec 3) (x2 : BitVec 3) (x3 : BitVec 5) (x4 : BitVec 5) (x5 : BitVec 10) : fld (m := 32) (x0 ++ x1 ++ x2 ++ x3 ++ x4 ++ x5) 23 3 = x1 :=
  (@fld_above 22 10 23 3 (x0 ++ x1 ++ x2 ++ x3 ++ x4) x5 (by decide)).trans ((@fld_above 17 5 13 3 (x0 ++ x1 ++ x2 ++ x3) x4 (by decide)).trans ((@fld_above 12 5 8 3 (x0 ++ x1 ++ x2) x3 (by decide)).trans ((@fld_above 9 3 3 3 (x0 ++ x1) x2 (by decide)).trans ((@fld_below 6 3 0 3 x0 x1 (by decide)).trans (fld_all x1)))))
theorem fld_w9_20_3 (x0 : BitVec 6) (x1 : BitVec 3) (x2 : BitVec 3) (x3 : BitVec 5) (x4 : BitVec 5) (x5 : BitVec 10) : fld (m := 32) (x0 ++ x1 ++ x2 ++ x3 ++ x4 ++ x5) 20 3 = x2 :=
  (@fld_above 22 10 20 3 (x0 ++ x1 ++ x2 ++ x3 ++ x4) x5 (by decide)).trans ((@fld_above 17 5 10 3 (x0 ++ x1 ++ x2 ++ x3) x4 (by decide)).trans ((@fld_above 12 5 5 3 (x0 ++ x1 ++ x2) x3 (by decide)).trans ((@fld_below 9 3 0 3 (x0 ++ x1) x2 (by decide)).trans (fld_all x2))))
theorem fld_w9_15_5 (x0 : BitVec 6) (x1 : BitVec 3) (x2 : BitVec 3) (x3 : BitVec 5) (x4 : BitVec 5) (x5 : BitVec 10) : fld (m := 32) (x0 ++ x1 ++ x2 ++ x3 ++ x4 ++ x5) 15 5 = x3 :=
  (@fld_above 22 10 15 5 (x0 ++ x1 ++ x2 ++ x3 ++ x4) x5 (by decide)).trans ((@fld_above 17 5 5 5 (x0 ++ x1 ++ x2 ++ x3) x4 (by decide)).trans ((@fld_below 12 5 0 5 (x0 ++ x1 ++ x2) x3 (by decide)).trans (fld_all x3)))
theorem fld_w9_10_5 (x0 : BitVec 6) (x1 : BitVec 3) (x2 : BitVec 3) (x3 : BitVec 5) (x4 : BitVec 5) (x5 : BitVec 10) : fld (m := 32) (x0 ++ x1 ++ x2 ++ x3 ++ x4 ++ x5) 10 5 = x4 :=
  (@fld_above 22 10 10 5 (x0 ++ x1 ++ x2 ++ x3 ++ x4) x5 (by decide)).trans ((@fld_below 17 5 0 5 (x0 ++ x1 ++ x2 ++ x3) x4 (by decide)).trans (fld_all x4))
theorem fld_w9_0_10 (x0 : BitVec 6) (x1 : BitVec 3) (x2 : BitVec 3) (x3 : BitVec 5) (x4 : BitVec 5) (x5 : BitVec 10) : fld (m := 32) (x0 ++ x1 ++ x2 ++ x3 ++ x4 ++ x5) 0 10 = x5 :=
  (@fld_below 22 10 0 10 (x0 ++ x1 ++ x2 ++ x3 ++ x4) x5 (by decide)).trans (fld_all x5)

/-! ### Words of the shape (6 3 3 5 15) -/

theorem fld_w10_26_6 (x0 : BitVec 6) (x1 : BitVec 3) (x2 : BitVec 3) (x3 : BitVec 5) (x4 : BitVec 15) : fld (m := 32) (x0 ++ x1 ++ x2 ++ x3 ++ x4) 26 6 = x0 :=
  (@fld_above 17 15 26 6 (x0 ++ x1 ++ x2 ++ x3) x4 (by decide)).trans ((@fld_above 12 5 11 6 (x0 ++ x1 ++ x2) x3 (by decide)).trans ((@fld_above 9 3 6 6 (x0 ++ x1) x2 (by decide)).trans ((@fld_above 6 3 3 6 x0 x1 (by decide)).trans (fld_all x0))))
theorem fld_w10_23_3 (x0 : BitVec 6) (x1 : BitVec 3) (x2 : BitVec 3) (x3 : BitVec 5) (x4 : BitVec 15) : fld (m := 32) (x0 ++ x1 ++ x2 ++ x3 ++ x4) 23 3 = x1 :=
  (@fld_above 17 15 23 3 (x0 ++ x1 ++ x2 ++ x3) x4 (by decide)).trans ((@fld_above 12 5 8 3 (x0 ++ x1 ++ x2) x3 (by decide)).trans ((@fld_above 9 3 3 3 (x0 ++ x1) x2 (by decide)).trans ((@fld_below 6 3 0 3 x0 x1 (by decide)).trans (fld_all x1))))
theorem fld_w10_20_3 (x0 : BitVec 6) (x1 : BitVec 3) (x2 : BitVec 3) (x3 : BitVec 5) (x4 : BitVec 15) : fld (m := 32) (x0 ++ x1 ++ x2 ++ x3 ++ x4) 20 3 = x2 :=
  (@fld_above 17 15 20 3 (x0 ++ x1 ++ x2 ++ x3) x4 (by decide)).trans ((@fld_above 12 5 5 3 (x0 ++ x1 ++ x2) x3 (by decide)).trans ((@fld_below 9 3 0 3 (x0 ++ x1) x2 (by decide)).trans (fld_all x2)))
theorem fld_w10_15_5 (x0 : BitVec 6) (x1 : BitVec 3) (x2 : BitVec 3) (x3 : BitVec 5) (x4 : BitVec 15) : fld (m := 32) (x0 ++ x1 ++ x2 ++ x3 ++ x4) 15 5 = x3 :=
  (@fld_above 17 15 15 5 (x0 ++ x1 ++ x2 ++ x3) x4 (by decide)).trans ((@fld_below 12 5 0 5 (x0 ++ x1 ++ x2) x3 (by decide)).trans (fld_all x3))
theorem fld_w10_0_15 (x0 : BitVec 6) (x1 : BitVec 3) (x2 : BitVec 3) (x3 : BitVec 5) (x4 : BitVec 15) : fld (m := 32) (x0 ++ x1 ++ x2 ++ x3 ++ x4) 0 15 = x4 :=
  (@fld_below 17 15 0 15 (x0 ++ x1 ++ x2 ++ x3) x4 (by decide)).trans (fld_all x4)

/-! ### Words of the shape (6 3 1 22) -/

theorem fld_w11_26_6 (x0 : BitVec 6) (x1 : BitVec 3) (x2 : BitVec 1) (x3 : BitVec 22) : fld (m := 32) (x0 ++ x1 ++ x2 ++ x3) 26 6 = x0 :=
  (@fld_above 10 22 26 6 (x0 ++ x1 ++ x2) x3 (by decide)).trans ((@fld_above 9 1 4 6 (x0 ++ x1) x2 (by decide)).trans ((@fld_above 6 3 3 6 x0 x1 (by decide)).trans (fld_all x0)))
theorem fld_w11_23_3 (x0 : BitVec 6) (x1 : BitVec 3) (x2 : BitVec 1) (x3 : BitVec 22) : fld (m := 32) (x0 ++ x1 ++ x2 ++ x3) 23 3 = x1 :=
  (@fld_above 10 22 23 3 (x0 ++ x1 ++ x2) x3 (by decide)).trans ((@fld_above 9 1 1 3 (x0 ++ x1) x2 (by decide)).trans ((@fld_below 6 3 0 3 x0 x1 (by decide)).trans (fld_all x1)))
theorem fld_w11_22_1 (x0 : BitVec 6) (x1 : BitVec 3) (x2 : BitVec 1) (x3 : BitVec 22) : fld (m := 32) (x0 ++ x1 ++ x2 ++ x3) 22 1 = x2 :=
  (@fld_above 10 22 22 1 (x0 ++ x1 ++ x2) x3 (by decide)).trans ((@fld_below 9 1 0 1 (x0 ++ x1) x2 (by decide)).trans (fld_all x2))
theorem fld_w11_16_5 (x0 : BitVec 6) (x1 : BitVec 3) (x2 : BitVec 1) (x3 : BitVec 22) : fld (m := 32) (x0 ++ x1 ++ x2 ++ x3) 16 5 = fld x3 16 5 :=
  (@fld_below 10 22 16 5 (x0 ++ x1 ++ x2) x3 (by decide)).trans (rfl)
theorem fld_w11_11_5 (x0 : BitVec 6) (x1 : BitVec 3) (x2 : BitVec 1) (x3 : BitVec 22) : fld (m := 32) (x0 ++ x1 ++ x2 ++ x3) 11 5 = fld x3 11 5 :=
  (@fld_below 10 22 11 5 (x0 ++ x1 ++ x2) x3 (by decide)).trans (rfl)
theorem fld_w11_0_22 (x0 : BitVec 6) (x1 : BitVec 3) (x2 : BitVec 1) (x3 : BitVec 22) : fld (m := 32) (x0 ++ x1 ++ x2 ++ x3) 0 22 = x3 :=
  (@fld_below 10 22 0 22 (x0 ++ x1 ++ x2) x3 (by decide)).trans (fld_all x3)
theorem fld_w11_0_16 (x0 : BitVec 6) (x1 : BitVec 3) (x2 : BitVec 1) (x3 : BitVec 22) : fld (m := 32) (x0 ++ x1 ++ x2 ++ x3) 0 16 = fld x3 0 16 :=
  (@fld_below 10 22 0 16 (x0 ++ x1 ++ x2) x3 (by decide)).trans (rfl)

/-! ### Words of the shape (6 3 2 3 3 15) -/

theorem fld_w12_26_6 (x0 : BitVec 6) (x1 : BitVec 3) (x2 : BitVec 2) (x3 : BitVec 3) (x4 : BitVec 3) (x5 : BitVec 15) : fld (m := 32) (x0 ++ x1 ++ x2 ++ x3 ++ x4 ++ x5) 26 6 = x0 :=
  (@fld_above 17 15 26 6 (x0 ++ x1 ++ x2 ++ x3 ++ x4) x5 (by decide)).trans ((@fld_above 14 3 11 6 (x0 ++ x1 ++ x2 ++ x3) x4 (by decide)).trans ((@fld_above 11 3 8 6 (x0 ++ x1 ++ x2) x3 (by decide)).trans ((@fld_above 9 2 5 6 (x0 ++ x1) x2 (by decide)).trans ((@fld_above 6 3 3 6 x0 x1 (by decide)).trans (fld_all x0)))))
theorem fld_w12_23_3 (x0 : BitVec 6) (x1 : BitVec 3) (x2 : BitVec 2) (x3 : BitVec 3) (x4 : BitVec 3) (x5 : BitVec 15) : fld (m := 32) (x0 ++ x1 ++ x2 ++ x3 ++ x4 ++ x5) 23 3 = x1 :=
  (@fld_above 17 15 23 3 (x0 ++ x1 ++ x2 ++ x3 ++ x4) x5 (by decide)).trans ((@fld_above 14 3 8 3 (x0 ++ x1 ++ x2 ++ x3) x4 (by decide)).trans ((@fld_above 11 3 5 3 (x0 ++ x1 ++ x2) x3 (by decide)).trans ((@fld_above 9 2 2 3 (x0 ++ x1) x2 (by decide)).trans ((@fld_below 6 3 0 3 x0 x1 (by decide)).trans (fld_all x1)))))
theorem fld_w12_21_5 (x0 : BitVec 6) (x1 : BitVec 3) (x2 : BitVec 2) (x3 : BitVec 3) (x4 : BitVec 3) (x5 : BitVec 15) : fld (m := 32) (x0 ++ x1 ++ x2 ++ x3 ++ x4 ++ x5) 21 5 = x1 ++ x2 :=
  (@fld_above 17 15 21 5 (x0 ++ x1 ++ x2 ++ x3 ++ x4) x5 (by decide)).trans ((@fld_above 14 3 6 5 (x0 ++ x1 ++ x2 ++ x3) x4 (by decide)).trans ((@fld_above 11 3 3 5 (x0 ++ x1 ++ x2) x3 (by decide)).trans ((@fld_across 9 2 3 (x0 ++ x1) x2).trans (congrArg (fun z : BitVec 3 => z ++ x2) ((@fld_below 6 3 0 3 x0 x1 (by decide)).trans (fld_all x1))))))
theorem fld_w12_21_2 (x0 : BitVec 6) (x1 : BitVec 3) (x2 : BitVec 2) (x3 : BitVec 3) (x4 : BitVec 3) (x5 : BitVec 15) : fld (m := 32) (x0 ++ x1 ++ x2 ++ x3 ++ x4 ++ x5) 21 2 = x2 :=
  (@fld_above 17 15 21 2 (x0 ++ x1 ++ x2 ++ x3 ++ x4) x5 (by decide)).trans ((@fld_above 14 3 6 2 (x0 ++ x1 ++ x2 ++ x3) x4 (by decide)).trans ((@fld_above 11 3 3 2 (x0 ++ x1 ++ x2) x3 (by decide)).trans ((@fld_below 9 2 0 2 (x0 ++ x1) x2 (by decide)).trans (fld_all x2))))
theorem fld_w12_18_3 (x0 : BitVec 6) (x1 : BitVec 3) (x2 : BitVec 2) (x3 : BitVec 3) (x4 : BitVec 3) (x5 : BitVec 15) : fld (m := 32) (x0 ++ x1 ++ x2 ++ x3 ++ x4 ++ x5) 18 3 = x3 :=
  (@fld_above 17 15 18 3 (x0 ++ x1 ++ x2 ++ x3 ++ x4) x5 (by decide)).trans ((@fld_above 14 3 3 3 (x0 ++ x1 ++ x2 ++ x3) x4 (by decide)).trans ((@fld_below 11 3 0 3 (x0 ++ x1 ++ x2) x3 (by decide)).trans (fld_all x3)))
theorem fld_w12_15_3 (x0 : BitVec 6) (x1 : BitVec 3) (x2 : BitVec 2) (x3 : BitVec 3) (x4 : BitVec 3) (x5 : BitVec 15) : fld (m := 32) (x0 ++ x1 ++ x2 ++ x3 ++ x4 ++ x5) 15 3 = x4 :=
  (@fld_above 17 15 15 3 (x0 ++ x1 ++ x2 ++ x3 ++ x4) x5 (by decide)).trans ((@fld_below 14 3 0 3 (x0 ++ x1 ++ x2 ++ x3) x4 (by decide)).trans (fld_all x4))
theorem fld_w12_0_15 (x0 : BitVec 6) (x1 : BitVec 3) (x2 : BitVec 2) (x3 : BitVec 3) (x4 : BitVec 3) (x5 : BitVec 15) : fld (m := 32) (x0 ++ x1 ++ x2 ++ x3 ++ x4 ++ x5) 0 15 = x5 :=
  (@fld_below 17 15 0 15 (x0 ++ x1 ++ x2 ++ x3 ++ x4) x5 (by decide)).trans (fld_all x5)

/-! ### Words of the shape (6 3 2 5 16) -/

theorem fld_w13_26_6 (x0 : BitVec 6) (x1 : BitVec 3) (x2 : BitVec 2) (x3 : BitVec 5) (x4 : BitVec 16) : fld (m := 32) (x0 ++ x1 ++ x2 ++ x3 ++ x4) 26 6 = x0 :=
  (@fld_above 16 16 26 6 (x0 ++ x1 ++ x2 ++ x3) x4 (by decide)).trans ((@fld_above 11 5 10 6 (x0 ++ x1 ++ x2) x3 (by decide)).trans ((@fld_above 9 2 5 6 (x0 ++ x1) x2 (by decide)).trans ((@fld_above 6 3 3 6 x0 x1 (by decide)).trans (fld_all x0))))
theorem fld_w13_23_3 (x0 : BitVec 6) (x1 : BitVec 3) (x2 : BitVec 2) (x3 : BitVec 5) (x4 : BitVec 16) : fld (m := 32) (x0 ++ x1 ++ x2 ++ x3 ++ x4) 23 3 = x1 :=
  (@fld_above 16 16 23 3 (x0 ++ x1 ++ x2 ++ x3) x4 (by decide)).trans ((@fld_above 11 5 7 3 (x0 ++ x1 ++ x2) x3 (by decide)).trans ((@fld_above 9 2 2 3 (x0 ++ x1) x2 (by decide)).trans ((@fld_below 6 3 0 3 x0 x1 (by decide)).trans (fld_all x1))))
theorem fld_w13_21_5 (x0 : BitVec 6) (x1 : BitVec 3) (x2 : BitVec 2) (x3 : BitVec 5) (x4 : BitVec 16) : fld (m := 32) (x0 ++ x1 ++ x2 ++ x3 ++ x4) 21 5 = x1 ++ x2 :=
  (@fld_above 16 16 21 5 (x0 ++ x1 ++ x2 ++ x3) x4 (by decide)).trans ((@fld_above 11 5 5 5 (x0 ++ x1 ++ x2) x3 (by decide)).trans ((@fld_across 9 2 3 (x0 ++ x1) x2).trans (congrArg (fun z : BitVec 3 => z ++ x2) ((@fld_below 6 3 0 3 x0 x1 (by decide)).trans (fld_all x1)))))
theorem fld_w13_21_2 (x0 : BitVec 6) (x1 : BitVec 3) (x2 : BitVec 2) (x3 : BitVec 5) (x4 : BitVec 16) : fld (m := 32) (x0 ++ x1 ++ x2 ++ x3 ++ x4) 21 2 = x2 :=
  (@fld_above 16 16 21 2 (x0 ++ x1 ++ x2 ++ x3) x4 (by decide)).trans ((@fld_above 11 5 5 2 (x0 ++ x1 ++ x2) x3 (by decide)).trans ((@fld_below 9 2 0 2 (x0 ++ x1) x2 (by decide)).trans (fld_all x2)))
theorem fld_w13_16_5 (x0 : BitVec 6) (x1 : BitVec 3) (x2 : BitVec 2) (x3 : BitVec 5) (x4 : BitVec 16) : fld (m := 32) (x0 ++ x1 ++ x2 ++ x3 ++ x4) 16 5 = x3 :=
  (@fld_above 16 16 16 5 (x0 ++ x1 ++ x2 ++ x3) x4 (by decide)).trans ((@fld_below 11 5 0 5 (x0 ++ x1 ++ x2) x3 (by decide)).trans (fld_all x3))
theorem fld_w13_11_5 (x0 : BitVec 6) (x1 : BitVec 3) (x2 : BitVec 2) (x3 : BitVec 5) (x4 : BitVec 16) : fld (m := 32) (x0 ++ x1 ++ x2 ++ x3 ++ x4) 11 5 = fld x4 11 5 :=
  (@fld_below 16 16 11 5 (x0 ++ x1 ++ x2 ++ x3) x4 (by decide)).trans (rfl)
theorem fld_w13_0_16 (x0 : BitVec 6) (x1 : BitVec 3) (x2 : BitVec 2) (x3 : BitVec 5) (x4 : BitVec 16) : fld (m := 32) (x0 ++ x1 ++ x2 ++ x3 ++ x4) 0 16 = x4 :=
  (@fld_below 16 16 0 16 (x0 ++ x1 ++ x2 ++ x3) x4 (by decide)).trans (fld_all x4)

/-! ### Words of the shape (6 3 2 5 (15 1)) -/

theorem fld_w14_26_6 (x0 : BitVec 6) (x1 : BitVec 3) (x2 : BitVec 2) (x3 : BitVec 5) (x4 : BitVec 15) (x5 : BitVec 1) : fld (m := 32) (x0 ++ x1 ++ x2 ++ x3 ++ (x4 ++ x5 : BitVec 16)) 26 6 = x0 :=
  (@fld_above 16 16 26 6 (x0 ++ x1 ++ x2 ++ x3) (x4 ++ x5) (by decide)).trans ((@fld_above 11 5 10 6 (x0 ++ x1 ++ x2) x3 (by decide)).trans ((@fld_above 9 2 5 6 (x0 ++ x1) x2 (by decide)).trans ((@fld_above 6 3 3 6 x0 x1 (by decide)).trans (fld_all x0))))
theorem fld_w14_23_3 (x0 : BitVec 6) (x1 : BitVec 3) (x2 : BitVec 2) (x3 : BitVec 5) (x4 : BitVec 15) (x5 : BitVec 1) : fld (m := 32) (x0 ++ x1 ++ x2 ++ x3 ++ (x4 ++ x5 : BitVec 16)) 23 3 = x1 :=
  (@fld_above 16 16 23 3 (x0 ++ x1 ++ x2 ++ x3) (x4 ++ x5) (by decide)).trans ((@fld_above 11 5 7 3 (x0 ++ x1 ++ x2) x3 (by decide)).trans ((@fld_above 9 2 2 3 (x0 ++ x1) x2 (by decide)).trans ((@fld_below 6 3 0 3 x0 x1 (by decide)).trans (fld_all x1))))
theorem fld_w14_21_5 (x0 : BitVec 6) (x1 : BitVec 3) (x2 : BitVec 2) (x3 : BitVec 5) (x4 : BitVec 15) (x5 : BitVec 1) : fld (m := 32) (x0 ++ x1 ++ x2 ++ x3 ++ (x4 ++ x5 : BitVec 16)) 21 5 = x1 ++ x2 :=
  (@fld_above 16 16 21 5 (x0 ++ x1 ++ x2 ++ x3) (x4 ++ x5) (by decide)).trans ((@fld_above 11 5 5 5 (x0 ++ x1 ++ x2) x3 (by decide)).trans ((@fld_across 9 2 3 (x0 ++ x1) x2).trans (congrArg (fun z : BitVec 3 => z ++ x2) ((@fld_below 6 3 0 3 x0 x1 (by decide)).trans (fld_all x1)))))
theorem fld_w14_16_5 (x0 : BitVec 6) (x1 : BitVec 3) (x2 : BitVec 2) (x3 : BitVec 5) (x4 : BitVec 15) (x5 : BitVec 1) : fld (m := 32) (x0 ++ x1 ++ x2 ++ x3 ++ (x4 ++ x5 : BitVec 16)) 16 5 = x3 :=
  (@fld_above 16 16 16 5 (x0 ++ x1 ++ x2 ++ x3) (x4 ++ x5) (by decide)).trans ((@fld_below 11 5 0 5 (x0 ++ x1 ++ x2) x3 (by decide)).trans (fld_all x3))
theorem fld_w14_11_5 (x0 : BitVec 6) (x1 : BitVec 3) (x2 : BitVec 2) (x3 : BitVec 5) (x4 : BitVec 15) (x5 : BitVec 1) : fld (m := 32) (x0 ++ x1 ++ x2 ++ x3 ++ (x4 ++ x5 : BitVec 16)) 11 5 = fld x4 10 5 :=
  (@fld_below 16 16 11 5 (x0 ++ x1 ++ x2 ++ x3) (x4 ++ x5) (by decide)).trans ((@fld_above 15 1 11 5 x4 x5 (by decide)).trans (rfl))
theorem fld_w14_1_15 (x0 : BitVec 6) (x1 : BitVec 3) (x2 : BitVec 2) (x3 : BitVec 5) (x4 : BitVec 15) (x5 : BitVec 1) : fld (m := 32) (x0 ++ x1 ++ x2 ++ x3 ++ (x4 ++ x5 : BitVec 16)) 1 15 = x4 :=
  (@fld_below 16 16 1 15 (x0 ++ x1 ++ x2 ++ x3) (x4 ++ x5) (by decide)).trans ((@fld_above 15 1 1 15 x4 x5 (by decide)).trans (fld_all x4))
theorem fld_w14_0_16 (x0 : BitVec 6) (x1 : BitVec 3) (x2 : BitVec 2) (x3 : BitVec 5) (x4 : BitVec 15) (x5 : BitVec 1) : fld (m := 32) (x0 ++ x1 ++ x2 ++ x3 ++ (x4 ++ x5 : BitVec 16)) 0 16 = x4 ++ x5 :=
  (@fld_below 16 16 0 16 (x0 ++ x1 ++ x2 ++ x3) (x4 ++ x5) (by decide)).trans ((@fld_across 15 1 15 x4 x5).trans (congrArg (fun z : BitVec 15 => z ++ x5) (fld_all x4)))
theorem fld_w14_0_1 (x0 : BitVec 6) (x1 : BitVec 3) (x2 : BitVec 2) (x3 : BitVec 5) (x4 : BitVec 15) (x5 : BitVec 1) : fld (m := 32) (x0 ++ x1 ++ x2 ++ x3 ++ (x4 ++ x5 : BitVec 16)) 0 1 = x5 :=
  (@fld_below 16 16 0 1 (x0 ++ x1 ++ x2 ++ x3) (x4 ++ x5) (by decide)).trans ((@fld_below 15 1 0 1 x4 x5 (by decide)).trans (fld_all x5))

/-! ### Words of the shape (6 (3 2) 5 5 (9 2)) -/

theorem fld_w15_26_6 (x0 : BitVec 6) (x1 : BitVec 3) (x2 : BitVec 2) (x3 : BitVec 5) (x4 : BitVec 5) (x5 : BitVec 9) (x6 : BitVec 2) : fld (m := 32) (x0 ++ (x1 ++ x2 : BitVec 5) ++ x3 ++ x4 ++ (x5 ++ x6 : BitVec 11)) 26 6 = x0 :=
  (@fld_above 21 11 26 6 (x0 ++ (x1 ++ x2 : BitVec 5) ++ x3 ++ x4) (x5 ++ x6) (by decide)).trans ((@fld_above 16 5 15 6 (x0 ++ (x1 ++ x2 : BitVec 5) ++ x3) x4 (by decide)).trans ((@fld_above 11 5 10 6 (x0 ++ (x1 ++ x2 : BitVec 5)) x3 (by decide)).trans ((@fld_above 6 5 5 6 x0 (x1 ++ x2) (by decide)).trans (fld_all x0))))
theorem fld_w15_23_3 (x0 : BitVec 6) (x1 : BitVec 3) (x2 : BitVec 2) (x3 : BitVec 5) (x4 : BitVec 5) (x5 : BitVec 9) (x6 : BitVec 2) : fld (m := 32) (x0 ++ (x1 ++ x2 : BitVec 5) ++ x3 ++ x4 ++ (x5 ++ x6 : BitVec 11)) 23 3 = x1 :=
  (@fld_above 21 11 23 3 (x0 ++ (x1 ++ x2 : BitVec 5) ++ x3 ++ x4) (x5 ++ x6) (by decide)).trans ((@fld_above 16 5 12 3 (x0 ++ (x1 ++ x2 : BitVec 5) ++ x3) x4 (by decide)).trans ((@fld_above 11 5 7 3 (x0 ++ (x1 ++ x2 : BitVec 5)) x3 (by decide)).trans ((@fld_below 6 5 2 3 x0 (x1 ++ x2) (by decide)).trans ((@fld_above 3 2 2 3 x1 x2 (by decide)).trans (fld_all x1)))))
theorem fld_w15_21_5 (x0 : BitVec 6) (x1 : BitVec 3) (x2 : BitVec 2) (x3 : BitVec 5) (x4 : BitVec 5) (x5 : BitVec 9) (x6 : BitVec 2) : fld (m := 32) (x0 ++ (x1 ++ x2 : BitVec 5) ++ x3 ++ x4 ++ (x5 ++ x6 : BitVec 11)) 21 5 = x1 ++ x2 :=
  (@fld_above 21 11 21 5 (x0 ++ (x1 ++ x2 : BitVec 5) ++ x3 ++ x4) (x5 ++ x6) (by decide)).trans ((@fld_above 16 5 10 5 (x0 ++ (x1 ++ x2 : BitVec 5) ++ x3) x4 (by decide)).trans ((@fld_above 11 5 5 5 (x0 ++ (x1 ++ x2 : BitVec 5)) x3 (by decide)).trans ((@fld_below 6 5 0 5 x0 (x1 ++ x2) (by decide)).trans ((@fld_across 3 2 3 x1 x2).trans (congrArg (fun z : BitVec 3 => z ++ x2) (fld_all x1))))))
theorem fld_w15_21_2 (x0 : BitVec 6) (x1 : BitVec 3) (x2 : BitVec 2) (x3 : BitVec 5) (x4 : BitVec 5) (x5 : BitVec 9) (x6 : BitVec 2) : fld (m := 32) (x0 ++ (x1 ++ x2 : BitVec 5) ++ x3 ++ x4 ++ (x5 ++ x6 : BitVec 11)) 21 2 = x2 :=
  (@fld_above 21 11 21 2 (x0 ++ (x1 ++ x2 : BitVec 5) ++ x3 ++ x4) (x5 ++ x6) (by decide)).trans ((@fld_above 16 5 10 2 (x0 ++ (x1 ++ x2 : BitVec 5) ++ x3) x4 (by decide)).trans ((@fld_above 11 5 5 2 (x0 ++ (x1 ++ x2 : BitVec 5)) x3 (by decide)).trans ((@fld_below 6 5 0 2 x0 (x1 ++ x2) (by decide)).trans ((@fld_below 3 2 0 2 x1 x2 (by decide)).trans (fld_all x2)))))
theorem fld_w15_16_5 (x0 : BitVec 6) (x1 : BitVec 3) (x2 : BitVec 2) (x3 : BitVec 5) (x4 : BitVec 5) (x5 : BitVec 9) (x6 : BitVec 2) : fld (m := 32) (x0 ++ (x1 ++ x2 : BitVec 5) ++ x3 ++ x4 ++ (x5 ++ x6 : BitVec 11)) 16 5 = x3 :=
  (@fld_above 21 11 16 5 (x0 ++ (x1 ++ x2 : BitVec 5) ++ x3 ++ x4) (x5 ++ x6) (by decide)).trans ((@fld_above 16 5 5 5 (x0 ++ (x1 ++ x2 : BitVec 5) ++ x3) x4 (by decide)).trans ((@fld_below 11 5 0 5 (x0 ++ (x1 ++ x2 : BitVec 5)) x3 (by decide)).trans (fld_all x3)))
theorem fld_w15_11_5 (x0 : BitVec 6) (x1 : BitVec 3) (x2 : BitVec 2) (x3 : BitVec 5) (x4 : BitVec 5) (x5 : BitVec 9) (x6 : BitVec 2) : fld (m := 32) (x0 ++ (x1 ++ x2 : BitVec 5) ++ x3 ++ x4 ++ (x5 ++ x6 : BitVec 11)) 11 5 = x4 :=
  (@fld_above 21 11 11 5 (x0 ++ (x1 ++ x2 : BitVec 5) ++ x3 ++ x4) (x5 ++ x6) (by decide)).trans ((@fld_below 16 5 0 5 (x0 ++ (x1 ++ x2 : BitVec 5) ++ x3) x4 (by decide)).trans (fld_all x4))
theorem fld_w15_2_9 (x0 : BitVec 6) (x1 : BitVec 3) (x2 : BitVec 2) (x3 : BitVec 5) (x4 : BitVec 5) (x5 : BitVec 9) (x6 : BitVec 2) : fld (m := 32) (x0 ++ (x1 ++ x2 : BitVec 5) ++ x3 ++ x4 ++ (x5 ++ x6 : BitVec 11)) 2 9 = x5 :=
  (@fld_below 21 11 2 9 (x0 ++ (x1 ++ x2 : BitVec 5) ++ x3 ++ x4) (x5 ++ x6) (by decide)).trans ((@fld_above 9 2 2 9 x5 x6 (by decide)).trans (fld_all x5))
theorem fld_w15_0_16 (x0 : BitVec 6) (x1 : BitVec 3) (x2 : BitVec 2) (x3 : BitVec 5) (x4 : BitVec 5) (x5 : BitVec 9) (x6 : BitVec 2) : fld (m := 32) (x0 ++ (x1 ++ x2 : BitVec 5) ++ x3 ++ x4 ++ (x5 ++ x6 : BitVec 11)) 0 16 = x4 ++ (x5 ++ x6) :=
  (@fld_across 21 11 5 (x0 ++ (x1 ++ x2 : BitVec 5) ++ x3 ++ x4) (x5 ++ x6)).trans (congrArg (fun z : BitVec 5 => z ++ (x5 ++ x6)) ((@fld_below 16 5 0 5 (x0 ++ (x1 ++ x2 : BitVec 5) ++ x3) x4 (by decide)).trans (fld_all x4)))
theorem fld_w15_0_2 (x0 : BitVec 6) (x1 : BitVec 3) (x2 : BitVec 2) (x3 : BitVec 5) (x4 : BitVec 5) (x5 : BitVec 9) (x6 : BitVec 2) : fld (m := 32) (x0 ++ (x1 ++ x2 : BitVec 5) ++ x3 ++ x4 ++ (x5 ++ x6 : BitVec 11)) 0 2 = x6 :=
  (@fld_below 21 11 0 2 (x0 ++ (x1 ++ x2 : BitVec 5) ++ x3 ++ x4) (x5 ++ x6) (by decide)).trans ((@fld_below 9 2 0 2 x5 x6 (by decide)).trans (fld_all x6))

/-! ### Words of the shape (6 5 5 5 (8 1 2)) -/

theorem fld_w16_26_6 (x0 : BitVec 6) (x1 : BitVec 5) (x2 : BitVec 5) (x3 : BitVec 5) (x4 : BitVec 8) (x5 : BitVec 1) (x6 : BitVec 2) : fld (m := 32) (x0 ++ x1 ++ x2 ++ x3 ++ (x4 ++ x5 ++ x6 : BitVec 11)) 26 6 = x0 :=
  (@fld_above 21 11 26 6 (x0 ++ x1 ++ x2 ++ x3) (x4 ++ x5 ++ x6) (by decide)).trans ((@fld_above 16 5 15 6 (x0 ++ x1 ++ x2) x3 (by decide)).trans ((@fld_above 11 5 10 6 (x0 ++ x1) x2 (by decide)).trans ((@fld_above 6 5 5 6 x0 x1 (by decide)).trans (fld_all x0))))
theorem fld_w16_23_3 (x0 : BitVec 6) (x1 : BitVec 5) (x2 : BitVec 5) (x3 : BitVec 5) (x4 : BitVec 8) (x5 : BitVec 1) (x6 : BitVec 2) : fld (m := 32) (x0 ++ x1 ++ x2 ++ x3 ++ (x4 ++ x5 ++ x6 : BitVec 11)) 23 3 = fld x1 2 3 :=
  (@fld_above 21 11 23 3 (x0 ++ x1 ++ x2 ++ x3) (x4 ++ x5 ++ x6) (by decide)).trans ((@fld_above 16 5 12 3 (x0 ++ x1 ++ x2) x3 (by decide)).trans ((@fld_above 11 5 7 3 (x0 ++ x1) x2 (by decide)).trans ((@fld_below 6 5 2 3 x0 x1 (by decide)).trans (rfl))))
theorem fld_w16_21_5 (x0 : BitVec 6) (x1 : BitVec 5) (x2 : BitVec 5) (x3 : BitVec 5) (x4 : BitVec 8) (x5 : BitVec 1) (x6 : BitVec 2) : fld (m := 32) (x0 ++ x1 ++ x2 ++ x3 ++ (x4 ++ x5 ++ x6 : BitVec 11)) 21 5 = x1 :=
  (@fld_above 21 11 21 5 (x0 ++ x1 ++ x2 ++ x3) (x4 ++ x5 ++ x6) (by decide)).trans ((@fld_above 16 5 10 5 (x0 ++ x1 ++ x2) x3 (by decide)).trans ((@fld_above 11 5 5 5 (x0 ++ x1) x2 (by decide)).trans ((@fld_below 6 5 0 5 x0 x1 (by decide)).trans (fld_all x1))))
theorem fld_w16_16_5 (x0 : BitVec 6) (x1 : BitVec 5) (x2 : BitVec 5) (x3 : BitVec 5) (x4 : BitVec 8) (x5 : BitVec 1) (x6 : BitVec 2) : fld (m := 32) (x0 ++ x1 ++ x2 ++ x3 ++ (x4 ++ x5 ++ x6 : BitVec 11)) 16 5 = x2 :=
  (@fld_above 21 11 16 5 (x0 ++ x1 ++ x2 ++ x3) (x4 ++ x5 ++ x6) (by decide)).trans ((@fld_above 16 5 5 5 (x0 ++ x1 ++ x2) x3 (by decide)).trans ((@fld_below 11 5 0 5 (x0 ++ x1) x2 (by decide)).trans (fld_all x2)))
theorem fld_w16_11_5 (x0 : BitVec 6) (x1 : BitVec 5) (x2 : BitVec 5) (x3 : BitVec 5) (x4 : BitVec 8) (x5 : BitVec 1) (x6 : BitVec 2) : fld (m := 32) (x0 ++ x1 ++ x2 ++ x3 ++ (x4 ++ x5 ++ x6 : BitVec 11)) 11 5 = x3 :=
  (@fld_above 21 11 11 5 (x0 ++ x1 ++ x2 ++ x3) (x4 ++ x5 ++ x6) (by decide)).trans ((@fld_below 16 5 0 5 (x0 ++ x1 ++ x2) x3 (by decide)).trans (fld_all x3))
theorem fld_w16_3_8 (x0 : BitVec 6) (x1 : BitVec 5) (x2 : BitVec 5) (x3 : BitVec 5) (x4 : BitVec 8) (x5 : BitVec 1) (x6 : BitVec 2) : fld (m := 32) (x0 ++ x1 ++ x2 ++ x3 ++ (x4 ++ x5 ++ x6 : BitVec 11)) 3 8 = x4 :=
  (@fld_below 21 11 3 8 (x0 ++ x1 ++ x2 ++ x3) (x4 ++ x5 ++ x6) (by decide)).trans ((@fld_above 9 2 3 8 (x4 ++ x5) x6 (by decide)).trans ((@fld_above 8 1 1 8 x4 x5 (by decide)).trans (fld_all x4)))
theorem fld_w16_2_1 (x0 : BitVec 6) (x1 : BitVec 5) (x2 : BitVec 5) (x3 : BitVec 5) (x4 : BitVec 8) (x5 : BitVec 1) (x6 : BitVec 2) : fld (m := 32) (x0 ++ x1 ++ x2 ++ x3 ++ (x4 ++ x5 ++ x6 : BitVec 11)) 2 1 = x5 :=
  (@fld_below 21 11 2 1 (x0 ++ x1 ++ x2 ++ x3) (x4 ++ x5 ++ x6) (by decide)).trans ((@fld_above 9 2 2 1 (x4 ++ x5) x6 (by decide)).trans ((@fld_below 8 1 0 1 x4 x5 (by decide)).trans (fld_all x5)))
theorem fld_w16_0_16 (x0 : BitVec 6) (x1 : BitVec 5) (x2 : BitVec 5) (x3 : BitVec 5) (x4 : BitVec 8) (x5 : BitVec 1) (x6 : BitVec 2) : fld (m := 32) (x0 ++ x1 ++ x2 ++ x3 ++ (x4 ++ x5 ++ x6 : BitVec 11)) 0 16 = x3 ++ (x4 ++ x5 ++ x6) :=
  (@fld_across 21 11 5 (x0 ++ x1 ++ x2 ++ x3) (x4 ++ x5 ++ x6)).trans (congrArg (fun z : BitVec 5 => z ++ (x4 ++ x5 ++ x6)) ((@fld_below 16 5 0 5 (x0 ++ x1 ++ x2) x3 (by decide)).trans (fld_all x3)))
theorem fld_w16_0_2 (x0 : BitVec 6) (x1 : BitVec 5) (x2 : BitVec 5) (x3 : BitVec 5) (x4 : BitVec 8) (x5 : BitVec 1) (x6 : BitVec 2) : fld (m := 32) (x0 ++ x1 ++ x2 ++ x3 ++ (x4 ++ x5 ++ x6 : BitVec 11)) 0 2 = x6 :=
  (@fld_below 21 11 0 2 (x0 ++ x1 ++ x2 ++ x3) (x4 ++ x5 ++ x6) (by decide)).trans ((@fld_below 9 2 0 2 (x4 ++ x5) x6 (by decide)).trans (fld_all x6))

/-! ### Words of the shape (6 5 5 (11 5)) -/

theorem fld_w17_26_6 (x0 : BitVec 6) (x1 : BitVec 5) (x2 : BitVec 5) (x3 : BitVec 11) (x4 : BitVec 5) : fld (m := 32) (x0 ++ x1 ++ x2 ++ (x3 ++ x4 : BitVec 16)) 26 6 = x0 :=
  (@fld_above 16 16 26 6 (x0 ++ x1 ++ x2) (x3 ++ x4) (by decide)).trans ((@fld_above 11 5 10 6 (x0 ++ x1) x2 (by decide)).trans ((@fld_above 6 5 5 6 x0 x1 (by decide)).trans (fld_all x0)))
theorem fld_w17_23_3 (x0 : BitVec 6) (x1 : BitVec 5) (x2 : BitVec 5) (x3 : BitVec 11) (x4 : BitVec 5) : fld (m := 32) (x0 ++ x1 ++ x2 ++ (x3 ++ x4 : BitVec 16)) 23 3 = fld x1 2 3 :=
  (@fld_above 16 16 23 3 (x0 ++ x1 ++ x2) (x3 ++ x4) (by decide)).trans ((@fld_above 11 5 7 3 (x0 ++ x1) x2 (by decide)).trans ((@fld_below 6 5 2 3 x0 x1 (by decide)).trans (rfl)))
theorem fld_w17_21_5 (x0 : BitVec 6) (x1 : BitVec 5) (x2 : BitVec 5) (x3 : BitVec 11) (x4 : BitVec 5) : fld (m := 32) (x0 ++ x1 ++ x2 ++ (x3 ++ x4 : BitVec 16)) 21 5 = x1 :=
  (@fld_above 16 16 21 5 (x0 ++ x1 ++ x2) (x3 ++ x4) (by decide)).trans ((@fld_above 11 5 5 5 (x0 ++ x1) x2 (by decide)).trans ((@fld_below 6 5 0 5 x0 x1 (by decide)).trans (fld_all x1)))
theorem fld_w17_16_5 (x0 : BitVec 6) (x1 : BitVec 5) (x2 : BitVec 5) (x3 : BitVec 11) (x4 : BitVec 5) : fld (m := 32) (x0 ++ x1 ++ x2 ++ (x3 ++ x4 : BitVec 16)) 16 5 = x2 :=
  (@fld_above 16 16 16 5 (x0 ++ x1 ++ x2) (x3 ++ x4) (by decide)).trans ((@fld_below 11 5 0 5 (x0 ++ x1) x2 (by decide)).trans (fld_all x2))
theorem fld_w17_11_5 (x0 : BitVec 6) (x1 : BitVec 5) (x2 : BitVec 5) (x3 : BitVec 11) (x4 : BitVec 5) : fld (m := 32) (x0 ++ x1 ++ x2 ++ (x3 ++ x4 : BitVec 16)) 11 5 = fld x3 6 5 :=
  (@fld_below 16 16 11 5 (x0 ++ x1 ++ x2) (x3 ++ x4) (by decide)).trans ((@fld_above 11 5 11 5 x3 x4 (by decide)).trans (rfl))
theorem fld_w17_5_11 (x0 : BitVec 6) (x1 : BitVec 5) (x2 : BitVec 5) (x3 : BitVec 11) (x4 : BitVec 5) : fld (m := 32) (x0 ++ x1 ++ x2 ++ (x3 ++ x4 : BitVec 16)) 5 11 = x3 :=
  (@fld_below 16 16 5 11 (x0 ++ x1 ++ x2) (x3 ++ x4) (by decide)).trans ((@fld_above 11 5 5 11 x3 x4 (by decide)).trans (fld_all x3))
theorem fld_w17_0_16 (x0 : BitVec 6) (x1 : BitVec 5) (x2 : BitVec 5) (x3 : BitVec 11) (x4 : BitVec 5) : fld (m := 32) (x0 ++ x1 ++ x2 ++ (x3 ++ x4 : BitVec 16)) 0 16 = x3 ++ x4 :=
  (@fld_below 16 16 0 16 (x0 ++ x1 ++ x2) (x3 ++ x4) (by decide)).trans ((@fld_across 11 5 11 x3 x4).trans (congrArg (fun z : BitVec 11 => z ++ x4) (fld_all x3)))
theorem fld_w17_0_5 (x0 : BitVec 6) (x1 : BitVec 5) (x2 : BitVec 5) (x3 : BitVec 11) (x4 : BitVec 5) : fld (m := 32) (x0 ++ x1 ++ x2 ++ (x3 ++ x4 : BitVec 16)) 0 5 = x4 :=
  (@fld_below 16 16 0 5 (x0 ++ x1 ++ x2) (x3 ++ x4) (by decide)).trans ((@fld_below 11 5 0 5 x3 x4 (by decide)).trans (fld_all x4))

/-! ### Words of the shape (6 5 5 5 (3 8)) -/

theorem fld_w18_26_6 (x0 : BitVec 6) (x1 : BitVec 5) (x2 : BitVec 5) (x3 : BitVec 5) (x4 : BitVec 3) (x5 : BitVec 8) : fld (m := 32) (x0 ++ x1 ++ x2 ++ x3 ++ (x4 ++ x5 : BitVec 11)) 26 6 = x0 :=
  (@fld_above 21 11 26 6 (x0 ++ x1 ++ x2 ++ x3) (x4 ++ x5) (by decide)).trans ((@fld_above 16 5 15 6 (x0 ++ x1 ++ x2) x3 (by decide)).trans ((@fld_above 11 5 10 6 (x0 ++ x1) x2 (by decide)).trans ((@fld_above 6 5 5 6 x0 x1 (by decide)).trans (fld_all x0))))
theorem fld_w18_23_3 (x0 : BitVec 6) (x1 : BitVec 5) (x2 : BitVec 5) (x3 : BitVec 5) (x4 : BitVec 3) (x5 : BitVec 8) : fld (m := 32) (x0 ++ x1 ++ x2 ++ x3 ++ (x4 ++ x5 : BitVec 11)) 23 3 = fld x1 2 3 :=
  (@fld_above 21 11 23 3 (x0 ++ x1 ++ x2 ++ x3) (x4 ++ x5) (by decide)).trans ((@fld_above 16 5 12 3 (x0 ++ x1 ++ x2) x3 (by decide)).trans ((@fld_above 11 5 7 3 (x0 ++ x1) x2 (by decide)).trans ((@fld_below 6 5 2 3 x0 x1 (by decide)).trans (rfl))))
theorem fld_w18_21_5 (x0 : BitVec 6) (x1 : BitVec 5) (x2 : BitVec 5) (x3 : BitVec 5) (x4 : BitVec 3) (x5 : BitVec 8) : fld (m := 32) (x0 ++ x1 ++ x2 ++ x3 ++ (x4 ++ x5 : BitVec 11)) 21 5 = x1 :=
  (@fld_above 21 11 21 5 (x0 ++ x1 ++ x2 ++ x3) (x4 ++ x5) (by decide)).trans ((@fld_above 16 5 10 5 (x0 ++ x1 ++ x2) x3 (by decide)).trans ((@fld_above 11 5 5 5 (x0 ++ x1) x2 (by decide)).trans ((@fld_below 6 5 0 5 x0 x1 (by decide)).trans (fld_all x1))))
theorem fld_w18_16_5 (x0 : BitVec 6) (x1 : BitVec 5) (x2 : BitVec 5) (x3 : BitVec 5) (x4 : BitVec 3) (x5 : BitVec 8) : fld (m := 32) (x0 ++ x1 ++ x2 ++ x3 ++ (x4 ++ x5 : BitVec 11)) 16 5 = x2 :=
  (@fld_above 21 11 16 5 (x0 ++ x1 ++ x2 ++ x3) (x4 ++ x5) (by decide)).trans ((@fld_above 16 5 5 5 (x0 ++ x1 ++ x2) x3 (by decide)).trans ((@fld_below 11 5 0 5 (x0 ++ x1) x2 (by decide)).trans (fld_all x2)))
theorem fld_w18_11_5 (x0 : BitVec 6) (x1 : BitVec 5) (x2 : BitVec 5) (x3 : BitVec 5) (x4 : BitVec 3) (x5 : BitVec 8) : fld (m := 32) (x0 ++ x1 ++ x2 ++ x3 ++ (x4 ++ x5 : BitVec 11)) 11 5 = x3 :=
  (@fld_above 21 11 11 5 (x0 ++ x1 ++ x2 ++ x3) (x4 ++ x5) (by decide)).trans ((@fld_below 16 5 0 5 (x0 ++ x1 ++ x2) x3 (by decide)).trans (fld_all x3))
theorem fld_w18_8_3 (x0 : BitVec 6) (x1 : BitVec 5) (x2 : BitVec 5) (x3 : BitVec 5) (x4 : BitVec 3) (x5 : BitVec 8) : fld (m := 32) (x0 ++ x1 ++ x2 ++ x3 ++ (x4 ++ x5 : BitVec 11)) 8 3 = x4 :=
  (@fld_below 21 11 8 3 (x0 ++ x1 ++ x2 ++ x3) (x4 ++ x5) (by decide)).trans ((@fld_above 3 8 8 3 x4 x5 (by decide)).trans (fld_all x4))
theorem fld_w18_0_16 (x0 : BitVec 6) (x1 : BitVec 5) (x2 : BitVec 5) (x3 : BitVec 5) (x4 : BitVec 3) (x5 : BitVec 8) : fld (m := 32) (x0 ++ x1 ++ x2 ++ x3 ++ (x4 ++ x5 : BitVec 11)) 0 16 = x3 ++ (x4 ++ x5) :=
  (@fld_across 21 11 5 (x0 ++ x1 ++ x2 ++ x3) (x4 ++ x5)).trans (congrArg (fun z : BitVec 5 => z ++ (x4 ++ x5)) ((@fld_below 16 5 0 5 (x0 ++ x1 ++ x2) x3 (by decide)).trans (fld_all x3)))
theorem fld_w18_0_8 (x0 : BitVec 6) (x1 : BitVec 5) (x2 : BitVec 5) (x3 : BitVec 5) (x4 : BitVec 3) (x5 : BitVec 8) : fld (m := 32) (x0 ++ x1 ++ x2 ++ x3 ++ (x4 ++ x5 : BitVec 11)) 0 8 = x5 :=
  (@fld_below 21 11 0 8 (x0 ++ x1 ++ x2 ++ x3) (x4 ++ x5) (by decide)).trans ((@fld_below 3 8 0 8 x4 x5 (by decide)).trans (fld_all x5))

/-! ### Words of the shape (7 6 6 13) -/

theorem fld_w19_25_7 (x0 : BitVec 7) (x1 : BitVec 6) (x2 : BitVec 6) (x3 : BitVec 13) : fld (m := 32) (x0 ++ x1 ++ x2 ++ x3) 25 7 = x0 :=
  (@fld_above 19 13 25 7 (x0 ++ x1 ++ x2) x3 (by decide)).trans ((@fld_above 13 6 12 7 (x0 ++ x1) x2 (by decide)).trans ((@fld_above 7 6 6 7 x0 x1 (by decide)).trans (fld_all x0)))
theorem fld_w19_19_6 (x0 : BitVec 7) (x1 : BitVec 6) (x2 : BitVec 6) (x3 : BitVec 13) : fld (m := 32) (x0 ++ x1 ++ x2 ++ x3) 19 6 = x1 :=
  (@fld_above 19 13 19 6 (x0 ++ x1 ++ x2) x3 (by decide)).trans ((@fld_above 13 6 6 6 (x0 ++ x1) x2 (by decide)).trans ((@fld_below 7 6 0 6 x0 x1 (by decide)).trans (fld_all x1)))
theorem fld_w19_13_6 (x0 : BitVec 7) (x1 : BitVec 6) (x2 : BitVec 6) (x3 : BitVec 13) : fld (m := 32) (x0 ++ x1 ++ x2 ++ x3) 13 6 = x2 :=
  (@fld_above 19 13 13 6 (x0 ++ x1 ++ x2) x3 (by decide)).trans ((@fld_below 13 6 0 6 (x0 ++ x1) x2 (by decide)).trans (fld_all x2))
theorem fld_w19_11_2 (x0 : BitVec 7) (x1 : BitVec 6) (x2 : BitVec 6) (x3 : BitVec 13) : fld (m := 32) (x0 ++ x1 ++ x2 ++ x3) 11 2 = fld x3 11 2 :=
  (@fld_below 19 13 11 2 (x0 ++ x1 ++ x2) x3 (by decide)).trans (rfl)
theorem fld_w19_3_8 (x0 : BitVec 7) (x1 : BitVec 6) (x2 : BitVec 6) (x3 : BitVec 13) : fld (m := 32) (x0 ++ x1 ++ x2 ++ x3) 3 8 = fld x3 3 8 :=
  (@fld_below 19 13 3 8 (x0 ++ x1 ++ x2) x3 (by decide)).trans (rfl)
theorem fld_w19_0_13 (x0 : BitVec 7) (x1 : BitVec 6) (x2 : BitVec 6) (x3 : BitVec 13) : fld (m := 32) (x0 ++ x1 ++ x2 ++ x3) 0 13 = x3 :=
  (@fld_below 19 13 0 13 (x0 ++ x1 ++ x2) x3 (by decide)).trans (fld_all x3)
theorem fld_w19_0_3 (x0 : BitVec 7) (x1 : BitVec 6) (x2 : BitVec 6) (x3 : BitVec 13) : fld (m := 32) (x0 ++ x1 ++ x2 ++ x3) 0 3 = fld x3 0 3 :=
  (@fld_below 19 13 0 3 (x0 ++ x1 ++ x2) x3 (by decide)).trans (rfl)

/-! ### Words of the shape (7 6 6 (2 8 3)) -/

theorem fld_w20_25_7 (x0 : BitVec 7) (x1 : BitVec 6) (x2 : BitVec 6) (x3 : BitVec 2) (x4 : BitVec 8) (x5 : BitVec 3) : fld (m := 32) (x0 ++ x1 ++ x2 ++ (x3 ++ x4 ++ x5 : BitVec 13)) 25 7 = x0 :=
  (@fld_above 19 13 25 7 (x0 ++ x1 ++ x2) (x3 ++ x4 ++ x5) (by decide)).trans ((@fld_above 13 6 12 7 (x0 ++ x1) x2 (by decide)).trans ((@fld_above 7 6 6 7 x0 x1 (by decide)).trans (fld_all x0)))
theorem fld_w20_19_6 (x0 : BitVec 7) (x1 : BitVec 6) (x2 : BitVec 6) (x3 : BitVec 2) (x4 : BitVec 8) (x5 : BitVec 3) : fld (m := 32) (x0 ++ x1 ++ x2 ++ (x3 ++ x4 ++ x5 : BitVec 13)) 19 6 = x1 :=
  (@fld_above 19 13 19 6 (x0 ++ x1 ++ x2) (x3 ++ x4 ++ x5) (by decide)).trans ((@fld_above 13 6 6 6 (x0 ++ x1) x2 (by decide)).trans ((@fld_below 7 6 0 6 x0 x1 (by decide)).trans (fld_all x1)))
theorem fld_w20_13_6 (x0 : BitVec 7) (x1 : BitVec 6) (x2 : BitVec 6) (x3 : BitVec 2) (x4 : BitVec 8) (x5 : BitVec 3) : fld (m := 32) (x0 ++ x1 ++ x2 ++ (x3 ++ x4 ++ x5 : BitVec 13)) 13 6 = x2 :=
  (@fld_above 19 13 13 6 (x0 ++ x1 ++ x2) (x3 ++ x4 ++ x5) (by decide)).trans ((@fld_below 13 6 0 6 (x0 ++ x1) x2 (by decide)).trans (fld_all x2))
theorem fld_w20_11_2 (x0 : BitVec 7) (x1 : BitVec 6) (x2 : BitVec 6) (x3 : BitVec 2) (x4 : BitVec 8) (x5 : BitVec 3) : fld (m := 32) (x0 ++ x1 ++ x2 ++ (x3 ++ x4 ++ x5 : BitVec 13)) 11 2 = x3 :=
  (@fld_below 19 13 11 2 (x0 ++ x1 ++ x2) (x3 ++ x4 ++ x5) (by decide)).trans ((@fld_above 10 3 11 2 (x3 ++ x4) x5 (by decide)).trans ((@fld_above 2 8 8 2 x3 x4 (by decide)).trans (fld_all x3)))
theorem fld_w20_3_8 (x0 : BitVec 7) (x1 : BitVec 6) (x2 : BitVec 6) (x3 : BitVec 2) (x4 : BitVec 8) (x5 : BitVec 3) : fld (m := 32) (x0 ++ x1 ++ x2 ++ (x3 ++ x4 ++ x5 : BitVec 13)) 3 8 = x4 :=
  (@fld_below 19 13 3 8 (x0 ++ x1 ++ x2) (x3 ++ x4 ++ x5) (by decide)).trans ((@fld_above 10 3 3 8 (x3 ++ x4) x5 (by decide)).trans ((@fld_below 2 8 0 8 x3 x4 (by decide)).trans (fld_all x4)))
theorem fld_w20_0_13 (x0 : BitVec 7) (x1 : BitVec 6) (x2 : BitVec 6) (x3 : BitVec 2) (x4 : BitVec 8) (x5 : BitVec 3) : fld (m := 32) (x0 ++ x1 ++ x2 ++ (x3 ++ x4 ++ x5 : BitVec 13)) 0 13 = x3 ++ x4 ++ x5 :=
  (@fld_below 19 13 0 13 (x0 ++ x1 ++ x2) (x3 ++ x4 ++ x5) (by decide)).trans ((@fld_across 10 3 10 (x3 ++ x4) x5).trans (congrArg (fun z : BitVec 10 => z ++ x5) ((@fld_across 2 8 2 x3 x4).trans (congrArg (fun z : BitVec 2 => z ++ x4) (fld_all x3)))))
theorem fld_w20_0_3 (x0 : BitVec 7) (x1 : BitVec 6) (x2 : BitVec 6) (x3 : BitVec 2) (x4 : BitVec 8) (x5 : BitVec 3) : fld (m := 32) (x0 ++ x1 ++ x2 ++ (x3 ++ x4 ++ x5 : BitVec 13)) 0 3 = x5 :=
  (@fld_below 19 13 0 3 (x0 ++ x1 ++ x2) (x3 ++ x4 ++ x5) (by decide)).trans ((@fld_below 10 3 0 3 (x3 ++ x4) x5 (by decide)).trans (fld_all x5))

/-! ### Words of the shape (8 6 2 8 8 32 64) -/

theorem fld_w21_120_8 (x0 : BitVec 8) (x1 : BitVec 6) (x2 : BitVec 2) (x3 : BitVec 8) (x4 : BitVec 8) (x5 : BitVec 32) (x6 : BitVec 64) : fld (m := 128) (x0 ++ x1 ++ x2 ++ x3 ++ x4 ++ x5 ++ x6) 120 8 = x0 :=
  (@fld_above 64 64 120 8 (x0 ++ x1 ++ x2 ++ x3 ++ x4 ++ x5) x6 (by decide)).trans ((@fld_above 32 32 56 8 (x0 ++ x1 ++ x2 ++ x3 ++ x4) x5 (by decide)).trans ((@fld_above 24 8 24 8 (x0 ++ x1 ++ x2 ++ x3) x4 (by decide)).trans ((@fld_above 16 8 16 8 (x0 ++ x1 ++ x2) x3 (by decide)).trans ((@fld_above 14 2 8 8 (x0 ++ x1) x2 (by decide)).trans ((@fld_above 8 6 6 8 x0 x1 (by decide)).trans (fld_all x0))))))
theorem fld_w21_114_6 (x0 : BitVec 8) (x1 : BitVec 6) (x2 : BitVec 2) (x3 : BitVec 8) (x4 : BitVec 8) (x5 : BitVec 32) (x6 : BitVec 64) : fld (m := 128) (x0 ++ x1 ++ x2 ++ x3 ++ x4 ++ x5 ++ x6) 114 6 = x1 :=
  (@fld_above 64 64 114 6 (x0 ++ x1 ++ x2 ++ x3 ++ x4 ++ x5) x6 (by decide)).trans ((@fld_above 32 32 50 6 (x0 ++ x1 ++ x2 ++ x3 ++ x4) x5 (by decide)).trans ((@fld_above 24 8 18 6 (x0 ++ x1 ++ x2 ++ x3) x4 (by decide)).trans ((@fld_above 16 8 10 6 (x0 ++ x1 ++ x2) x3 (by decide)).trans ((@fld_above 14 2 2 6 (x0 ++ x1) x2 (by decide)).trans ((@fld_below 8 6 0 6 x0 x1 (by decide)).trans (fld_all x1))))))
theorem fld_w21_112_2 (x0 : BitVec 8) (x1 : BitVec 6) (x2 : BitVec 2) (x3 : BitVec 8) (x4 : BitVec 8) (x5 : BitVec 32) (x6 : BitVec 64) : fld (m := 128) (x0 ++ x1 ++ x2 ++ x3 ++ x4 ++ x5 ++ x6) 112 2 = x2 :=
  (@fld_above 64 64 112 2 (x0 ++ x1 ++ x2 ++ x3 ++ x4 ++ x5) x6 (by decide)).trans ((@fld_above 32 32 48 2 (x0 ++ x1 ++ x2 ++ x3 ++ x4) x5 (by decide)).trans ((@fld_above 24 8 16 2 (x0 ++ x1 ++ x2 ++ x3) x4 (by decide)).trans ((@fld_above 16 8 8 2 (x0 ++ x1 ++ x2) x3 (by decide)).trans ((@fld_below 14 2 0 2 (x0 ++ x1) x2 (by decide)).trans (fld_all x2)))))
theorem fld_w21_104_8 (x0 : BitVec 8) (x1 : BitVec 6) (x2 : BitVec 2) (x3 : BitVec 8) (x4 : BitVec 8) (x5 : BitVec 32) (x6 : BitVec 64) : fld (m := 128) (x0 ++ x1 ++ x2 ++ x3 ++ x4 ++ x5 ++ x6) 104 8 = x3 :=
  (@fld_above 64 64 104 8 (x0 ++ x1 ++ x2 ++ x3 ++ x4 ++ x5) x6 (by decide)).trans ((@fld_above 32 32 40 8 (x0 ++ x1 ++ x2 ++ x3 ++ x4) x5 (by decide)).trans ((@fld_above 24 8 8 8 (x0 ++ x1 ++ x2 ++ x3) x4 (by decide)).trans ((@fld_below 16 8 0 8 (x0 ++ x1 ++ x2) x3 (by decide)).trans (fld_all x3))))
theorem fld_w21_96_8 (x0 : BitVec 8) (x1 : BitVec 6) (x2 : BitVec 2) (x3 : BitVec 8) (x4 : BitVec 8) (x5 : BitVec 32) (x6 : BitVec 64) : fld (m := 128) (x0 ++ x1 ++ x2 ++ x3 ++ x4 ++ x5 ++ x6) 96 8 = x4 :=
  (@fld_above 64 64 96 8 (x0 ++ x1 ++ x2 ++ x3 ++ x4 ++ x5) x6 (by decide)).trans ((@fld_above 32 32 32 8 (x0 ++ x1 ++ x2 ++ x3 ++ x4) x5 (by decide)).trans ((@fld_below 24 8 0 8 (x0 ++ x1 ++ x2 ++ x3) x4 (by decide)).trans (fld_all x4)))
theorem fld_w21_96_1 (x0 : BitVec 8) (x1 : BitVec 6) (x2 : BitVec 2) (x3 : BitVec 8) (x4 : BitVec 8) (x5 : BitVec 32) (x6 : BitVec 64) : fld (m := 128) (x0 ++ x1 ++ x2 ++ x3 ++ x4 ++ x5 ++ x6) 96 1 = fld x4 0 1 :=
  (@fld_above 64 64 96 1 (x0 ++ x1 ++ x2 ++ x3 ++ x4 ++ x5) x6 (by decide)).trans ((@fld_above 32 32 32 1 (x0 ++ x1 ++ x2 ++ x3 ++ x4) x5 (by decide)).trans ((@fld_below 24 8 0 1 (x0 ++ x1 ++ x2 ++ x3) x4 (by decide)).trans (rfl)))
theorem fld_w21_95_1 (x0 : BitVec 8) (x1 : BitVec 6) (x2 : BitVec 2) (x3 : BitVec 8) (x4 : BitVec 8) (x5 : BitVec 32) (x6 : BitVec 64) : fld (m := 128) (x0 ++ x1 ++ x2 ++ x3 ++ x4 ++ x5 ++ x6) 95 1 = fld x5 31 1 :=
  (@fld_above 64 64 95 1 (x0 ++ x1 ++ x2 ++ x3 ++ x4 ++ x5) x6 (by decide)).trans ((@fld_below 32 32 31 1 (x0 ++ x1 ++ x2 ++ x3 ++ x4) x5 (by decide)).trans (rfl))
theorem fld_w21_94_1 (x0 : BitVec 8) (x1 : BitVec 6) (x2 : BitVec 2) (x3 : BitVec 8) (x4 : BitVec 8) (x5 : BitVec 32) (x6 : BitVec 64) : fld (m := 128) (x0 ++ x1 ++ x2 ++ x3 ++ x4 ++ x5 ++ x6) 94 1 = fld x5 30 1 :=
  (@fld_above 64 64 94 1 (x0 ++ x1 ++ x2 ++ x3 ++ x4 ++ x5) x6 (by decide)).trans ((@fld_below 32 32 30 1 (x0 ++ x1 ++ x2 ++ x3 ++ x4) x5 (by decide)).trans (rfl))
theorem fld_w21_93_1 (x0 : BitVec 8) (x1 : BitVec 6) (x2 : BitVec 2) (x3 : BitVec 8) (x4 : BitVec 8) (x5 : BitVec 32) (x6 : BitVec 64) : fld (m := 128) (x0 ++ x1 ++ x2 ++ x3 ++ x4 ++ x5 ++ x6) 93 1 = fld x5 29 1 :=
  (@fld_above 64 64 93 1 (x0 ++ x1 ++ x2 ++ x3 ++ x4 ++ x5) x6 (by decide)).trans ((@fld_below 32 32 29 1 (x0 ++ x1 ++ x2 ++ x3 ++ x4) x5 (by decide)).trans (rfl))
theorem fld_w21_64_32 (x0 : BitVec 8) (x1 : BitVec 6) (x2 : BitVec 2) (x3 : BitVec 8) (x4 : BitVec 8) (x5 : BitVec 32) (x6 : BitVec 64) : fld (m := 128) (x0 ++ x1 ++ x2 ++ x3 ++ x4 ++ x5 ++ x6) 64 32 = x5 :=
  (@fld_above 64 64 64 32 (x0 ++ x1 ++ x2 ++ x3 ++ x4 ++ x5) x6 (by decide)).trans ((@fld_below 32 32 0 32 (x0 ++ x1 ++ x2 ++ x3 ++ x4) x5 (by decide)).trans (fld_all x5))
theorem fld_w21_0_64 (x0 : BitVec 8) (x1 : BitVec 6) (x2 : BitVec 2) (x3 : BitVec 8) (x4 : BitVec 8) (x5 : BitVec 32) (x6 : BitVec 64) : fld (m := 128) (x0 ++ x1 ++ x2 ++ x3 ++ x4 ++ x5 ++ x6) 0 64 = x6 :=
  (@fld_below 64 64 0 64 (x0 ++ x1 ++ x2 ++ x3 ++ x4 ++ x5) x6 (by decide)).trans (fld_all x6)

/-! ### Words of the shape (4 32 4 24) -/

theorem fld_w22_60_4 (x0 : BitVec 4) (x1 : BitVec 32) (x2 : BitVec 4) (x3 : BitVec 24) : fld (m := 64) (x0 ++ x1 ++ x2 ++ x3) 60 4 = x0 :=
  (@fld_above 40 24 60 4 (x0 ++ x1 ++ x2) x3 (by decide)).trans ((@fld_above 36 4 36 4 (x0 ++ x1) x2 (by decide)).trans ((@fld_above 4 32 32 4 x0 x1 (by decide)).trans (fld_all x0)))
theorem fld_w22_52_8 (x0 : BitVec 4) (x1 : BitVec 32) (x2 : BitVec 4) (x3 : BitVec 24) : fld (m := 64) (x0 ++ x1 ++ x2 ++ x3) 52 8 = fld x1 24 8 :=
  (@fld_above 40 24 52 8 (x0 ++ x1 ++ x2) x3 (by decide)).trans ((@fld_above 36 4 28 8 (x0 ++ x1) x2 (by decide)).trans ((@fld_below 4 32 24 8 x0 x1 (by decide)).trans (rfl)))
theorem fld_w22_43_9 (x0 : BitVec 4) (x1 : BitVec 32) (x2 : BitVec 4) (x3 : BitVec 24) : fld (m := 64) (x0 ++ x1 ++ x2 ++ x3) 43 9 = fld x1 15 9 :=
  (@fld_above 40 24 43 9 (x0 ++ x1 ++ x2) x3 (by decide)).trans ((@fld_above 36 4 19 9 (x0 ++ x1) x2 (by decide)).trans ((@fld_below 4 32 15 9 x0 x1 (by decide)).trans (rfl)))
theorem fld_w22_28_32 (x0 : BitVec 4) (x1 : BitVec 32) (x2 : BitVec 4) (x3 : BitVec 24) : fld (m := 64) (x0 ++ x1 ++ x2 ++ x3) 28 32 = x1 :=
  (@fld_above 40 24 28 32 (x0 ++ x1 ++ x2) x3 (by decide)).trans ((@fld_above 36 4 4 32 (x0 ++ x1) x2 (by decide)).trans ((@fld_below 4 32 0 32 x0 x1 (by decide)).trans (fld_all x1)))
theorem fld_w22_24_4 (x0 : BitVec 4) (x1 : BitVec 32) (x2 : BitVec 4) (x3 : BitVec 24) : fld (m := 64) (x0 ++ x1 ++ x2 ++ x3) 24 4 = x2 :=
  (@fld_above 40 24 24 4 (x0 ++ x1 ++ x2) x3 (by decide)).trans ((@fld_below 36 4 0 4 (x0 ++ x1) x2 (by decide)).trans (fld_all x2))
theorem fld_w22_0_24 (x0 : BitVec 4) (x1 : BitVec 32) (x2 : BitVec 4) (x3 : BitVec 24) : fld (m := 64) (x0 ++ x1 ++ x2 ++ x3) 0 24 = x3 :=
  (@fld_below 40 24 0 24 (x0 ++ x1 ++ x2) x3 (by decide)).trans (fld_all x3)

/-! ### Words of the shape (4 1 5 54) -/

theorem fld_w23_60_4 (x0 : BitVec 4) (x1 : BitVec 1) (x2 : BitVec 5) (x3 : BitVec 54) : fld (m := 64) (x0 ++ x1 ++ x2 ++ x3) 60 4 = x0 :=
  (@fld_above 10 54 60 4 (x0 ++ x1 ++ x2) x3 (by decide)).trans ((@fld_above 5 5 6 4 (x0 ++ x1) x2 (by decide)).trans ((@fld_above 4 1 1 4 x0 x1 (by decide)).trans (fld_all x0)))
theorem fld_w23_59_1 (x0 : BitVec 4) (x1 : BitVec 1) (x2 : BitVec 5) (x3 : BitVec 54) : fld (m := 64) (x0 ++ x1 ++ x2 ++ x3) 59 1 = x1 :=
  (@fld_above 10 54 59 1 (x0 ++ x1 ++ x2) x3 (by decide)).trans ((@fld_above 5 5 5 1 (x0 ++ x1) x2 (by decide)).trans ((@fld_below 4 1 0 1 x0 x1 (by decide)).trans (fld_all x1)))
theorem fld_w23_54_5 (x0 : BitVec 4) (x1 : BitVec 1) (x2 : BitVec 5) (x3 : BitVec 54) : fld (m := 64) (x0 ++ x1 ++ x2 ++ x3) 54 5 = x2 :=
  (@fld_above 10 54 54 5 (x0 ++ x1 ++ x2) x3 (by decide)).trans ((@fld_below 5 5 0 5 (x0 ++ x1) x2 (by decide)).trans (fld_all x2))
theorem fld_w23_45_9 (x0 : BitVec 4) (x1 : BitVec 1) (x2 : BitVec 5) (x3 : BitVec 54) : fld (m := 64) (x0 ++ x1 ++ x2 ++ x3) 45 9 = fld x3 45 9 :=
  (@fld_below 10 54 45 9 (x0 ++ x1 ++ x2) x3 (by decide)).trans (rfl)
theorem fld_w23_43_9 (x0 : BitVec 4) (x1 : BitVec 1) (x2 : BitVec 5) (x3 : BitVec 54) : fld (m := 64) (x0 ++ x1 ++ x2 ++ x3) 43 9 = fld x3 43 9 :=
  (@fld_below 10 54 43 9 (x0 ++ x1 ++ x2) x3 (by decide)).trans (rfl)
theorem fld_w23_37_8 (x0 : BitVec 4) (x1 : BitVec 1) (x2 : BitVec 5) (x3 : BitVec 54) : fld (m := 64) (x0 ++ x1 ++ x2 ++ x3) 37 8 = fld x3 37 8 :=
  (@fld_below 10 54 37 8 (x0 ++ x1 ++ x2) x3 (by decide)).trans (rfl)
theorem fld_w23_36_1 (x0 : BitVec 4) (x1 : BitVec 1) (x2 : BitVec 5) (x3 : BitVec 54) : fld (m := 64) (x0 ++ x1 ++ x2 ++ x3) 36 1 = fld x3 36 1 :=
  (@fld_below 10 54 36 1 (x0 ++ x1 ++ x2) x3 (by decide)).trans (rfl)
theorem fld_w23_0_54 (x0 : BitVec 4) (x1 : BitVec 1) (x2 : BitVec 5) (x3 : BitVec 54) : fld (m := 64) (x0 ++ x1 ++ x2 ++ x3) 0 54 = x3 :=
  (@fld_below 10 54 0 54 (x0 ++ x1 ++ x2) x3 (by decide)).trans (fld_all x3)
theorem fld_w23_0_36 (x0 : BitVec 4) (x1 : BitVec 1) (x2 : BitVec 5) (x3 : BitVec 54) : fld (m := 64) (x0 ++ x1 ++ x2 ++ x3) 0 36 = fld x3 0 36 :=
  (@fld_below 10 54 0 36 (x0 ++ x1 ++ x2) x3 (by decide)).trans (rfl)

/-! ### Words of the shape (4 1 5 9 8 1 36) -/

theorem fld_w24_60_4 (x0 : BitVec 4) (x1 : BitVec 1) (x2 : BitVec 5) (x3 : BitVec 9) (x4 : BitVec 8) (x5 : BitVec 1) (x6 : BitVec 36) : fld (m := 64) (x0 ++ x1 ++ x2 ++ x3 ++ x4 ++ x5 ++ x6) 60 4 = x0 :=
  (@fld_above 28 36 60 4 (x0 ++ x1 ++ x2 ++ x3 ++ x4 ++ x5) x6 (by decide)).trans ((@fld_above 27 1 24 4 (x0 ++ x1 ++ x2 ++ x3 ++ x4) x5 (by decide)).trans ((@fld_above 19 8 23 4 (x0 ++ x1 ++ x2 ++ x3) x4 (by decide)).trans ((@fld_above 10 9 15 4 (x0 ++ x1 ++ x2) x3 (by decide)).trans ((@fld_above 5 5 6 4 (x0 ++ x1) x2 (by decide)).trans ((@fld_above 4 1 1 4 x0 x1 (by decide)).trans (fld_all x0))))))
theorem fld_w24_59_1 (x0 : BitVec 4) (x1 : BitVec 1) (x2 : BitVec 5) (x3 : BitVec 9) (x4 : BitVec 8) (x5 : BitVec 1) (x6 : BitVec 36) : fld (m := 64) (x0 ++ x1 ++ x2 ++ x3 ++ x4 ++ x5 ++ x6) 59 1 = x1 :=
  (@fld_above 28 36 59 1 (x0 ++ x1 ++ x2 ++ x3 ++ x4 ++ x5) x6 (by decide)).trans ((@fld_above 27 1 23 1 (x0 ++ x1 ++ x2 ++ x3 ++ x4) x5 (by decide)).trans ((@fld_above 19 8 22 1 (x0 ++ x1 ++ x2 ++ x3) x4 (by decide)).trans ((@fld_above 10 9 14 1 (x0 ++ x1 ++ x2) x3 (by decide)).trans ((@fld_above 5 5 5 1 (x0 ++ x1) x2 (by decide)).trans ((@fld_below 4 1 0 1 x0 x1 (by decide)).trans (fld_all x1))))))
theorem fld_w24_54_5 (x0 : BitVec 4) (x1 : BitVec 1) (x2 : BitVec 5) (x3 : BitVec 9) (x4 : BitVec 8) (x5 : BitVec 1) (x6 : BitVec 36) : fld (m := 64) (x0 ++ x1 ++ x2 ++ x3 ++ x4 ++ x5 ++ x6) 54 5 = x2 :=
  (@fld_above 28 36 54 5 (x0 ++ x1 ++ x2 ++ x3 ++ x4 ++ x5) x6 (by decide)).trans ((@fld_above 27 1 18 5 (x0 ++ x1 ++ x2 ++ x3 ++ x4) x5 (by decide)).trans ((@fld_above 19 8 17 5 (x0 ++ x1 ++ x2 ++ x3) x4 (by decide)).trans ((@fld_above 10 9 9 5 (x0 ++ x1 ++ x2) x3 (by decide)).trans ((@fld_below 5 5 0 5 (x0 ++ x1) x2 (by decide)).trans (fld_all x2)))))
theorem fld_w24_45_9 (x0 : BitVec 4) (x1 : BitVec 1) (x2 : BitVec 5) (x3 : BitVec 9) (x4 : BitVec 8) (x5 : BitVec 1) (x6 : BitVec 36) : fld (m := 64) (x0 ++ x1 ++ x2 ++ x3 ++ x4 ++ x5 ++ x6) 45 9 = x3 :=
  (@fld_above 28 36 45 9 (x0 ++ x1 ++ x2 ++ x3 ++ x4 ++ x5) x6 (by decide)).trans ((@fld_above 27 1 9 9 (x0 ++ x1 ++ x2 ++ x3 ++ x4) x5 (by decide)).trans ((@fld_above 19 8 8 9 (x0 ++ x1 ++ x2 ++ x3) x4 (by decide)).trans ((@fld_below 10 9 0 9 (x0 ++ x1 ++ x2) x3 (by decide)).trans (fld_all x3))))
theorem fld_w24_37_8 (x0 : BitVec 4) (x1 : BitVec 1) (x2 : BitVec 5) (x3 : BitVec 9) (x4 : BitVec 8) (x5 : BitVec 1) (x6 : BitVec 36) : fld (m := 64) (x0 ++ x1 ++ x2 ++ x3 ++ x4 ++ x5 ++ x6) 37 8 = x4 :=
  (@fld_above 28 36 37 8 (x0 ++ x1 ++ x2 ++ x3 ++ x4 ++ x5) x6 (by decide)).trans ((@fld_above 27 1 1 8 (x0 ++ x1 ++ x2 ++ x3 ++ x4) x5 (by decide)).trans ((@fld_below 19 8 0 8 (x0 ++ x1 ++ x2 ++ x3) x4 (by decide)).trans (fld_all x4)))
theorem fld_w24_36_1 (x0 : BitVec 4) (x1 : BitVec 1) (x2 : BitVec 5) (x3 : BitVec 9) (x4 : BitVec 8) (x5 : BitVec 1) (x6 : BitVec 36) : fld (m := 64) (x0 ++ x1 ++ x2 ++ x3 ++ x4 ++ x5 ++ x6) 36 1 = x5 :=
  (@fld_above 28 36 36 1 (x0 ++ x1 ++ x2 ++ x3 ++ x4 ++ x5) x6 (by decide)).trans ((@fld_below 27 1 0 1 (x0 ++ x1 ++ x2 ++ x3 ++ x4) x5 (by decide)).trans (fld_all x5))
theorem fld_w24_0_54 (x0 : BitVec 4) (x1 : BitVec 1) (x2 : BitVec 5) (x3 : BitVec 9) (x4 : BitVec 8) (x5 : BitVec 1) (x6 : BitVec 36) : fld (m := 64) (x0 ++ x1 ++ x2 ++ x3 ++ x4 ++ x5 ++ x6) 0 54 = x3 ++ x4 ++ x5 ++ x6 :=
  (@fld_across 28 36 18 (x0 ++ x1 ++ x2 ++ x3 ++ x4 ++ x5) x6).trans (congrArg (fun z : BitVec 18 => z ++ x6) ((@fld_across 27 1 17 (x0 ++ x1 ++ x2 ++ x3 ++ x4) x5).trans (congrArg (fun z : BitVec 17 => z ++ x5) ((@fld_across 19 8 9 (x0 ++ x1 ++ x2 ++ x3) x4).trans (congrArg (fun z : BitVec 9 => z ++ x4) ((@fld_below 10 9 0 9 (x0 ++ x1 ++ x2) x3 (by decide)).trans (fld_all x3)))))))
theorem fld_w24_0_36 (x0 : BitVec 4) (x1 : BitVec 1) (x2 : BitVec 5) (x3 : BitVec 9) (x4 : BitVec 8) (x5 : BitVec 1) (x6 : BitVec 36) : fld (m := 64) (x0 ++ x1 ++ x2 ++ x3 ++ x4 ++ x5 ++ x6) 0 36 = x6 :=
  (@fld_below 28 36 0 36 (x0 ++ x1 ++ x2 ++ x3 ++ x4 ++ x5) x6 (by decide)).trans (fld_all x6)

/-! ### Words of the shape (4 0 9 9 42) -/

theorem fld_w25_60_4 (x0 : BitVec 4) (x1 : BitVec 0) (x2 : BitVec 9) (x3 : BitVec 9) (x4 : BitVec 42) : fld (m := 64) (x0 ++ x1 ++ x2 ++ x3 ++ x4) 60 4 = x0 :=
  (@fld_above 22 42 60 4 (x0 ++ x1 ++ x2 ++ x3) x4 (by decide)).trans ((@fld_above 13 9 18 4 (x0 ++ x1 ++ x2) x3 (by decide)).trans ((@fld_above 4 9 9 4 (x0 ++ x1) x2 (by decide)).trans ((@fld_above 4 0 0 4 x0 x1 (by decide)).trans (fld_all x0))))
theorem fld_w25_52_8 (x0 : BitVec 4) (x1 : BitVec 0) (x2 : BitVec 9) (x3 : BitVec 9) (x4 : BitVec 42) : fld (m := 64) (x0 ++ x1 ++ x2 ++ x3 ++ x4) 52 8 = fld x2 1 8 :=
  (@fld_above 22 42 52 8 (x0 ++ x1 ++ x2 ++ x3) x4 (by decide)).trans ((@fld_above 13 9 10 8 (x0 ++ x1 ++ x2) x3 (by decide)).trans ((@fld_below 4 9 1 8 (x0 ++ x1) x2 (by decide)).trans (rfl)))
theorem fld_w25_51_9 (x0 : BitVec 4) (x1 : BitVec 0) (x2 : BitVec 9) (x3 : BitVec 9) (x4 : BitVec 42) : fld (m := 64) (x0 ++ x1 ++ x2 ++ x3 ++ x4) 51 9 = x2 :=
  (@fld_above 22 42 51 9 (x0 ++ x1 ++ x2 ++ x3) x4 (by decide)).trans ((@fld_above 13 9 9 9 (x0 ++ x1 ++ x2) x3 (by decide)).trans ((@fld_below 4 9 0 9 (x0 ++ x1) x2 (by decide)).trans (fld_all x2)))
theorem fld_w25_42_9 (x0 : BitVec 4) (x1 : BitVec 0) (x2 : BitVec 9) (x3 : BitVec 9) (x4 : BitVec 42) : fld (m := 64) (x0 ++ x1 ++ x2 ++ x3 ++ x4) 42 9 = x3 :=
  (@fld_above 22 42 42 9 (x0 ++ x1 ++ x2 ++ x3) x4 (by decide)).trans ((@fld_below 13 9 0 9 (x0 ++ x1 ++ x2) x3 (by decide)).trans (fld_all x3))
theorem fld_w25_0_42 (x0 : BitVec 4) (x1 : BitVec 0) (x2 : BitVec 9) (x3 : BitVec 9) (x4 : BitVec 42) : fld (m := 64) (x0 ++ x1 ++ x2 ++ x3 ++ x4) 0 42 = x4 :=
  (@fld_below 22 42 0 42 (x0 ++ x1 ++ x2 ++ x3) x4 (by decide)).trans (fld_all x4)

/-! ### Words of the shape (4 12 48) -/

theorem fld_w26_60_4 (x0 : BitVec 4) (x1 : BitVec 12) (x2 : BitVec 48) : fld (m := 64) (x0 ++ x1 ++ x2) 60 4 = x0 :=
  (@fld_above 16 48 60 4 (x0 ++ x1) x2 (by decide)).trans ((@fld_above 4 12 12 4 x0 x1 (by decide)).trans (fld_all x0))
theorem fld_w26_52_8 (x0 : BitVec 4) (x1 : BitVec 12) (x2 : BitVec 48) : fld (m := 64) (x0 ++ x1 ++ x2) 52 8 = fld x1 4 8 :=
  (@fld_above 16 48 52 8 (x0 ++ x1) x2 (by decide)).trans ((@fld_below 4 12 4 8 x0 x1 (by decide)).trans (rfl))
theorem fld_w26_48_12 (x0 : BitVec 4) (x1 : BitVec 12) (x2 : BitVec 48) : fld (m := 64) (x0 ++ x1 ++ x2) 48 12 = x1 :=
  (@fld_above 16 48 48 12 (x0 ++ x1) x2 (by decide)).trans ((@fld_below 4 12 0 12 x0 x1 (by decide)).trans (fld_all x1))
theorem fld_w26_0_48 (x0 : BitVec 4) (x1 : BitVec 12) (x2 : BitVec 48) : fld (m := 64) (x0 ++ x1 ++ x2) 0 48 = x2 :=
  (@fld_below 16 48 0 48 (x0 ++ x1) x2 (by decide)).trans (fld_all x2)

/-! ### Words of the shape (4 8 9 43) -/

theorem fld_w27_60_4 (x0 : BitVec 4) (x1 : BitVec 8) (x2 : BitVec 9) (x3 : BitVec 43) : fld (m := 64) (x0 ++ x1 ++ x2 ++ x3) 60 4 = x0 :=
  (@fld_above 21 43 60 4 (x0 ++ x1 ++ x2) x3 (by decide)).trans ((@fld_above 12 9 17 4 (x0 ++ x1) x2 (by decide)).trans ((@fld_above 4 8 8 4 x0 x1 (by decide)).trans (fld_all x0)))
theorem fld_w27_52_8 (x0 : BitVec 4) (x1 : BitVec 8) (x2 : BitVec 9) (x3 : BitVec 43) : fld (m := 64) (x0 ++ x1 ++ x2 ++ x3) 52 8 = x1 :=
  (@fld_above 21 43 52 8 (x0 ++ x1 ++ x2) x3 (by decide)).trans ((@fld_above 12 9 9 8 (x0 ++ x1) x2 (by decide)).trans ((@fld_below 4 8 0 8 x0 x1 (by decide)).trans (fld_all x1)))
theorem fld_w27_43_9 (x0 : BitVec 4) (x1 : BitVec 8) (x2 : BitVec 9) (x3 : BitVec 43) : fld (m := 64) (x0 ++ x1 ++ x2 ++ x3) 43 9 = x2 :=
  (@fld_above 21 43 43 9 (x0 ++ x1 ++ x2) x3 (by decide)).trans ((@fld_below 12 9 0 9 (x0 ++ x1) x2 (by decide)).trans (fld_all x2))
theorem fld_w27_0_43 (x0 : BitVec 4) (x1 : BitVec 8) (x2 : BitVec 9) (x3 : BitVec 43) : fld (m := 64) (x0 ++ x1 ++ x2 ++ x3) 0 43 = x3 :=
  (@fld_below 21 43 0 43 (x0 ++ x1 ++ x2) x3 (by decide)).trans (fld_all x3)

/-! ### Words of the shape (4 3 3 1 53) -/

theorem fld_w28_60_4 (x0 : BitVec 4) (x1 : BitVec 3) (x2 : BitVec 3) (x3 : BitVec 1) (x4 : BitVec 53) : fld (m := 64) (x0 ++ x1 ++ x2 ++ x3 ++ x4) 60 4 = x0 :=
  (@fld_above 11 53 60 4 (x0 ++ x1 ++ x2 ++ x3) x4 (by decide)).trans ((@fld_above 10 1 7 4 (x0 ++ x1 ++ x2) x3 (by decide)).trans ((@fld_above 7 3 6 4 (x0 ++ x1) x2 (by decide)).trans ((@fld_above 4 3 3 4 x0 x1 (by decide)).trans (fld_all x0))))
theorem fld_w28_57_3 (x0 : BitVec 4) (x1 : BitVec 3) (x2 : BitVec 3) (x3 : BitVec 1) (x4 : BitVec 53) : fld (m := 64) (x0 ++ x1 ++ x2 ++ x3 ++ x4) 57 3 = x1 :=
  (@fld_above 11 53 57 3 (x0 ++ x1 ++ x2 ++ x3) x4 (by decide)).trans ((@fld_above 10 1 4 3 (x0 ++ x1 ++ x2) x3 (by decide)).trans ((@fld_above 7 3 3 3 (x0 ++ x1) x2 (by decide)).trans ((@fld_below 4 3 0 3 x0 x1 (by decide)).trans (fld_all x1))))
theorem fld_w28_54_3 (x0 : BitVec 4) (x1 : BitVec 3) (x2 : BitVec 3) (x3 : BitVec 1) (x4 : BitVec 53) : fld (m := 64) (x0 ++ x1 ++ x2 ++ x3 ++ x4) 54 3 = x2 :=
  (@fld_above 11 53 54 3 (x0 ++ x1 ++ x2 ++ x3) x4 (by decide)).trans ((@fld_above 10 1 1 3 (x0 ++ x1 ++ x2) x3 (by decide)).trans ((@fld_below 7 3 0 3 (x0 ++ x1) x2 (by decide)).trans (fld_all x2)))
theorem fld_w28_53_1 (x0 : BitVec 4) (x1 : BitVec 3) (x2 : BitVec 3) (x3 : BitVec 1) (x4 : BitVec 53) : fld (m := 64) (x0 ++ x1 ++ x2 ++ x3 ++ x4) 53 1 = x3 :=
  (@fld_above 11 53 53 1 (x0 ++ x1 ++ x2 ++ x3) x4 (by decide)).trans ((@fld_below 10 1 0 1 (x0 ++ x1 ++ x2) x3 (by decide)).trans (fld_all x3))
theorem fld_w28_43_9 (x0 : BitVec 4) (x1 : BitVec 3) (x2 : BitVec 3) (x3 : BitVec 1) (x4 : BitVec 53) : fld (m := 64) (x0 ++ x1 ++ x2 ++ x3 ++ x4) 43 9 = fld x4 43 9 :=
  (@fld_below 11 53 43 9 (x0 ++ x1 ++ x2 ++ x3) x4 (by decide)).trans (rfl)
theorem fld_w28_0_53 (x0 : BitVec 4) (x1 : BitVec 3) (x2 : BitVec 3) (x3 : BitVec 1) (x4 : BitVec 53) : fld (m := 64) (x0 ++ x1 ++ x2 ++ x3 ++ x4) 0 53 = x4 :=
  (@fld_below 11 53 0 53 (x0 ++ x1 ++ x2 ++ x3) x4 (by decide)).trans (fld_all x4)

/-! ### Words of the shape (4 8 9 16 16 11) -/

theorem fld_w29_60_4 (x0 : BitVec 4) (x1 : BitVec 8) (x2 : BitVec 9) (x3 : BitVec 16) (x4 : BitVec 16) (x5 : BitVec 11) : fld (m := 64) (x0 ++ x1 ++ x2 ++ x3 ++ x4 ++ x5) 60 4 = x0 :=
  (@fld_above 53 11 60 4 (x0 ++ x1 ++ x2 ++ x3 ++ x4) x5 (by decide)).trans ((@fld_above 37 16 49 4 (x0 ++ x1 ++ x2 ++ x3) x4 (by decide)).trans ((@fld_above 21 16 33 4 (x0 ++ x1 ++ x2) x3 (by decide)).trans ((@fld_above 12 9 17 4 (x0 ++ x1) x2 (by decide)).trans ((@fld_above 4 8 8 4 x0 x1 (by decide)).trans (fld_all x0)))))
theorem fld_w29_52_8 (x0 : BitVec 4) (x1 : BitVec 8) (x2 : BitVec 9) (x3 : BitVec 16) (x4 : BitVec 16) (x5 : BitVec 11) : fld (m := 64) (x0 ++ x1 ++ x2 ++ x3 ++ x4 ++ x5) 52 8 = x1 :=
  (@fld_above 53 11 52 8 (x0 ++ x1 ++ x2 ++ x3 ++ x4) x5 (by decide)).trans ((@fld_above 37 16 41 8 (x0 ++ x1 ++ x2 ++ x3) x4 (by decide)).trans ((@fld_above 21 16 25 8 (x0 ++ x1 ++ x2) x3 (by decide)).trans ((@fld_above 12 9 9 8 (x0 ++ x1) x2 (by decide)).trans ((@fld_below 4 8 0 8 x0 x1 (by decide)).trans (fld_all x1)))))
theorem fld_w29_43_9 (x0 : BitVec 4) (x1 : BitVec 8) (x2 : BitVec 9) (x3 : BitVec 16) (x4 : BitVec 16) (x5 : BitVec 11) : fld (m := 64) (x0 ++ x1 ++ x2 ++ x3 ++ x4 ++ x5) 43 9 = x2 :=
  (@fld_above 53 11 43 9 (x0 ++ x1 ++ x2 ++ x3 ++ x4) x5 (by decide)).trans ((@fld_above 37 16 32 9 (x0 ++ x1 ++ x2 ++ x3) x4 (by decide)).trans ((@fld_above 21 16 16 9 (x0 ++ x1 ++ x2) x3 (by decide)).trans ((@fld_below 12 9 0 9 (x0 ++ x1) x2 (by decide)).trans (fld_all x2))))
theorem fld_w29_27_16 (x0 : BitVec 4) (x1 : BitVec 8) (x2 : BitVec 9) (x3 : BitVec 16) (x4 : BitVec 16) (x5 : BitVec 11) : fld (m := 64) (x0 ++ x1 ++ x2 ++ x3 ++ x4 ++ x5) 27 16 = x3 :=
  (@fld_above 53 11 27 16 (x0 ++ x1 ++ x2 ++ x3 ++ x4) x5 (by decide)).trans ((@fld_above 37 16 16 16 (x0 ++ x1 ++ x2 ++ x3) x4 (by decide)).trans ((@fld_below 21 16 0 16 (x0 ++ x1 ++ x2) x3 (by decide)).trans (fld_all x3)))
theorem fld_w29_11_16 (x0 : BitVec 4) (x1 : BitVec 8) (x2 : BitVec 9) (x3 : BitVec 16) (x4 : BitVec 16) (x5 : BitVec 11) : fld (m := 64) (x0 ++ x1 ++ x2 ++ x3 ++ x4 ++ x5) 11 16 = x4 :=
  (@fld_above 53 11 11 16 (x0 ++ x1 ++ x2 ++ x3 ++ x4) x5 (by decide)).trans ((@fld_below 37 16 0 16 (x0 ++ x1 ++ x2 ++ x3) x4 (by decide)).trans (fld_all x4))
theorem fld_w29_0_11 (x0 : BitVec 4) (x1 : BitVec 8) (x2 : BitVec 9) (x3 : BitVec 16) (x4 : BitVec 16) (x5 : BitVec 11) : fld (m := 64) (x0 ++ x1 ++ x2 ++ x3 ++ x4 ++ x5) 0 11 = x5 :=
  (@fld_below 53 11 0 11 (x0 ++ x1 ++ x2 ++ x3 ++ x4) x5 (by decide)).trans (fld_all x5)

/-! ### Words of the shape (4 16 44) -/

theorem fld_w30_60_4 (x0 : BitVec 4) (x1 : BitVec 16) (x2 : BitVec 44) : fld (m := 64) (x0 ++ x1 ++ x2) 60 4 = x0 :=
  (@fld_above 20 44 60 4 (x0 ++ x1) x2 (by decide)).trans ((@fld_above 4 16 16 4 x0 x1 (by decide)).trans (fld_all x0))
theorem fld_w30_52_8 (x0 : BitVec 4) (x1 : BitVec 16) (x2 : BitVec 44) : fld (m := 64) (x0 ++ x1 ++ x2) 52 8 = fld x1 8 8 :=
  (@fld_above 20 44 52 8 (x0 ++ x1) x2 (by decide)).trans ((@fld_below 4 16 8 8 x0 x1 (by decide)).trans (rfl))
theorem fld_w30_44_16 (x0 : BitVec 4) (x1 : BitVec 16) (x2 : BitVec 44) : fld (m := 64) (x0 ++ x1 ++ x2) 44 16 = x1 :=
  (@fld_above 20 44 44 16 (x0 ++ x1) x2 (by decide)).trans ((@fld_below 4 16 0 16 x0 x1 (by decide)).trans (fld_all x1))
theorem fld_w30_0_44 (x0 : BitVec 4) (x1 : BitVec 16) (x2 : BitVec 44) : fld (m := 64) (x0 ++ x1 ++ x2) 0 44 = x2 :=
  (@fld_below 20 44 0 44 (x0 ++ x1) x2 (by decide)).trans (fld_all x2)

/-! ### Words of the shape (4 4 2 3 4 1 4 20 13 9) -/

theorem fld_w31_60_4 (x0 : BitVec 4) (x1 : BitVec 4) (x2 : BitVec 2) (x3 : BitVec 3) (x4 : BitVec 4) (x5 : BitVec 1) (x6 : BitVec 4) (x7 : BitVec 20) (x8 : BitVec 13) (x9 : BitVec 9) : fld (m := 64) (x0 ++ x1 ++ x2 ++ x3 ++ x4 ++ x5 ++ x6 ++ x7 ++ x8 ++ x9) 60 4 = x0 :=
  (@fld_above 55 9 60 4 (x0 ++ x1 ++ x2 ++ x3 ++ x4 ++ x5 ++ x6 ++ x7 ++ x8) x9 (by decide)).trans ((@fld_above 42 13 51 4 (x0 ++ x1 ++ x2 ++ x3 ++ x4 ++ x5 ++ x6 ++ x7) x8 (by decide)).trans ((@fld_above 22 20 38 4 (x0 ++ x1 ++ x2 ++ x3 ++ x4 ++ x5 ++ x6) x7 (by decide)).trans ((@fld_above 18 4 18 4 (x0 ++ x1 ++ x2 ++ x3 ++ x4 ++ x5) x6 (by decide)).trans ((@fld_above 17 1 14 4 (x0 ++ x1 ++ x2 ++ x3 ++ x4) x5 (by decide)).trans ((@fld_above 13 4 13 4 (x0 ++ x1 ++ x2 ++ x3) x4 (by decide)).trans ((@fld_above 10 3 9 4 (x0 ++ x1 ++ x2) x3 (by decide)).trans ((@fld_above 8 2 6 4 (x0 ++ x1) x2 (by decide)).trans ((@fld_above 4 4 4 4 x0 x1 (by decide)).trans (fld_all x0)))))))))
theorem fld_w31_56_4 (x0 : BitVec 4) (x1 : BitVec 4) (x2 : BitVec 2) (x3 : BitVec 3) (x4 : BitVec 4) (x5 : BitVec 1) (x6 : BitVec 4) (x7 : BitVec 20) (x8 : BitVec 13) (x9 : BitVec 9) : fld (m := 64) (x0 ++ x1 ++ x2 ++ x3 ++ x4 ++ x5 ++ x6 ++ x7 ++ x8 ++ x9) 56 4 = x1 :=
  (@fld_above 55 9 56 4 (x0 ++ x1 ++ x2 ++ x3 ++ x4 ++ x5 ++ x6 ++ x7 ++ x8) x9 (by decide)).trans ((@fld_above 42 13 47 4 (x0 ++ x1 ++ x2 ++ x3 ++ x4 ++ x5 ++ x6 ++ x7) x8 (by decide)).trans ((@fld_above 22 20 34 4 (x0 ++ x1 ++ x2 ++ x3 ++ x4 ++ x5 ++ x6) x7 (by decide)).trans ((@fld_above 18 4 14 4 (x0 ++ x1 ++ x2 ++ x3 ++ x4 ++ x5) x6 (by decide)).trans ((@fld_above 17 1 10 4 (x0 ++ x1 ++ x2 ++ x3 ++ x4) x5 (by decide)).trans ((@fld_above 13 4 9 4 (x0 ++ x1 ++ x2 ++ x3) x4 (by decide)).trans ((@fld_above 10 3 5 4 (x0 ++ x1 ++ x2) x3 (by decide)).trans ((@fld_above 8 2 2 4 (x0 ++ x1) x2 (by decide)).trans ((@fld_below 4 4 0 4 x0 x1 (by decide)).trans (fld_all x1)))))))))
theorem fld_w31_54_2 (x0 : BitVec 4) (x1 : BitVec 4) (x2 : BitVec 2) (x3 : BitVec 3) (x4 : BitVec 4) (x5 : BitVec 1) (x6 : BitVec 4) (x7 : BitVec 20) (x8 : BitVec 13) (x9 : BitVec 9) : fld (m := 64) (x0 ++ x1 ++ x2 ++ x3 ++ x4 ++ x5 ++ x6 ++ x7 ++ x8 ++ x9) 54 2 = x2 :=
  (@fld_above 55 9 54 2 (x0 ++ x1 ++ x2 ++ x3 ++ x4 ++ x5 ++ x6 ++ x7 ++ x8) x9 (by decide)).trans ((@fld_above 42 13 45 2 (x0 ++ x1 ++ x2 ++ x3 ++ x4 ++ x5 ++ x6 ++ x7) x8 (by decide)).trans ((@fld_above 22 20 32 2 (x0 ++ x1 ++ x2 ++ x3 ++ x4 ++ x5 ++ x6) x7 (by decide)).trans ((@fld_above 18 4 12 2 (x0 ++ x1 ++ x2 ++ x3 ++ x4 ++ x5) x6 (by decide)).trans ((@fld_above 17 1 8 2 (x0 ++ x1 ++ x2 ++ x3 ++ x4) x5 (by decide)).trans ((@fld_above 13 4 7 2 (x0 ++ x1 ++ x2 ++ x3) x4 (by decide)).trans ((@fld_above 10 3 3 2 (x0 ++ x1 ++ x2) x3 (by decide)).trans ((@fld_below 8 2 0 2 (x0 ++ x1) x2 (by decide)).trans (fld_all x2))))))))
theorem fld_w31_51_3 (x0 : BitVec 4) (x1 : BitVec 4) (x2 : BitVec 2) (x3 : BitVec 3) (x4 : BitVec 4) (x5 : BitVec 1) (x6 : BitVec 4) (x7 : BitVec 20) (x8 : BitVec 13) (x9 : BitVec 9) : fld (m := 64) (x0 ++ x1 ++ x2 ++ x3 ++ x4 ++ x5 ++ x6 ++ x7 ++ x8 ++ x9) 51 3 = x3 :=
  (@fld_above 55 9 51 3 (x0 ++ x1 ++ x2 ++ x3 ++ x4 ++ x5 ++ x6 ++ x7 ++ x8) x9 (by decide)).trans ((@fld_above 42 13 42 3 (x0 ++ x1 ++ x2 ++ x3 ++ x4 ++ x5 ++ x6 ++ x7) x8 (by decide)).trans ((@fld_above 22 20 29 3 (x0 ++ x1 ++ x2 ++ x3 ++ x4 ++ x5 ++ x6) x7 (by decide)).trans ((@fld_above 18 4 9 3 (x0 ++ x1 ++ x2 ++ x3 ++ x4 ++ x5) x6 (by decide)).trans ((@fld_above 17 1 5 3 (x0 ++ x1 ++ x2 ++ x3 ++ x4) x5 (by decide)).trans ((@fld_above 13 4 4 3 (x0 ++ x1 ++ x2 ++ x3) x4 (by decide)).trans ((@fld_below 10 3 0 3 (x0 ++ x1 ++ x2) x3 (by decide)).trans (fld_all x3)))))))
theorem fld_w31_47_4 (x0 : BitVec 4) (x1 : BitVec 4) (x2 : BitVec 2) (x3 : BitVec 3) (x4 : BitVec 4) (x5 : BitVec 1) (x6 : BitVec 4) (x7 : BitVec 20) (x8 : BitVec 13) (x9 : BitVec 9) : fld (m := 64) (x0 ++ x1 ++ x2 ++ x3 ++ x4 ++ x5 ++ x6 ++ x7 ++ x8 ++ x9) 47 4 = x4 :=
  (@fld_above 55 9 47 4 (x0 ++ x1 ++ x2 ++ x3 ++ x4 ++ x5 ++ x6 ++ x7 ++ x8) x9 (by decide)).trans ((@fld_above 42 13 38 4 (x0 ++ x1 ++ x2 ++ x3 ++ x4 ++ x5 ++ x6 ++ x7) x8 (by decide)).trans ((@fld_above 22 20 25 4 (x0 ++ x1 ++ x2 ++ x3 ++ x4 ++ x5 ++ x6) x7 (by decide)).trans ((@fld_above 18 4 5 4 (x0 ++ x1 ++ x2 ++ x3 ++ x4 ++ x5) x6 (by decide)).trans ((@fld_above 17 1 1 4 (x0 ++ x1 ++ x2 ++ x3 ++ x4) x5 (by decide)).trans ((@fld_below 13 4 0 4 (x0 ++ x1 ++ x2 ++ x3) x4 (by decide)).trans (fld_all x4))))))
theorem fld_w31_46_1 (x0 : BitVec 4) (x1 : BitVec 4) (x2 : BitVec 2) (x3 : BitVec 3) (x4 : BitVec 4) (x5 : BitVec 1) (x6 : BitVec 4) (x7 : BitVec 20) (x8 : BitVec 13) (x9 : BitVec 9) : fld (m := 64) (x0 ++ x1 ++ x2 ++ x3 ++ x4 ++ x5 ++ x6 ++ x7 ++ x8 ++ x9) 46 1 = x5 :=
  (@fld_above 55 9 46 1 (x0 ++ x1 ++ x2 ++ x3 ++ x4 ++ x5 ++ x6 ++ x7 ++ x8) x9 (by decide)).trans ((@fld_above 42 13 37 1 (x0 ++ x1 ++ x2 ++ x3 ++ x4 ++ x5 ++ x6 ++ x7) x8 (by decide)).trans ((@fld_above 22 20 24 1 (x0 ++ x1 ++ x2 ++ x3 ++ x4 ++ x5 ++ x6) x7 (by decide)).trans ((@fld_above 18 4 4 1 (x0 ++ x1 ++ x2 ++ x3 ++ x4 ++ x5) x6 (by decide)).trans ((@fld_below 17 1 0 1 (x0 ++ x1 ++ x2 ++ x3 ++ x4) x5 (by decide)).trans (fld_all x5)))))
theorem fld_w31_42_4 (x0 : BitVec 4) (x1 : BitVec 4) (x2 : BitVec 2) (x3 : BitVec 3) (x4 : BitVec 4) (x5 : BitVec 1) (x6 : BitVec 4) (x7 : BitVec 20) (x8 : BitVec 13) (x9 : BitVec 9) : fld (m := 64) (x0 ++ x1 ++ x2 ++ x3 ++ x4 ++ x5 ++ x6 ++ x7 ++ x8 ++ x9) 42 4 = x6 :=
  (@fld_above 55 9 42 4 (x0 ++ x1 ++ x2 ++ x3 ++ x4 ++ x5 ++ x6 ++ x7 ++ x8) x9 (by decide)).trans ((@fld_above 42 13 33 4 (x0 ++ x1 ++ x2 ++ x3 ++ x4 ++ x5 ++ x6 ++ x7) x8 (by decide)).trans ((@fld_above 22 20 20 4 (x0 ++ x1 ++ x2 ++ x3 ++ x4 ++ x5 ++ x6) x7 (by decide)).trans ((@fld_below 18 4 0 4 (x0 ++ x1 ++ x2 ++ x3 ++ x4 ++ x5) x6 (by decide)).trans (fld_all x6))))
theorem fld_w31_22_20 (x0 : BitVec 4) (x1 : BitVec 4) (x2 : BitVec 2) (x3 : BitVec 3) (x4 : BitVec 4) (x5 : BitVec 1) (x6 : BitVec 4) (x7 : BitVec 20) (x8 : BitVec 13) (x9 : BitVec 9) : fld (m := 64) (x0 ++ x1 ++ x2 ++ x3 ++ x4 ++ x5 ++ x6 ++ x7 ++ x8 ++ x9) 22 20 = x7 :=
  (@fld_above 55 9 22 20 (x0 ++ x1 ++ x2 ++ x3 ++ x4 ++ x5 ++ x6 ++ x7 ++ x8) x9 (by decide)).trans ((@fld_above 42 13 13 20 (x0 ++ x1 ++ x2 ++ x3 ++ x4 ++ x5 ++ x6 ++ x7) x8 (by decide)).trans ((@fld_below 22 20 0 20 (x0 ++ x1 ++ x2 ++ x3 ++ x4 ++ x5 ++ x6) x7 (by decide)).trans (fld_all x7)))
theorem fld_w31_22_4 (x0 : BitVec 4) (x1 : BitVec 4) (x2 : BitVec 2) (x3 : BitVec 3) (x4 : BitVec 4) (x5 : BitVec 1) (x6 : BitVec 4) (x7 : BitVec 20) (x8 : BitVec 13) (x9 : BitVec 9) : fld (m := 64) (x0 ++ x1 ++ x2 ++ x3 ++ x4 ++ x5 ++ x6 ++ x7 ++ x8 ++ x9) 22 4 = fld x7 0 4 :=
  (@fld_above 55 9 22 4 (x0 ++ x1 ++ x2 ++ x3 ++ x4 ++ x5 ++ x6 ++ x7 ++ x8) x9 (by decide)).trans ((@fld_above 42 13 13 4 (x0 ++ x1 ++ x2 ++ x3 ++ x4 ++ x5 ++ x6 ++ x7) x8 (by decide)).trans ((@fld_below 22 20 0 4 (x0 ++ x1 ++ x2 ++ x3 ++ x4 ++ x5 ++ x6) x7 (by decide)).trans (rfl)))
theorem fld_w31_9_37 (x0 : BitVec 4) (x1 : BitVec 4) (x2 : BitVec 2) (x3 : BitVec 3) (x4 : BitVec 4) (x5 : BitVec 1) (x6 : BitVec 4) (x7 : BitVec 20) (x8 : BitVec 13) (x9 : BitVec 9) : fld (m := 64) (x0 ++ x1 ++ x2 ++ x3 ++ x4 ++ x5 ++ x6 ++ x7 ++ x8 ++ x9) 9 37 = x6 ++ x7 ++ x8 :=
  (@fld_above 55 9 9 37 (x0 ++ x1 ++ x2 ++ x3 ++ x4 ++ x5 ++ x6 ++ x7 ++ x8) x9 (by decide)).trans ((@fld_across 42 13 24 (x0 ++ x1 ++ x2 ++ x3 ++ x4 ++ x5 ++ x6 ++ x7) x8).trans (congrArg (fun z : BitVec 24 => z ++ x8) ((@fld_across 22 20 4 (x0 ++ x1 ++ x2 ++ x3 ++ x4 ++ x5 ++ x6) x7).trans (congrArg (fun z : BitVec 4 => z ++ x7) ((@fld_below 18 4 0 4 (x0 ++ x1 ++ x2 ++ x3 ++ x4 ++ x5) x6 (by decide)).trans (fld_all x6))))))
theorem fld_w31_9_13 (x0 : BitVec 4) (x1 : BitVec 4) (x2 : BitVec 2) (x3 : BitVec 3) (x4 : BitVec 4) (x5 : BitVec 1) (x6 : BitVec 4) (x7 : BitVec 20) (x8 : BitVec 13) (x9 : BitVec 9) : fld (m := 64) (x0 ++ x1 ++ x2 ++ x3 ++ x4 ++ x5 ++ x6 ++ x7 ++ x8 ++ x9) 9 13 = x8 :=
  (@fld_above 55 9 9 13 (x0 ++ x1 ++ x2 ++ x3 ++ x4 ++ x5 ++ x6 ++ x7 ++ x8) x9 (by decide)).trans ((@fld_below 42 13 0 13 (x0 ++ x1 ++ x2 ++ x3 ++ x4 ++ x5 ++ x6 ++ x7) x8 (by decide)).trans (fld_all x8))
theorem fld_w31_0_9 (x0 : BitVec 4) (x1 : BitVec 4) (x2 : BitVec 2) (x3 : BitVec 3) (x4 : BitVec 4) (x5 : BitVec 1) (x6 : BitVec 4) (x7 : BitVec 20) (x8 : BitVec 13) (x9 : BitVec 9) : fld (m := 64) (x0 ++ x1 ++ x2 ++ x3 ++ x4 ++ x5 ++ x6 ++ x7 ++ x8 ++ x9) 0 9 = x9 :=
  (@fld_below 55 9 0 9 (x0 ++ x1 ++ x2 ++ x3 ++ x4 ++ x5 ++ x6 ++ x7 ++ x8) x9 (by decide)).trans (fld_all x9)

/-! ### Words of the shape (4 4 4 52) -/

theorem fld_w32_60_4 (x0 : BitVec 4) (x1 : BitVec 4) (x2 : BitVec 4) (x3 : BitVec 52) : fld (m := 64) (x0 ++ x1 ++ x2 ++ x3) 60 4 = x0 :=
  (@fld_above 12 52 60 4 (x0 ++ x1 ++ x2) x3 (by decide)).trans ((@fld_above 8 4 8 4 (x0 ++ x1) x2 (by decide)).trans ((@fld_above 4 4 4 4 x0 x1 (by decide)).trans (fld_all x0)))
theorem fld_w32_56_4 (x0 : BitVec 4) (x1 : BitVec 4) (x2 : BitVec 4) (x3 : BitVec 52) : fld (m := 64) (x0 ++ x1 ++ x2 ++ x3) 56 4 = x1 :=
  (@fld_above 12 52 56 4 (x0 ++ x1 ++ x2) x3 (by decide)).trans ((@fld_above 8 4 4 4 (x0 ++ x1) x2 (by decide)).trans ((@fld_below 4 4 0 4 x0 x1 (by decide)).trans (fld_all x1)))
theorem fld_w32_52_8 (x0 : BitVec 4) (x1 : BitVec 4) (x2 : BitVec 4) (x3 : BitVec 52) : fld (m := 64) (x0 ++ x1 ++ x2 ++ x3) 52 8 = x1 ++ x2 :=
  (@fld_above 12 52 52 8 (x0 ++ x1 ++ x2) x3 (by decide)).trans ((@fld_across 8 4 4 (x0 ++ x1) x2).trans (congrArg (fun z : BitVec 4 => z ++ x2) ((@fld_below 4 4 0 4 x0 x1 (by decide)).trans (fld_all x1))))
theorem fld_w32_52_4 (x0 : BitVec 4) (x1 : BitVec 4) (x2 : BitVec 4) (x3 : BitVec 52) : fld (m := 64) (x0 ++ x1 ++ x2 ++ x3) 52 4 = x2 :=
  (@fld_above 12 52 52 4 (x0 ++ x1 ++ x2) x3 (by decide)).trans ((@fld_below 8 4 0 4 (x0 ++ x1) x2 (by decide)).trans (fld_all x2))
theorem fld_w32_43_9 (x0 : BitVec 4) (x1 : BitVec 4) (x2 : BitVec 4) (x3 : BitVec 52) : fld (m := 64) (x0 ++ x1 ++ x2 ++ x3) 43 9 = fld x3 43 9 :=
  (@fld_below 12 52 43 9 (x0 ++ x1 ++ x2) x3 (by decide)).trans (rfl)
theorem fld_w32_0_52 (x0 : BitVec 4) (x1 : BitVec 4) (x2 : BitVec 4) (x3 : BitVec 52) : fld (m := 64) (x0 ++ x1 ++ x2 ++ x3) 0 52 = x3 :=
  (@fld_below 12 52 0 52 (x0 ++ x1 ++ x2) x3 (by decide)).trans (fld_all x3)

/-! ### Words of the shape (4 5 5 50) -/

theorem fld_w33_60_4 (x0 : BitVec 4) (x1 : BitVec 5) (x2 : BitVec 5) (x3 : BitVec 50) : fld (m := 64) (x0 ++ x1 ++ x2 ++ x3) 60 4 = x0 :=
  (@fld_above 14 50 60 4 (x0 ++ x1 ++ x2) x3 (by decide)).trans ((@fld_above 9 5 10 4 (x0 ++ x1) x2 (by decide)).trans ((@fld_above 4 5 5 4 x0 x1 (by decide)).trans (fld_all x0)))
theorem fld_w33_55_5 (x0 : BitVec 4) (x1 : BitVec 5) (x2 : BitVec 5) (x3 : BitVec 50) : fld (m := 64) (x0 ++ x1 ++ x2 ++ x3) 55 5 = x1 :=
  (@fld_above 14 50 55 5 (x0 ++ x1 ++ x2) x3 (by decide)).trans ((@fld_above 9 5 5 5 (x0 ++ x1) x2 (by decide)).trans ((@fld_below 4 5 0 5 x0 x1 (by decide)).trans (fld_all x1)))
theorem fld_w33_50_5 (x0 : BitVec 4) (x1 : BitVec 5) (x2 : BitVec 5) (x3 : BitVec 50) : fld (m := 64) (x0 ++ x1 ++ x2 ++ x3) 50 5 = x2 :=
  (@fld_above 14 50 50 5 (x0 ++ x1 ++ x2) x3 (by decide)).trans ((@fld_below 9 5 0 5 (x0 ++ x1) x2 (by decide)).trans (fld_all x2))
theorem fld_w33_0_50 (x0 : BitVec 4) (x1 : BitVec 5) (x2 : BitVec 5) (x3 : BitVec 50) : fld (m := 64) (x0 ++ x1 ++ x2 ++ x3) 0 50 = x3 :=
  (@fld_below 14 50 0 50 (x0 ++ x1 ++ x2) x3 (by decide)).trans (fld_all x3)

/-! ### Words of the shape (4 4 16 40) -/

theorem fld_w34_60_4 (x0 : BitVec 4) (x1 : BitVec 4) (x2 : BitVec 16) (x3 : BitVec 40) : fld (m := 64) (x0 ++ x1 ++ x2 ++ x3) 60 4 = x0 :=
  (@fld_above 24 40 60 4 (x0 ++ x1 ++ x2) x3 (by decide)).trans ((@fld_above 8 16 20 4 (x0 ++ x1) x2 (by decide)).trans ((@fld_above 4 4 4 4 x0 x1 (by decide)).trans (fld_all x0)))
theorem fld_w34_56_4 (x0 : BitVec 4) (x1 : BitVec 4) (x2 : BitVec 16) (x3 : BitVec 40) : fld (m := 64) (x0 ++ x1 ++ x2 ++ x3) 56 4 = x1 :=
  (@fld_above 24 40 56 4 (x0 ++ x1 ++ x2) x3 (by decide)).trans ((@fld_above 8 16 16 4 (x0 ++ x1) x2 (by decide)).trans ((@fld_below 4 4 0 4 x0 x1 (by decide)).trans (fld_all x1)))
theorem fld_w34_43_9 (x0 : BitVec 4) (x1 : BitVec 4) (x2 : BitVec 16) (x3 : BitVec 40) : fld (m := 64) (x0 ++ x1 ++ x2 ++ x3) 43 9 = fld x2 3 9 :=
  (@fld_above 24 40 43 9 (x0 ++ x1 ++ x2) x3 (by decide)).trans ((@fld_below 8 16 3 9 (x0 ++ x1) x2 (by decide)).trans (rfl))
theorem fld_w34_40_16 (x0 : BitVec 4) (x1 : BitVec 4) (x2 : BitVec 16) (x3 : BitVec 40) : fld (m := 64) (x0 ++ x1 ++ x2 ++ x3) 40 16 = x2 :=
  (@fld_above 24 40 40 16 (x0 ++ x1 ++ x2) x3 (by decide)).trans ((@fld_below 8 16 0 16 (x0 ++ x1) x2 (by decide)).trans (fld_all x2))
theorem fld_w34_0_40 (x0 : BitVec 4) (x1 : BitVec 4) (x2 : BitVec 16) (x3 : BitVec 40) : fld (m := 64) (x0 ++ x1 ++ x2 ++ x3) 0 40 = x3 :=
  (@fld_below 24 40 0 40 (x0 ++ x1 ++ x2) x3 (by decide)).trans (fld_all x3)

/-! ### Words of the shape (4 4 1 1 54) -/

theorem fld_w35_60_4 (x0 : BitVec 4) (x1 : BitVec 4) (x2 : BitVec 1) (x3 : BitVec 1) (x4 : BitVec 54) : fld (m := 64) (x0 ++ x1 ++ x2 ++ x3 ++ x4) 60 4 = x0 :=
  (@fld_above 10 54 60 4 (x0 ++ x1 ++ x2 ++ x3) x4 (by decide)).trans ((@fld_above 9 1 6 4 (x0 ++ x1 ++ x2) x3 (by decide)).trans ((@fld_above 8 1 5 4 (x0 ++ x1) x2 (by decide)).trans ((@fld_above 4 4 4 4 x0 x1 (by decide)).trans (fld_all x0))))
theorem fld_w35_56_4 (x0 : BitVec 4) (x1 : BitVec 4) (x2 : BitVec 1) (x3 : BitVec 1) (x4 : BitVec 54) : fld (m := 64) (x0 ++ x1 ++ x2 ++ x3 ++ x4) 56 4 = x1 :=
  (@fld_above 10 54 56 4 (x0 ++ x1 ++ x2 ++ x3) x4 (by decide)).trans ((@fld_above 9 1 2 4 (x0 ++ x1 ++ x2) x3 (by decide)).trans ((@fld_above 8 1 1 4 (x0 ++ x1) x2 (by decide)).trans ((@fld_below 4 4 0 4 x0 x1 (by decide)).trans (fld_all x1))))
theorem fld_w35_55_1 (x0 : BitVec 4) (x1 : BitVec 4) (x2 : BitVec 1) (x3 : BitVec 1) (x4 : BitVec 54) : fld (m := 64) (x0 ++ x1 ++ x2 ++ x3 ++ x4) 55 1 = x2 :=
  (@fld_above 10 54 55 1 (x0 ++ x1 ++ x2 ++ x3) x4 (by decide)).trans ((@fld_above 9 1 1 1 (x0 ++ x1 ++ x2) x3 (by decide)).trans ((@fld_below 8 1 0 1 (x0 ++ x1) x2 (by decide)).trans (fld_all x2)))
theorem fld_w35_54_1 (x0 : BitVec 4) (x1 : BitVec 4) (x2 : BitVec 1) (x3 : BitVec 1) (x4 : BitVec 54) : fld (m := 64) (x0 ++ x1 ++ x2 ++ x3 ++ x4) 54 1 = x3 :=
  (@fld_above 10 54 54 1 (x0 ++ x1 ++ x2 ++ x3) x4 (by decide)).trans ((@fld_below 9 1 0 1 (x0 ++ x1 ++ x2) x3 (by decide)).trans (fld_all x3))
theorem fld_w35_43_9 (x0 : BitVec 4) (x1 : BitVec 4) (x2 : BitVec 1) (x3 : BitVec 1) (x4 : BitVec 54) : fld (m := 64) (x0 ++ x1 ++ x2 ++ x3 ++ x4) 43 9 = fld x4 43 9 :=
  (@fld_below 10 54 43 9 (x0 ++ x1 ++ x2 ++ x3) x4 (by decide)).trans (rfl)
theorem fld_w35_0_54 (x0 : BitVec 4) (x1 : BitVec 4) (x2 : BitVec 1) (x3 : BitVec 1) (x4 : BitVec 54) : fld (m := 64) (x0 ++ x1 ++ x2 ++ x3 ++ x4) 0 54 = x4 :=
  (@fld_below 10 54 0 54 (x0 ++ x1 ++ x2 ++ x3) x4 (by decide)).trans (fld_all x4)

/-! ### Words of the shape (3 13 8 40) -/

theorem fld_w36_61_3 (x0 : BitVec 3) (x1 : BitVec 13) (x2 : BitVec 8) (x3 : BitVec 40) : fld (m := 64) (x0 ++ x1 ++ x2 ++ x3) 61 3 = x0 :=
  (@fld_above 24 40 61 3 (x0 ++ x1 ++ x2) x3 (by decide)).trans ((@fld_above 16 8 21 3 (x0 ++ x1) x2 (by decide)).trans ((@fld_above 3 13 13 3 x0 x1 (by decide)).trans (fld_all x0)))
theorem fld_w36_48_13 (x0 : BitVec 3) (x1 : BitVec 13) (x2 : BitVec 8) (x3 : BitVec 40) : fld (m := 64) (x0 ++ x1 ++ x2 ++ x3) 48 13 = x1 :=
  (@fld_above 24 40 48 13 (x0 ++ x1 ++ x2) x3 (by decide)).trans ((@fld_above 16 8 8 13 (x0 ++ x1) x2 (by decide)).trans ((@fld_below 3 13 0 13 x0 x1 (by decide)).trans (fld_all x1)))
theorem fld_w36_40_8 (x0 : BitVec 3) (x1 : BitVec 13) (x2 : BitVec 8) (x3 : BitVec 40) : fld (m := 64) (x0 ++ x1 ++ x2 ++ x3) 40 8 = x2 :=
  (@fld_above 24 40 40 8 (x0 ++ x1 ++ x2) x3 (by decide)).trans ((@fld_below 16 8 0 8 (x0 ++ x1) x2 (by decide)).trans (fld_all x2))
theorem fld_w36_0_40 (x0 : BitVec 3) (x1 : BitVec 13) (x2 : BitVec 8) (x3 : BitVec 40) : fld (m := 64) (x0 ++ x1 ++ x2 ++ x3) 0 40 = x3 :=
  (@fld_below 24 40 0 40 (x0 ++ x1 ++ x2) x3 (by decide)).trans (fld_all x3)

end Sys2Proof
end

