-- ==== Sys2Proof/Laws/PerInstr.lean ====
section
/-! SUPPORT. Decoding what was encoded, one lemma for each constructor (R58, R67, R73, R79, R202, R270). -/

namespace Sys2Proof.Laws.RoundTrip

set_option Elab.async false

open Sys2Proof

/-- A well-formed instruction that a word encodes is read back from its bytes, with every operand. -/
def Statement (i : Instr) : Prop :=
  wellFormed i = true → ∀ l bs, encode i = some (l, bs) → decode l bs = .ok (i, [])

theorem of_landing (i : Instr) (w : W32) (e : encodeLanding i = some w) (h : wellFormed i = true → decodeLanding w = .ok i) : Statement i := by
  intro hw l bs he
  simp only [encode, e, Option.some.injEq, Prod.mk.injEq] at he
  obtain ⟨rfl, rfl⟩ := he
  have hb : leNat (leBytes 4 w.toNat) = w.toNat := (leNat_leBytes _ _).trans (Nat.mod_eq_of_lt w.isLt)
  simp [decode, layerBytes, leBytes_length, List.take_of_length_le, hb, h hw]

theorem of_bay (i : Instr) (w : W32) (e0 : encodeLanding i = none) (e : encodeBay i = some w) (h : wellFormed i = true → decodeBay w = .ok i) :
    Statement i := by
  intro hw l bs he
  simp only [encode, e0, e, Option.some.injEq, Prod.mk.injEq] at he
  obtain ⟨rfl, rfl⟩ := he
  have hb : leNat (leBytes 4 w.toNat) = w.toNat := (leNat_leBytes _ _).trans (Nat.mod_eq_of_lt w.isLt)
  simp [decode, layerBytes, leBytes_length, List.take_of_length_le, hb, h hw]

theorem of_command (i : Instr) (w : BitVec 128) (e0 : encodeLanding i = none) (e1 : encodeBay i = none) (e : encodeCommand i = some w)
    (h : wellFormed i = true → decodeCommand w = .ok i) : Statement i := by
  intro hw l bs he
  simp only [encode, e0, e1, e, Option.some.injEq, Prod.mk.injEq] at he
  obtain ⟨rfl, rfl⟩ := he
  have hb : leNat (leBytes 16 w.toNat) = w.toNat := (leNat_leBytes _ _).trans (Nat.mod_eq_of_lt w.isLt)
  simp [decode, layerBytes, leBytes_length, List.take_of_length_le, hb, h hw]

theorem of_gallery (i : Instr) (w : W64) (e0 : encodeLanding i = none) (e1 : encodeBay i = none) (e2 : encodeCommand i = none)
    (e : encodeGallery i = some w) (h : wellFormed i = true → decodeGallery w = .ok i) : Statement i := by
  intro hw l bs he
  simp only [encode, e0, e1, e2, e, Option.some.injEq, Prod.mk.injEq] at he
  obtain ⟨rfl, rfl⟩ := he
  have hb : leNat (leBytes 8 w.toNat) = w.toNat := (leNat_leBytes _ _).trans (Nat.mod_eq_of_lt w.isLt)
  simp [decode, layerBytes, leBytes_length, List.take_of_length_le, hb, h hw]

theorem of_tag (i : Instr) (w : W64) (e0 : encodeLanding i = none) (e1 : encodeBay i = none) (e2 : encodeCommand i = none)
    (e3 : encodeGallery i = none) (e : encodeTag i = some w) (h : wellFormed i = true → decodeTag w = .ok i) : Statement i := by
  intro hw l bs he
  simp only [encode, e0, e1, e2, e3, e, Option.some.injEq, Prod.mk.injEq] at he
  obtain ⟨rfl, rfl⟩ := he
  have hb : leNat (leBytes 8 w.toNat) = w.toNat := (leNat_leBytes _ _).trans (Nat.mod_eq_of_lt w.isLt)
  simp [decode, layerBytes, leBytes_length, List.take_of_length_le, hb, h hw]

/-- A step that no word encodes has nothing to be read back. -/
theorem of_event (i : Instr) (e : encode i = none) : Statement i := by
  intro _ l bs he
  rw [e] at he
  cases he

theorem add (d : BitVec 5) (a : BitVec 5) (b : BitVec 5) : Statement (.add d a b) := of_landing _ _ rfl fun _ => by
  refine (?_ : ∀ w : W32, fld w 26 6 = 1#6 →
      fld w 21 5 = d →
      fld w 16 5 = a →
      fld w 11 5 = b →
      fld w 0 11 = 0#11 → decodeLanding w = .ok (.add d a b)) _ (fld_w1_26_6 1#6 d a b 0#11) (fld_w1_21_5 1#6 d a b 0#11) (fld_w1_16_5 1#6 d a b 0#11) (fld_w1_11_5 1#6 d a b 0#11) (fld_w1_0_11 1#6 d a b 0#11)
  intro w h0 h1 h2 h3 h4
  unfold decodeLanding
  rw [h0]
  dsimp only [BitVec.reduceToNat]
  simp [decodeInt, h1, h2, h3, h4]
theorem sub (d : BitVec 5) (a : BitVec 5) (b : BitVec 5) : Statement (.sub d a b) := of_landing _ _ rfl fun _ => by
  refine (?_ : ∀ w : W32, fld w 26 6 = 1#6 →
      fld w 21 5 = d →
      fld w 16 5 = a →
      fld w 11 5 = b →
      fld w 0 11 = 1#11 → decodeLanding w = .ok (.sub d a b)) _ (fld_w1_26_6 1#6 d a b 1#11) (fld_w1_21_5 1#6 d a b 1#11) (fld_w1_16_5 1#6 d a b 1#11) (fld_w1_11_5 1#6 d a b 1#11) (fld_w1_0_11 1#6 d a b 1#11)
  intro w h0 h1 h2 h3 h4
  unfold decodeLanding
  rw [h0]
  dsimp only [BitVec.reduceToNat]
  simp [decodeInt, h1, h2, h3, h4]
theorem and (d : BitVec 5) (a : BitVec 5) (b : BitVec 5) : Statement (.and d a b) := of_landing _ _ rfl fun _ => by
  refine (?_ : ∀ w : W32, fld w 26 6 = 1#6 →
      fld w 21 5 = d →
      fld w 16 5 = a →
      fld w 11 5 = b →
      fld w 0 11 = 2#11 → decodeLanding w = .ok (.and d a b)) _ (fld_w1_26_6 1#6 d a b 2#11) (fld_w1_21_5 1#6 d a b 2#11) (fld_w1_16_5 1#6 d a b 2#11) (fld_w1_11_5 1#6 d a b 2#11) (fld_w1_0_11 1#6 d a b 2#11)
  intro w h0 h1 h2 h3 h4
  unfold decodeLanding
  rw [h0]
  dsimp only [BitVec.reduceToNat]
  simp [decodeInt, h1, h2, h3, h4]
theorem or (d : BitVec 5) (a : BitVec 5) (b : BitVec 5) : Statement (.or d a b) := of_landing _ _ rfl fun _ => by
  refine (?_ : ∀ w : W32, fld w 26 6 = 1#6 →
      fld w 21 5 = d →
      fld w 16 5 = a →
      fld w 11 5 = b →
      fld w 0 11 = 3#11 → decodeLanding w = .ok (.or d a b)) _ (fld_w1_26_6 1#6 d a b 3#11) (fld_w1_21_5 1#6 d a b 3#11) (fld_w1_16_5 1#6 d a b 3#11) (fld_w1_11_5 1#6 d a b 3#11) (fld_w1_0_11 1#6 d a b 3#11)
  intro w h0 h1 h2 h3 h4
  unfold decodeLanding
  rw [h0]
  dsimp only [BitVec.reduceToNat]
  simp [decodeInt, h1, h2, h3, h4]
theorem xor (d : BitVec 5) (a : BitVec 5) (b : BitVec 5) : Statement (.xor d a b) := of_landing _ _ rfl fun _ => by
  refine (?_ : ∀ w : W32, fld w 26 6 = 1#6 →
      fld w 21 5 = d →
      fld w 16 5 = a →
      fld w 11 5 = b →
      fld w 0 11 = 4#11 → decodeLanding w = .ok (.xor d a b)) _ (fld_w1_26_6 1#6 d a b 4#11) (fld_w1_21_5 1#6 d a b 4#11) (fld_w1_16_5 1#6 d a b 4#11) (fld_w1_11_5 1#6 d a b 4#11) (fld_w1_0_11 1#6 d a b 4#11)
  intro w h0 h1 h2 h3 h4
  unfold decodeLanding
  rw [h0]
  dsimp only [BitVec.reduceToNat]
  simp [decodeInt, h1, h2, h3, h4]
theorem shl (d : BitVec 5) (a : BitVec 5) (b : BitVec 5) : Statement (.shl d a b) := of_landing _ _ rfl fun _ => by
  refine (?_ : ∀ w : W32, fld w 26 6 = 1#6 →
      fld w 21 5 = d →
      fld w 16 5 = a →
      fld w 11 5 = b →
      fld w 0 11 = 5#11 → decodeLanding w = .ok (.shl d a b)) _ (fld_w1_26_6 1#6 d a b 5#11) (fld_w1_21_5 1#6 d a b 5#11) (fld_w1_16_5 1#6 d a b 5#11) (fld_w1_11_5 1#6 d a b 5#11) (fld_w1_0_11 1#6 d a b 5#11)
  intro w h0 h1 h2 h3 h4
  unfold decodeLanding
  rw [h0]
  dsimp only [BitVec.reduceToNat]
  simp [decodeInt, h1, h2, h3, h4]
theorem shr (d : BitVec 5) (a : BitVec 5) (b : BitVec 5) : Statement (.shr d a b) := of_landing _ _ rfl fun _ => by
  refine (?_ : ∀ w : W32, fld w 26 6 = 1#6 →
      fld w 21 5 = d →
      fld w 16 5 = a →
      fld w 11 5 = b →
      fld w 0 11 = 6#11 → decodeLanding w = .ok (.shr d a b)) _ (fld_w1_26_6 1#6 d a b 6#11) (fld_w1_21_5 1#6 d a b 6#11) (fld_w1_16_5 1#6 d a b 6#11) (fld_w1_11_5 1#6 d a b 6#11) (fld_w1_0_11 1#6 d a b 6#11)
  intro w h0 h1 h2 h3 h4
  unfold decodeLanding
  rw [h0]
  dsimp only [BitVec.reduceToNat]
  simp [decodeInt, h1, h2, h3, h4]
theorem sra (d : BitVec 5) (a : BitVec 5) (b : BitVec 5) : Statement (.sra d a b) := of_landing _ _ rfl fun _ => by
  refine (?_ : ∀ w : W32, fld w 26 6 = 1#6 →
      fld w 21 5 = d →
      fld w 16 5 = a →
      fld w 11 5 = b →
      fld w 0 11 = 7#11 → decodeLanding w = .ok (.sra d a b)) _ (fld_w1_26_6 1#6 d a b 7#11) (fld_w1_21_5 1#6 d a b 7#11) (fld_w1_16_5 1#6 d a b 7#11) (fld_w1_11_5 1#6 d a b 7#11) (fld_w1_0_11 1#6 d a b 7#11)
  intro w h0 h1 h2 h3 h4
  unfold decodeLanding
  rw [h0]
  dsimp only [BitVec.reduceToNat]
  simp [decodeInt, h1, h2, h3, h4]
theorem mul (d : BitVec 5) (a : BitVec 5) (b : BitVec 5) : Statement (.mul d a b) := of_landing _ _ rfl fun _ => by
  refine (?_ : ∀ w : W32, fld w 26 6 = 1#6 →
      fld w 21 5 = d →
      fld w 16 5 = a →
      fld w 11 5 = b →
      fld w 0 11 = 8#11 → decodeLanding w = .ok (.mul d a b)) _ (fld_w1_26_6 1#6 d a b 8#11) (fld_w1_21_5 1#6 d a b 8#11) (fld_w1_16_5 1#6 d a b 8#11) (fld_w1_11_5 1#6 d a b 8#11) (fld_w1_0_11 1#6 d a b 8#11)
  intro w h0 h1 h2 h3 h4
  unfold decodeLanding
  rw [h0]
  dsimp only [BitVec.reduceToNat]
  simp [decodeInt, h1, h2, h3, h4]
theorem mulh (d : BitVec 5) (a : BitVec 5) (b : BitVec 5) : Statement (.mulh d a b) := of_landing _ _ rfl fun _ => by
  refine (?_ : ∀ w : W32, fld w 26 6 = 1#6 →
      fld w 21 5 = d →
      fld w 16 5 = a →
      fld w 11 5 = b →
      fld w 0 11 = 9#11 → decodeLanding w = .ok (.mulh d a b)) _ (fld_w1_26_6 1#6 d a b 9#11) (fld_w1_21_5 1#6 d a b 9#11) (fld_w1_16_5 1#6 d a b 9#11) (fld_w1_11_5 1#6 d a b 9#11) (fld_w1_0_11 1#6 d a b 9#11)
  intro w h0 h1 h2 h3 h4
  unfold decodeLanding
  rw [h0]
  dsimp only [BitVec.reduceToNat]
  simp [decodeInt, h1, h2, h3, h4]
theorem mulhN (d : BitVec 5) (a : BitVec 5) (b : BitVec 5) : Statement (.mulhN d a b) := of_landing _ _ rfl fun _ => by
  refine (?_ : ∀ w : W32, fld w 26 6 = 1#6 →
      fld w 21 5 = d →
      fld w 16 5 = a →
      fld w 11 5 = b →
      fld w 0 11 = 10#11 → decodeLanding w = .ok (.mulhN d a b)) _ (fld_w1_26_6 1#6 d a b 10#11) (fld_w1_21_5 1#6 d a b 10#11) (fld_w1_16_5 1#6 d a b 10#11) (fld_w1_11_5 1#6 d a b 10#11) (fld_w1_0_11 1#6 d a b 10#11)
  intro w h0 h1 h2 h3 h4
  unfold decodeLanding
  rw [h0]
  dsimp only [BitVec.reduceToNat]
  simp [decodeInt, h1, h2, h3, h4]
theorem div (d : BitVec 5) (a : BitVec 5) (b : BitVec 5) : Statement (.div d a b) := of_landing _ _ rfl fun _ => by
  refine (?_ : ∀ w : W32, fld w 26 6 = 1#6 →
      fld w 21 5 = d →
      fld w 16 5 = a →
      fld w 11 5 = b →
      fld w 0 11 = 11#11 → decodeLanding w = .ok (.div d a b)) _ (fld_w1_26_6 1#6 d a b 11#11) (fld_w1_21_5 1#6 d a b 11#11) (fld_w1_16_5 1#6 d a b 11#11) (fld_w1_11_5 1#6 d a b 11#11) (fld_w1_0_11 1#6 d a b 11#11)
  intro w h0 h1 h2 h3 h4
  unfold decodeLanding
  rw [h0]
  dsimp only [BitVec.reduceToNat]
  simp [decodeInt, h1, h2, h3, h4]
theorem divN (d : BitVec 5) (a : BitVec 5) (b : BitVec 5) : Statement (.divN d a b) := of_landing _ _ rfl fun _ => by
  refine (?_ : ∀ w : W32, fld w 26 6 = 1#6 →
      fld w 21 5 = d →
      fld w 16 5 = a →
      fld w 11 5 = b →
      fld w 0 11 = 12#11 → decodeLanding w = .ok (.divN d a b)) _ (fld_w1_26_6 1#6 d a b 12#11) (fld_w1_21_5 1#6 d a b 12#11) (fld_w1_16_5 1#6 d a b 12#11) (fld_w1_11_5 1#6 d a b 12#11) (fld_w1_0_11 1#6 d a b 12#11)
  intro w h0 h1 h2 h3 h4
  unfold decodeLanding
  rw [h0]
  dsimp only [BitVec.reduceToNat]
  simp [decodeInt, h1, h2, h3, h4]
theorem rem (d : BitVec 5) (a : BitVec 5) (b : BitVec 5) : Statement (.rem d a b) := of_landing _ _ rfl fun _ => by
  refine (?_ : ∀ w : W32, fld w 26 6 = 1#6 →
      fld w 21 5 = d →
      fld w 16 5 = a →
      fld w 11 5 = b →
      fld w 0 11 = 13#11 → decodeLanding w = .ok (.rem d a b)) _ (fld_w1_26_6 1#6 d a b 13#11) (fld_w1_21_5 1#6 d a b 13#11) (fld_w1_16_5 1#6 d a b 13#11) (fld_w1_11_5 1#6 d a b 13#11) (fld_w1_0_11 1#6 d a b 13#11)
  intro w h0 h1 h2 h3 h4
  unfold decodeLanding
  rw [h0]
  dsimp only [BitVec.reduceToNat]
  simp [decodeInt, h1, h2, h3, h4]
theorem remN (d : BitVec 5) (a : BitVec 5) (b : BitVec 5) : Statement (.remN d a b) := of_landing _ _ rfl fun _ => by
  refine (?_ : ∀ w : W32, fld w 26 6 = 1#6 →
      fld w 21 5 = d →
      fld w 16 5 = a →
      fld w 11 5 = b →
      fld w 0 11 = 14#11 → decodeLanding w = .ok (.remN d a b)) _ (fld_w1_26_6 1#6 d a b 14#11) (fld_w1_21_5 1#6 d a b 14#11) (fld_w1_16_5 1#6 d a b 14#11) (fld_w1_11_5 1#6 d a b 14#11) (fld_w1_0_11 1#6 d a b 14#11)
  intro w h0 h1 h2 h3 h4
  unfold decodeLanding
  rw [h0]
  dsimp only [BitVec.reduceToNat]
  simp [decodeInt, h1, h2, h3, h4]
theorem slt (d : BitVec 5) (a : BitVec 5) (b : BitVec 5) : Statement (.slt d a b) := of_landing _ _ rfl fun _ => by
  refine (?_ : ∀ w : W32, fld w 26 6 = 1#6 →
      fld w 21 5 = d →
      fld w 16 5 = a →
      fld w 11 5 = b →
      fld w 0 11 = 15#11 → decodeLanding w = .ok (.slt d a b)) _ (fld_w1_26_6 1#6 d a b 15#11) (fld_w1_21_5 1#6 d a b 15#11) (fld_w1_16_5 1#6 d a b 15#11) (fld_w1_11_5 1#6 d a b 15#11) (fld_w1_0_11 1#6 d a b 15#11)
  intro w h0 h1 h2 h3 h4
  unfold decodeLanding
  rw [h0]
  dsimp only [BitVec.reduceToNat]
  simp [decodeInt, h1, h2, h3, h4]
theorem sltN (d : BitVec 5) (a : BitVec 5) (b : BitVec 5) : Statement (.sltN d a b) := of_landing _ _ rfl fun _ => by
  refine (?_ : ∀ w : W32, fld w 26 6 = 1#6 →
      fld w 21 5 = d →
      fld w 16 5 = a →
      fld w 11 5 = b →
      fld w 0 11 = 16#11 → decodeLanding w = .ok (.sltN d a b)) _ (fld_w1_26_6 1#6 d a b 16#11) (fld_w1_21_5 1#6 d a b 16#11) (fld_w1_16_5 1#6 d a b 16#11) (fld_w1_11_5 1#6 d a b 16#11) (fld_w1_0_11 1#6 d a b 16#11)
  intro w h0 h1 h2 h3 h4
  unfold decodeLanding
  rw [h0]
  dsimp only [BitVec.reduceToNat]
  simp [decodeInt, h1, h2, h3, h4]
theorem min (d : BitVec 5) (a : BitVec 5) (b : BitVec 5) : Statement (.min d a b) := of_landing _ _ rfl fun _ => by
  refine (?_ : ∀ w : W32, fld w 26 6 = 1#6 →
      fld w 21 5 = d →
      fld w 16 5 = a →
      fld w 11 5 = b →
      fld w 0 11 = 17#11 → decodeLanding w = .ok (.min d a b)) _ (fld_w1_26_6 1#6 d a b 17#11) (fld_w1_21_5 1#6 d a b 17#11) (fld_w1_16_5 1#6 d a b 17#11) (fld_w1_11_5 1#6 d a b 17#11) (fld_w1_0_11 1#6 d a b 17#11)
  intro w h0 h1 h2 h3 h4
  unfold decodeLanding
  rw [h0]
  dsimp only [BitVec.reduceToNat]
  simp [decodeInt, h1, h2, h3, h4]
theorem max (d : BitVec 5) (a : BitVec 5) (b : BitVec 5) : Statement (.max d a b) := of_landing _ _ rfl fun _ => by
  refine (?_ : ∀ w : W32, fld w 26 6 = 1#6 →
      fld w 21 5 = d →
      fld w 16 5 = a →
      fld w 11 5 = b →
      fld w 0 11 = 18#11 → decodeLanding w = .ok (.max d a b)) _ (fld_w1_26_6 1#6 d a b 18#11) (fld_w1_21_5 1#6 d a b 18#11) (fld_w1_16_5 1#6 d a b 18#11) (fld_w1_11_5 1#6 d a b 18#11) (fld_w1_0_11 1#6 d a b 18#11)
  intro w h0 h1 h2 h3 h4
  unfold decodeLanding
  rw [h0]
  dsimp only [BitVec.reduceToNat]
  simp [decodeInt, h1, h2, h3, h4]
theorem minN (d : BitVec 5) (a : BitVec 5) (b : BitVec 5) : Statement (.minN d a b) := of_landing _ _ rfl fun _ => by
  refine (?_ : ∀ w : W32, fld w 26 6 = 1#6 →
      fld w 21 5 = d →
      fld w 16 5 = a →
      fld w 11 5 = b →
      fld w 0 11 = 19#11 → decodeLanding w = .ok (.minN d a b)) _ (fld_w1_26_6 1#6 d a b 19#11) (fld_w1_21_5 1#6 d a b 19#11) (fld_w1_16_5 1#6 d a b 19#11) (fld_w1_11_5 1#6 d a b 19#11) (fld_w1_0_11 1#6 d a b 19#11)
  intro w h0 h1 h2 h3 h4
  unfold decodeLanding
  rw [h0]
  dsimp only [BitVec.reduceToNat]
  simp [decodeInt, h1, h2, h3, h4]
theorem maxN (d : BitVec 5) (a : BitVec 5) (b : BitVec 5) : Statement (.maxN d a b) := of_landing _ _ rfl fun _ => by
  refine (?_ : ∀ w : W32, fld w 26 6 = 1#6 →
      fld w 21 5 = d →
      fld w 16 5 = a →
      fld w 11 5 = b →
      fld w 0 11 = 20#11 → decodeLanding w = .ok (.maxN d a b)) _ (fld_w1_26_6 1#6 d a b 20#11) (fld_w1_21_5 1#6 d a b 20#11) (fld_w1_16_5 1#6 d a b 20#11) (fld_w1_11_5 1#6 d a b 20#11) (fld_w1_0_11 1#6 d a b 20#11)
  intro w h0 h1 h2 h3 h4
  unfold decodeLanding
  rw [h0]
  dsimp only [BitVec.reduceToNat]
  simp [decodeInt, h1, h2, h3, h4]
theorem clz (d : BitVec 5) (a : BitVec 5) : Statement (.clz d a) := of_landing _ _ rfl fun _ => by
  refine (?_ : ∀ w : W32, fld w 26 6 = 1#6 →
      fld w 21 5 = d →
      fld w 16 5 = a →
      fld w 11 5 = 0#5 →
      fld w 0 11 = 21#11 → decodeLanding w = .ok (.clz d a)) _ (fld_w1_26_6 1#6 d a 0#5 21#11) (fld_w1_21_5 1#6 d a 0#5 21#11) (fld_w1_16_5 1#6 d a 0#5 21#11) (fld_w1_11_5 1#6 d a 0#5 21#11) (fld_w1_0_11 1#6 d a 0#5 21#11)
  intro w h0 h1 h2 h3 h4
  unfold decodeLanding
  rw [h0]
  dsimp only [BitVec.reduceToNat]
  simp [decodeInt, h1, h2, h3, h4]
theorem popc (d : BitVec 5) (a : BitVec 5) : Statement (.popc d a) := of_landing _ _ rfl fun _ => by
  refine (?_ : ∀ w : W32, fld w 26 6 = 1#6 →
      fld w 21 5 = d →
      fld w 16 5 = a →
      fld w 11 5 = 0#5 →
      fld w 0 11 = 22#11 → decodeLanding w = .ok (.popc d a)) _ (fld_w1_26_6 1#6 d a 0#5 22#11) (fld_w1_21_5 1#6 d a 0#5 22#11) (fld_w1_16_5 1#6 d a 0#5 22#11) (fld_w1_11_5 1#6 d a 0#5 22#11) (fld_w1_0_11 1#6 d a 0#5 22#11)
  intro w h0 h1 h2 h3 h4
  unfold decodeLanding
  rw [h0]
  dsimp only [BitVec.reduceToNat]
  simp [decodeInt, h1, h2, h3, h4]
theorem addi (d : BitVec 5) (a : BitVec 5) (imm : BitVec 16) : Statement (.addi d a imm) := of_landing _ _ rfl fun _ => by
  refine (?_ : ∀ w : W32, fld w 26 6 = 2#6 →
      fld w 21 5 = d →
      fld w 16 5 = a →
      fld w 0 16 = imm → decodeLanding w = .ok (.addi d a imm)) _ (fld_w2_26_6 2#6 d a imm) (fld_w2_21_5 2#6 d a imm) (fld_w2_16_5 2#6 d a imm) (fld_w2_0_16 2#6 d a imm)
  intro w h0 h1 h2 h3
  unfold decodeLanding
  rw [h0]
  dsimp only [BitVec.reduceToNat]
  simp [h1, h2, h3]
theorem andi (d : BitVec 5) (a : BitVec 5) (imm : BitVec 16) : Statement (.andi d a imm) := of_landing _ _ rfl fun _ => by
  refine (?_ : ∀ w : W32, fld w 26 6 = 3#6 →
      fld w 21 5 = d →
      fld w 16 5 = a →
      fld w 0 16 = imm → decodeLanding w = .ok (.andi d a imm)) _ (fld_w2_26_6 3#6 d a imm) (fld_w2_21_5 3#6 d a imm) (fld_w2_16_5 3#6 d a imm) (fld_w2_0_16 3#6 d a imm)
  intro w h0 h1 h2 h3
  unfold decodeLanding
  rw [h0]
  dsimp only [BitVec.reduceToNat]
  simp [h1, h2, h3]
theorem ori (d : BitVec 5) (a : BitVec 5) (imm : BitVec 16) : Statement (.ori d a imm) := of_landing _ _ rfl fun _ => by
  refine (?_ : ∀ w : W32, fld w 26 6 = 4#6 →
      fld w 21 5 = d →
      fld w 16 5 = a →
      fld w 0 16 = imm → decodeLanding w = .ok (.ori d a imm)) _ (fld_w2_26_6 4#6 d a imm) (fld_w2_21_5 4#6 d a imm) (fld_w2_16_5 4#6 d a imm) (fld_w2_0_16 4#6 d a imm)
  intro w h0 h1 h2 h3
  unfold decodeLanding
  rw [h0]
  dsimp only [BitVec.reduceToNat]
  simp [h1, h2, h3]
theorem xori (d : BitVec 5) (a : BitVec 5) (imm : BitVec 16) : Statement (.xori d a imm) := of_landing _ _ rfl fun _ => by
  refine (?_ : ∀ w : W32, fld w 26 6 = 5#6 →
      fld w 21 5 = d →
      fld w 16 5 = a →
      fld w 0 16 = imm → decodeLanding w = .ok (.xori d a imm)) _ (fld_w2_26_6 5#6 d a imm) (fld_w2_21_5 5#6 d a imm) (fld_w2_16_5 5#6 d a imm) (fld_w2_0_16 5#6 d a imm)
  intro w h0 h1 h2 h3
  unfold decodeLanding
  rw [h0]
  dsimp only [BitVec.reduceToNat]
  simp [h1, h2, h3]
theorem slti (d : BitVec 5) (a : BitVec 5) (imm : BitVec 16) : Statement (.slti d a imm) := of_landing _ _ rfl fun _ => by
  refine (?_ : ∀ w : W32, fld w 26 6 = 6#6 →
      fld w 21 5 = d →
      fld w 16 5 = a →
      fld w 0 16 = imm → decodeLanding w = .ok (.slti d a imm)) _ (fld_w2_26_6 6#6 d a imm) (fld_w2_21_5 6#6 d a imm) (fld_w2_16_5 6#6 d a imm) (fld_w2_0_16 6#6 d a imm)
  intro w h0 h1 h2 h3
  unfold decodeLanding
  rw [h0]
  dsimp only [BitVec.reduceToNat]
  simp [h1, h2, h3]
theorem sltiN (d : BitVec 5) (a : BitVec 5) (imm : BitVec 16) : Statement (.sltiN d a imm) := of_landing _ _ rfl fun _ => by
  refine (?_ : ∀ w : W32, fld w 26 6 = 7#6 →
      fld w 21 5 = d →
      fld w 16 5 = a →
      fld w 0 16 = imm → decodeLanding w = .ok (.sltiN d a imm)) _ (fld_w2_26_6 7#6 d a imm) (fld_w2_21_5 7#6 d a imm) (fld_w2_16_5 7#6 d a imm) (fld_w2_0_16 7#6 d a imm)
  intro w h0 h1 h2 h3
  unfold decodeLanding
  rw [h0]
  dsimp only [BitVec.reduceToNat]
  simp [h1, h2, h3]
theorem shli (d : BitVec 5) (a : BitVec 5) (s : BitVec 6) : Statement (.shli d a s) := of_landing _ _ rfl fun _ => by
  refine (?_ : ∀ w : W32, fld w 26 6 = 8#6 →
      fld w 21 5 = d →
      fld w 16 5 = a →
      fld w 6 10 = 0#10 →
      fld w 0 6 = s → decodeLanding w = .ok (.shli d a s)) _ (fld_w3_26_6 8#6 d a 0#10 s) (fld_w3_21_5 8#6 d a 0#10 s) (fld_w3_16_5 8#6 d a 0#10 s) (fld_w3_6_10 8#6 d a 0#10 s) (fld_w3_0_6 8#6 d a 0#10 s)
  intro w h0 h1 h2 h3 h4
  unfold decodeLanding
  rw [h0]
  dsimp only [BitVec.reduceToNat]
  simp [h1, h2, h3, h4]
theorem shri (d : BitVec 5) (a : BitVec 5) (s : BitVec 6) : Statement (.shri d a s) := of_landing _ _ rfl fun _ => by
  refine (?_ : ∀ w : W32, fld w 26 6 = 9#6 →
      fld w 21 5 = d →
      fld w 16 5 = a →
      fld w 6 10 = 0#10 →
      fld w 0 6 = s → decodeLanding w = .ok (.shri d a s)) _ (fld_w3_26_6 9#6 d a 0#10 s) (fld_w3_21_5 9#6 d a 0#10 s) (fld_w3_16_5 9#6 d a 0#10 s) (fld_w3_6_10 9#6 d a 0#10 s) (fld_w3_0_6 9#6 d a 0#10 s)
  intro w h0 h1 h2 h3 h4
  unfold decodeLanding
  rw [h0]
  dsimp only [BitVec.reduceToNat]
  simp [h1, h2, h3, h4]
theorem srai (d : BitVec 5) (a : BitVec 5) (s : BitVec 6) : Statement (.srai d a s) := of_landing _ _ rfl fun _ => by
  refine (?_ : ∀ w : W32, fld w 26 6 = 10#6 →
      fld w 21 5 = d →
      fld w 16 5 = a →
      fld w 6 10 = 0#10 →
      fld w 0 6 = s → decodeLanding w = .ok (.srai d a s)) _ (fld_w3_26_6 10#6 d a 0#10 s) (fld_w3_21_5 10#6 d a 0#10 s) (fld_w3_16_5 10#6 d a 0#10 s) (fld_w3_6_10 10#6 d a 0#10 s) (fld_w3_0_6 10#6 d a 0#10 s)
  intro w h0 h1 h2 h3 h4
  unfold decodeLanding
  rw [h0]
  dsimp only [BitVec.reduceToNat]
  simp [h1, h2, h3, h4]
theorem lui (d : BitVec 5) (imm : BitVec 16) : Statement (.lui d imm) := of_landing _ _ rfl fun _ => by
  refine (?_ : ∀ w : W32, fld w 26 6 = 11#6 →
      fld w 21 5 = d →
      fld w 16 5 = 0#5 →
      fld w 0 16 = imm → decodeLanding w = .ok (.lui d imm)) _ (fld_w2_26_6 11#6 d 0#5 imm) (fld_w2_21_5 11#6 d 0#5 imm) (fld_w2_16_5 11#6 d 0#5 imm) (fld_w2_0_16 11#6 d 0#5 imm)
  intro w h0 h1 h2 h3
  unfold decodeLanding
  rw [h0]
  dsimp only [BitVec.reduceToNat]
  simp [h1, h2, h3]
theorem luh (d : BitVec 5) (a : BitVec 5) (imm : BitVec 16) : Statement (.luh d a imm) := of_landing _ _ rfl fun _ => by
  refine (?_ : ∀ w : W32, fld w 26 6 = 12#6 →
      fld w 21 5 = d →
      fld w 16 5 = a →
      fld w 0 16 = imm → decodeLanding w = .ok (.luh d a imm)) _ (fld_w2_26_6 12#6 d a imm) (fld_w2_21_5 12#6 d a imm) (fld_w2_16_5 12#6 d a imm) (fld_w2_0_16 12#6 d a imm)
  intro w h0 h1 h2 h3
  unfold decodeLanding
  rw [h0]
  dsimp only [BitVec.reduceToNat]
  simp [h1, h2, h3]
theorem luhh (d : BitVec 5) (a : BitVec 5) (imm : BitVec 16) : Statement (.luhh d a imm) := of_landing _ _ rfl fun _ => by
  refine (?_ : ∀ w : W32, fld w 26 6 = 13#6 →
      fld w 21 5 = d →
      fld w 16 5 = a →
      fld w 0 16 = imm → decodeLanding w = .ok (.luhh d a imm)) _ (fld_w2_26_6 13#6 d a imm) (fld_w2_21_5 13#6 d a imm) (fld_w2_16_5 13#6 d a imm) (fld_w2_0_16 13#6 d a imm)
  intro w h0 h1 h2 h3
  unfold decodeLanding
  rw [h0]
  dsimp only [BitVec.reduceToNat]
  simp [h1, h2, h3]
theorem ldI8 (d : BitVec 5) (a : BitVec 5) (imm : BitVec 16) : Statement (.ldI8 d a imm) := of_landing _ _ rfl fun _ => by
  refine (?_ : ∀ w : W32, fld w 26 6 = 16#6 →
      fld w 21 5 = d →
      fld w 16 5 = a →
      fld w 0 16 = imm → decodeLanding w = .ok (.ldI8 d a imm)) _ (fld_w2_26_6 16#6 d a imm) (fld_w2_21_5 16#6 d a imm) (fld_w2_16_5 16#6 d a imm) (fld_w2_0_16 16#6 d a imm)
  intro w h0 h1 h2 h3
  unfold decodeLanding
  rw [h0]
  dsimp only [BitVec.reduceToNat]
  simp [h1, h2, h3]
theorem ldN8 (d : BitVec 5) (a : BitVec 5) (imm : BitVec 16) : Statement (.ldN8 d a imm) := of_landing _ _ rfl fun _ => by
  refine (?_ : ∀ w : W32, fld w 26 6 = 17#6 →
      fld w 21 5 = d →
      fld w 16 5 = a →
      fld w 0 16 = imm → decodeLanding w = .ok (.ldN8 d a imm)) _ (fld_w2_26_6 17#6 d a imm) (fld_w2_21_5 17#6 d a imm) (fld_w2_16_5 17#6 d a imm) (fld_w2_0_16 17#6 d a imm)
  intro w h0 h1 h2 h3
  unfold decodeLanding
  rw [h0]
  dsimp only [BitVec.reduceToNat]
  simp [h1, h2, h3]
theorem ldI16 (d : BitVec 5) (a : BitVec 5) (imm : BitVec 16) : Statement (.ldI16 d a imm) := of_landing _ _ rfl fun _ => by
  refine (?_ : ∀ w : W32, fld w 26 6 = 18#6 →
      fld w 21 5 = d →
      fld w 16 5 = a →
      fld w 0 16 = imm → decodeLanding w = .ok (.ldI16 d a imm)) _ (fld_w2_26_6 18#6 d a imm) (fld_w2_21_5 18#6 d a imm) (fld_w2_16_5 18#6 d a imm) (fld_w2_0_16 18#6 d a imm)
  intro w h0 h1 h2 h3
  unfold decodeLanding
  rw [h0]
  dsimp only [BitVec.reduceToNat]
  simp [h1, h2, h3]
theorem ldN16 (d : BitVec 5) (a : BitVec 5) (imm : BitVec 16) : Statement (.ldN16 d a imm) := of_landing _ _ rfl fun _ => by
  refine (?_ : ∀ w : W32, fld w 26 6 = 19#6 →
      fld w 21 5 = d →
      fld w 16 5 = a →
      fld w 0 16 = imm → decodeLanding w = .ok (.ldN16 d a imm)) _ (fld_w2_26_6 19#6 d a imm) (fld_w2_21_5 19#6 d a imm) (fld_w2_16_5 19#6 d a imm) (fld_w2_0_16 19#6 d a imm)
  intro w h0 h1 h2 h3
  unfold decodeLanding
  rw [h0]
  dsimp only [BitVec.reduceToNat]
  simp [h1, h2, h3]
theorem ldI32 (d : BitVec 5) (a : BitVec 5) (imm : BitVec 16) : Statement (.ldI32 d a imm) := of_landing _ _ rfl fun _ => by
  refine (?_ : ∀ w : W32, fld w 26 6 = 20#6 →
      fld w 21 5 = d →
      fld w 16 5 = a →
      fld w 0 16 = imm → decodeLanding w = .ok (.ldI32 d a imm)) _ (fld_w2_26_6 20#6 d a imm) (fld_w2_21_5 20#6 d a imm) (fld_w2_16_5 20#6 d a imm) (fld_w2_0_16 20#6 d a imm)
  intro w h0 h1 h2 h3
  unfold decodeLanding
  rw [h0]
  dsimp only [BitVec.reduceToNat]
  simp [h1, h2, h3]
theorem ldN32 (d : BitVec 5) (a : BitVec 5) (imm : BitVec 16) : Statement (.ldN32 d a imm) := of_landing _ _ rfl fun _ => by
  refine (?_ : ∀ w : W32, fld w 26 6 = 21#6 →
      fld w 21 5 = d →
      fld w 16 5 = a →
      fld w 0 16 = imm → decodeLanding w = .ok (.ldN32 d a imm)) _ (fld_w2_26_6 21#6 d a imm) (fld_w2_21_5 21#6 d a imm) (fld_w2_16_5 21#6 d a imm) (fld_w2_0_16 21#6 d a imm)
  intro w h0 h1 h2 h3
  unfold decodeLanding
  rw [h0]
  dsimp only [BitVec.reduceToNat]
  simp [h1, h2, h3]
theorem ld64 (d : BitVec 5) (a : BitVec 5) (imm : BitVec 16) : Statement (.ld64 d a imm) := of_landing _ _ rfl fun _ => by
  refine (?_ : ∀ w : W32, fld w 26 6 = 22#6 →
      fld w 21 5 = d →
      fld w 16 5 = a →
      fld w 0 16 = imm → decodeLanding w = .ok (.ld64 d a imm)) _ (fld_w2_26_6 22#6 d a imm) (fld_w2_21_5 22#6 d a imm) (fld_w2_16_5 22#6 d a imm) (fld_w2_0_16 22#6 d a imm)
  intro w h0 h1 h2 h3
  unfold decodeLanding
  rw [h0]
  dsimp only [BitVec.reduceToNat]
  simp [h1, h2, h3]
theorem st8 (a : BitVec 5) (b : BitVec 5) (imm : BitVec 16) : Statement (.st8 a b imm) := of_landing _ _ rfl fun _ => by
  refine (?_ : ∀ w : W32, fld w 26 6 = 24#6 →
      fld w 21 5 = a →
      fld w 16 5 = b →
      fld w 0 16 = imm → decodeLanding w = .ok (.st8 a b imm)) _ (fld_w2_26_6 24#6 a b imm) (fld_w2_21_5 24#6 a b imm) (fld_w2_16_5 24#6 a b imm) (fld_w2_0_16 24#6 a b imm)
  intro w h0 h1 h2 h3
  unfold decodeLanding
  rw [h0]
  dsimp only [BitVec.reduceToNat]
  simp [h1, h2, h3]
theorem st16 (a : BitVec 5) (b : BitVec 5) (imm : BitVec 16) : Statement (.st16 a b imm) := of_landing _ _ rfl fun _ => by
  refine (?_ : ∀ w : W32, fld w 26 6 = 25#6 →
      fld w 21 5 = a →
      fld w 16 5 = b →
      fld w 0 16 = imm → decodeLanding w = .ok (.st16 a b imm)) _ (fld_w2_26_6 25#6 a b imm) (fld_w2_21_5 25#6 a b imm) (fld_w2_16_5 25#6 a b imm) (fld_w2_0_16 25#6 a b imm)
  intro w h0 h1 h2 h3
  unfold decodeLanding
  rw [h0]
  dsimp only [BitVec.reduceToNat]
  simp [h1, h2, h3]
theorem st32 (a : BitVec 5) (b : BitVec 5) (imm : BitVec 16) : Statement (.st32 a b imm) := of_landing _ _ rfl fun _ => by
  refine (?_ : ∀ w : W32, fld w 26 6 = 26#6 →
      fld w 21 5 = a →
      fld w 16 5 = b →
      fld w 0 16 = imm → decodeLanding w = .ok (.st32 a b imm)) _ (fld_w2_26_6 26#6 a b imm) (fld_w2_21_5 26#6 a b imm) (fld_w2_16_5 26#6 a b imm) (fld_w2_0_16 26#6 a b imm)
  intro w h0 h1 h2 h3
  unfold decodeLanding
  rw [h0]
  dsimp only [BitVec.reduceToNat]
  simp [h1, h2, h3]
theorem st64 (a : BitVec 5) (b : BitVec 5) (imm : BitVec 16) : Statement (.st64 a b imm) := of_landing _ _ rfl fun _ => by
  refine (?_ : ∀ w : W32, fld w 26 6 = 27#6 →
      fld w 21 5 = a →
      fld w 16 5 = b →
      fld w 0 16 = imm → decodeLanding w = .ok (.st64 a b imm)) _ (fld_w2_26_6 27#6 a b imm) (fld_w2_21_5 27#6 a b imm) (fld_w2_16_5 27#6 a b imm) (fld_w2_0_16 27#6 a b imm)
  intro w h0 h1 h2 h3
  unfold decodeLanding
  rw [h0]
  dsimp only [BitVec.reduceToNat]
  simp [h1, h2, h3]
theorem ldAcq (d : BitVec 5) (a : BitVec 5) (size : BitVec 2) (scope : BitVec 3) (sx : BitVec 1) : Statement (.ldAcq d a size scope sx) := of_landing _ _ rfl fun h => by
  simp [wellFormed] at h
  refine (?_ : ∀ w : W32, fld w 26 6 = 28#6 →
      fld w 21 5 = d →
      fld w 16 5 = a →
      fld w 11 5 = 0#5 →
      fld w 9 2 = size →
      fld w 6 3 = scope →
      fld w 4 2 = 1#2 →
      fld w 1 3 = 0#3 →
      fld w 0 1 = sx → decodeLanding w = .ok (.ldAcq d a size scope sx)) _ (fld_w4_26_6 28#6 d a 0#5 size scope 1#2 0#3 sx) (fld_w4_21_5 28#6 d a 0#5 size scope 1#2 0#3 sx) (fld_w4_16_5 28#6 d a 0#5 size scope 1#2 0#3 sx) (fld_w4_11_5 28#6 d a 0#5 size scope 1#2 0#3 sx) (fld_w4_9_2 28#6 d a 0#5 size scope 1#2 0#3 sx) (fld_w4_6_3 28#6 d a 0#5 size scope 1#2 0#3 sx) (fld_w4_4_2 28#6 d a 0#5 size scope 1#2 0#3 sx) (fld_w4_1_3 28#6 d a 0#5 size scope 1#2 0#3 sx) (fld_w4_0_1 28#6 d a 0#5 size scope 1#2 0#3 sx)
  intro w h0 h1 h2 h3 h4 h5 h6 h7 h8
  unfold decodeLanding
  rw [h0]
  dsimp only [BitVec.reduceToNat]
  simp [decodeSync, scopeOk, h1, h2, h3, h4, h5, h6, h7, h8, h]
theorem stRel (a : BitVec 5) (b : BitVec 5) (size : BitVec 2) (scope : BitVec 3) : Statement (.stRel a b size scope) := of_landing _ _ rfl fun h => by
  simp [wellFormed] at h
  refine (?_ : ∀ w : W32, fld w 26 6 = 29#6 →
      fld w 21 5 = 0#5 →
      fld w 16 5 = a →
      fld w 11 5 = b →
      fld w 9 2 = size →
      fld w 6 3 = scope →
      fld w 4 2 = 2#2 →
      fld w 0 4 = 0#4 → decodeLanding w = .ok (.stRel a b size scope)) _ (fld_w5_26_6 29#6 0#5 a b size scope 2#2 0#4) (fld_w5_21_5 29#6 0#5 a b size scope 2#2 0#4) (fld_w5_16_5 29#6 0#5 a b size scope 2#2 0#4) (fld_w5_11_5 29#6 0#5 a b size scope 2#2 0#4) (fld_w5_9_2 29#6 0#5 a b size scope 2#2 0#4) (fld_w5_6_3 29#6 0#5 a b size scope 2#2 0#4) (fld_w5_4_2 29#6 0#5 a b size scope 2#2 0#4) (fld_w5_0_4 29#6 0#5 a b size scope 2#2 0#4)
  intro w h0 h1 h2 h3 h4 h5 h6 h7
  unfold decodeLanding
  rw [h0]
  dsimp only [BitVec.reduceToNat]
  simp [decodeSync, scopeOk, h1, h2, h3, h4, h5, h6, h7, h]
theorem ldSync (d : BitVec 5) (a : BitVec 5) (size : BitVec 2) (clr : BitVec 1) (sx : BitVec 1) : Statement (.ldSync d a size clr sx) := of_landing _ _ rfl fun _ => by
  refine (?_ : ∀ w : W32, fld w 26 6 = 30#6 →
      fld w 21 5 = d →
      fld w 16 5 = a →
      fld w 11 5 = 0#5 →
      fld w 9 2 = size →
      fld w 6 3 = 0#3 →
      fld w 4 2 = 0#2 →
      fld w 2 2 = 0#2 →
      fld w 1 1 = clr →
      fld w 0 1 = sx → decodeLanding w = .ok (.ldSync d a size clr sx)) _ (fld_w6_26_6 30#6 d a 0#5 size 0#3 0#2 0#2 clr sx) (fld_w6_21_5 30#6 d a 0#5 size 0#3 0#2 0#2 clr sx) (fld_w6_16_5 30#6 d a 0#5 size 0#3 0#2 0#2 clr sx) (fld_w6_11_5 30#6 d a 0#5 size 0#3 0#2 0#2 clr sx) (fld_w6_9_2 30#6 d a 0#5 size 0#3 0#2 0#2 clr sx) (fld_w6_6_3 30#6 d a 0#5 size 0#3 0#2 0#2 clr sx) (fld_w6_4_2 30#6 d a 0#5 size 0#3 0#2 0#2 clr sx) (fld_w6_2_2 30#6 d a 0#5 size 0#3 0#2 0#2 clr sx) (fld_w6_1_1 30#6 d a 0#5 size 0#3 0#2 0#2 clr sx) (fld_w6_0_1 30#6 d a 0#5 size 0#3 0#2 0#2 clr sx)
  intro w h0 h1 h2 h3 h4 h5 h6 h7 h8 h9
  unfold decodeLanding
  rw [h0]
  dsimp only [BitVec.reduceToNat]
  simp [decodeSync, scopeOk, h1, h2, h3, h4, h5, h6, h7, h8, h9]
theorem ldSyncAcq (d : BitVec 5) (a : BitVec 5) (size : BitVec 2) (scope : BitVec 3) (clr : BitVec 1) (sx : BitVec 1) : Statement (.ldSyncAcq d a size scope clr sx) := of_landing _ _ rfl fun h => by
  simp [wellFormed] at h
  refine (?_ : ∀ w : W32, fld w 26 6 = 30#6 →
      fld w 21 5 = d →
      fld w 16 5 = a →
      fld w 11 5 = 0#5 →
      fld w 9 2 = size →
      fld w 6 3 = scope →
      fld w 4 2 = 1#2 →
      fld w 2 2 = 0#2 →
      fld w 1 1 = clr →
      fld w 0 1 = sx → decodeLanding w = .ok (.ldSyncAcq d a size scope clr sx)) _ (fld_w6_26_6 30#6 d a 0#5 size scope 1#2 0#2 clr sx) (fld_w6_21_5 30#6 d a 0#5 size scope 1#2 0#2 clr sx) (fld_w6_16_5 30#6 d a 0#5 size scope 1#2 0#2 clr sx) (fld_w6_11_5 30#6 d a 0#5 size scope 1#2 0#2 clr sx) (fld_w6_9_2 30#6 d a 0#5 size scope 1#2 0#2 clr sx) (fld_w6_6_3 30#6 d a 0#5 size scope 1#2 0#2 clr sx) (fld_w6_4_2 30#6 d a 0#5 size scope 1#2 0#2 clr sx) (fld_w6_2_2 30#6 d a 0#5 size scope 1#2 0#2 clr sx) (fld_w6_1_1 30#6 d a 0#5 size scope 1#2 0#2 clr sx) (fld_w6_0_1 30#6 d a 0#5 size scope 1#2 0#2 clr sx)
  intro w h0 h1 h2 h3 h4 h5 h6 h7 h8 h9
  unfold decodeLanding
  rw [h0]
  dsimp only [BitVec.reduceToNat]
  simp [decodeSync, scopeOk, h1, h2, h3, h4, h5, h6, h7, h8, h9, h]
theorem ldm (d : BitVec 5) (a : BitVec 5) (n : BitVec 4) : Statement (.ldm d a n) := of_landing _ _ rfl fun h => by
  simp [wellFormed] at h
  refine (?_ : ∀ w : W32, fld w 26 6 = 31#6 →
      fld w 21 5 = d →
      fld w 16 5 = a →
      fld w 11 5 = 0#5 →
      fld w 9 2 = 3#2 →
      fld w 6 3 = 0#3 →
      fld w 4 2 = 0#2 →
      fld w 0 4 = n → decodeLanding w = .ok (.ldm d a n)) _ (fld_w5_26_6 31#6 d a 0#5 3#2 0#3 0#2 n) (fld_w5_21_5 31#6 d a 0#5 3#2 0#3 0#2 n) (fld_w5_16_5 31#6 d a 0#5 3#2 0#3 0#2 n) (fld_w5_11_5 31#6 d a 0#5 3#2 0#3 0#2 n) (fld_w5_9_2 31#6 d a 0#5 3#2 0#3 0#2 n) (fld_w5_6_3 31#6 d a 0#5 3#2 0#3 0#2 n) (fld_w5_4_2 31#6 d a 0#5 3#2 0#3 0#2 n) (fld_w5_0_4 31#6 d a 0#5 3#2 0#3 0#2 n)
  intro w h0 h1 h2 h3 h4 h5 h6 h7
  unfold decodeLanding
  rw [h0]
  dsimp only [BitVec.reduceToNat]
  simp [decodeSync, scopeOk, h1, h2, h3, h4, h5, h6, h7, h]
theorem stm (d : BitVec 5) (a : BitVec 5) (n : BitVec 4) : Statement (.stm d a n) := of_landing _ _ rfl fun h => by
  simp [wellFormed] at h
  refine (?_ : ∀ w : W32, fld w 26 6 = 35#6 →
      fld w 21 5 = d →
      fld w 16 5 = a →
      fld w 11 5 = 0#5 →
      fld w 9 2 = 3#2 →
      fld w 6 3 = 0#3 →
      fld w 4 2 = 0#2 →
      fld w 0 4 = n → decodeLanding w = .ok (.stm d a n)) _ (fld_w5_26_6 35#6 d a 0#5 3#2 0#3 0#2 n) (fld_w5_21_5 35#6 d a 0#5 3#2 0#3 0#2 n) (fld_w5_16_5 35#6 d a 0#5 3#2 0#3 0#2 n) (fld_w5_11_5 35#6 d a 0#5 3#2 0#3 0#2 n) (fld_w5_9_2 35#6 d a 0#5 3#2 0#3 0#2 n) (fld_w5_6_3 35#6 d a 0#5 3#2 0#3 0#2 n) (fld_w5_4_2 35#6 d a 0#5 3#2 0#3 0#2 n) (fld_w5_0_4 35#6 d a 0#5 3#2 0#3 0#2 n)
  intro w h0 h1 h2 h3 h4 h5 h6 h7
  unfold decodeLanding
  rw [h0]
  dsimp only [BitVec.reduceToNat]
  simp [decodeSync, scopeOk, h1, h2, h3, h4, h5, h6, h7, h]
theorem amo (d : BitVec 5) (a : BitVec 5) (b : BitVec 5) (dbl : BitVec 1) (scope : BitVec 3) (order : BitVec 2) (op : BitVec 4) : Statement (.amo d a b dbl scope order op) := of_landing _ _ rfl fun h => by
  simp [wellFormed] at h
  refine (?_ : ∀ w : W32, fld w 26 6 = 32#6 →
      fld w 21 5 = d →
      fld w 16 5 = a →
      fld w 11 5 = b →
      fld w 10 1 = 1#1 →
      fld w 9 1 = dbl →
      fld w 6 3 = scope →
      fld w 4 2 = order →
      fld w 0 4 = op → decodeLanding w = .ok (.amo d a b dbl scope order op)) _ (fld_w7_26_6 32#6 d a b 1#1 dbl scope order op) (fld_w7_21_5 32#6 d a b 1#1 dbl scope order op) (fld_w7_16_5 32#6 d a b 1#1 dbl scope order op) (fld_w7_11_5 32#6 d a b 1#1 dbl scope order op) (fld_w7_10_1 32#6 d a b 1#1 dbl scope order op) (fld_w7_9_1 32#6 d a b 1#1 dbl scope order op) (fld_w7_6_3 32#6 d a b 1#1 dbl scope order op) (fld_w7_4_2 32#6 d a b 1#1 dbl scope order op) (fld_w7_0_4 32#6 d a b 1#1 dbl scope order op)
  intro w h0 h1 h2 h3 h4 h5 h6 h7 h8
  unfold decodeLanding
  rw [h0]
  dsimp only [BitVec.reduceToNat]
  simp [decodeSync, scopeOk, h1, h2, h3, h4, h5, h6, h7, h8]
  grind
theorem cas (d : BitVec 5) (a : BitVec 5) (b : BitVec 5) (dbl : BitVec 1) (scope : BitVec 3) (order : BitVec 2) : Statement (.cas d a b dbl scope order) := of_landing _ _ rfl fun h => by
  simp [wellFormed] at h
  refine (?_ : ∀ w : W32, fld w 26 6 = 33#6 →
      fld w 21 5 = d →
      fld w 16 5 = a →
      fld w 11 5 = b →
      fld w 10 1 = 1#1 →
      fld w 9 1 = dbl →
      fld w 6 3 = scope →
      fld w 4 2 = order →
      fld w 0 4 = 0#4 → decodeLanding w = .ok (.cas d a b dbl scope order)) _ (fld_w7_26_6 33#6 d a b 1#1 dbl scope order 0#4) (fld_w7_21_5 33#6 d a b 1#1 dbl scope order 0#4) (fld_w7_16_5 33#6 d a b 1#1 dbl scope order 0#4) (fld_w7_11_5 33#6 d a b 1#1 dbl scope order 0#4) (fld_w7_10_1 33#6 d a b 1#1 dbl scope order 0#4) (fld_w7_9_1 33#6 d a b 1#1 dbl scope order 0#4) (fld_w7_6_3 33#6 d a b 1#1 dbl scope order 0#4) (fld_w7_4_2 33#6 d a b 1#1 dbl scope order 0#4) (fld_w7_0_4 33#6 d a b 1#1 dbl scope order 0#4)
  intro w h0 h1 h2 h3 h4 h5 h6 h7 h8
  unfold decodeLanding
  rw [h0]
  dsimp only [BitVec.reduceToNat]
  simp [decodeSync, scopeOk, h1, h2, h3, h4, h5, h6, h7, h8]
  grind
theorem fence (scope : BitVec 3) : Statement (.fence scope) := of_landing _ _ rfl fun h => by
  simp [wellFormed] at h
  refine (?_ : ∀ w : W32, fld w 26 6 = 34#6 →
      fld w 21 5 = 0#5 →
      fld w 16 5 = 0#5 →
      fld w 11 5 = 0#5 →
      fld w 9 2 = 0#2 →
      fld w 6 3 = scope →
      fld w 4 2 = 0#2 →
      fld w 0 4 = 0#4 → decodeLanding w = .ok (.fence scope)) _ (fld_w5_26_6 34#6 0#5 0#5 0#5 0#2 scope 0#2 0#4) (fld_w5_21_5 34#6 0#5 0#5 0#5 0#2 scope 0#2 0#4) (fld_w5_16_5 34#6 0#5 0#5 0#5 0#2 scope 0#2 0#4) (fld_w5_11_5 34#6 0#5 0#5 0#5 0#2 scope 0#2 0#4) (fld_w5_9_2 34#6 0#5 0#5 0#5 0#2 scope 0#2 0#4) (fld_w5_6_3 34#6 0#5 0#5 0#5 0#2 scope 0#2 0#4) (fld_w5_4_2 34#6 0#5 0#5 0#5 0#2 scope 0#2 0#4) (fld_w5_0_4 34#6 0#5 0#5 0#5 0#2 scope 0#2 0#4)
  intro w h0 h1 h2 h3 h4 h5 h6 h7
  unfold decodeLanding
  rw [h0]
  dsimp only [BitVec.reduceToNat]
  simp [decodeSync, scopeOk, h1, h2, h3, h4, h5, h6, h7, h]
theorem br (imm : BitVec 26) : Statement (.br imm) := of_landing _ _ rfl fun _ => by
  refine (?_ : ∀ w : W32, fld w 26 6 = 40#6 →
      fld w 0 26 = imm → decodeLanding w = .ok (.br imm)) _ (fld_w8_26_6 40#6 imm) (fld_w8_0_26 40#6 imm)
  intro w h0 h1
  unfold decodeLanding
  rw [h0]
  dsimp only [BitVec.reduceToNat]
  simp [h1]
theorem call (imm : BitVec 26) : Statement (.call imm) := of_landing _ _ rfl fun _ => by
  refine (?_ : ∀ w : W32, fld w 26 6 = 41#6 →
      fld w 0 26 = imm → decodeLanding w = .ok (.call imm)) _ (fld_w8_26_6 41#6 imm) (fld_w8_0_26 41#6 imm)
  intro w h0 h1
  unfold decodeLanding
  rw [h0]
  dsimp only [BitVec.reduceToNat]
  simp [h1]
theorem jl (d : BitVec 5) (a : BitVec 5) (imm : BitVec 16) : Statement (.jl d a imm) := of_landing _ _ rfl fun _ => by
  refine (?_ : ∀ w : W32, fld w 26 6 = 42#6 →
      fld w 21 5 = d →
      fld w 16 5 = a →
      fld w 0 16 = imm → decodeLanding w = .ok (.jl d a imm)) _ (fld_w2_26_6 42#6 d a imm) (fld_w2_21_5 42#6 d a imm) (fld_w2_16_5 42#6 d a imm) (fld_w2_0_16 42#6 d a imm)
  intro w h0 h1 h2 h3
  unfold decodeLanding
  rw [h0]
  dsimp only [BitVec.reduceToNat]
  simp [h1, h2, h3]
theorem setp (p : BitVec 3) (cond : BitVec 3) (a : BitVec 5) (b : BitVec 5) : Statement (.setp p cond a b) := of_landing _ _ rfl fun h => by
  simp [wellFormed] at h
  refine (?_ : ∀ w : W32, fld w 26 6 = 43#6 →
      fld w 23 3 = p →
      fld w 20 3 = cond →
      fld w 15 5 = a →
      fld w 10 5 = b →
      fld w 0 10 = 0#10 → decodeLanding w = .ok (.setp p cond a b)) _ (fld_w9_26_6 43#6 p cond a b 0#10) (fld_w9_23_3 43#6 p cond a b 0#10) (fld_w9_20_3 43#6 p cond a b 0#10) (fld_w9_15_5 43#6 p cond a b 0#10) (fld_w9_10_5 43#6 p cond a b 0#10) (fld_w9_0_10 43#6 p cond a b 0#10)
  intro w h0 h1 h2 h3 h4 h5
  unfold decodeLanding
  rw [h0]
  dsimp only [BitVec.reduceToNat]
  simp [condOk, h1, h2, h3, h4, h5, h]
theorem setpi (p : BitVec 3) (cond : BitVec 3) (a : BitVec 5) (imm : BitVec 15) : Statement (.setpi p cond a imm) := of_landing _ _ rfl fun h => by
  simp [wellFormed] at h
  refine (?_ : ∀ w : W32, fld w 26 6 = 44#6 →
      fld w 23 3 = p →
      fld w 20 3 = cond →
      fld w 15 5 = a →
      fld w 0 15 = imm → decodeLanding w = .ok (.setpi p cond a imm)) _ (fld_w10_26_6 44#6 p cond a imm) (fld_w10_23_3 44#6 p cond a imm) (fld_w10_20_3 44#6 p cond a imm) (fld_w10_15_5 44#6 p cond a imm) (fld_w10_0_15 44#6 p cond a imm)
  intro w h0 h1 h2 h3 h4
  unfold decodeLanding
  rw [h0]
  dsimp only [BitVec.reduceToNat]
  simp [condOk, h1, h2, h3, h4, h]
theorem bp (p : BitVec 3) (sense : BitVec 1) (imm : BitVec 22) : Statement (.bp p sense imm) := of_landing _ _ rfl fun _ => by
  refine (?_ : ∀ w : W32, fld w 26 6 = 45#6 →
      fld w 23 3 = p →
      fld w 22 1 = sense →
      fld w 0 22 = imm → decodeLanding w = .ok (.bp p sense imm)) _ (fld_w11_26_6 45#6 p sense imm) (fld_w11_23_3 45#6 p sense imm) (fld_w11_22_1 45#6 p sense imm) (fld_w11_0_22 45#6 p sense imm)
  intro w h0 h1 h2 h3
  unfold decodeLanding
  rw [h0]
  dsimp only [BitVec.reduceToNat]
  simp [h1, h2, h3]
theorem plog (p : BitVec 3) (op : BitVec 2) (pa : BitVec 3) (pb : BitVec 3) : Statement (.plog p op pa pb) := of_landing _ _ rfl fun _ => by
  refine (?_ : ∀ w : W32, fld w 26 6 = 46#6 →
      fld w 23 3 = p →
      fld w 21 2 = op →
      fld w 18 3 = pa →
      fld w 15 3 = pb →
      fld w 0 15 = 0#15 → decodeLanding w = .ok (.plog p op pa pb)) _ (fld_w12_26_6 46#6 p op pa pb 0#15) (fld_w12_23_3 46#6 p op pa pb 0#15) (fld_w12_21_2 46#6 p op pa pb 0#15) (fld_w12_18_3 46#6 p op pa pb 0#15) (fld_w12_15_3 46#6 p op pa pb 0#15) (fld_w12_0_15 46#6 p op pa pb 0#15)
  intro w h0 h1 h2 h3 h4 h5
  unfold decodeLanding
  rw [h0]
  dsimp only [BitVec.reduceToNat]
  simp [h1, h2, h3, h4, h5]
theorem cmov (c : BitVec 3) (quarter : BitVec 2) (a : BitVec 5) (imm : BitVec 16) : Statement (.cmov c quarter a imm) := of_landing _ _ rfl fun _ => by
  refine (?_ : ∀ w : W32, fld w 26 6 = 48#6 →
      fld w 23 3 = c →
      fld w 21 2 = quarter →
      fld w 16 5 = a →
      fld w 0 16 = imm → decodeLanding w = .ok (.cmov c quarter a imm)) _ (fld_w13_26_6 48#6 c quarter a imm) (fld_w13_23_3 48#6 c quarter a imm) (fld_w13_21_2 48#6 c quarter a imm) (fld_w13_16_5 48#6 c quarter a imm) (fld_w13_0_16 48#6 c quarter a imm)
  intro w h0 h1 h2 h3 h4
  unfold decodeLanding
  rw [h0]
  dsimp only [BitVec.reduceToNat]
  simp [h1, h2, h3, h4]
theorem cld (c : BitVec 3) (a : BitVec 5) (imm : BitVec 16) : Statement (.cld c a imm) := of_landing _ _ rfl fun _ => by
  refine (?_ : ∀ w : W32, fld w 26 6 = 49#6 →
      fld w 23 3 = c →
      fld w 21 2 = 0#2 →
      fld w 16 5 = a →
      fld w 0 16 = imm → decodeLanding w = .ok (.cld c a imm)) _ (fld_w13_26_6 49#6 c 0#2 a imm) (fld_w13_23_3 49#6 c 0#2 a imm) (fld_w13_21_2 49#6 c 0#2 a imm) (fld_w13_16_5 49#6 c 0#2 a imm) (fld_w13_0_16 49#6 c 0#2 a imm)
  intro w h0 h1 h2 h3 h4
  unfold decodeLanding
  rw [h0]
  dsimp only [BitVec.reduceToNat]
  simp [h1, h2, h3, h4]
theorem cst (c : BitVec 3) (a : BitVec 5) (imm : BitVec 16) : Statement (.cst c a imm) := of_landing _ _ rfl fun _ => by
  refine (?_ : ∀ w : W32, fld w 26 6 = 50#6 →
      fld w 23 3 = c →
      fld w 21 2 = 0#2 →
      fld w 16 5 = a →
      fld w 0 16 = imm → decodeLanding w = .ok (.cst c a imm)) _ (fld_w13_26_6 50#6 c 0#2 a imm) (fld_w13_23_3 50#6 c 0#2 a imm) (fld_w13_21_2 50#6 c 0#2 a imm) (fld_w13_16_5 50#6 c 0#2 a imm) (fld_w13_0_16 50#6 c 0#2 a imm)
  intro w h0 h1 h2 h3 h4
  unfold decodeLanding
  rw [h0]
  dsimp only [BitVec.reduceToNat]
  simp [h1, h2, h3, h4]
theorem issue (c : BitVec 3) (a : BitVec 5) : Statement (.issue c a) := of_landing _ _ rfl fun _ => by
  refine (?_ : ∀ w : W32, fld w 26 6 = 51#6 →
      fld w 23 3 = c →
      fld w 21 2 = 0#2 →
      fld w 16 5 = a →
      fld w 0 16 = 0#16 → decodeLanding w = .ok (.issue c a)) _ (fld_w13_26_6 51#6 c 0#2 a 0#16) (fld_w13_23_3 51#6 c 0#2 a 0#16) (fld_w13_21_2 51#6 c 0#2 a 0#16) (fld_w13_16_5 51#6 c 0#2 a 0#16) (fld_w13_0_16 51#6 c 0#2 a 0#16)
  intro w h0 h1 h2 h3 h4
  unfold decodeLanding
  rw [h0]
  dsimp only [BitVec.reduceToNat]
  simp [h1, h2, h3, h4]
theorem cstat (a : BitVec 5) (wait : BitVec 1) : Statement (.cstat a wait) := of_landing _ _ rfl fun _ => by
  refine (?_ : ∀ w : W32, fld w 26 6 = 52#6 →
      fld w 21 5 = 0#3 ++ 0#2 →
      fld w 16 5 = a →
      fld w 1 15 = 0#15 →
      fld w 0 1 = wait → decodeLanding w = .ok (.cstat a wait)) _ (fld_w14_26_6 52#6 0#3 0#2 a 0#15 wait) (fld_w14_21_5 52#6 0#3 0#2 a 0#15 wait) (fld_w14_16_5 52#6 0#3 0#2 a 0#15 wait) (fld_w14_1_15 52#6 0#3 0#2 a 0#15 wait) (fld_w14_0_1 52#6 0#3 0#2 a 0#15 wait)
  intro w h0 h1 h2 h3 h4
  unfold decodeLanding
  rw [h0]
  dsimp only [BitVec.reduceToNat]
  simp [h1, h2, h3, h4]
theorem shape (d : BitVec 2) (a : BitVec 5) (b : BitVec 5) (kind : BitVec 2) : Statement (.shape d a b kind) := of_landing _ _ rfl fun h => by
  simp [wellFormed] at h
  refine (?_ : ∀ w : W32, fld w 26 6 = 54#6 →
      fld w 21 5 = 0#3 ++ d →
      fld w 21 2 = d →
      fld w 16 5 = a →
      fld w 11 5 = b →
      fld w 2 9 = 0#9 →
      fld w 0 2 = kind → decodeLanding w = .ok (.shape d a b kind)) _ (fld_w15_26_6 54#6 0#3 d a b 0#9 kind) (fld_w15_21_5 54#6 0#3 d a b 0#9 kind) (fld_w15_21_2 54#6 0#3 d a b 0#9 kind) (fld_w15_16_5 54#6 0#3 d a b 0#9 kind) (fld_w15_11_5 54#6 0#3 d a b 0#9 kind) (fld_w15_2_9 54#6 0#3 d a b 0#9 kind) (fld_w15_0_2 54#6 0#3 d a b 0#9 kind)
  intro w h0 h1 h2 h3 h4 h5 h6
  unfold decodeLanding
  rw [h0]
  dsimp only [BitVec.reduceToNat]
  simp [h1, h2, h3, h4, h5, h6]
  have hd : ∀ d : BitVec 2, ¬ 3 < (0#3 ++ d).toNat := by decide
  have := hd d
  grind
theorem shrd (d : BitVec 5) (sh : BitVec 5) (clr : BitVec 1) (f : BitVec 2) : Statement (.shrd d sh clr f) := of_landing _ _ rfl fun h => by
  simp [wellFormed] at h
  refine (?_ : ∀ w : W32, fld w 26 6 = 55#6 →
      fld w 21 5 = d →
      fld w 16 5 = sh →
      fld w 11 5 = 0#5 →
      fld w 3 8 = 0#8 →
      fld w 2 1 = clr →
      fld w 0 2 = f → decodeLanding w = .ok (.shrd d sh clr f)) _ (fld_w16_26_6 55#6 d sh 0#5 0#8 clr f) (fld_w16_21_5 55#6 d sh 0#5 0#8 clr f) (fld_w16_16_5 55#6 d sh 0#5 0#8 clr f) (fld_w16_11_5 55#6 d sh 0#5 0#8 clr f) (fld_w16_3_8 55#6 d sh 0#5 0#8 clr f) (fld_w16_2_1 55#6 d sh 0#5 0#8 clr f) (fld_w16_0_2 55#6 d sh 0#5 0#8 clr f)
  intro w h0 h1 h2 h3 h4 h5 h6
  unfold decodeLanding
  rw [h0]
  dsimp only [BitVec.reduceToNat]
  simp [h1, h2, h3, h4, h5, h6, h]
theorem watch (m : BitVec 5) (a : BitVec 5) : Statement (.watch m a) := of_landing _ _ rfl fun h => by
  simp [wellFormed] at h
  refine (?_ : ∀ w : W32, fld w 26 6 = 56#6 →
      fld w 21 5 = m →
      fld w 16 5 = a →
      fld w 0 16 = 0#5 ++ 0#11 → decodeLanding w = .ok (.watch m a)) _ (fld_w1_26_6 56#6 m a 0#5 0#11) (fld_w1_21_5 56#6 m a 0#5 0#11) (fld_w1_16_5 56#6 m a 0#5 0#11) (fld_w1_0_16 56#6 m a 0#5 0#11)
  intro w h0 h1 h2 h3
  unfold decodeLanding
  rw [h0]
  dsimp only [BitVec.reduceToNat]
  simp [h1, h2, h3, h]
theorem mwait (d : BitVec 5) (a : BitVec 5) : Statement (.mwait d a) := of_landing _ _ rfl fun _ => by
  refine (?_ : ∀ w : W32, fld w 26 6 = 57#6 →
      fld w 21 5 = d →
      fld w 16 5 = a →
      fld w 0 16 = 0#5 ++ 0#11 → decodeLanding w = .ok (.mwait d a)) _ (fld_w1_26_6 57#6 d a 0#5 0#11) (fld_w1_21_5 57#6 d a 0#5 0#11) (fld_w1_16_5 57#6 d a 0#5 0#11) (fld_w1_0_16 57#6 d a 0#5 0#11)
  intro w h0 h1 h2 h3
  unfold decodeLanding
  rw [h0]
  dsimp only [BitVec.reduceToNat]
  simp [h1, h2, h3]
theorem unwatch (m : BitVec 5) : Statement (.unwatch m) := of_landing _ _ rfl fun h => by
  simp [wellFormed] at h
  refine (?_ : ∀ w : W32, fld w 26 6 = 58#6 →
      fld w 21 5 = m →
      fld w 0 21 = 0#5 ++ 0#5 ++ 0#11 → decodeLanding w = .ok (.unwatch m)) _ (fld_w1_26_6 58#6 m 0#5 0#5 0#11) (fld_w1_21_5 58#6 m 0#5 0#5 0#11) (fld_w1_0_21 58#6 m 0#5 0#5 0#11)
  intro w h0 h1 h2
  unfold decodeLanding
  rw [h0]
  dsimp only [BitVec.reduceToNat]
  simp [h1, h2, h]
theorem arrive (d : BitVec 5) (n : BitVec 5) : Statement (.arrive d n) := of_landing _ _ rfl fun _ => by
  refine (?_ : ∀ w : W32, fld w 26 6 = 59#6 →
      fld w 21 5 = d →
      fld w 16 5 = 0#5 →
      fld w 5 11 = 0#11 →
      fld w 0 5 = n → decodeLanding w = .ok (.arrive d n)) _ (fld_w17_26_6 59#6 d 0#5 0#11 n) (fld_w17_21_5 59#6 d 0#5 0#11 n) (fld_w17_16_5 59#6 d 0#5 0#11 n) (fld_w17_5_11 59#6 d 0#5 0#11 n) (fld_w17_0_5 59#6 d 0#5 0#11 n)
  intro w h0 h1 h2 h3 h4
  unfold decodeLanding
  rw [h0]
  dsimp only [BitVec.reduceToNat]
  simp [h1, h2, h3, h4]
theorem await (a : BitVec 5) : Statement (.await a) := of_landing _ _ rfl fun _ => by
  refine (?_ : ∀ w : W32, fld w 26 6 = 60#6 →
      fld w 21 5 = 0#5 →
      fld w 16 5 = a →
      fld w 0 16 = 0#5 ++ 0#11 → decodeLanding w = .ok (.await a)) _ (fld_w1_26_6 60#6 0#5 a 0#5 0#11) (fld_w1_21_5 60#6 0#5 a 0#5 0#11) (fld_w1_16_5 60#6 0#5 a 0#5 0#11) (fld_w1_0_16 60#6 0#5 a 0#5 0#11)
  intro w h0 h1 h2 h3
  unfold decodeLanding
  rw [h0]
  dsimp only [BitVec.reduceToNat]
  simp [h1, h2, h3]
theorem launch (d : BitVec 5) (a : BitVec 5) (b : BitVec 5) : Statement (.launch d a b) := of_landing _ _ rfl fun _ => by
  refine (?_ : ∀ w : W32, fld w 26 6 = 61#6 →
      fld w 21 5 = d →
      fld w 16 5 = a →
      fld w 11 5 = b →
      fld w 0 11 = 0#11 → decodeLanding w = .ok (.launch d a b)) _ (fld_w1_26_6 61#6 d a b 0#11) (fld_w1_21_5 61#6 d a b 0#11) (fld_w1_16_5 61#6 d a b 0#11) (fld_w1_11_5 61#6 d a b 0#11) (fld_w1_0_11 61#6 d a b 0#11)
  intro w h0 h1 h2 h3 h4
  unfold decodeLanding
  rw [h0]
  dsimp only [BitVec.reduceToNat]
  simp [h1, h2, h3, h4]
theorem lwait (d : BitVec 5) (a : BitVec 5) : Statement (.lwait d a) := of_landing _ _ rfl fun _ => by
  refine (?_ : ∀ w : W32, fld w 26 6 = 62#6 →
      fld w 21 5 = d →
      fld w 16 5 = a →
      fld w 0 16 = 0#5 ++ 0#11 → decodeLanding w = .ok (.lwait d a)) _ (fld_w1_26_6 62#6 d a 0#5 0#11) (fld_w1_21_5 62#6 d a 0#5 0#11) (fld_w1_16_5 62#6 d a 0#5 0#11) (fld_w1_0_16 62#6 d a 0#5 0#11)
  intro w h0 h1 h2 h3
  unfold decodeLanding
  rw [h0]
  dsimp only [BitVec.reduceToNat]
  simp [h1, h2, h3]
theorem csrr (d : BitVec 5) (csr : BitVec 8) : Statement (.csrr d csr) := of_landing _ _ rfl fun _ => by
  refine (?_ : ∀ w : W32, fld w 26 6 = 63#6 →
      fld w 21 5 = d →
      fld w 16 5 = 0#5 →
      fld w 11 5 = 0#5 →
      fld w 8 3 = 0#3 →
      fld w 0 8 = csr → decodeLanding w = .ok (.csrr d csr)) _ (fld_w18_26_6 63#6 d 0#5 0#5 0#3 csr) (fld_w18_21_5 63#6 d 0#5 0#5 0#3 csr) (fld_w18_16_5 63#6 d 0#5 0#5 0#3 csr) (fld_w18_11_5 63#6 d 0#5 0#5 0#3 csr) (fld_w18_8_3 63#6 d 0#5 0#5 0#3 csr) (fld_w18_0_8 63#6 d 0#5 0#5 0#3 csr)
  intro w h0 h1 h2 h3 h4 h5
  unfold decodeLanding
  rw [h0]
  dsimp only [BitVec.reduceToNat]
  simp [decodeSystem, h1, h2, h3, h4, h5]
theorem csrw (a : BitVec 5) (csr : BitVec 8) : Statement (.csrw a csr) := of_landing _ _ rfl fun _ => by
  refine (?_ : ∀ w : W32, fld w 26 6 = 63#6 →
      fld w 21 5 = 0#5 →
      fld w 16 5 = a →
      fld w 11 5 = 0#5 →
      fld w 8 3 = 1#3 →
      fld w 0 8 = csr → decodeLanding w = .ok (.csrw a csr)) _ (fld_w18_26_6 63#6 0#5 a 0#5 1#3 csr) (fld_w18_21_5 63#6 0#5 a 0#5 1#3 csr) (fld_w18_16_5 63#6 0#5 a 0#5 1#3 csr) (fld_w18_11_5 63#6 0#5 a 0#5 1#3 csr) (fld_w18_8_3 63#6 0#5 a 0#5 1#3 csr) (fld_w18_0_8 63#6 0#5 a 0#5 1#3 csr)
  intro w h0 h1 h2 h3 h4 h5
  unfold decodeLanding
  rw [h0]
  dsimp only [BitVec.reduceToNat]
  simp [decodeSystem, h1, h2, h3, h4, h5]
theorem feat (d : BitVec 5) (n : BitVec 8) : Statement (.feat d n) := of_landing _ _ rfl fun _ => by
  refine (?_ : ∀ w : W32, fld w 26 6 = 63#6 →
      fld w 21 5 = d →
      fld w 16 5 = 0#5 →
      fld w 11 5 = 0#5 →
      fld w 8 3 = 2#3 →
      fld w 0 8 = n → decodeLanding w = .ok (.feat d n)) _ (fld_w18_26_6 63#6 d 0#5 0#5 2#3 n) (fld_w18_21_5 63#6 d 0#5 0#5 2#3 n) (fld_w18_16_5 63#6 d 0#5 0#5 2#3 n) (fld_w18_11_5 63#6 d 0#5 0#5 2#3 n) (fld_w18_8_3 63#6 d 0#5 0#5 2#3 n) (fld_w18_0_8 63#6 d 0#5 0#5 2#3 n)
  intro w h0 h1 h2 h3 h4 h5
  unfold decodeLanding
  rw [h0]
  dsimp only [BitVec.reduceToNat]
  simp [decodeSystem, h1, h2, h3, h4, h5]
theorem trap (code : BitVec 8) : Statement (.trap code) := of_landing _ _ rfl fun _ => by
  refine (?_ : ∀ w : W32, fld w 26 6 = 63#6 →
      fld w 21 5 = 0#5 →
      fld w 16 5 = 0#5 →
      fld w 11 5 = 0#5 →
      fld w 8 3 = 3#3 →
      fld w 0 8 = code → decodeLanding w = .ok (.trap code)) _ (fld_w18_26_6 63#6 0#5 0#5 0#5 3#3 code) (fld_w18_21_5 63#6 0#5 0#5 0#5 3#3 code) (fld_w18_16_5 63#6 0#5 0#5 0#5 3#3 code) (fld_w18_11_5 63#6 0#5 0#5 0#5 3#3 code) (fld_w18_8_3 63#6 0#5 0#5 0#5 3#3 code) (fld_w18_0_8 63#6 0#5 0#5 0#5 3#3 code)
  intro w h0 h1 h2 h3 h4 h5
  unfold decodeLanding
  rw [h0]
  dsimp only [BitVec.reduceToNat]
  simp [decodeSystem, h1, h2, h3, h4, h5]
theorem eret : Statement (.eret) := of_landing _ _ rfl fun _ => by
  refine (?_ : ∀ w : W32, fld w 26 6 = 63#6 →
      fld w 21 5 = 0#5 →
      fld w 16 5 = 0#5 →
      fld w 11 5 = 0#5 →
      fld w 8 3 = 4#3 →
      fld w 0 8 = 0#8 → decodeLanding w = .ok (.eret)) _ (fld_w18_26_6 63#6 0#5 0#5 0#5 4#3 0#8) (fld_w18_21_5 63#6 0#5 0#5 0#5 4#3 0#8) (fld_w18_16_5 63#6 0#5 0#5 0#5 4#3 0#8) (fld_w18_11_5 63#6 0#5 0#5 0#5 4#3 0#8) (fld_w18_8_3 63#6 0#5 0#5 0#5 4#3 0#8) (fld_w18_0_8 63#6 0#5 0#5 0#5 4#3 0#8)
  intro w h0 h1 h2 h3 h4 h5
  unfold decodeLanding
  rw [h0]
  dsimp only [BitVec.reduceToNat]
  simp [decodeSystem, h1, h2, h3, h4, h5]
theorem invalTlb : Statement (.invalTlb) := of_landing _ _ rfl fun _ => by
  refine (?_ : ∀ w : W32, fld w 26 6 = 63#6 →
      fld w 21 5 = 0#5 →
      fld w 16 5 = 0#5 →
      fld w 11 5 = 0#5 →
      fld w 8 3 = 5#3 →
      fld w 0 8 = 0#8 → decodeLanding w = .ok (.invalTlb)) _ (fld_w18_26_6 63#6 0#5 0#5 0#5 5#3 0#8) (fld_w18_21_5 63#6 0#5 0#5 0#5 5#3 0#8) (fld_w18_16_5 63#6 0#5 0#5 0#5 5#3 0#8) (fld_w18_11_5 63#6 0#5 0#5 0#5 5#3 0#8) (fld_w18_8_3 63#6 0#5 0#5 0#5 5#3 0#8) (fld_w18_0_8 63#6 0#5 0#5 0#5 5#3 0#8)
  intro w h0 h1 h2 h3 h4 h5
  unfold decodeLanding
  rw [h0]
  dsimp only [BitVec.reduceToNat]
  simp [decodeSystem, h1, h2, h3, h4, h5]
theorem invalTlbva (a : BitVec 5) : Statement (.invalTlbva a) := of_landing _ _ rfl fun _ => by
  refine (?_ : ∀ w : W32, fld w 26 6 = 63#6 →
      fld w 21 5 = 0#5 →
      fld w 16 5 = a →
      fld w 11 5 = 0#5 →
      fld w 8 3 = 5#3 →
      fld w 0 8 = 1#8 → decodeLanding w = .ok (.invalTlbva a)) _ (fld_w18_26_6 63#6 0#5 a 0#5 5#3 1#8) (fld_w18_21_5 63#6 0#5 a 0#5 5#3 1#8) (fld_w18_16_5 63#6 0#5 a 0#5 5#3 1#8) (fld_w18_11_5 63#6 0#5 a 0#5 5#3 1#8) (fld_w18_8_3 63#6 0#5 a 0#5 5#3 1#8) (fld_w18_0_8 63#6 0#5 a 0#5 5#3 1#8)
  intro w h0 h1 h2 h3 h4 h5
  unfold decodeLanding
  rw [h0]
  dsimp only [BitVec.reduceToNat]
  simp [decodeSystem, h1, h2, h3, h4, h5]
theorem invalIcache : Statement (.invalIcache) := of_landing _ _ rfl fun _ => by
  refine (?_ : ∀ w : W32, fld w 26 6 = 63#6 →
      fld w 21 5 = 0#5 →
      fld w 16 5 = 0#5 →
      fld w 11 5 = 0#5 →
      fld w 8 3 = 5#3 →
      fld w 0 8 = 2#8 → decodeLanding w = .ok (.invalIcache)) _ (fld_w18_26_6 63#6 0#5 0#5 0#5 5#3 2#8) (fld_w18_21_5 63#6 0#5 0#5 0#5 5#3 2#8) (fld_w18_16_5 63#6 0#5 0#5 0#5 5#3 2#8) (fld_w18_11_5 63#6 0#5 0#5 0#5 5#3 2#8) (fld_w18_8_3 63#6 0#5 0#5 0#5 5#3 2#8) (fld_w18_0_8 63#6 0#5 0#5 0#5 5#3 2#8)
  intro w h0 h1 h2 h3 h4 h5
  unfold decodeLanding
  rw [h0]
  dsimp only [BitVec.reduceToNat]
  simp [decodeSystem, h1, h2, h3, h4, h5]
theorem invalIline (a : BitVec 5) : Statement (.invalIline a) := of_landing _ _ rfl fun _ => by
  refine (?_ : ∀ w : W32, fld w 26 6 = 63#6 →
      fld w 21 5 = 0#5 →
      fld w 16 5 = a →
      fld w 11 5 = 0#5 →
      fld w 8 3 = 5#3 →
      fld w 0 8 = 3#8 → decodeLanding w = .ok (.invalIline a)) _ (fld_w18_26_6 63#6 0#5 a 0#5 5#3 3#8) (fld_w18_21_5 63#6 0#5 a 0#5 5#3 3#8) (fld_w18_16_5 63#6 0#5 a 0#5 5#3 3#8) (fld_w18_11_5 63#6 0#5 a 0#5 5#3 3#8) (fld_w18_8_3 63#6 0#5 a 0#5 5#3 3#8) (fld_w18_0_8 63#6 0#5 a 0#5 5#3 3#8)
  intro w h0 h1 h2 h3 h4 h5
  unfold decodeLanding
  rw [h0]
  dsimp only [BitVec.reduceToNat]
  simp [decodeSystem, h1, h2, h3, h4, h5]
theorem wfi : Statement (.wfi) := of_landing _ _ rfl fun _ => by
  refine (?_ : ∀ w : W32, fld w 26 6 = 63#6 →
      fld w 21 5 = 0#5 →
      fld w 16 5 = 0#5 →
      fld w 11 5 = 0#5 →
      fld w 8 3 = 6#3 →
      fld w 0 8 = 0#8 → decodeLanding w = .ok (.wfi)) _ (fld_w18_26_6 63#6 0#5 0#5 0#5 6#3 0#8) (fld_w18_21_5 63#6 0#5 0#5 0#5 6#3 0#8) (fld_w18_16_5 63#6 0#5 0#5 0#5 6#3 0#8) (fld_w18_11_5 63#6 0#5 0#5 0#5 6#3 0#8) (fld_w18_8_3 63#6 0#5 0#5 0#5 6#3 0#8) (fld_w18_0_8 63#6 0#5 0#5 0#5 6#3 0#8)
  intro w h0 h1 h2 h3 h4 h5
  unfold decodeLanding
  rw [h0]
  dsimp only [BitVec.reduceToNat]
  simp [decodeSystem, h1, h2, h3, h4, h5]
theorem bayAddI32 (t : BitVec 6) (u : BitVec 6) (f : BitVec 13) : Statement (.bayAddI32 t u f) := of_bay _ _ rfl rfl fun _ => by
  refine (?_ : ∀ w : W32, fld w 25 7 = 0#7 →
      fld w 19 6 = t →
      fld w 13 6 = u →
      fld w 0 13 = f → decodeBay w = .ok (.bayAddI32 t u f)) _ (fld_w19_25_7 0#7 t u f) (fld_w19_19_6 0#7 t u f) (fld_w19_13_6 0#7 t u f) (fld_w19_0_13 0#7 t u f)
  intro w h0 h1 h2 h3
  unfold decodeBay
  rw [h0]
  subst h1 h2 h3
  rfl
theorem baySubI32 (t : BitVec 6) (u : BitVec 6) (f : BitVec 13) : Statement (.baySubI32 t u f) := of_bay _ _ rfl rfl fun _ => by
  refine (?_ : ∀ w : W32, fld w 25 7 = 1#7 →
      fld w 19 6 = t →
      fld w 13 6 = u →
      fld w 0 13 = f → decodeBay w = .ok (.baySubI32 t u f)) _ (fld_w19_25_7 1#7 t u f) (fld_w19_19_6 1#7 t u f) (fld_w19_13_6 1#7 t u f) (fld_w19_0_13 1#7 t u f)
  intro w h0 h1 h2 h3
  unfold decodeBay
  rw [h0]
  subst h1 h2 h3
  rfl
theorem bayAddsI32 (t : BitVec 6) (u : BitVec 6) (f : BitVec 13) : Statement (.bayAddsI32 t u f) := of_bay _ _ rfl rfl fun _ => by
  refine (?_ : ∀ w : W32, fld w 25 7 = 2#7 →
      fld w 19 6 = t →
      fld w 13 6 = u →
      fld w 0 13 = f → decodeBay w = .ok (.bayAddsI32 t u f)) _ (fld_w19_25_7 2#7 t u f) (fld_w19_19_6 2#7 t u f) (fld_w19_13_6 2#7 t u f) (fld_w19_0_13 2#7 t u f)
  intro w h0 h1 h2 h3
  unfold decodeBay
  rw [h0]
  subst h1 h2 h3
  rfl
theorem baySubsI32 (t : BitVec 6) (u : BitVec 6) (f : BitVec 13) : Statement (.baySubsI32 t u f) := of_bay _ _ rfl rfl fun _ => by
  refine (?_ : ∀ w : W32, fld w 25 7 = 3#7 →
      fld w 19 6 = t →
      fld w 13 6 = u →
      fld w 0 13 = f → decodeBay w = .ok (.baySubsI32 t u f)) _ (fld_w19_25_7 3#7 t u f) (fld_w19_19_6 3#7 t u f) (fld_w19_13_6 3#7 t u f) (fld_w19_0_13 3#7 t u f)
  intro w h0 h1 h2 h3
  unfold decodeBay
  rw [h0]
  subst h1 h2 h3
  rfl
theorem bayAddsN32 (t : BitVec 6) (u : BitVec 6) (f : BitVec 13) : Statement (.bayAddsN32 t u f) := of_bay _ _ rfl rfl fun _ => by
  refine (?_ : ∀ w : W32, fld w 25 7 = 4#7 →
      fld w 19 6 = t →
      fld w 13 6 = u →
      fld w 0 13 = f → decodeBay w = .ok (.bayAddsN32 t u f)) _ (fld_w19_25_7 4#7 t u f) (fld_w19_19_6 4#7 t u f) (fld_w19_13_6 4#7 t u f) (fld_w19_0_13 4#7 t u f)
  intro w h0 h1 h2 h3
  unfold decodeBay
  rw [h0]
  subst h1 h2 h3
  rfl
theorem baySubsN32 (t : BitVec 6) (u : BitVec 6) (f : BitVec 13) : Statement (.baySubsN32 t u f) := of_bay _ _ rfl rfl fun _ => by
  refine (?_ : ∀ w : W32, fld w 25 7 = 5#7 →
      fld w 19 6 = t →
      fld w 13 6 = u →
      fld w 0 13 = f → decodeBay w = .ok (.baySubsN32 t u f)) _ (fld_w19_25_7 5#7 t u f) (fld_w19_19_6 5#7 t u f) (fld_w19_13_6 5#7 t u f) (fld_w19_0_13 5#7 t u f)
  intro w h0 h1 h2 h3
  unfold decodeBay
  rw [h0]
  subst h1 h2 h3
  rfl
theorem bayMulI32 (t : BitVec 6) (u : BitVec 6) (f : BitVec 13) : Statement (.bayMulI32 t u f) := of_bay _ _ rfl rfl fun _ => by
  refine (?_ : ∀ w : W32, fld w 25 7 = 6#7 →
      fld w 19 6 = t →
      fld w 13 6 = u →
      fld w 0 13 = f → decodeBay w = .ok (.bayMulI32 t u f)) _ (fld_w19_25_7 6#7 t u f) (fld_w19_19_6 6#7 t u f) (fld_w19_13_6 6#7 t u f) (fld_w19_0_13 6#7 t u f)
  intro w h0 h1 h2 h3
  unfold decodeBay
  rw [h0]
  subst h1 h2 h3
  rfl
theorem bayMulhI32 (t : BitVec 6) (u : BitVec 6) (f : BitVec 13) : Statement (.bayMulhI32 t u f) := of_bay _ _ rfl rfl fun _ => by
  refine (?_ : ∀ w : W32, fld w 25 7 = 7#7 →
      fld w 19 6 = t →
      fld w 13 6 = u →
      fld w 0 13 = f → decodeBay w = .ok (.bayMulhI32 t u f)) _ (fld_w19_25_7 7#7 t u f) (fld_w19_19_6 7#7 t u f) (fld_w19_13_6 7#7 t u f) (fld_w19_0_13 7#7 t u f)
  intro w h0 h1 h2 h3
  unfold decodeBay
  rw [h0]
  subst h1 h2 h3
  rfl
theorem bayMulhN32 (t : BitVec 6) (u : BitVec 6) (f : BitVec 13) : Statement (.bayMulhN32 t u f) := of_bay _ _ rfl rfl fun _ => by
  refine (?_ : ∀ w : W32, fld w 25 7 = 8#7 →
      fld w 19 6 = t →
      fld w 13 6 = u →
      fld w 0 13 = f → decodeBay w = .ok (.bayMulhN32 t u f)) _ (fld_w19_25_7 8#7 t u f) (fld_w19_19_6 8#7 t u f) (fld_w19_13_6 8#7 t u f) (fld_w19_0_13 8#7 t u f)
  intro w h0 h1 h2 h3
  unfold decodeBay
  rw [h0]
  subst h1 h2 h3
  rfl
theorem bayMinI32 (t : BitVec 6) (u : BitVec 6) (f : BitVec 13) : Statement (.bayMinI32 t u f) := of_bay _ _ rfl rfl fun _ => by
  refine (?_ : ∀ w : W32, fld w 25 7 = 9#7 →
      fld w 19 6 = t →
      fld w 13 6 = u →
      fld w 0 13 = f → decodeBay w = .ok (.bayMinI32 t u f)) _ (fld_w19_25_7 9#7 t u f) (fld_w19_19_6 9#7 t u f) (fld_w19_13_6 9#7 t u f) (fld_w19_0_13 9#7 t u f)
  intro w h0 h1 h2 h3
  unfold decodeBay
  rw [h0]
  subst h1 h2 h3
  rfl
theorem bayMaxI32 (t : BitVec 6) (u : BitVec 6) (f : BitVec 13) : Statement (.bayMaxI32 t u f) := of_bay _ _ rfl rfl fun _ => by
  refine (?_ : ∀ w : W32, fld w 25 7 = 10#7 →
      fld w 19 6 = t →
      fld w 13 6 = u →
      fld w 0 13 = f → decodeBay w = .ok (.bayMaxI32 t u f)) _ (fld_w19_25_7 10#7 t u f) (fld_w19_19_6 10#7 t u f) (fld_w19_13_6 10#7 t u f) (fld_w19_0_13 10#7 t u f)
  intro w h0 h1 h2 h3
  unfold decodeBay
  rw [h0]
  subst h1 h2 h3
  rfl
theorem bayMinN32 (t : BitVec 6) (u : BitVec 6) (f : BitVec 13) : Statement (.bayMinN32 t u f) := of_bay _ _ rfl rfl fun _ => by
  refine (?_ : ∀ w : W32, fld w 25 7 = 11#7 →
      fld w 19 6 = t →
      fld w 13 6 = u →
      fld w 0 13 = f → decodeBay w = .ok (.bayMinN32 t u f)) _ (fld_w19_25_7 11#7 t u f) (fld_w19_19_6 11#7 t u f) (fld_w19_13_6 11#7 t u f) (fld_w19_0_13 11#7 t u f)
  intro w h0 h1 h2 h3
  unfold decodeBay
  rw [h0]
  subst h1 h2 h3
  rfl
theorem bayMaxN32 (t : BitVec 6) (u : BitVec 6) (f : BitVec 13) : Statement (.bayMaxN32 t u f) := of_bay _ _ rfl rfl fun _ => by
  refine (?_ : ∀ w : W32, fld w 25 7 = 12#7 →
      fld w 19 6 = t →
      fld w 13 6 = u →
      fld w 0 13 = f → decodeBay w = .ok (.bayMaxN32 t u f)) _ (fld_w19_25_7 12#7 t u f) (fld_w19_19_6 12#7 t u f) (fld_w19_13_6 12#7 t u f) (fld_w19_0_13 12#7 t u f)
  intro w h0 h1 h2 h3
  unfold decodeBay
  rw [h0]
  subst h1 h2 h3
  rfl
theorem bayAnd (t : BitVec 6) (u : BitVec 6) (f : BitVec 13) : Statement (.bayAnd t u f) := of_bay _ _ rfl rfl fun _ => by
  refine (?_ : ∀ w : W32, fld w 25 7 = 13#7 →
      fld w 19 6 = t →
      fld w 13 6 = u →
      fld w 0 13 = f → decodeBay w = .ok (.bayAnd t u f)) _ (fld_w19_25_7 13#7 t u f) (fld_w19_19_6 13#7 t u f) (fld_w19_13_6 13#7 t u f) (fld_w19_0_13 13#7 t u f)
  intro w h0 h1 h2 h3
  unfold decodeBay
  rw [h0]
  subst h1 h2 h3
  rfl
theorem bayOr (t : BitVec 6) (u : BitVec 6) (f : BitVec 13) : Statement (.bayOr t u f) := of_bay _ _ rfl rfl fun _ => by
  refine (?_ : ∀ w : W32, fld w 25 7 = 14#7 →
      fld w 19 6 = t →
      fld w 13 6 = u →
      fld w 0 13 = f → decodeBay w = .ok (.bayOr t u f)) _ (fld_w19_25_7 14#7 t u f) (fld_w19_19_6 14#7 t u f) (fld_w19_13_6 14#7 t u f) (fld_w19_0_13 14#7 t u f)
  intro w h0 h1 h2 h3
  unfold decodeBay
  rw [h0]
  subst h1 h2 h3
  rfl
theorem bayXor (t : BitVec 6) (u : BitVec 6) (f : BitVec 13) : Statement (.bayXor t u f) := of_bay _ _ rfl rfl fun _ => by
  refine (?_ : ∀ w : W32, fld w 25 7 = 15#7 →
      fld w 19 6 = t →
      fld w 13 6 = u →
      fld w 0 13 = f → decodeBay w = .ok (.bayXor t u f)) _ (fld_w19_25_7 15#7 t u f) (fld_w19_19_6 15#7 t u f) (fld_w19_13_6 15#7 t u f) (fld_w19_0_13 15#7 t u f)
  intro w h0 h1 h2 h3
  unfold decodeBay
  rw [h0]
  subst h1 h2 h3
  rfl
theorem bayShl (t : BitVec 6) (u : BitVec 6) (f : BitVec 13) : Statement (.bayShl t u f) := of_bay _ _ rfl rfl fun _ => by
  refine (?_ : ∀ w : W32, fld w 25 7 = 16#7 →
      fld w 19 6 = t →
      fld w 13 6 = u →
      fld w 0 13 = f → decodeBay w = .ok (.bayShl t u f)) _ (fld_w19_25_7 16#7 t u f) (fld_w19_19_6 16#7 t u f) (fld_w19_13_6 16#7 t u f) (fld_w19_0_13 16#7 t u f)
  intro w h0 h1 h2 h3
  unfold decodeBay
  rw [h0]
  subst h1 h2 h3
  rfl
theorem bayShr (t : BitVec 6) (u : BitVec 6) (f : BitVec 13) : Statement (.bayShr t u f) := of_bay _ _ rfl rfl fun _ => by
  refine (?_ : ∀ w : W32, fld w 25 7 = 17#7 →
      fld w 19 6 = t →
      fld w 13 6 = u →
      fld w 0 13 = f → decodeBay w = .ok (.bayShr t u f)) _ (fld_w19_25_7 17#7 t u f) (fld_w19_19_6 17#7 t u f) (fld_w19_13_6 17#7 t u f) (fld_w19_0_13 17#7 t u f)
  intro w h0 h1 h2 h3
  unfold decodeBay
  rw [h0]
  subst h1 h2 h3
  rfl
theorem baySra (t : BitVec 6) (u : BitVec 6) (f : BitVec 13) : Statement (.baySra t u f) := of_bay _ _ rfl rfl fun _ => by
  refine (?_ : ∀ w : W32, fld w 25 7 = 18#7 →
      fld w 19 6 = t →
      fld w 13 6 = u →
      fld w 0 13 = f → decodeBay w = .ok (.baySra t u f)) _ (fld_w19_25_7 18#7 t u f) (fld_w19_19_6 18#7 t u f) (fld_w19_13_6 18#7 t u f) (fld_w19_0_13 18#7 t u f)
  intro w h0 h1 h2 h3
  unfold decodeBay
  rw [h0]
  subst h1 h2 h3
  rfl
theorem bayCmpI32 (t : BitVec 6) (u : BitVec 6) (f : BitVec 13) : Statement (.bayCmpI32 t u f) := of_bay _ _ rfl rfl fun _ => by
  refine (?_ : ∀ w : W32, fld w 25 7 = 19#7 →
      fld w 19 6 = t →
      fld w 13 6 = u →
      fld w 0 13 = f → decodeBay w = .ok (.bayCmpI32 t u f)) _ (fld_w19_25_7 19#7 t u f) (fld_w19_19_6 19#7 t u f) (fld_w19_13_6 19#7 t u f) (fld_w19_0_13 19#7 t u f)
  intro w h0 h1 h2 h3
  unfold decodeBay
  rw [h0]
  subst h1 h2 h3
  rfl
theorem bayCmpN32 (t : BitVec 6) (u : BitVec 6) (f : BitVec 13) : Statement (.bayCmpN32 t u f) := of_bay _ _ rfl rfl fun _ => by
  refine (?_ : ∀ w : W32, fld w 25 7 = 20#7 →
      fld w 19 6 = t →
      fld w 13 6 = u →
      fld w 0 13 = f → decodeBay w = .ok (.bayCmpN32 t u f)) _ (fld_w19_25_7 20#7 t u f) (fld_w19_19_6 20#7 t u f) (fld_w19_13_6 20#7 t u f) (fld_w19_0_13 20#7 t u f)
  intro w h0 h1 h2 h3
  unfold decodeBay
  rw [h0]
  subst h1 h2 h3
  rfl
theorem bayClz (t : BitVec 6) (u : BitVec 6) (f : BitVec 13) : Statement (.bayClz t u f) := of_bay _ _ rfl rfl fun _ => by
  refine (?_ : ∀ w : W32, fld w 25 7 = 21#7 →
      fld w 19 6 = t →
      fld w 13 6 = u →
      fld w 0 13 = f → decodeBay w = .ok (.bayClz t u f)) _ (fld_w19_25_7 21#7 t u f) (fld_w19_19_6 21#7 t u f) (fld_w19_13_6 21#7 t u f) (fld_w19_0_13 21#7 t u f)
  intro w h0 h1 h2 h3
  unfold decodeBay
  rw [h0]
  subst h1 h2 h3
  rfl
theorem bayPopc (t : BitVec 6) (u : BitVec 6) (f : BitVec 13) : Statement (.bayPopc t u f) := of_bay _ _ rfl rfl fun _ => by
  refine (?_ : ∀ w : W32, fld w 25 7 = 22#7 →
      fld w 19 6 = t →
      fld w 13 6 = u →
      fld w 0 13 = f → decodeBay w = .ok (.bayPopc t u f)) _ (fld_w19_25_7 22#7 t u f) (fld_w19_19_6 22#7 t u f) (fld_w19_13_6 22#7 t u f) (fld_w19_0_13 22#7 t u f)
  intro w h0 h1 h2 h3
  unfold decodeBay
  rw [h0]
  subst h1 h2 h3
  rfl
theorem baySel (t : BitVec 6) (u : BitVec 6) (f : BitVec 13) : Statement (.baySel t u f) := of_bay _ _ rfl rfl fun _ => by
  refine (?_ : ∀ w : W32, fld w 25 7 = 23#7 →
      fld w 19 6 = t →
      fld w 13 6 = u →
      fld w 0 13 = f → decodeBay w = .ok (.baySel t u f)) _ (fld_w19_25_7 23#7 t u f) (fld_w19_19_6 23#7 t u f) (fld_w19_13_6 23#7 t u f) (fld_w19_0_13 23#7 t u f)
  intro w h0 h1 h2 h3
  unfold decodeBay
  rw [h0]
  subst h1 h2 h3
  rfl
theorem bayAddFp32 (t : BitVec 6) (u : BitVec 6) (f : BitVec 13) : Statement (.bayAddFp32 t u f) := of_bay _ _ rfl rfl fun _ => by
  refine (?_ : ∀ w : W32, fld w 25 7 = 24#7 →
      fld w 19 6 = t →
      fld w 13 6 = u →
      fld w 0 13 = f → decodeBay w = .ok (.bayAddFp32 t u f)) _ (fld_w19_25_7 24#7 t u f) (fld_w19_19_6 24#7 t u f) (fld_w19_13_6 24#7 t u f) (fld_w19_0_13 24#7 t u f)
  intro w h0 h1 h2 h3
  unfold decodeBay
  rw [h0]
  subst h1 h2 h3
  rfl
theorem baySubFp32 (t : BitVec 6) (u : BitVec 6) (f : BitVec 13) : Statement (.baySubFp32 t u f) := of_bay _ _ rfl rfl fun _ => by
  refine (?_ : ∀ w : W32, fld w 25 7 = 25#7 →
      fld w 19 6 = t →
      fld w 13 6 = u →
      fld w 0 13 = f → decodeBay w = .ok (.baySubFp32 t u f)) _ (fld_w19_25_7 25#7 t u f) (fld_w19_19_6 25#7 t u f) (fld_w19_13_6 25#7 t u f) (fld_w19_0_13 25#7 t u f)
  intro w h0 h1 h2 h3
  unfold decodeBay
  rw [h0]
  subst h1 h2 h3
  rfl
theorem bayMulFp32 (t : BitVec 6) (u : BitVec 6) (f : BitVec 13) : Statement (.bayMulFp32 t u f) := of_bay _ _ rfl rfl fun _ => by
  refine (?_ : ∀ w : W32, fld w 25 7 = 26#7 →
      fld w 19 6 = t →
      fld w 13 6 = u →
      fld w 0 13 = f → decodeBay w = .ok (.bayMulFp32 t u f)) _ (fld_w19_25_7 26#7 t u f) (fld_w19_19_6 26#7 t u f) (fld_w19_13_6 26#7 t u f) (fld_w19_0_13 26#7 t u f)
  intro w h0 h1 h2 h3
  unfold decodeBay
  rw [h0]
  subst h1 h2 h3
  rfl
theorem bayDivFp32 (t : BitVec 6) (u : BitVec 6) (f : BitVec 13) : Statement (.bayDivFp32 t u f) := of_bay _ _ rfl rfl fun _ => by
  refine (?_ : ∀ w : W32, fld w 25 7 = 27#7 →
      fld w 19 6 = t →
      fld w 13 6 = u →
      fld w 0 13 = f → decodeBay w = .ok (.bayDivFp32 t u f)) _ (fld_w19_25_7 27#7 t u f) (fld_w19_19_6 27#7 t u f) (fld_w19_13_6 27#7 t u f) (fld_w19_0_13 27#7 t u f)
  intro w h0 h1 h2 h3
  unfold decodeBay
  rw [h0]
  subst h1 h2 h3
  rfl
theorem baySqrtFp32 (t : BitVec 6) (u : BitVec 6) (f : BitVec 13) : Statement (.baySqrtFp32 t u f) := of_bay _ _ rfl rfl fun _ => by
  refine (?_ : ∀ w : W32, fld w 25 7 = 28#7 →
      fld w 19 6 = t →
      fld w 13 6 = u →
      fld w 0 13 = f → decodeBay w = .ok (.baySqrtFp32 t u f)) _ (fld_w19_25_7 28#7 t u f) (fld_w19_19_6 28#7 t u f) (fld_w19_13_6 28#7 t u f) (fld_w19_0_13 28#7 t u f)
  intro w h0 h1 h2 h3
  unfold decodeBay
  rw [h0]
  subst h1 h2 h3
  rfl
theorem bayMinFp32 (t : BitVec 6) (u : BitVec 6) (f : BitVec 13) : Statement (.bayMinFp32 t u f) := of_bay _ _ rfl rfl fun _ => by
  refine (?_ : ∀ w : W32, fld w 25 7 = 29#7 →
      fld w 19 6 = t →
      fld w 13 6 = u →
      fld w 0 13 = f → decodeBay w = .ok (.bayMinFp32 t u f)) _ (fld_w19_25_7 29#7 t u f) (fld_w19_19_6 29#7 t u f) (fld_w19_13_6 29#7 t u f) (fld_w19_0_13 29#7 t u f)
  intro w h0 h1 h2 h3
  unfold decodeBay
  rw [h0]
  subst h1 h2 h3
  rfl
theorem bayMaxFp32 (t : BitVec 6) (u : BitVec 6) (f : BitVec 13) : Statement (.bayMaxFp32 t u f) := of_bay _ _ rfl rfl fun _ => by
  refine (?_ : ∀ w : W32, fld w 25 7 = 30#7 →
      fld w 19 6 = t →
      fld w 13 6 = u →
      fld w 0 13 = f → decodeBay w = .ok (.bayMaxFp32 t u f)) _ (fld_w19_25_7 30#7 t u f) (fld_w19_19_6 30#7 t u f) (fld_w19_13_6 30#7 t u f) (fld_w19_0_13 30#7 t u f)
  intro w h0 h1 h2 h3
  unfold decodeBay
  rw [h0]
  subst h1 h2 h3
  rfl
theorem bayCmpFp32 (t : BitVec 6) (u : BitVec 6) (f : BitVec 13) : Statement (.bayCmpFp32 t u f) := of_bay _ _ rfl rfl fun _ => by
  refine (?_ : ∀ w : W32, fld w 25 7 = 31#7 →
      fld w 19 6 = t →
      fld w 13 6 = u →
      fld w 0 13 = f → decodeBay w = .ok (.bayCmpFp32 t u f)) _ (fld_w19_25_7 31#7 t u f) (fld_w19_19_6 31#7 t u f) (fld_w19_13_6 31#7 t u f) (fld_w19_0_13 31#7 t u f)
  intro w h0 h1 h2 h3
  unfold decodeBay
  rw [h0]
  subst h1 h2 h3
  rfl
theorem bayRcpFp32 (t : BitVec 6) (u : BitVec 6) (f : BitVec 13) : Statement (.bayRcpFp32 t u f) := of_bay _ _ rfl rfl fun _ => by
  refine (?_ : ∀ w : W32, fld w 25 7 = 32#7 →
      fld w 19 6 = t →
      fld w 13 6 = u →
      fld w 0 13 = f → decodeBay w = .ok (.bayRcpFp32 t u f)) _ (fld_w19_25_7 32#7 t u f) (fld_w19_19_6 32#7 t u f) (fld_w19_13_6 32#7 t u f) (fld_w19_0_13 32#7 t u f)
  intro w h0 h1 h2 h3
  unfold decodeBay
  rw [h0]
  subst h1 h2 h3
  rfl
theorem bayRsqrtFp32 (t : BitVec 6) (u : BitVec 6) (f : BitVec 13) : Statement (.bayRsqrtFp32 t u f) := of_bay _ _ rfl rfl fun _ => by
  refine (?_ : ∀ w : W32, fld w 25 7 = 33#7 →
      fld w 19 6 = t →
      fld w 13 6 = u →
      fld w 0 13 = f → decodeBay w = .ok (.bayRsqrtFp32 t u f)) _ (fld_w19_25_7 33#7 t u f) (fld_w19_19_6 33#7 t u f) (fld_w19_13_6 33#7 t u f) (fld_w19_0_13 33#7 t u f)
  intro w h0 h1 h2 h3
  unfold decodeBay
  rw [h0]
  subst h1 h2 h3
  rfl
theorem bayExp2Fp32 (t : BitVec 6) (u : BitVec 6) (f : BitVec 13) : Statement (.bayExp2Fp32 t u f) := of_bay _ _ rfl rfl fun _ => by
  refine (?_ : ∀ w : W32, fld w 25 7 = 34#7 →
      fld w 19 6 = t →
      fld w 13 6 = u →
      fld w 0 13 = f → decodeBay w = .ok (.bayExp2Fp32 t u f)) _ (fld_w19_25_7 34#7 t u f) (fld_w19_19_6 34#7 t u f) (fld_w19_13_6 34#7 t u f) (fld_w19_0_13 34#7 t u f)
  intro w h0 h1 h2 h3
  unfold decodeBay
  rw [h0]
  subst h1 h2 h3
  rfl
theorem bayLog2Fp32 (t : BitVec 6) (u : BitVec 6) (f : BitVec 13) : Statement (.bayLog2Fp32 t u f) := of_bay _ _ rfl rfl fun _ => by
  refine (?_ : ∀ w : W32, fld w 25 7 = 35#7 →
      fld w 19 6 = t →
      fld w 13 6 = u →
      fld w 0 13 = f → decodeBay w = .ok (.bayLog2Fp32 t u f)) _ (fld_w19_25_7 35#7 t u f) (fld_w19_19_6 35#7 t u f) (fld_w19_13_6 35#7 t u f) (fld_w19_0_13 35#7 t u f)
  intro w h0 h1 h2 h3
  unfold decodeBay
  rw [h0]
  subst h1 h2 h3
  rfl
theorem bayCvtFp32I32 (t : BitVec 6) (u : BitVec 6) (f : BitVec 13) : Statement (.bayCvtFp32I32 t u f) := of_bay _ _ rfl rfl fun _ => by
  refine (?_ : ∀ w : W32, fld w 25 7 = 36#7 →
      fld w 19 6 = t →
      fld w 13 6 = u →
      fld w 0 13 = f → decodeBay w = .ok (.bayCvtFp32I32 t u f)) _ (fld_w19_25_7 36#7 t u f) (fld_w19_19_6 36#7 t u f) (fld_w19_13_6 36#7 t u f) (fld_w19_0_13 36#7 t u f)
  intro w h0 h1 h2 h3
  unfold decodeBay
  rw [h0]
  subst h1 h2 h3
  rfl
theorem bayCvtI32Fp32 (t : BitVec 6) (u : BitVec 6) (f : BitVec 13) : Statement (.bayCvtI32Fp32 t u f) := of_bay _ _ rfl rfl fun _ => by
  refine (?_ : ∀ w : W32, fld w 25 7 = 37#7 →
      fld w 19 6 = t →
      fld w 13 6 = u →
      fld w 0 13 = f → decodeBay w = .ok (.bayCvtI32Fp32 t u f)) _ (fld_w19_25_7 37#7 t u f) (fld_w19_19_6 37#7 t u f) (fld_w19_13_6 37#7 t u f) (fld_w19_0_13 37#7 t u f)
  intro w h0 h1 h2 h3
  unfold decodeBay
  rw [h0]
  subst h1 h2 h3
  rfl
theorem bayCvtFp32N32 (t : BitVec 6) (u : BitVec 6) (f : BitVec 13) : Statement (.bayCvtFp32N32 t u f) := of_bay _ _ rfl rfl fun _ => by
  refine (?_ : ∀ w : W32, fld w 25 7 = 38#7 →
      fld w 19 6 = t →
      fld w 13 6 = u →
      fld w 0 13 = f → decodeBay w = .ok (.bayCvtFp32N32 t u f)) _ (fld_w19_25_7 38#7 t u f) (fld_w19_19_6 38#7 t u f) (fld_w19_13_6 38#7 t u f) (fld_w19_0_13 38#7 t u f)
  intro w h0 h1 h2 h3
  unfold decodeBay
  rw [h0]
  subst h1 h2 h3
  rfl
theorem bayCvtN32Fp32 (t : BitVec 6) (u : BitVec 6) (f : BitVec 13) : Statement (.bayCvtN32Fp32 t u f) := of_bay _ _ rfl rfl fun _ => by
  refine (?_ : ∀ w : W32, fld w 25 7 = 39#7 →
      fld w 19 6 = t →
      fld w 13 6 = u →
      fld w 0 13 = f → decodeBay w = .ok (.bayCvtN32Fp32 t u f)) _ (fld_w19_25_7 39#7 t u f) (fld_w19_19_6 39#7 t u f) (fld_w19_13_6 39#7 t u f) (fld_w19_0_13 39#7 t u f)
  intro w h0 h1 h2 h3
  unfold decodeBay
  rw [h0]
  subst h1 h2 h3
  rfl
theorem bayCvtBf16Fp32 (t : BitVec 6) (u : BitVec 6) (f : BitVec 13) : Statement (.bayCvtBf16Fp32 t u f) := of_bay _ _ rfl rfl fun _ => by
  refine (?_ : ∀ w : W32, fld w 25 7 = 40#7 →
      fld w 19 6 = t →
      fld w 13 6 = u →
      fld w 0 13 = f → decodeBay w = .ok (.bayCvtBf16Fp32 t u f)) _ (fld_w19_25_7 40#7 t u f) (fld_w19_19_6 40#7 t u f) (fld_w19_13_6 40#7 t u f) (fld_w19_0_13 40#7 t u f)
  intro w h0 h1 h2 h3
  unfold decodeBay
  rw [h0]
  subst h1 h2 h3
  rfl
theorem bayCvtFp16Fp32 (t : BitVec 6) (u : BitVec 6) (f : BitVec 13) : Statement (.bayCvtFp16Fp32 t u f) := of_bay _ _ rfl rfl fun _ => by
  refine (?_ : ∀ w : W32, fld w 25 7 = 41#7 →
      fld w 19 6 = t →
      fld w 13 6 = u →
      fld w 0 13 = f → decodeBay w = .ok (.bayCvtFp16Fp32 t u f)) _ (fld_w19_25_7 41#7 t u f) (fld_w19_19_6 41#7 t u f) (fld_w19_13_6 41#7 t u f) (fld_w19_0_13 41#7 t u f)
  intro w h0 h1 h2 h3
  unfold decodeBay
  rw [h0]
  subst h1 h2 h3
  rfl
theorem bayCvtFp32Bf16 (t : BitVec 6) (u : BitVec 6) (f : BitVec 13) : Statement (.bayCvtFp32Bf16 t u f) := of_bay _ _ rfl rfl fun _ => by
  refine (?_ : ∀ w : W32, fld w 25 7 = 42#7 →
      fld w 19 6 = t →
      fld w 13 6 = u →
      fld w 0 13 = f → decodeBay w = .ok (.bayCvtFp32Bf16 t u f)) _ (fld_w19_25_7 42#7 t u f) (fld_w19_19_6 42#7 t u f) (fld_w19_13_6 42#7 t u f) (fld_w19_0_13 42#7 t u f)
  intro w h0 h1 h2 h3
  unfold decodeBay
  rw [h0]
  subst h1 h2 h3
  rfl
theorem bayCvtFp32Fp16 (t : BitVec 6) (u : BitVec 6) (f : BitVec 13) : Statement (.bayCvtFp32Fp16 t u f) := of_bay _ _ rfl rfl fun _ => by
  refine (?_ : ∀ w : W32, fld w 25 7 = 43#7 →
      fld w 19 6 = t →
      fld w 13 6 = u →
      fld w 0 13 = f → decodeBay w = .ok (.bayCvtFp32Fp16 t u f)) _ (fld_w19_25_7 43#7 t u f) (fld_w19_19_6 43#7 t u f) (fld_w19_13_6 43#7 t u f) (fld_w19_0_13 43#7 t u f)
  intro w h0 h1 h2 h3
  unfold decodeBay
  rw [h0]
  subst h1 h2 h3
  rfl
theorem bayCvtmx (t : BitVec 6) (u : BitVec 6) (f : BitVec 13) : Statement (.bayCvtmx t u f) := of_bay _ _ rfl rfl fun _ => by
  refine (?_ : ∀ w : W32, fld w 25 7 = 44#7 →
      fld w 19 6 = t →
      fld w 13 6 = u →
      fld w 0 13 = f → decodeBay w = .ok (.bayCvtmx t u f)) _ (fld_w19_25_7 44#7 t u f) (fld_w19_19_6 44#7 t u f) (fld_w19_13_6 44#7 t u f) (fld_w19_0_13 44#7 t u f)
  intro w h0 h1 h2 h3
  unfold decodeBay
  rw [h0]
  subst h1 h2 h3
  rfl
theorem bayVshape (t : BitVec 6) (u : BitVec 6) (f : BitVec 13) : Statement (.bayVshape t u f) := of_bay _ _ rfl rfl fun _ => by
  refine (?_ : ∀ w : W32, fld w 25 7 = 45#7 →
      fld w 19 6 = t →
      fld w 13 6 = u →
      fld w 0 13 = f → decodeBay w = .ok (.bayVshape t u f)) _ (fld_w19_25_7 45#7 t u f) (fld_w19_19_6 45#7 t u f) (fld_w19_13_6 45#7 t u f) (fld_w19_0_13 45#7 t u f)
  intro w h0 h1 h2 h3
  unfold decodeBay
  rw [h0]
  subst h1 h2 h3
  rfl
theorem bayVaddI32 (t : BitVec 6) (u : BitVec 6) (f : BitVec 13) : Statement (.bayVaddI32 t u f) := of_bay _ _ rfl rfl fun _ => by
  refine (?_ : ∀ w : W32, fld w 25 7 = 46#7 →
      fld w 19 6 = t →
      fld w 13 6 = u →
      fld w 0 13 = f → decodeBay w = .ok (.bayVaddI32 t u f)) _ (fld_w19_25_7 46#7 t u f) (fld_w19_19_6 46#7 t u f) (fld_w19_13_6 46#7 t u f) (fld_w19_0_13 46#7 t u f)
  intro w h0 h1 h2 h3
  unfold decodeBay
  rw [h0]
  subst h1 h2 h3
  rfl
theorem bayVmulI32 (t : BitVec 6) (u : BitVec 6) (f : BitVec 13) : Statement (.bayVmulI32 t u f) := of_bay _ _ rfl rfl fun _ => by
  refine (?_ : ∀ w : W32, fld w 25 7 = 47#7 →
      fld w 19 6 = t →
      fld w 13 6 = u →
      fld w 0 13 = f → decodeBay w = .ok (.bayVmulI32 t u f)) _ (fld_w19_25_7 47#7 t u f) (fld_w19_19_6 47#7 t u f) (fld_w19_13_6 47#7 t u f) (fld_w19_0_13 47#7 t u f)
  intro w h0 h1 h2 h3
  unfold decodeBay
  rw [h0]
  subst h1 h2 h3
  rfl
theorem bayVaddFp32 (t : BitVec 6) (u : BitVec 6) (f : BitVec 13) : Statement (.bayVaddFp32 t u f) := of_bay _ _ rfl rfl fun _ => by
  refine (?_ : ∀ w : W32, fld w 25 7 = 48#7 →
      fld w 19 6 = t →
      fld w 13 6 = u →
      fld w 0 13 = f → decodeBay w = .ok (.bayVaddFp32 t u f)) _ (fld_w19_25_7 48#7 t u f) (fld_w19_19_6 48#7 t u f) (fld_w19_13_6 48#7 t u f) (fld_w19_0_13 48#7 t u f)
  intro w h0 h1 h2 h3
  unfold decodeBay
  rw [h0]
  subst h1 h2 h3
  rfl
theorem bayVsubFp32 (t : BitVec 6) (u : BitVec 6) (f : BitVec 13) : Statement (.bayVsubFp32 t u f) := of_bay _ _ rfl rfl fun _ => by
  refine (?_ : ∀ w : W32, fld w 25 7 = 49#7 →
      fld w 19 6 = t →
      fld w 13 6 = u →
      fld w 0 13 = f → decodeBay w = .ok (.bayVsubFp32 t u f)) _ (fld_w19_25_7 49#7 t u f) (fld_w19_19_6 49#7 t u f) (fld_w19_13_6 49#7 t u f) (fld_w19_0_13 49#7 t u f)
  intro w h0 h1 h2 h3
  unfold decodeBay
  rw [h0]
  subst h1 h2 h3
  rfl
theorem bayVmulFp32 (t : BitVec 6) (u : BitVec 6) (f : BitVec 13) : Statement (.bayVmulFp32 t u f) := of_bay _ _ rfl rfl fun _ => by
  refine (?_ : ∀ w : W32, fld w 25 7 = 50#7 →
      fld w 19 6 = t →
      fld w 13 6 = u →
      fld w 0 13 = f → decodeBay w = .ok (.bayVmulFp32 t u f)) _ (fld_w19_25_7 50#7 t u f) (fld_w19_19_6 50#7 t u f) (fld_w19_13_6 50#7 t u f) (fld_w19_0_13 50#7 t u f)
  intro w h0 h1 h2 h3
  unfold decodeBay
  rw [h0]
  subst h1 h2 h3
  rfl
theorem bayVminFp32 (t : BitVec 6) (u : BitVec 6) (f : BitVec 13) : Statement (.bayVminFp32 t u f) := of_bay _ _ rfl rfl fun _ => by
  refine (?_ : ∀ w : W32, fld w 25 7 = 51#7 →
      fld w 19 6 = t →
      fld w 13 6 = u →
      fld w 0 13 = f → decodeBay w = .ok (.bayVminFp32 t u f)) _ (fld_w19_25_7 51#7 t u f) (fld_w19_19_6 51#7 t u f) (fld_w19_13_6 51#7 t u f) (fld_w19_0_13 51#7 t u f)
  intro w h0 h1 h2 h3
  unfold decodeBay
  rw [h0]
  subst h1 h2 h3
  rfl
theorem bayVmaxFp32 (t : BitVec 6) (u : BitVec 6) (f : BitVec 13) : Statement (.bayVmaxFp32 t u f) := of_bay _ _ rfl rfl fun _ => by
  refine (?_ : ∀ w : W32, fld w 25 7 = 52#7 →
      fld w 19 6 = t →
      fld w 13 6 = u →
      fld w 0 13 = f → decodeBay w = .ok (.bayVmaxFp32 t u f)) _ (fld_w19_25_7 52#7 t u f) (fld_w19_19_6 52#7 t u f) (fld_w19_13_6 52#7 t u f) (fld_w19_0_13 52#7 t u f)
  intro w h0 h1 h2 h3
  unfold decodeBay
  rw [h0]
  subst h1 h2 h3
  rfl
theorem bayVaddBf16 (t : BitVec 6) (u : BitVec 6) (f : BitVec 13) : Statement (.bayVaddBf16 t u f) := of_bay _ _ rfl rfl fun _ => by
  refine (?_ : ∀ w : W32, fld w 25 7 = 53#7 →
      fld w 19 6 = t →
      fld w 13 6 = u →
      fld w 0 13 = f → decodeBay w = .ok (.bayVaddBf16 t u f)) _ (fld_w19_25_7 53#7 t u f) (fld_w19_19_6 53#7 t u f) (fld_w19_13_6 53#7 t u f) (fld_w19_0_13 53#7 t u f)
  intro w h0 h1 h2 h3
  unfold decodeBay
  rw [h0]
  subst h1 h2 h3
  rfl
theorem bayVmulBf16 (t : BitVec 6) (u : BitVec 6) (f : BitVec 13) : Statement (.bayVmulBf16 t u f) := of_bay _ _ rfl rfl fun _ => by
  refine (?_ : ∀ w : W32, fld w 25 7 = 54#7 →
      fld w 19 6 = t →
      fld w 13 6 = u →
      fld w 0 13 = f → decodeBay w = .ok (.bayVmulBf16 t u f)) _ (fld_w19_25_7 54#7 t u f) (fld_w19_19_6 54#7 t u f) (fld_w19_13_6 54#7 t u f) (fld_w19_0_13 54#7 t u f)
  intro w h0 h1 h2 h3
  unfold decodeBay
  rw [h0]
  subst h1 h2 h3
  rfl
theorem bayVaddFp16 (t : BitVec 6) (u : BitVec 6) (f : BitVec 13) : Statement (.bayVaddFp16 t u f) := of_bay _ _ rfl rfl fun _ => by
  refine (?_ : ∀ w : W32, fld w 25 7 = 55#7 →
      fld w 19 6 = t →
      fld w 13 6 = u →
      fld w 0 13 = f → decodeBay w = .ok (.bayVaddFp16 t u f)) _ (fld_w19_25_7 55#7 t u f) (fld_w19_19_6 55#7 t u f) (fld_w19_13_6 55#7 t u f) (fld_w19_0_13 55#7 t u f)
  intro w h0 h1 h2 h3
  unfold decodeBay
  rw [h0]
  subst h1 h2 h3
  rfl
theorem bayVmulFp16 (t : BitVec 6) (u : BitVec 6) (f : BitVec 13) : Statement (.bayVmulFp16 t u f) := of_bay _ _ rfl rfl fun _ => by
  refine (?_ : ∀ w : W32, fld w 25 7 = 56#7 →
      fld w 19 6 = t →
      fld w 13 6 = u →
      fld w 0 13 = f → decodeBay w = .ok (.bayVmulFp16 t u f)) _ (fld_w19_25_7 56#7 t u f) (fld_w19_19_6 56#7 t u f) (fld_w19_13_6 56#7 t u f) (fld_w19_0_13 56#7 t u f)
  intro w h0 h1 h2 h3
  unfold decodeBay
  rw [h0]
  subst h1 h2 h3
  rfl
theorem bayVaddI8 (t : BitVec 6) (u : BitVec 6) (f : BitVec 13) : Statement (.bayVaddI8 t u f) := of_bay _ _ rfl rfl fun _ => by
  refine (?_ : ∀ w : W32, fld w 25 7 = 57#7 →
      fld w 19 6 = t →
      fld w 13 6 = u →
      fld w 0 13 = f → decodeBay w = .ok (.bayVaddI8 t u f)) _ (fld_w19_25_7 57#7 t u f) (fld_w19_19_6 57#7 t u f) (fld_w19_13_6 57#7 t u f) (fld_w19_0_13 57#7 t u f)
  intro w h0 h1 h2 h3
  unfold decodeBay
  rw [h0]
  subst h1 h2 h3
  rfl
theorem bayVaddI16 (t : BitVec 6) (u : BitVec 6) (f : BitVec 13) : Statement (.bayVaddI16 t u f) := of_bay _ _ rfl rfl fun _ => by
  refine (?_ : ∀ w : W32, fld w 25 7 = 58#7 →
      fld w 19 6 = t →
      fld w 13 6 = u →
      fld w 0 13 = f → decodeBay w = .ok (.bayVaddI16 t u f)) _ (fld_w19_25_7 58#7 t u f) (fld_w19_19_6 58#7 t u f) (fld_w19_13_6 58#7 t u f) (fld_w19_0_13 58#7 t u f)
  intro w h0 h1 h2 h3
  unfold decodeBay
  rw [h0]
  subst h1 h2 h3
  rfl
theorem bayVcmpFp32 (t : BitVec 6) (u : BitVec 6) (f : BitVec 13) : Statement (.bayVcmpFp32 t u f) := of_bay _ _ rfl rfl fun _ => by
  refine (?_ : ∀ w : W32, fld w 25 7 = 59#7 →
      fld w 19 6 = t →
      fld w 13 6 = u →
      fld w 0 13 = f → decodeBay w = .ok (.bayVcmpFp32 t u f)) _ (fld_w19_25_7 59#7 t u f) (fld_w19_19_6 59#7 t u f) (fld_w19_13_6 59#7 t u f) (fld_w19_0_13 59#7 t u f)
  intro w h0 h1 h2 h3
  unfold decodeBay
  rw [h0]
  subst h1 h2 h3
  rfl
theorem bayVsel (t : BitVec 6) (u : BitVec 6) (f : BitVec 13) : Statement (.bayVsel t u f) := of_bay _ _ rfl rfl fun _ => by
  refine (?_ : ∀ w : W32, fld w 25 7 = 60#7 →
      fld w 19 6 = t →
      fld w 13 6 = u →
      fld w 0 13 = f → decodeBay w = .ok (.bayVsel t u f)) _ (fld_w19_25_7 60#7 t u f) (fld_w19_19_6 60#7 t u f) (fld_w19_13_6 60#7 t u f) (fld_w19_0_13 60#7 t u f)
  intro w h0 h1 h2 h3
  unfold decodeBay
  rw [h0]
  subst h1 h2 h3
  rfl
theorem bayVbcast (t : BitVec 6) (u : BitVec 6) (f : BitVec 13) : Statement (.bayVbcast t u f) := of_bay _ _ rfl rfl fun _ => by
  refine (?_ : ∀ w : W32, fld w 25 7 = 61#7 →
      fld w 19 6 = t →
      fld w 13 6 = u →
      fld w 0 13 = f → decodeBay w = .ok (.bayVbcast t u f)) _ (fld_w19_25_7 61#7 t u f) (fld_w19_19_6 61#7 t u f) (fld_w19_13_6 61#7 t u f) (fld_w19_0_13 61#7 t u f)
  intro w h0 h1 h2 h3
  unfold decodeBay
  rw [h0]
  subst h1 h2 h3
  rfl
theorem bayVext (t : BitVec 6) (u : BitVec 6) (f : BitVec 13) : Statement (.bayVext t u f) := of_bay _ _ rfl rfl fun _ => by
  refine (?_ : ∀ w : W32, fld w 25 7 = 62#7 →
      fld w 19 6 = t →
      fld w 13 6 = u →
      fld w 0 13 = f → decodeBay w = .ok (.bayVext t u f)) _ (fld_w19_25_7 62#7 t u f) (fld_w19_19_6 62#7 t u f) (fld_w19_13_6 62#7 t u f) (fld_w19_0_13 62#7 t u f)
  intro w h0 h1 h2 h3
  unfold decodeBay
  rw [h0]
  subst h1 h2 h3
  rfl
theorem bayVins (t : BitVec 6) (u : BitVec 6) (f : BitVec 13) : Statement (.bayVins t u f) := of_bay _ _ rfl rfl fun _ => by
  refine (?_ : ∀ w : W32, fld w 25 7 = 63#7 →
      fld w 19 6 = t →
      fld w 13 6 = u →
      fld w 0 13 = f → decodeBay w = .ok (.bayVins t u f)) _ (fld_w19_25_7 63#7 t u f) (fld_w19_19_6 63#7 t u f) (fld_w19_13_6 63#7 t u f) (fld_w19_0_13 63#7 t u f)
  intro w h0 h1 h2 h3
  unfold decodeBay
  rw [h0]
  subst h1 h2 h3
  rfl
theorem bayVperm (t : BitVec 6) (u : BitVec 6) (f : BitVec 13) : Statement (.bayVperm t u f) := of_bay _ _ rfl rfl fun _ => by
  refine (?_ : ∀ w : W32, fld w 25 7 = 64#7 →
      fld w 19 6 = t →
      fld w 13 6 = u →
      fld w 0 13 = f → decodeBay w = .ok (.bayVperm t u f)) _ (fld_w19_25_7 64#7 t u f) (fld_w19_19_6 64#7 t u f) (fld_w19_13_6 64#7 t u f) (fld_w19_0_13 64#7 t u f)
  intro w h0 h1 h2 h3
  unfold decodeBay
  rw [h0]
  subst h1 h2 h3
  rfl
theorem bayVcvt (t : BitVec 6) (u : BitVec 6) (f : BitVec 13) : Statement (.bayVcvt t u f) := of_bay _ _ rfl rfl fun _ => by
  refine (?_ : ∀ w : W32, fld w 25 7 = 65#7 →
      fld w 19 6 = t →
      fld w 13 6 = u →
      fld w 0 13 = f → decodeBay w = .ok (.bayVcvt t u f)) _ (fld_w19_25_7 65#7 t u f) (fld_w19_19_6 65#7 t u f) (fld_w19_13_6 65#7 t u f) (fld_w19_0_13 65#7 t u f)
  intro w h0 h1 h2 h3
  unfold decodeBay
  rw [h0]
  subst h1 h2 h3
  rfl
theorem bayVput (t : BitVec 6) (u : BitVec 6) (f : BitVec 13) : Statement (.bayVput t u f) := of_bay _ _ rfl rfl fun _ => by
  refine (?_ : ∀ w : W32, fld w 25 7 = 66#7 →
      fld w 19 6 = t →
      fld w 13 6 = u →
      fld w 0 13 = f → decodeBay w = .ok (.bayVput t u f)) _ (fld_w19_25_7 66#7 t u f) (fld_w19_19_6 66#7 t u f) (fld_w19_13_6 66#7 t u f) (fld_w19_0_13 66#7 t u f)
  intro w h0 h1 h2 h3
  unfold decodeBay
  rw [h0]
  subst h1 h2 h3
  rfl
theorem bayVget (t : BitVec 6) (u : BitVec 6) (f : BitVec 13) : Statement (.bayVget t u f) := of_bay _ _ rfl rfl fun _ => by
  refine (?_ : ∀ w : W32, fld w 25 7 = 67#7 →
      fld w 19 6 = t →
      fld w 13 6 = u →
      fld w 0 13 = f → decodeBay w = .ok (.bayVget t u f)) _ (fld_w19_25_7 67#7 t u f) (fld_w19_19_6 67#7 t u f) (fld_w19_13_6 67#7 t u f) (fld_w19_0_13 67#7 t u f)
  intro w h0 h1 h2 h3
  unfold decodeBay
  rw [h0]
  subst h1 h2 h3
  rfl
theorem bayDot (t : BitVec 6) (u : BitVec 6) (f : BitVec 13) : Statement (.bayDot t u f) := of_bay _ _ rfl rfl fun _ => by
  refine (?_ : ∀ w : W32, fld w 25 7 = 68#7 →
      fld w 19 6 = t →
      fld w 13 6 = u →
      fld w 0 13 = f → decodeBay w = .ok (.bayDot t u f)) _ (fld_w19_25_7 68#7 t u f) (fld_w19_19_6 68#7 t u f) (fld_w19_13_6 68#7 t u f) (fld_w19_0_13 68#7 t u f)
  intro w h0 h1 h2 h3
  unfold decodeBay
  rw [h0]
  subst h1 h2 h3
  rfl
theorem bayDots (t : BitVec 6) (u : BitVec 6) (f : BitVec 13) : Statement (.bayDots t u f) := of_bay _ _ rfl rfl fun _ => by
  refine (?_ : ∀ w : W32, fld w 25 7 = 69#7 →
      fld w 19 6 = t →
      fld w 13 6 = u →
      fld w 0 13 = f → decodeBay w = .ok (.bayDots t u f)) _ (fld_w19_25_7 69#7 t u f) (fld_w19_19_6 69#7 t u f) (fld_w19_13_6 69#7 t u f) (fld_w19_0_13 69#7 t u f)
  intro w h0 h1 h2 h3
  unfold decodeBay
  rw [h0]
  subst h1 h2 h3
  rfl
theorem bayLacc (t : BitVec 6) (u : BitVec 6) (f : BitVec 13) : Statement (.bayLacc t u f) := of_bay _ _ rfl rfl fun _ => by
  refine (?_ : ∀ w : W32, fld w 25 7 = 70#7 →
      fld w 19 6 = t →
      fld w 13 6 = u →
      fld w 0 13 = f → decodeBay w = .ok (.bayLacc t u f)) _ (fld_w19_25_7 70#7 t u f) (fld_w19_19_6 70#7 t u f) (fld_w19_13_6 70#7 t u f) (fld_w19_0_13 70#7 t u f)
  intro w h0 h1 h2 h3
  unfold decodeBay
  rw [h0]
  subst h1 h2 h3
  rfl
theorem bayLvacc (t : BitVec 6) (u : BitVec 6) (f : BitVec 13) : Statement (.bayLvacc t u f) := of_bay _ _ rfl rfl fun _ => by
  refine (?_ : ∀ w : W32, fld w 25 7 = 71#7 →
      fld w 19 6 = t →
      fld w 13 6 = u →
      fld w 0 13 = f → decodeBay w = .ok (.bayLvacc t u f)) _ (fld_w19_25_7 71#7 t u f) (fld_w19_19_6 71#7 t u f) (fld_w19_13_6 71#7 t u f) (fld_w19_0_13 71#7 t u f)
  intro w h0 h1 h2 h3
  unfold decodeBay
  rw [h0]
  subst h1 h2 h3
  rfl
theorem bayLanchor (t : BitVec 6) (u : BitVec 6) (f : BitVec 13) : Statement (.bayLanchor t u f) := of_bay _ _ rfl rfl fun _ => by
  refine (?_ : ∀ w : W32, fld w 25 7 = 72#7 →
      fld w 19 6 = t →
      fld w 13 6 = u →
      fld w 0 13 = f → decodeBay w = .ok (.bayLanchor t u f)) _ (fld_w19_25_7 72#7 t u f) (fld_w19_19_6 72#7 t u f) (fld_w19_13_6 72#7 t u f) (fld_w19_0_13 72#7 t u f)
  intro w h0 h1 h2 h3
  unfold decodeBay
  rw [h0]
  subst h1 h2 h3
  rfl
theorem bayLclr (t : BitVec 6) (u : BitVec 6) (f : BitVec 13) : Statement (.bayLclr t u f) := of_bay _ _ rfl rfl fun _ => by
  refine (?_ : ∀ w : W32, fld w 25 7 = 73#7 →
      fld w 19 6 = t →
      fld w 13 6 = u →
      fld w 0 13 = f → decodeBay w = .ok (.bayLclr t u f)) _ (fld_w19_25_7 73#7 t u f) (fld_w19_19_6 73#7 t u f) (fld_w19_13_6 73#7 t u f) (fld_w19_0_13 73#7 t u f)
  intro w h0 h1 h2 h3
  unfold decodeBay
  rw [h0]
  subst h1 h2 h3
  rfl
theorem bayLread (t : BitVec 6) (u : BitVec 6) (f : BitVec 13) : Statement (.bayLread t u f) := of_bay _ _ rfl rfl fun _ => by
  refine (?_ : ∀ w : W32, fld w 25 7 = 74#7 →
      fld w 19 6 = t →
      fld w 13 6 = u →
      fld w 0 13 = f → decodeBay w = .ok (.bayLread t u f)) _ (fld_w19_25_7 74#7 t u f) (fld_w19_19_6 74#7 t u f) (fld_w19_13_6 74#7 t u f) (fld_w19_0_13 74#7 t u f)
  intro w h0 h1 h2 h3
  unfold decodeBay
  rw [h0]
  subst h1 h2 h3
  rfl
theorem bayLraw (t : BitVec 6) (u : BitVec 6) (f : BitVec 13) : Statement (.bayLraw t u f) := of_bay _ _ rfl rfl fun _ => by
  refine (?_ : ∀ w : W32, fld w 25 7 = 75#7 →
      fld w 19 6 = t →
      fld w 13 6 = u →
      fld w 0 13 = f → decodeBay w = .ok (.bayLraw t u f)) _ (fld_w19_25_7 75#7 t u f) (fld_w19_19_6 75#7 t u f) (fld_w19_13_6 75#7 t u f) (fld_w19_0_13 75#7 t u f)
  intro w h0 h1 h2 h3
  unfold decodeBay
  rw [h0]
  subst h1 h2 h3
  rfl
theorem bayLd (t : BitVec 6) (u : BitVec 6) (f : BitVec 13) : Statement (.bayLd t u f) := of_bay _ _ rfl rfl fun _ => by
  refine (?_ : ∀ w : W32, fld w 25 7 = 76#7 →
      fld w 19 6 = t →
      fld w 13 6 = u →
      fld w 0 13 = f → decodeBay w = .ok (.bayLd t u f)) _ (fld_w19_25_7 76#7 t u f) (fld_w19_19_6 76#7 t u f) (fld_w19_13_6 76#7 t u f) (fld_w19_0_13 76#7 t u f)
  intro w h0 h1 h2 h3
  unfold decodeBay
  rw [h0]
  subst h1 h2 h3
  rfl
theorem baySt (t : BitVec 6) (u : BitVec 6) (f : BitVec 13) : Statement (.baySt t u f) := of_bay _ _ rfl rfl fun _ => by
  refine (?_ : ∀ w : W32, fld w 25 7 = 77#7 →
      fld w 19 6 = t →
      fld w 13 6 = u →
      fld w 0 13 = f → decodeBay w = .ok (.baySt t u f)) _ (fld_w19_25_7 77#7 t u f) (fld_w19_19_6 77#7 t u f) (fld_w19_13_6 77#7 t u f) (fld_w19_0_13 77#7 t u f)
  intro w h0 h1 h2 h3
  unfold decodeBay
  rw [h0]
  subst h1 h2 h3
  rfl
theorem bayLdSync (t : BitVec 6) (u : BitVec 6) (f : BitVec 13) : Statement (.bayLdSync t u f) := of_bay _ _ rfl rfl fun _ => by
  refine (?_ : ∀ w : W32, fld w 25 7 = 78#7 →
      fld w 19 6 = t →
      fld w 13 6 = u →
      fld w 0 13 = f → decodeBay w = .ok (.bayLdSync t u f)) _ (fld_w19_25_7 78#7 t u f) (fld_w19_19_6 78#7 t u f) (fld_w19_13_6 78#7 t u f) (fld_w19_0_13 78#7 t u f)
  intro w h0 h1 h2 h3
  unfold decodeBay
  rw [h0]
  subst h1 h2 h3
  rfl
theorem bayVld (t : BitVec 6) (u : BitVec 6) (f : BitVec 13) : Statement (.bayVld t u f) := of_bay _ _ rfl rfl fun _ => by
  refine (?_ : ∀ w : W32, fld w 25 7 = 79#7 →
      fld w 19 6 = t →
      fld w 13 6 = u →
      fld w 0 13 = f → decodeBay w = .ok (.bayVld t u f)) _ (fld_w19_25_7 79#7 t u f) (fld_w19_19_6 79#7 t u f) (fld_w19_13_6 79#7 t u f) (fld_w19_0_13 79#7 t u f)
  intro w h0 h1 h2 h3
  unfold decodeBay
  rw [h0]
  subst h1 h2 h3
  rfl
theorem bayVst (t : BitVec 6) (u : BitVec 6) (f : BitVec 13) : Statement (.bayVst t u f) := of_bay _ _ rfl rfl fun _ => by
  refine (?_ : ∀ w : W32, fld w 25 7 = 80#7 →
      fld w 19 6 = t →
      fld w 13 6 = u →
      fld w 0 13 = f → decodeBay w = .ok (.bayVst t u f)) _ (fld_w19_25_7 80#7 t u f) (fld_w19_19_6 80#7 t u f) (fld_w19_13_6 80#7 t u f) (fld_w19_0_13 80#7 t u f)
  intro w h0 h1 h2 h3
  unfold decodeBay
  rw [h0]
  subst h1 h2 h3
  rfl
theorem bayVgather (t : BitVec 6) (u : BitVec 6) (f : BitVec 13) : Statement (.bayVgather t u f) := of_bay _ _ rfl rfl fun _ => by
  refine (?_ : ∀ w : W32, fld w 25 7 = 81#7 →
      fld w 19 6 = t →
      fld w 13 6 = u →
      fld w 0 13 = f → decodeBay w = .ok (.bayVgather t u f)) _ (fld_w19_25_7 81#7 t u f) (fld_w19_19_6 81#7 t u f) (fld_w19_13_6 81#7 t u f) (fld_w19_0_13 81#7 t u f)
  intro w h0 h1 h2 h3
  unfold decodeBay
  rw [h0]
  subst h1 h2 h3
  rfl
theorem bayAmo (t : BitVec 6) (u : BitVec 6) (f : BitVec 13) : Statement (.bayAmo t u f) := of_bay _ _ rfl rfl fun _ => by
  refine (?_ : ∀ w : W32, fld w 25 7 = 82#7 →
      fld w 19 6 = t →
      fld w 13 6 = u →
      fld w 0 13 = f → decodeBay w = .ok (.bayAmo t u f)) _ (fld_w19_25_7 82#7 t u f) (fld_w19_19_6 82#7 t u f) (fld_w19_13_6 82#7 t u f) (fld_w19_0_13 82#7 t u f)
  intro w h0 h1 h2 h3
  unfold decodeBay
  rw [h0]
  subst h1 h2 h3
  rfl
theorem bayLut (t : BitVec 6) (u : BitVec 6) (f : BitVec 13) : Statement (.bayLut t u f) := of_bay _ _ rfl rfl fun _ => by
  refine (?_ : ∀ w : W32, fld w 25 7 = 83#7 →
      fld w 19 6 = t →
      fld w 13 6 = u →
      fld w 0 13 = f → decodeBay w = .ok (.bayLut t u f)) _ (fld_w19_25_7 83#7 t u f) (fld_w19_19_6 83#7 t u f) (fld_w19_13_6 83#7 t u f) (fld_w19_0_13 83#7 t u f)
  intro w h0 h1 h2 h3
  unfold decodeBay
  rw [h0]
  subst h1 h2 h3
  rfl
theorem bayLutst (t : BitVec 6) (u : BitVec 6) (f : BitVec 13) : Statement (.bayLutst t u f) := of_bay _ _ rfl rfl fun _ => by
  refine (?_ : ∀ w : W32, fld w 25 7 = 84#7 →
      fld w 19 6 = t →
      fld w 13 6 = u →
      fld w 0 13 = f → decodeBay w = .ok (.bayLutst t u f)) _ (fld_w19_25_7 84#7 t u f) (fld_w19_19_6 84#7 t u f) (fld_w19_13_6 84#7 t u f) (fld_w19_0_13 84#7 t u f)
  intro w h0 h1 h2 h3
  unfold decodeBay
  rw [h0]
  subst h1 h2 h3
  rfl
theorem bayLutrd (t : BitVec 6) (u : BitVec 6) (f : BitVec 13) : Statement (.bayLutrd t u f) := of_bay _ _ rfl rfl fun _ => by
  refine (?_ : ∀ w : W32, fld w 25 7 = 85#7 →
      fld w 19 6 = t →
      fld w 13 6 = u →
      fld w 0 13 = f → decodeBay w = .ok (.bayLutrd t u f)) _ (fld_w19_25_7 85#7 t u f) (fld_w19_19_6 85#7 t u f) (fld_w19_13_6 85#7 t u f) (fld_w19_0_13 85#7 t u f)
  intro w h0 h1 h2 h3
  unfold decodeBay
  rw [h0]
  subst h1 h2 h3
  rfl
theorem baySteer (t : BitVec 6) (u : BitVec 6) (f : BitVec 13) : Statement (.baySteer t u f) := of_bay _ _ rfl rfl fun _ => by
  refine (?_ : ∀ w : W32, fld w 25 7 = 86#7 →
      fld w 19 6 = t →
      fld w 13 6 = u →
      fld w 0 13 = f → decodeBay w = .ok (.baySteer t u f)) _ (fld_w19_25_7 86#7 t u f) (fld_w19_19_6 86#7 t u f) (fld_w19_13_6 86#7 t u f) (fld_w19_0_13 86#7 t u f)
  intro w h0 h1 h2 h3
  unfold decodeBay
  rw [h0]
  subst h1 h2 h3
  rfl
theorem bayMerge (t : BitVec 6) (u : BitVec 6) (f : BitVec 13) : Statement (.bayMerge t u f) := of_bay _ _ rfl rfl fun _ => by
  refine (?_ : ∀ w : W32, fld w 25 7 = 87#7 →
      fld w 19 6 = t →
      fld w 13 6 = u →
      fld w 0 13 = f → decodeBay w = .ok (.bayMerge t u f)) _ (fld_w19_25_7 87#7 t u f) (fld_w19_19_6 87#7 t u f) (fld_w19_13_6 87#7 t u f) (fld_w19_0_13 87#7 t u f)
  intro w h0 h1 h2 h3
  unfold decodeBay
  rw [h0]
  subst h1 h2 h3
  rfl
theorem bayLoop (t : BitVec 6) (u : BitVec 6) (f : BitVec 13) : Statement (.bayLoop t u f) := of_bay _ _ rfl rfl fun _ => by
  refine (?_ : ∀ w : W32, fld w 25 7 = 88#7 →
      fld w 19 6 = t →
      fld w 13 6 = u →
      fld w 0 13 = f → decodeBay w = .ok (.bayLoop t u f)) _ (fld_w19_25_7 88#7 t u f) (fld_w19_19_6 88#7 t u f) (fld_w19_13_6 88#7 t u f) (fld_w19_0_13 88#7 t u f)
  intro w h0 h1 h2 h3
  unfold decodeBay
  rw [h0]
  subst h1 h2 h3
  rfl
theorem bayLoopt (t : BitVec 6) (u : BitVec 6) (f : BitVec 13) : Statement (.bayLoopt t u f) := of_bay _ _ rfl rfl fun _ => by
  refine (?_ : ∀ w : W32, fld w 25 7 = 89#7 →
      fld w 19 6 = t →
      fld w 13 6 = u →
      fld w 0 13 = f → decodeBay w = .ok (.bayLoopt t u f)) _ (fld_w19_25_7 89#7 t u f) (fld_w19_19_6 89#7 t u f) (fld_w19_13_6 89#7 t u f) (fld_w19_0_13 89#7 t u f)
  intro w h0 h1 h2 h3
  unfold decodeBay
  rw [h0]
  subst h1 h2 h3
  rfl
theorem baySend (x : BitVec 8) : Statement (.baySend x) := of_bay _ _ rfl rfl fun _ => by
  refine (?_ : ∀ w : W32, fld w 25 7 = 90#7 →
      fld w 19 6 = 48#6 →
      fld w 13 6 = 48#6 →
      fld w 11 2 = 0#2 →
      fld w 3 8 = x →
      fld w 0 3 = 0#3 → decodeBay w = .ok (.baySend x)) _ (fld_w20_25_7 90#7 48#6 48#6 0#2 x 0#3) (fld_w20_19_6 90#7 48#6 48#6 0#2 x 0#3) (fld_w20_13_6 90#7 48#6 48#6 0#2 x 0#3) (fld_w20_11_2 90#7 48#6 48#6 0#2 x 0#3) (fld_w20_3_8 90#7 48#6 48#6 0#2 x 0#3) (fld_w20_0_3 90#7 48#6 48#6 0#2 x 0#3)
  intro w h0 h1 h2 h3 h4 h5
  unfold decodeBay
  rw [h0]
  dsimp only [BitVec.reduceToNat]
  simp [h1, h2, h3, h4, h5]
theorem bayRecv (t : BitVec 6) (u : BitVec 6) (f : BitVec 13) : Statement (.bayRecv t u f) := of_bay _ _ rfl rfl fun _ => by
  refine (?_ : ∀ w : W32, fld w 25 7 = 91#7 →
      fld w 19 6 = t →
      fld w 13 6 = u →
      fld w 0 13 = f → decodeBay w = .ok (.bayRecv t u f)) _ (fld_w19_25_7 91#7 t u f) (fld_w19_19_6 91#7 t u f) (fld_w19_13_6 91#7 t u f) (fld_w19_0_13 91#7 t u f)
  intro w h0 h1 h2 h3
  unfold decodeBay
  rw [h0]
  subst h1 h2 h3
  rfl
theorem bayBr (x : BitVec 8) : Statement (.bayBr x) := of_bay _ _ rfl rfl fun _ => by
  refine (?_ : ∀ w : W32, fld w 25 7 = 92#7 →
      fld w 19 6 = 48#6 →
      fld w 13 6 = 48#6 →
      fld w 11 2 = 0#2 →
      fld w 3 8 = x →
      fld w 0 3 = 0#3 → decodeBay w = .ok (.bayBr x)) _ (fld_w20_25_7 92#7 48#6 48#6 0#2 x 0#3) (fld_w20_19_6 92#7 48#6 48#6 0#2 x 0#3) (fld_w20_13_6 92#7 48#6 48#6 0#2 x 0#3) (fld_w20_11_2 92#7 48#6 48#6 0#2 x 0#3) (fld_w20_3_8 92#7 48#6 48#6 0#2 x 0#3) (fld_w20_0_3 92#7 48#6 48#6 0#2 x 0#3)
  intro w h0 h1 h2 h3 h4 h5
  unfold decodeBay
  rw [h0]
  dsimp only [BitVec.reduceToNat]
  simp [h1, h2, h3, h4, h5]
theorem bayLaunch (t : BitVec 6) (u : BitVec 6) (f : BitVec 13) : Statement (.bayLaunch t u f) := of_bay _ _ rfl rfl fun _ => by
  refine (?_ : ∀ w : W32, fld w 25 7 = 93#7 →
      fld w 19 6 = t →
      fld w 13 6 = u →
      fld w 0 13 = f → decodeBay w = .ok (.bayLaunch t u f)) _ (fld_w19_25_7 93#7 t u f) (fld_w19_19_6 93#7 t u f) (fld_w19_13_6 93#7 t u f) (fld_w19_0_13 93#7 t u f)
  intro w h0 h1 h2 h3
  unfold decodeBay
  rw [h0]
  subst h1 h2 h3
  rfl
theorem bayIspois (t : BitVec 6) (u : BitVec 6) (f : BitVec 13) : Statement (.bayIspois t u f) := of_bay _ _ rfl rfl fun _ => by
  refine (?_ : ∀ w : W32, fld w 25 7 = 94#7 →
      fld w 19 6 = t →
      fld w 13 6 = u →
      fld w 0 13 = f → decodeBay w = .ok (.bayIspois t u f)) _ (fld_w19_25_7 94#7 t u f) (fld_w19_19_6 94#7 t u f) (fld_w19_13_6 94#7 t u f) (fld_w19_0_13 94#7 t u f)
  intro w h0 h1 h2 h3
  unfold decodeBay
  rw [h0]
  subst h1 h2 h3
  rfl
theorem bind (port : BitVec 6) (ctx : BitVec 2) (cls : BitVec 8) (flags : BitVec 8) (imm : BitVec 32) (addr : BitVec 64) : Statement (.bind port ctx cls flags imm addr) := of_command _ _ rfl rfl rfl fun h => by
  simp [wellFormed] at h
  refine (?_ : ∀ w : BitVec 128, fld w 120 8 = 1#8 →
      fld w 114 6 = port →
      fld w 112 2 = ctx →
      fld w 104 8 = cls →
      fld w 96 8 = flags →
      fld w 96 1 = fld flags 0 1 →
      fld w 95 1 = fld imm 31 1 →
      fld w 64 32 = imm →
      fld w 0 64 = addr → decodeCommand w = .ok (.bind port ctx cls flags imm addr)) _ (fld_w21_120_8 1#8 port ctx cls flags imm addr) (fld_w21_114_6 1#8 port ctx cls flags imm addr) (fld_w21_112_2 1#8 port ctx cls flags imm addr) (fld_w21_104_8 1#8 port ctx cls flags imm addr) (fld_w21_96_8 1#8 port ctx cls flags imm addr) (fld_w21_96_1 1#8 port ctx cls flags imm addr) (fld_w21_95_1 1#8 port ctx cls flags imm addr) (fld_w21_64_32 1#8 port ctx cls flags imm addr) (fld_w21_0_64 1#8 port ctx cls flags imm addr)
  intro w h0 h1 h2 h3 h4 h5 h6 h7 h8
  unfold decodeCommand
  rw [h0]
  dsimp only [BitVec.reduceToNat]
  simp [h1, h2, h3, h4, h5, h6, h7, h8, fld_bit, h]
theorem bindResume (port : BitVec 6) (ctx : BitVec 2) (cls : BitVec 8) (flags : BitVec 8) (imm : BitVec 32) (addr : BitVec 64) : Statement (.bindResume port ctx cls flags imm addr) := of_command _ _ rfl rfl rfl fun h => by
  simp [wellFormed] at h
  refine (?_ : ∀ w : BitVec 128, fld w 120 8 = 1#8 →
      fld w 114 6 = port →
      fld w 112 2 = ctx →
      fld w 104 8 = cls →
      fld w 96 8 = flags →
      fld w 96 1 = fld flags 0 1 →
      fld w 95 1 = fld imm 31 1 →
      fld w 94 1 = fld imm 30 1 →
      fld w 93 1 = fld imm 29 1 →
      fld w 64 32 = imm →
      fld w 0 64 = addr → decodeCommand w = .ok (.bindResume port ctx cls flags imm addr)) _ (fld_w21_120_8 1#8 port ctx cls flags imm addr) (fld_w21_114_6 1#8 port ctx cls flags imm addr) (fld_w21_112_2 1#8 port ctx cls flags imm addr) (fld_w21_104_8 1#8 port ctx cls flags imm addr) (fld_w21_96_8 1#8 port ctx cls flags imm addr) (fld_w21_96_1 1#8 port ctx cls flags imm addr) (fld_w21_95_1 1#8 port ctx cls flags imm addr) (fld_w21_94_1 1#8 port ctx cls flags imm addr) (fld_w21_93_1 1#8 port ctx cls flags imm addr) (fld_w21_64_32 1#8 port ctx cls flags imm addr) (fld_w21_0_64 1#8 port ctx cls flags imm addr)
  intro w h0 h1 h2 h3 h4 h5 h6 h7 h8 h9 h10
  unfold decodeCommand
  rw [h0]
  dsimp only [BitVec.reduceToNat]
  simp [h1, h2, h3, h4, h5, h6, h7, h8, h9, h10, fld_bit, h]
theorem bindResumeSkip (port : BitVec 6) (ctx : BitVec 2) (cls : BitVec 8) (flags : BitVec 8) (imm : BitVec 32) (addr : BitVec 64) : Statement (.bindResumeSkip port ctx cls flags imm addr) := of_command _ _ rfl rfl rfl fun h => by
  simp [wellFormed] at h
  refine (?_ : ∀ w : BitVec 128, fld w 120 8 = 1#8 →
      fld w 114 6 = port →
      fld w 112 2 = ctx →
      fld w 104 8 = cls →
      fld w 96 8 = flags →
      fld w 96 1 = fld flags 0 1 →
      fld w 95 1 = fld imm 31 1 →
      fld w 94 1 = fld imm 30 1 →
      fld w 93 1 = fld imm 29 1 →
      fld w 64 32 = imm →
      fld w 0 64 = addr → decodeCommand w = .ok (.bindResumeSkip port ctx cls flags imm addr)) _ (fld_w21_120_8 1#8 port ctx cls flags imm addr) (fld_w21_114_6 1#8 port ctx cls flags imm addr) (fld_w21_112_2 1#8 port ctx cls flags imm addr) (fld_w21_104_8 1#8 port ctx cls flags imm addr) (fld_w21_96_8 1#8 port ctx cls flags imm addr) (fld_w21_96_1 1#8 port ctx cls flags imm addr) (fld_w21_95_1 1#8 port ctx cls flags imm addr) (fld_w21_94_1 1#8 port ctx cls flags imm addr) (fld_w21_93_1 1#8 port ctx cls flags imm addr) (fld_w21_64_32 1#8 port ctx cls flags imm addr) (fld_w21_0_64 1#8 port ctx cls flags imm addr)
  intro w h0 h1 h2 h3 h4 h5 h6 h7 h8 h9 h10
  unfold decodeCommand
  rw [h0]
  dsimp only [BitVec.reduceToNat]
  simp [h1, h2, h3, h4, h5, h6, h7, h8, h9, h10, fld_bit, h]
theorem bindAbandon (port : BitVec 6) (ctx : BitVec 2) (cls : BitVec 8) (flags : BitVec 8) (imm : BitVec 32) (addr : BitVec 64) : Statement (.bindAbandon port ctx cls flags imm addr) := of_command _ _ rfl rfl rfl fun h => by
  simp [wellFormed] at h
  refine (?_ : ∀ w : BitVec 128, fld w 120 8 = 1#8 →
      fld w 114 6 = port →
      fld w 112 2 = ctx →
      fld w 104 8 = cls →
      fld w 96 8 = flags →
      fld w 96 1 = fld flags 0 1 →
      fld w 95 1 = fld imm 31 1 →
      fld w 94 1 = fld imm 30 1 →
      fld w 64 32 = imm →
      fld w 0 64 = addr → decodeCommand w = .ok (.bindAbandon port ctx cls flags imm addr)) _ (fld_w21_120_8 1#8 port ctx cls flags imm addr) (fld_w21_114_6 1#8 port ctx cls flags imm addr) (fld_w21_112_2 1#8 port ctx cls flags imm addr) (fld_w21_104_8 1#8 port ctx cls flags imm addr) (fld_w21_96_8 1#8 port ctx cls flags imm addr) (fld_w21_96_1 1#8 port ctx cls flags imm addr) (fld_w21_95_1 1#8 port ctx cls flags imm addr) (fld_w21_94_1 1#8 port ctx cls flags imm addr) (fld_w21_64_32 1#8 port ctx cls flags imm addr) (fld_w21_0_64 1#8 port ctx cls flags imm addr)
  intro w h0 h1 h2 h3 h4 h5 h6 h7 h8 h9
  unfold decodeCommand
  rw [h0]
  dsimp only [BitVec.reduceToNat]
  simp [h1, h2, h3, h4, h5, h6, h7, h8, h9, fld_bit, h]
theorem copy (port : BitVec 6) (ctx : BitVec 2) (cls : BitVec 8) (flags : BitVec 8) (imm : BitVec 32) (addr : BitVec 64) : Statement (.copy port ctx cls flags imm addr) := of_command _ _ rfl rfl rfl fun h => by
  simp [wellFormed] at h
  refine (?_ : ∀ w : BitVec 128, fld w 120 8 = 2#8 →
      fld w 114 6 = port →
      fld w 112 2 = ctx →
      fld w 104 8 = cls →
      fld w 96 8 = flags →
      fld w 96 1 = fld flags 0 1 →
      fld w 64 32 = imm →
      fld w 0 64 = addr → decodeCommand w = .ok (.copy port ctx cls flags imm addr)) _ (fld_w21_120_8 2#8 port ctx cls flags imm addr) (fld_w21_114_6 2#8 port ctx cls flags imm addr) (fld_w21_112_2 2#8 port ctx cls flags imm addr) (fld_w21_104_8 2#8 port ctx cls flags imm addr) (fld_w21_96_8 2#8 port ctx cls flags imm addr) (fld_w21_96_1 2#8 port ctx cls flags imm addr) (fld_w21_64_32 2#8 port ctx cls flags imm addr) (fld_w21_0_64 2#8 port ctx cls flags imm addr)
  intro w h0 h1 h2 h3 h4 h5 h6 h7
  unfold decodeCommand
  rw [h0]
  dsimp only [BitVec.reduceToNat]
  simp [h1, h2, h3, h4, h5, h6, h7, fld_bit, h]
theorem fill (port : BitVec 6) (ctx : BitVec 2) (cls : BitVec 8) (flags : BitVec 8) (imm : BitVec 32) (addr : BitVec 64) : Statement (.fill port ctx cls flags imm addr) := of_command _ _ rfl rfl rfl fun h => by
  simp [wellFormed] at h
  refine (?_ : ∀ w : BitVec 128, fld w 120 8 = 3#8 →
      fld w 114 6 = port →
      fld w 112 2 = ctx →
      fld w 104 8 = cls →
      fld w 96 8 = flags →
      fld w 96 1 = fld flags 0 1 →
      fld w 64 32 = imm →
      fld w 0 64 = addr → decodeCommand w = .ok (.fill port ctx cls flags imm addr)) _ (fld_w21_120_8 3#8 port ctx cls flags imm addr) (fld_w21_114_6 3#8 port ctx cls flags imm addr) (fld_w21_112_2 3#8 port ctx cls flags imm addr) (fld_w21_104_8 3#8 port ctx cls flags imm addr) (fld_w21_96_8 3#8 port ctx cls flags imm addr) (fld_w21_96_1 3#8 port ctx cls flags imm addr) (fld_w21_64_32 3#8 port ctx cls flags imm addr) (fld_w21_0_64 3#8 port ctx cls flags imm addr)
  intro w h0 h1 h2 h3 h4 h5 h6 h7
  unfold decodeCommand
  rw [h0]
  dsimp only [BitVec.reduceToNat]
  simp [h1, h2, h3, h4, h5, h6, h7, fld_bit, h]
theorem gather (port : BitVec 6) (ctx : BitVec 2) (cls : BitVec 8) (flags : BitVec 8) (imm : BitVec 32) (addr : BitVec 64) : Statement (.gather port ctx cls flags imm addr) := of_command _ _ rfl rfl rfl fun h => by
  simp [wellFormed] at h
  refine (?_ : ∀ w : BitVec 128, fld w 120 8 = 4#8 →
      fld w 114 6 = port →
      fld w 112 2 = ctx →
      fld w 104 8 = cls →
      fld w 96 8 = flags →
      fld w 96 1 = fld flags 0 1 →
      fld w 64 32 = imm →
      fld w 0 64 = addr → decodeCommand w = .ok (.gather port ctx cls flags imm addr)) _ (fld_w21_120_8 4#8 port ctx cls flags imm addr) (fld_w21_114_6 4#8 port ctx cls flags imm addr) (fld_w21_112_2 4#8 port ctx cls flags imm addr) (fld_w21_104_8 4#8 port ctx cls flags imm addr) (fld_w21_96_8 4#8 port ctx cls flags imm addr) (fld_w21_96_1 4#8 port ctx cls flags imm addr) (fld_w21_64_32 4#8 port ctx cls flags imm addr) (fld_w21_0_64 4#8 port ctx cls flags imm addr)
  intro w h0 h1 h2 h3 h4 h5 h6 h7
  unfold decodeCommand
  rw [h0]
  dsimp only [BitVec.reduceToNat]
  simp [h1, h2, h3, h4, h5, h6, h7, fld_bit, h]
theorem scatter (port : BitVec 6) (ctx : BitVec 2) (cls : BitVec 8) (flags : BitVec 8) (imm : BitVec 32) (addr : BitVec 64) : Statement (.scatter port ctx cls flags imm addr) := of_command _ _ rfl rfl rfl fun h => by
  simp [wellFormed] at h
  refine (?_ : ∀ w : BitVec 128, fld w 120 8 = 5#8 →
      fld w 114 6 = port →
      fld w 112 2 = ctx →
      fld w 104 8 = cls →
      fld w 96 8 = flags →
      fld w 96 1 = fld flags 0 1 →
      fld w 64 32 = imm →
      fld w 0 64 = addr → decodeCommand w = .ok (.scatter port ctx cls flags imm addr)) _ (fld_w21_120_8 5#8 port ctx cls flags imm addr) (fld_w21_114_6 5#8 port ctx cls flags imm addr) (fld_w21_112_2 5#8 port ctx cls flags imm addr) (fld_w21_104_8 5#8 port ctx cls flags imm addr) (fld_w21_96_8 5#8 port ctx cls flags imm addr) (fld_w21_96_1 5#8 port ctx cls flags imm addr) (fld_w21_64_32 5#8 port ctx cls flags imm addr) (fld_w21_0_64 5#8 port ctx cls flags imm addr)
  intro w h0 h1 h2 h3 h4 h5 h6 h7
  unfold decodeCommand
  rw [h0]
  dsimp only [BitVec.reduceToNat]
  simp [h1, h2, h3, h4, h5, h6, h7, fld_bit, h]
theorem rdfor (port : BitVec 6) (ctx : BitVec 2) (cls : BitVec 8) (flags : BitVec 8) (imm : BitVec 32) (addr : BitVec 64) : Statement (.rdfor port ctx cls flags imm addr) := of_command _ _ rfl rfl rfl fun h => by
  simp [wellFormed] at h
  refine (?_ : ∀ w : BitVec 128, fld w 120 8 = 6#8 →
      fld w 114 6 = port →
      fld w 112 2 = ctx →
      fld w 104 8 = cls →
      fld w 96 8 = flags →
      fld w 96 1 = fld flags 0 1 →
      fld w 64 32 = imm →
      fld w 0 64 = addr → decodeCommand w = .ok (.rdfor port ctx cls flags imm addr)) _ (fld_w21_120_8 6#8 port ctx cls flags imm addr) (fld_w21_114_6 6#8 port ctx cls flags imm addr) (fld_w21_112_2 6#8 port ctx cls flags imm addr) (fld_w21_104_8 6#8 port ctx cls flags imm addr) (fld_w21_96_8 6#8 port ctx cls flags imm addr) (fld_w21_96_1 6#8 port ctx cls flags imm addr) (fld_w21_64_32 6#8 port ctx cls flags imm addr) (fld_w21_0_64 6#8 port ctx cls flags imm addr)
  intro w h0 h1 h2 h3 h4 h5 h6 h7
  unfold decodeCommand
  rw [h0]
  dsimp only [BitVec.reduceToNat]
  simp [h1, h2, h3, h4, h5, h6, h7, fld_bit, h]
theorem rwin (port : BitVec 6) (ctx : BitVec 2) (cls : BitVec 8) (flags : BitVec 8) (imm : BitVec 32) (addr : BitVec 64) : Statement (.rwin port ctx cls flags imm addr) := of_command _ _ rfl rfl rfl fun h => by
  simp [wellFormed] at h
  refine (?_ : ∀ w : BitVec 128, fld w 120 8 = 7#8 →
      fld w 114 6 = port →
      fld w 112 2 = ctx →
      fld w 104 8 = cls →
      fld w 96 8 = flags →
      fld w 96 1 = fld flags 0 1 →
      fld w 64 32 = imm →
      fld w 0 64 = addr → decodeCommand w = .ok (.rwin port ctx cls flags imm addr)) _ (fld_w21_120_8 7#8 port ctx cls flags imm addr) (fld_w21_114_6 7#8 port ctx cls flags imm addr) (fld_w21_112_2 7#8 port ctx cls flags imm addr) (fld_w21_104_8 7#8 port ctx cls flags imm addr) (fld_w21_96_8 7#8 port ctx cls flags imm addr) (fld_w21_96_1 7#8 port ctx cls flags imm addr) (fld_w21_64_32 7#8 port ctx cls flags imm addr) (fld_w21_0_64 7#8 port ctx cls flags imm addr)
  intro w h0 h1 h2 h3 h4 h5 h6 h7
  unfold decodeCommand
  rw [h0]
  dsimp only [BitVec.reduceToNat]
  simp [h1, h2, h3, h4, h5, h6, h7, fld_bit, h]
theorem rwclose (port : BitVec 6) (ctx : BitVec 2) (cls : BitVec 8) (flags : BitVec 8) (imm : BitVec 32) (addr : BitVec 64) : Statement (.rwclose port ctx cls flags imm addr) := of_command _ _ rfl rfl rfl fun h => by
  simp [wellFormed] at h
  refine (?_ : ∀ w : BitVec 128, fld w 120 8 = 8#8 →
      fld w 114 6 = port →
      fld w 112 2 = ctx →
      fld w 104 8 = cls →
      fld w 96 8 = flags →
      fld w 96 1 = fld flags 0 1 →
      fld w 64 32 = imm →
      fld w 0 64 = addr → decodeCommand w = .ok (.rwclose port ctx cls flags imm addr)) _ (fld_w21_120_8 8#8 port ctx cls flags imm addr) (fld_w21_114_6 8#8 port ctx cls flags imm addr) (fld_w21_112_2 8#8 port ctx cls flags imm addr) (fld_w21_104_8 8#8 port ctx cls flags imm addr) (fld_w21_96_8 8#8 port ctx cls flags imm addr) (fld_w21_96_1 8#8 port ctx cls flags imm addr) (fld_w21_64_32 8#8 port ctx cls flags imm addr) (fld_w21_0_64 8#8 port ctx cls flags imm addr)
  intro w h0 h1 h2 h3 h4 h5 h6 h7
  unfold decodeCommand
  rw [h0]
  dsimp only [BitVec.reduceToNat]
  simp [h1, h2, h3, h4, h5, h6, h7, fld_bit, h]
theorem ramo (port : BitVec 6) (ctx : BitVec 2) (cls : BitVec 8) (flags : BitVec 8) (imm : BitVec 32) (addr : BitVec 64) : Statement (.ramo port ctx cls flags imm addr) := of_command _ _ rfl rfl rfl fun h => by
  simp [wellFormed] at h
  refine (?_ : ∀ w : BitVec 128, fld w 120 8 = 9#8 →
      fld w 114 6 = port →
      fld w 112 2 = ctx →
      fld w 104 8 = cls →
      fld w 96 8 = flags →
      fld w 96 1 = fld flags 0 1 →
      fld w 64 32 = imm →
      fld w 0 64 = addr → decodeCommand w = .ok (.ramo port ctx cls flags imm addr)) _ (fld_w21_120_8 9#8 port ctx cls flags imm addr) (fld_w21_114_6 9#8 port ctx cls flags imm addr) (fld_w21_112_2 9#8 port ctx cls flags imm addr) (fld_w21_104_8 9#8 port ctx cls flags imm addr) (fld_w21_96_8 9#8 port ctx cls flags imm addr) (fld_w21_96_1 9#8 port ctx cls flags imm addr) (fld_w21_64_32 9#8 port ctx cls flags imm addr) (fld_w21_0_64 9#8 port ctx cls flags imm addr)
  intro w h0 h1 h2 h3 h4 h5 h6 h7
  unfold decodeCommand
  rw [h0]
  dsimp only [BitVec.reduceToNat]
  simp [h1, h2, h3, h4, h5, h6, h7, fld_bit, h]
theorem rred (port : BitVec 6) (ctx : BitVec 2) (cls : BitVec 8) (flags : BitVec 8) (imm : BitVec 32) (addr : BitVec 64) : Statement (.rred port ctx cls flags imm addr) := of_command _ _ rfl rfl rfl fun h => by
  simp [wellFormed] at h
  refine (?_ : ∀ w : BitVec 128, fld w 120 8 = 10#8 →
      fld w 114 6 = port →
      fld w 112 2 = ctx →
      fld w 104 8 = cls →
      fld w 96 8 = flags →
      fld w 96 1 = fld flags 0 1 →
      fld w 64 32 = imm →
      fld w 0 64 = addr → decodeCommand w = .ok (.rred port ctx cls flags imm addr)) _ (fld_w21_120_8 10#8 port ctx cls flags imm addr) (fld_w21_114_6 10#8 port ctx cls flags imm addr) (fld_w21_112_2 10#8 port ctx cls flags imm addr) (fld_w21_104_8 10#8 port ctx cls flags imm addr) (fld_w21_96_8 10#8 port ctx cls flags imm addr) (fld_w21_96_1 10#8 port ctx cls flags imm addr) (fld_w21_64_32 10#8 port ctx cls flags imm addr) (fld_w21_0_64 10#8 port ctx cls flags imm addr)
  intro w h0 h1 h2 h3 h4 h5 h6 h7
  unfold decodeCommand
  rw [h0]
  dsimp only [BitVec.reduceToNat]
  simp [h1, h2, h3, h4, h5, h6, h7, fld_bit, h]
theorem rredReadout (port : BitVec 6) (ctx : BitVec 2) (cls : BitVec 8) (flags : BitVec 8) (imm : BitVec 32) (addr : BitVec 64) : Statement (.rredReadout port ctx cls flags imm addr) := of_event _ rfl
theorem marker (port : BitVec 6) (ctx : BitVec 2) (cls : BitVec 8) (flags : BitVec 8) (imm : BitVec 32) (addr : BitVec 64) : Statement (.marker port ctx cls flags imm addr) := of_command _ _ rfl rfl rfl fun h => by
  simp [wellFormed] at h
  refine (?_ : ∀ w : BitVec 128, fld w 120 8 = 11#8 →
      fld w 114 6 = port →
      fld w 112 2 = ctx →
      fld w 104 8 = cls →
      fld w 96 8 = flags →
      fld w 96 1 = fld flags 0 1 →
      fld w 64 32 = imm →
      fld w 0 64 = addr → decodeCommand w = .ok (.marker port ctx cls flags imm addr)) _ (fld_w21_120_8 11#8 port ctx cls flags imm addr) (fld_w21_114_6 11#8 port ctx cls flags imm addr) (fld_w21_112_2 11#8 port ctx cls flags imm addr) (fld_w21_104_8 11#8 port ctx cls flags imm addr) (fld_w21_96_8 11#8 port ctx cls flags imm addr) (fld_w21_96_1 11#8 port ctx cls flags imm addr) (fld_w21_64_32 11#8 port ctx cls flags imm addr) (fld_w21_0_64 11#8 port ctx cls flags imm addr)
  intro w h0 h1 h2 h3 h4 h5 h6 h7
  unfold decodeCommand
  rw [h0]
  dsimp only [BitVec.reduceToNat]
  simp [h1, h2, h3, h4, h5, h6, h7, fld_bit, h]
theorem round (port : BitVec 6) (ctx : BitVec 2) (cls : BitVec 8) (flags : BitVec 8) (imm : BitVec 32) (addr : BitVec 64) : Statement (.round port ctx cls flags imm addr) := of_command _ _ rfl rfl rfl fun h => by
  simp [wellFormed] at h
  refine (?_ : ∀ w : BitVec 128, fld w 120 8 = 12#8 →
      fld w 114 6 = port →
      fld w 112 2 = ctx →
      fld w 104 8 = cls →
      fld w 96 8 = flags →
      fld w 96 1 = fld flags 0 1 →
      fld w 64 32 = imm →
      fld w 0 64 = addr → decodeCommand w = .ok (.round port ctx cls flags imm addr)) _ (fld_w21_120_8 12#8 port ctx cls flags imm addr) (fld_w21_114_6 12#8 port ctx cls flags imm addr) (fld_w21_112_2 12#8 port ctx cls flags imm addr) (fld_w21_104_8 12#8 port ctx cls flags imm addr) (fld_w21_96_8 12#8 port ctx cls flags imm addr) (fld_w21_96_1 12#8 port ctx cls flags imm addr) (fld_w21_64_32 12#8 port ctx cls flags imm addr) (fld_w21_0_64 12#8 port ctx cls flags imm addr)
  intro w h0 h1 h2 h3 h4 h5 h6 h7
  unfold decodeCommand
  rw [h0]
  dsimp only [BitVec.reduceToNat]
  simp [h1, h2, h3, h4, h5, h6, h7, fld_bit, h]
theorem drain (port : BitVec 6) (ctx : BitVec 2) (cls : BitVec 8) (flags : BitVec 8) (imm : BitVec 32) (addr : BitVec 64) : Statement (.drain port ctx cls flags imm addr) := of_command _ _ rfl rfl rfl fun h => by
  simp [wellFormed] at h
  refine (?_ : ∀ w : BitVec 128, fld w 120 8 = 13#8 →
      fld w 114 6 = port →
      fld w 112 2 = ctx →
      fld w 104 8 = cls →
      fld w 96 8 = flags →
      fld w 96 1 = fld flags 0 1 →
      fld w 64 32 = imm →
      fld w 0 64 = addr → decodeCommand w = .ok (.drain port ctx cls flags imm addr)) _ (fld_w21_120_8 13#8 port ctx cls flags imm addr) (fld_w21_114_6 13#8 port ctx cls flags imm addr) (fld_w21_112_2 13#8 port ctx cls flags imm addr) (fld_w21_104_8 13#8 port ctx cls flags imm addr) (fld_w21_96_8 13#8 port ctx cls flags imm addr) (fld_w21_96_1 13#8 port ctx cls flags imm addr) (fld_w21_64_32 13#8 port ctx cls flags imm addr) (fld_w21_0_64 13#8 port ctx cls flags imm addr)
  intro w h0 h1 h2 h3 h4 h5 h6 h7
  unfold decodeCommand
  rw [h0]
  dsimp only [BitVec.reduceToNat]
  simp [h1, h2, h3, h4, h5, h6, h7, fld_bit, h]
theorem cfgload (port : BitVec 6) (ctx : BitVec 2) (cls : BitVec 8) (flags : BitVec 8) (imm : BitVec 32) (addr : BitVec 64) : Statement (.cfgload port ctx cls flags imm addr) := of_command _ _ rfl rfl rfl fun h => by
  simp [wellFormed] at h
  refine (?_ : ∀ w : BitVec 128, fld w 120 8 = 14#8 →
      fld w 114 6 = port →
      fld w 112 2 = ctx →
      fld w 104 8 = cls →
      fld w 96 8 = flags →
      fld w 96 1 = fld flags 0 1 →
      fld w 64 32 = imm →
      fld w 0 64 = addr → decodeCommand w = .ok (.cfgload port ctx cls flags imm addr)) _ (fld_w21_120_8 14#8 port ctx cls flags imm addr) (fld_w21_114_6 14#8 port ctx cls flags imm addr) (fld_w21_112_2 14#8 port ctx cls flags imm addr) (fld_w21_104_8 14#8 port ctx cls flags imm addr) (fld_w21_96_8 14#8 port ctx cls flags imm addr) (fld_w21_96_1 14#8 port ctx cls flags imm addr) (fld_w21_64_32 14#8 port ctx cls flags imm addr) (fld_w21_0_64 14#8 port ctx cls flags imm addr)
  intro w h0 h1 h2 h3 h4 h5 h6 h7
  unfold decodeCommand
  rw [h0]
  dsimp only [BitVec.reduceToNat]
  simp [h1, h2, h3, h4, h5, h6, h7, fld_bit, h]
theorem cfgswitch (port : BitVec 6) (ctx : BitVec 2) (cls : BitVec 8) (flags : BitVec 8) (imm : BitVec 32) (addr : BitVec 64) : Statement (.cfgswitch port ctx cls flags imm addr) := of_command _ _ rfl rfl rfl fun h => by
  simp [wellFormed] at h
  refine (?_ : ∀ w : BitVec 128, fld w 120 8 = 15#8 →
      fld w 114 6 = port →
      fld w 112 2 = ctx →
      fld w 104 8 = cls →
      fld w 96 8 = flags →
      fld w 96 1 = fld flags 0 1 →
      fld w 64 32 = imm →
      fld w 0 64 = addr → decodeCommand w = .ok (.cfgswitch port ctx cls flags imm addr)) _ (fld_w21_120_8 15#8 port ctx cls flags imm addr) (fld_w21_114_6 15#8 port ctx cls flags imm addr) (fld_w21_112_2 15#8 port ctx cls flags imm addr) (fld_w21_104_8 15#8 port ctx cls flags imm addr) (fld_w21_96_8 15#8 port ctx cls flags imm addr) (fld_w21_96_1 15#8 port ctx cls flags imm addr) (fld_w21_64_32 15#8 port ctx cls flags imm addr) (fld_w21_0_64 15#8 port ctx cls flags imm addr)
  intro w h0 h1 h2 h3 h4 h5 h6 h7
  unfold decodeCommand
  rw [h0]
  dsimp only [BitVec.reduceToNat]
  simp [h1, h2, h3, h4, h5, h6, h7, fld_bit, h]
theorem snapshot (port : BitVec 6) (ctx : BitVec 2) (cls : BitVec 8) (flags : BitVec 8) (imm : BitVec 32) (addr : BitVec 64) : Statement (.snapshot port ctx cls flags imm addr) := of_command _ _ rfl rfl rfl fun h => by
  simp [wellFormed] at h
  refine (?_ : ∀ w : BitVec 128, fld w 120 8 = 16#8 →
      fld w 114 6 = port →
      fld w 112 2 = ctx →
      fld w 104 8 = cls →
      fld w 96 8 = flags →
      fld w 96 1 = fld flags 0 1 →
      fld w 64 32 = imm →
      fld w 0 64 = addr → decodeCommand w = .ok (.snapshot port ctx cls flags imm addr)) _ (fld_w21_120_8 16#8 port ctx cls flags imm addr) (fld_w21_114_6 16#8 port ctx cls flags imm addr) (fld_w21_112_2 16#8 port ctx cls flags imm addr) (fld_w21_104_8 16#8 port ctx cls flags imm addr) (fld_w21_96_8 16#8 port ctx cls flags imm addr) (fld_w21_96_1 16#8 port ctx cls flags imm addr) (fld_w21_64_32 16#8 port ctx cls flags imm addr) (fld_w21_0_64 16#8 port ctx cls flags imm addr)
  intro w h0 h1 h2 h3 h4 h5 h6 h7
  unfold decodeCommand
  rw [h0]
  dsimp only [BitVec.reduceToNat]
  simp [h1, h2, h3, h4, h5, h6, h7, fld_bit, h]
theorem sfence (port : BitVec 6) (ctx : BitVec 2) (cls : BitVec 8) (flags : BitVec 8) (imm : BitVec 32) (addr : BitVec 64) : Statement (.sfence port ctx cls flags imm addr) := of_command _ _ rfl rfl rfl fun h => by
  simp [wellFormed] at h
  refine (?_ : ∀ w : BitVec 128, fld w 120 8 = 17#8 →
      fld w 114 6 = port →
      fld w 112 2 = ctx →
      fld w 104 8 = cls →
      fld w 96 8 = flags →
      fld w 96 1 = fld flags 0 1 →
      fld w 64 32 = imm →
      fld w 0 64 = addr → decodeCommand w = .ok (.sfence port ctx cls flags imm addr)) _ (fld_w21_120_8 17#8 port ctx cls flags imm addr) (fld_w21_114_6 17#8 port ctx cls flags imm addr) (fld_w21_112_2 17#8 port ctx cls flags imm addr) (fld_w21_104_8 17#8 port ctx cls flags imm addr) (fld_w21_96_8 17#8 port ctx cls flags imm addr) (fld_w21_96_1 17#8 port ctx cls flags imm addr) (fld_w21_64_32 17#8 port ctx cls flags imm addr) (fld_w21_0_64 17#8 port ctx cls flags imm addr)
  intro w h0 h1 h2 h3 h4 h5 h6 h7
  unfold decodeCommand
  rw [h0]
  dsimp only [BitVec.reduceToNat]
  simp [h1, h2, h3, h4, h5, h6, h7, fld_bit, h]
theorem inject (port : BitVec 6) (ctx : BitVec 2) (cls : BitVec 8) (flags : BitVec 8) (imm : BitVec 32) (addr : BitVec 64) : Statement (.inject port ctx cls flags imm addr) := of_command _ _ rfl rfl rfl fun h => by
  simp [wellFormed] at h
  refine (?_ : ∀ w : BitVec 128, fld w 120 8 = 18#8 →
      fld w 114 6 = port →
      fld w 112 2 = ctx →
      fld w 104 8 = cls →
      fld w 96 8 = flags →
      fld w 96 1 = fld flags 0 1 →
      fld w 64 32 = imm →
      fld w 0 64 = addr → decodeCommand w = .ok (.inject port ctx cls flags imm addr)) _ (fld_w21_120_8 18#8 port ctx cls flags imm addr) (fld_w21_114_6 18#8 port ctx cls flags imm addr) (fld_w21_112_2 18#8 port ctx cls flags imm addr) (fld_w21_104_8 18#8 port ctx cls flags imm addr) (fld_w21_96_8 18#8 port ctx cls flags imm addr) (fld_w21_96_1 18#8 port ctx cls flags imm addr) (fld_w21_64_32 18#8 port ctx cls flags imm addr) (fld_w21_0_64 18#8 port ctx cls flags imm addr)
  intro w h0 h1 h2 h3 h4 h5 h6 h7
  unfold decodeCommand
  rw [h0]
  dsimp only [BitVec.reduceToNat]
  simp [h1, h2, h3, h4, h5, h6, h7, fld_bit, h]
theorem collect (port : BitVec 6) (ctx : BitVec 2) (cls : BitVec 8) (flags : BitVec 8) (imm : BitVec 32) (addr : BitVec 64) : Statement (.collect port ctx cls flags imm addr) := of_command _ _ rfl rfl rfl fun h => by
  simp [wellFormed] at h
  refine (?_ : ∀ w : BitVec 128, fld w 120 8 = 19#8 →
      fld w 114 6 = port →
      fld w 112 2 = ctx →
      fld w 104 8 = cls →
      fld w 96 8 = flags →
      fld w 96 1 = fld flags 0 1 →
      fld w 64 32 = imm →
      fld w 0 64 = addr → decodeCommand w = .ok (.collect port ctx cls flags imm addr)) _ (fld_w21_120_8 19#8 port ctx cls flags imm addr) (fld_w21_114_6 19#8 port ctx cls flags imm addr) (fld_w21_112_2 19#8 port ctx cls flags imm addr) (fld_w21_104_8 19#8 port ctx cls flags imm addr) (fld_w21_96_8 19#8 port ctx cls flags imm addr) (fld_w21_96_1 19#8 port ctx cls flags imm addr) (fld_w21_64_32 19#8 port ctx cls flags imm addr) (fld_w21_0_64 19#8 port ctx cls flags imm addr)
  intro w h0 h1 h2 h3 h4 h5 h6 h7
  unfold decodeCommand
  rw [h0]
  dsimp only [BitVec.reduceToNat]
  simp [h1, h2, h3, h4, h5, h6, h7, fld_bit, h]
theorem sink (port : BitVec 6) (ctx : BitVec 2) (cls : BitVec 8) (flags : BitVec 8) (imm : BitVec 32) (addr : BitVec 64) : Statement (.sink port ctx cls flags imm addr) := of_command _ _ rfl rfl rfl fun h => by
  simp [wellFormed] at h
  refine (?_ : ∀ w : BitVec 128, fld w 120 8 = 20#8 →
      fld w 114 6 = port →
      fld w 112 2 = ctx →
      fld w 104 8 = cls →
      fld w 96 8 = flags →
      fld w 96 1 = fld flags 0 1 →
      fld w 64 32 = imm →
      fld w 0 64 = addr → decodeCommand w = .ok (.sink port ctx cls flags imm addr)) _ (fld_w21_120_8 20#8 port ctx cls flags imm addr) (fld_w21_114_6 20#8 port ctx cls flags imm addr) (fld_w21_112_2 20#8 port ctx cls flags imm addr) (fld_w21_104_8 20#8 port ctx cls flags imm addr) (fld_w21_96_8 20#8 port ctx cls flags imm addr) (fld_w21_96_1 20#8 port ctx cls flags imm addr) (fld_w21_64_32 20#8 port ctx cls flags imm addr) (fld_w21_0_64 20#8 port ctx cls flags imm addr)
  intro w h0 h1 h2 h3 h4 h5 h6 h7
  unfold decodeCommand
  rw [h0]
  dsimp only [BitVec.reduceToNat]
  simp [h1, h2, h3, h4, h5, h6, h7, fld_bit, h]
theorem shoot (port : BitVec 6) (ctx : BitVec 2) (cls : BitVec 8) (flags : BitVec 8) (imm : BitVec 32) (addr : BitVec 64) : Statement (.shoot port ctx cls flags imm addr) := of_command _ _ rfl rfl rfl fun h => by
  simp [wellFormed] at h
  refine (?_ : ∀ w : BitVec 128, fld w 120 8 = 21#8 →
      fld w 114 6 = port →
      fld w 112 2 = ctx →
      fld w 104 8 = cls →
      fld w 96 8 = flags →
      fld w 96 1 = fld flags 0 1 →
      fld w 64 32 = imm →
      fld w 0 64 = addr → decodeCommand w = .ok (.shoot port ctx cls flags imm addr)) _ (fld_w21_120_8 21#8 port ctx cls flags imm addr) (fld_w21_114_6 21#8 port ctx cls flags imm addr) (fld_w21_112_2 21#8 port ctx cls flags imm addr) (fld_w21_104_8 21#8 port ctx cls flags imm addr) (fld_w21_96_8 21#8 port ctx cls flags imm addr) (fld_w21_96_1 21#8 port ctx cls flags imm addr) (fld_w21_64_32 21#8 port ctx cls flags imm addr) (fld_w21_0_64 21#8 port ctx cls flags imm addr)
  intro w h0 h1 h2 h3 h4 h5 h6 h7
  unfold decodeCommand
  rw [h0]
  dsimp only [BitVec.reduceToNat]
  simp [h1, h2, h3, h4, h5, h6, h7, fld_bit, h]
theorem tload (port : BitVec 6) (ctx : BitVec 2) (cls : BitVec 8) (flags : BitVec 8) (imm : BitVec 32) (addr : BitVec 64) : Statement (.tload port ctx cls flags imm addr) := of_command _ _ rfl rfl rfl fun h => by
  simp [wellFormed] at h
  refine (?_ : ∀ w : BitVec 128, fld w 120 8 = 22#8 →
      fld w 114 6 = port →
      fld w 112 2 = ctx →
      fld w 104 8 = cls →
      fld w 96 8 = flags →
      fld w 96 1 = fld flags 0 1 →
      fld w 64 32 = imm →
      fld w 0 64 = addr → decodeCommand w = .ok (.tload port ctx cls flags imm addr)) _ (fld_w21_120_8 22#8 port ctx cls flags imm addr) (fld_w21_114_6 22#8 port ctx cls flags imm addr) (fld_w21_112_2 22#8 port ctx cls flags imm addr) (fld_w21_104_8 22#8 port ctx cls flags imm addr) (fld_w21_96_8 22#8 port ctx cls flags imm addr) (fld_w21_96_1 22#8 port ctx cls flags imm addr) (fld_w21_64_32 22#8 port ctx cls flags imm addr) (fld_w21_0_64 22#8 port ctx cls flags imm addr)
  intro w h0 h1 h2 h3 h4 h5 h6 h7
  unfold decodeCommand
  rw [h0]
  dsimp only [BitVec.reduceToNat]
  simp [h1, h2, h3, h4, h5, h6, h7, fld_bit, h]
theorem prefetch (port : BitVec 6) (ctx : BitVec 2) (cls : BitVec 8) (flags : BitVec 8) (imm : BitVec 32) (addr : BitVec 64) : Statement (.prefetch port ctx cls flags imm addr) := of_command _ _ rfl rfl rfl fun h => by
  simp [wellFormed] at h
  refine (?_ : ∀ w : BitVec 128, fld w 120 8 = 23#8 →
      fld w 114 6 = port →
      fld w 112 2 = ctx →
      fld w 104 8 = cls →
      fld w 96 8 = flags →
      fld w 96 1 = fld flags 0 1 →
      fld w 64 32 = imm →
      fld w 0 64 = addr → decodeCommand w = .ok (.prefetch port ctx cls flags imm addr)) _ (fld_w21_120_8 23#8 port ctx cls flags imm addr) (fld_w21_114_6 23#8 port ctx cls flags imm addr) (fld_w21_112_2 23#8 port ctx cls flags imm addr) (fld_w21_104_8 23#8 port ctx cls flags imm addr) (fld_w21_96_8 23#8 port ctx cls flags imm addr) (fld_w21_96_1 23#8 port ctx cls flags imm addr) (fld_w21_64_32 23#8 port ctx cls flags imm addr) (fld_w21_0_64 23#8 port ctx cls flags imm addr)
  intro w h0 h1 h2 h3 h4 h5 h6 h7
  unfold decodeCommand
  rw [h0]
  dsimp only [BitVec.reduceToNat]
  simp [h1, h2, h3, h4, h5, h6, h7, fld_bit, h]
theorem nop (port : BitVec 6) (ctx : BitVec 2) (cls : BitVec 8) (flags : BitVec 8) (imm : BitVec 32) (addr : BitVec 64) : Statement (.nop port ctx cls flags imm addr) := of_command _ _ rfl rfl rfl fun h => by
  simp [wellFormed] at h
  refine (?_ : ∀ w : BitVec 128, fld w 120 8 = 24#8 →
      fld w 114 6 = port →
      fld w 112 2 = ctx →
      fld w 104 8 = cls →
      fld w 96 8 = flags →
      fld w 96 1 = fld flags 0 1 →
      fld w 64 32 = imm →
      fld w 0 64 = addr → decodeCommand w = .ok (.nop port ctx cls flags imm addr)) _ (fld_w21_120_8 24#8 port ctx cls flags imm addr) (fld_w21_114_6 24#8 port ctx cls flags imm addr) (fld_w21_112_2 24#8 port ctx cls flags imm addr) (fld_w21_104_8 24#8 port ctx cls flags imm addr) (fld_w21_96_8 24#8 port ctx cls flags imm addr) (fld_w21_96_1 24#8 port ctx cls flags imm addr) (fld_w21_64_32 24#8 port ctx cls flags imm addr) (fld_w21_0_64 24#8 port ctx cls flags imm addr)
  intro w h0 h1 h2 h3 h4 h5 h6 h7
  unfold decodeCommand
  rw [h0]
  dsimp only [BitVec.reduceToNat]
  simp [h1, h2, h3, h4, h5, h6, h7, fld_bit, h]
theorem portwait (port : BitVec 6) (ctx : BitVec 2) (cls : BitVec 8) (flags : BitVec 8) (imm : BitVec 32) (addr : BitVec 64) : Statement (.portwait port ctx cls flags imm addr) := of_command _ _ rfl rfl rfl fun h => by
  simp [wellFormed] at h
  refine (?_ : ∀ w : BitVec 128, fld w 120 8 = 25#8 →
      fld w 114 6 = port →
      fld w 112 2 = ctx →
      fld w 104 8 = cls →
      fld w 96 8 = flags →
      fld w 96 1 = fld flags 0 1 →
      fld w 64 32 = imm →
      fld w 0 64 = addr → decodeCommand w = .ok (.portwait port ctx cls flags imm addr)) _ (fld_w21_120_8 25#8 port ctx cls flags imm addr) (fld_w21_114_6 25#8 port ctx cls flags imm addr) (fld_w21_112_2 25#8 port ctx cls flags imm addr) (fld_w21_104_8 25#8 port ctx cls flags imm addr) (fld_w21_96_8 25#8 port ctx cls flags imm addr) (fld_w21_96_1 25#8 port ctx cls flags imm addr) (fld_w21_64_32 25#8 port ctx cls flags imm addr) (fld_w21_0_64 25#8 port ctx cls flags imm addr)
  intro w h0 h1 h2 h3 h4 h5 h6 h7
  unfold decodeCommand
  rw [h0]
  dsimp only [BitVec.reduceToNat]
  simp [h1, h2, h3, h4, h5, h6, h7, fld_bit, h]
theorem tlook (key : BitVec 40) : Statement (.tlook key) := of_tag _ _ rfl rfl rfl rfl rfl fun _ => by
  refine (?_ : ∀ w : W64, fld w 61 3 = 0#3 →
      fld w 48 13 = 0#13 →
      fld w 40 8 = 0#8 →
      fld w 0 40 = key → decodeTag w = .ok (.tlook key)) _ (fld_w36_61_3 0#3 0#13 0#8 key) (fld_w36_48_13 0#3 0#13 0#8 key) (fld_w36_40_8 0#3 0#13 0#8 key) (fld_w36_0_40 0#3 0#13 0#8 key)
  intro w h0 h1 h2 h3
  unfold decodeTag
  rw [h0]
  dsimp only [BitVec.reduceToNat]
  simp [h1, h2, h3]
theorem tfill (key : BitVec 40) : Statement (.tfill key) := of_tag _ _ rfl rfl rfl rfl rfl fun _ => by
  refine (?_ : ∀ w : W64, fld w 61 3 = 1#3 →
      fld w 48 13 = 0#13 →
      fld w 40 8 = 0#8 →
      fld w 0 40 = key → decodeTag w = .ok (.tfill key)) _ (fld_w36_61_3 1#3 0#13 0#8 key) (fld_w36_48_13 1#3 0#13 0#8 key) (fld_w36_40_8 1#3 0#13 0#8 key) (fld_w36_0_40 1#3 0#13 0#8 key)
  intro w h0 h1 h2 h3
  unfold decodeTag
  rw [h0]
  dsimp only [BitVec.reduceToNat]
  simp [h1, h2, h3]
theorem tevict (slot : BitVec 8) : Statement (.tevict slot) := of_tag _ _ rfl rfl rfl rfl rfl fun _ => by
  refine (?_ : ∀ w : W64, fld w 61 3 = 2#3 →
      fld w 48 13 = 0#13 →
      fld w 40 8 = slot →
      fld w 0 40 = 0#40 → decodeTag w = .ok (.tevict slot)) _ (fld_w36_61_3 2#3 0#13 slot 0#40) (fld_w36_48_13 2#3 0#13 slot 0#40) (fld_w36_40_8 2#3 0#13 slot 0#40) (fld_w36_0_40 2#3 0#13 slot 0#40)
  intro w h0 h1 h2 h3
  unfold decodeTag
  rw [h0]
  dsimp only [BitVec.reduceToNat]
  simp [h1, h2, h3]
theorem tpin (slot : BitVec 8) : Statement (.tpin slot) := of_tag _ _ rfl rfl rfl rfl rfl fun _ => by
  refine (?_ : ∀ w : W64, fld w 61 3 = 3#3 →
      fld w 48 13 = 0#13 →
      fld w 40 8 = slot →
      fld w 0 40 = 0#40 → decodeTag w = .ok (.tpin slot)) _ (fld_w36_61_3 3#3 0#13 slot 0#40) (fld_w36_48_13 3#3 0#13 slot 0#40) (fld_w36_40_8 3#3 0#13 slot 0#40) (fld_w36_0_40 3#3 0#13 slot 0#40)
  intro w h0 h1 h2 h3
  unfold decodeTag
  rw [h0]
  dsimp only [BitVec.reduceToNat]
  simp [h1, h2, h3]
theorem tunpin (slot : BitVec 8) : Statement (.tunpin slot) := of_tag _ _ rfl rfl rfl rfl rfl fun _ => by
  refine (?_ : ∀ w : W64, fld w 61 3 = 4#3 →
      fld w 48 13 = 0#13 →
      fld w 40 8 = slot →
      fld w 0 40 = 0#40 → decodeTag w = .ok (.tunpin slot)) _ (fld_w36_61_3 4#3 0#13 slot 0#40) (fld_w36_48_13 4#3 0#13 slot 0#40) (fld_w36_40_8 4#3 0#13 slot 0#40) (fld_w36_0_40 4#3 0#13 slot 0#40)
  intro w h0 h1 h2 h3
  unfold decodeTag
  rw [h0]
  dsimp only [BitVec.reduceToNat]
  simp [h1, h2, h3]
theorem tdirty (slot : BitVec 8) : Statement (.tdirty slot) := of_tag _ _ rfl rfl rfl rfl rfl fun _ => by
  refine (?_ : ∀ w : W64, fld w 61 3 = 5#3 →
      fld w 48 13 = 0#13 →
      fld w 40 8 = slot →
      fld w 0 40 = 0#40 → decodeTag w = .ok (.tdirty slot)) _ (fld_w36_61_3 5#3 0#13 slot 0#40) (fld_w36_48_13 5#3 0#13 slot 0#40) (fld_w36_40_8 5#3 0#13 slot 0#40) (fld_w36_0_40 5#3 0#13 slot 0#40)
  intro w h0 h1 h2 h3
  unfold decodeTag
  rw [h0]
  dsimp only [BitVec.reduceToNat]
  simp [h1, h2, h3]
theorem tread (slot : BitVec 8) : Statement (.tread slot) := of_tag _ _ rfl rfl rfl rfl rfl fun _ => by
  refine (?_ : ∀ w : W64, fld w 61 3 = 6#3 →
      fld w 48 13 = 0#13 →
      fld w 40 8 = slot →
      fld w 0 40 = 0#40 → decodeTag w = .ok (.tread slot)) _ (fld_w36_61_3 6#3 0#13 slot 0#40) (fld_w36_48_13 6#3 0#13 slot 0#40) (fld_w36_40_8 6#3 0#13 slot 0#40) (fld_w36_0_40 6#3 0#13 slot 0#40)
  intro w h0 h1 h2 h3
  unfold decodeTag
  rw [h0]
  dsimp only [BitVec.reduceToNat]
  simp [h1, h2, h3]
theorem gclaim (mask : BitVec 32) (accm : BitVec 4) : Statement (.gclaim mask accm) := of_gallery _ _ rfl rfl rfl rfl fun _ => by
  refine (?_ : ∀ w : W64, fld w 60 4 = 0#4 →
      fld w 28 32 = mask →
      fld w 24 4 = accm →
      fld w 0 24 = 0#24 → decodeGallery w = .ok (.gclaim mask accm)) _ (fld_w22_60_4 0#4 mask accm 0#24) (fld_w22_28_32 0#4 mask accm 0#24) (fld_w22_24_4 0#4 mask accm 0#24) (fld_w22_0_24 0#4 mask accm 0#24)
  intro w h0 h1 h2 h3
  unfold decodeGallery
  rw [h0]
  dsimp only [BitVec.reduceToNat]
  simp [h1, h2, h3]
theorem grelease (mask : BitVec 32) (accm : BitVec 4) : Statement (.grelease mask accm) := of_gallery _ _ rfl rfl rfl rfl fun _ => by
  refine (?_ : ∀ w : W64, fld w 60 4 = 1#4 →
      fld w 28 32 = mask →
      fld w 24 4 = accm →
      fld w 0 24 = 0#24 → decodeGallery w = .ok (.grelease mask accm)) _ (fld_w22_60_4 1#4 mask accm 0#24) (fld_w22_28_32 1#4 mask accm 0#24) (fld_w22_24_4 1#4 mask accm 0#24) (fld_w22_0_24 1#4 mask accm 0#24)
  intro w h0 h1 h2 h3
  unfold decodeGallery
  rw [h0]
  dsimp only [BitVec.reduceToNat]
  simp [h1, h2, h3]
theorem gbslotB (slot : BitVec 5) : Statement (.gbslotB slot) := of_gallery _ _ rfl rfl rfl rfl fun _ => by
  refine (?_ : ∀ w : W64, fld w 60 4 = 2#4 →
      fld w 59 1 = 0#1 →
      fld w 54 5 = slot →
      fld w 0 54 = 0#54 → decodeGallery w = .ok (.gbslotB slot)) _ (fld_w23_60_4 2#4 0#1 slot 0#54) (fld_w23_59_1 2#4 0#1 slot 0#54) (fld_w23_54_5 2#4 0#1 slot 0#54) (fld_w23_0_54 2#4 0#1 slot 0#54)
  intro w h0 h1 h2 h3
  unfold decodeGallery
  rw [h0]
  dsimp only [BitVec.reduceToNat]
  simp [h1, h2, h3]
theorem gbslotA (slot : BitVec 5) (rows : BitVec 9) (arow0 : BitVec 8) (keep : BitVec 1) : Statement (.gbslotA slot rows arow0 keep) := of_gallery _ _ rfl rfl rfl rfl fun h => by
  simp [wellFormed] at h
  refine (?_ : ∀ w : W64, fld w 60 4 = 2#4 →
      fld w 59 1 = 1#1 →
      fld w 54 5 = slot →
      fld w 45 9 = rows →
      fld w 37 8 = arow0 →
      fld w 36 1 = keep →
      fld w 0 36 = 0#36 → decodeGallery w = .ok (.gbslotA slot rows arow0 keep)) _ (fld_w24_60_4 2#4 1#1 slot rows arow0 keep 0#36) (fld_w24_59_1 2#4 1#1 slot rows arow0 keep 0#36) (fld_w24_54_5 2#4 1#1 slot rows arow0 keep 0#36) (fld_w24_45_9 2#4 1#1 slot rows arow0 keep 0#36) (fld_w24_37_8 2#4 1#1 slot rows arow0 keep 0#36) (fld_w24_36_1 2#4 1#1 slot rows arow0 keep 0#36) (fld_w24_0_36 2#4 1#1 slot rows arow0 keep 0#36)
  intro w h0 h1 h2 h3 h4 h5 h6
  unfold decodeGallery
  rw [h0]
  dsimp only [BitVec.reduceToNat]
  simp [h1, h2, h3, h4, h5, h6, h]
  omega
theorem gshape (kreq : BitVec 9) (nreq : BitVec 9) : Statement (.gshape kreq nreq) := of_gallery _ _ rfl rfl rfl rfl fun _ => by
  refine (?_ : ∀ w : W64, fld w 60 4 = 3#4 →
      fld w 51 9 = kreq →
      fld w 42 9 = nreq →
      fld w 0 42 = 0#42 → decodeGallery w = .ok (.gshape kreq nreq)) _ (fld_w25_60_4 3#4 0#0 kreq nreq 0#42) (fld_w25_51_9 3#4 0#0 kreq nreq 0#42) (fld_w25_42_9 3#4 0#0 kreq nreq 0#42) (fld_w25_0_42 3#4 0#0 kreq nreq 0#42)
  intro w h0 h1 h2 h3
  unfold decodeGallery
  rw [h0]
  dsimp only [BitVec.reduceToNat]
  simp [h1, h2, h3]
theorem ganchor (anchor : BitVec 12) : Statement (.ganchor anchor) := of_gallery _ _ rfl rfl rfl rfl fun _ => by
  refine (?_ : ∀ w : W64, fld w 60 4 = 4#4 →
      fld w 48 12 = anchor →
      fld w 0 48 = 0#48 → decodeGallery w = .ok (.ganchor anchor)) _ (fld_w26_60_4 4#4 anchor 0#48) (fld_w26_48_12 4#4 anchor 0#48) (fld_w26_0_48 4#4 anchor 0#48)
  intro w h0 h1 h2
  unfold decodeGallery
  rw [h0]
  dsimp only [BitVec.reduceToNat]
  simp [h1, h2]
theorem gclear (row0 : BitVec 8) (n : BitVec 9) : Statement (.gclear row0 n) := of_gallery _ _ rfl rfl rfl rfl fun h => by
  simp [wellFormed] at h
  refine (?_ : ∀ w : W64, fld w 60 4 = 5#4 →
      fld w 52 8 = row0 →
      fld w 43 9 = n →
      fld w 0 43 = 0#43 → decodeGallery w = .ok (.gclear row0 n)) _ (fld_w27_60_4 5#4 row0 n 0#43) (fld_w27_52_8 5#4 row0 n 0#43) (fld_w27_43_9 5#4 row0 n 0#43) (fld_w27_0_43 5#4 row0 n 0#43)
  intro w h0 h1 h2 h3
  unfold decodeGallery
  rw [h0]
  dsimp only [BitVec.reduceToNat]
  simp [h1, h2, h3, h]
theorem grdfmt (fmt : BitVec 3) (rm : BitVec 3) (clr : BitVec 1) : Statement (.grdfmt fmt rm clr) := of_gallery _ _ rfl rfl rfl rfl fun h => by
  simp [wellFormed] at h
  refine (?_ : ∀ w : W64, fld w 60 4 = 6#4 →
      fld w 57 3 = fmt →
      fld w 54 3 = rm →
      fld w 53 1 = clr →
      fld w 0 53 = 0#53 → decodeGallery w = .ok (.grdfmt fmt rm clr)) _ (fld_w28_60_4 6#4 fmt rm clr 0#53) (fld_w28_57_3 6#4 fmt rm clr 0#53) (fld_w28_54_3 6#4 fmt rm clr 0#53) (fld_w28_53_1 6#4 fmt rm clr 0#53) (fld_w28_0_53 6#4 fmt rm clr 0#53)
  intro w h0 h1 h2 h3 h4
  unfold decodeGallery
  rw [h0]
  dsimp only [BitVec.reduceToNat]
  simp [h1, h2, h3, h4, h]
theorem gdrain (row0 : BitVec 8) (n : BitVec 9) (dmask : BitVec 16) (tag : BitVec 16) : Statement (.gdrain row0 n dmask tag) := of_gallery _ _ rfl rfl rfl rfl fun h => by
  simp [wellFormed] at h
  refine (?_ : ∀ w : W64, fld w 60 4 = 7#4 →
      fld w 52 8 = row0 →
      fld w 43 9 = n →
      fld w 27 16 = dmask →
      fld w 11 16 = tag →
      fld w 0 11 = 0#11 → decodeGallery w = .ok (.gdrain row0 n dmask tag)) _ (fld_w29_60_4 7#4 row0 n dmask tag 0#11) (fld_w29_52_8 7#4 row0 n dmask tag 0#11) (fld_w29_43_9 7#4 row0 n dmask tag 0#11) (fld_w29_27_16 7#4 row0 n dmask tag 0#11) (fld_w29_11_16 7#4 row0 n dmask tag 0#11) (fld_w29_0_11 7#4 row0 n dmask tag 0#11)
  intro w h0 h1 h2 h3 h4 h5
  unfold decodeGallery
  rw [h0]
  dsimp only [BitVec.reduceToNat]
  simp [h1, h2, h3, h4, h5, h]
theorem gsteer (smask : BitVec 16) : Statement (.gsteer smask) := of_gallery _ _ rfl rfl rfl rfl fun _ => by
  refine (?_ : ∀ w : W64, fld w 60 4 = 8#4 →
      fld w 44 16 = smask →
      fld w 0 44 = 0#44 → decodeGallery w = .ok (.gsteer smask)) _ (fld_w30_60_4 8#4 smask 0#44) (fld_w30_44_16 8#4 smask 0#44) (fld_w30_0_44 8#4 smask 0#44)
  intro w h0 h1 h2
  unfold decodeGallery
  rw [h0]
  dsimp only [BitVec.reduceToNat]
  simp [h1, h2]
theorem groute (entry : BitVec 4) (gk : BitVec 2) (lrow : BitVec 3) (ochan : BitVec 4) (eot : BitVec 1) (q : BitVec 4) (goff : BitVec 20) (rstr : BitVec 13) : Statement (.groute entry gk lrow ochan eot q goff rstr) := of_gallery _ _ rfl rfl rfl rfl fun h => by
  simp [wellFormed] at h
  refine (?_ : ∀ w : W64, fld w 60 4 = 9#4 →
      fld w 56 4 = entry →
      fld w 54 2 = gk →
      fld w 51 3 = lrow →
      fld w 47 4 = ochan →
      fld w 46 1 = eot →
      fld w 42 4 = q →
      fld w 22 20 = goff →
      fld w 22 4 = fld goff 0 4 →
      fld w 9 37 = q ++ goff ++ rstr →
      fld w 9 13 = rstr →
      fld w 0 9 = 0#9 → decodeGallery w = .ok (.groute entry gk lrow ochan eot q goff rstr)) _ (fld_w31_60_4 9#4 entry gk lrow ochan eot q goff rstr 0#9) (fld_w31_56_4 9#4 entry gk lrow ochan eot q goff rstr 0#9) (fld_w31_54_2 9#4 entry gk lrow ochan eot q goff rstr 0#9) (fld_w31_51_3 9#4 entry gk lrow ochan eot q goff rstr 0#9) (fld_w31_47_4 9#4 entry gk lrow ochan eot q goff rstr 0#9) (fld_w31_46_1 9#4 entry gk lrow ochan eot q goff rstr 0#9) (fld_w31_42_4 9#4 entry gk lrow ochan eot q goff rstr 0#9) (fld_w31_22_20 9#4 entry gk lrow ochan eot q goff rstr 0#9) (fld_w31_22_4 9#4 entry gk lrow ochan eot q goff rstr 0#9) (fld_w31_9_37 9#4 entry gk lrow ochan eot q goff rstr 0#9) (fld_w31_9_13 9#4 entry gk lrow ochan eot q goff rstr 0#9) (fld_w31_0_9 9#4 entry gk lrow ochan eot q goff rstr 0#9)
  intro w h0 h1 h2 h3 h4 h5 h6 h7 h8 h9 h10 h11
  unfold decodeGallery
  rw [h0]
  dsimp only [BitVec.reduceToNat]
  simp [h1, h2, h3, h4, h5, h6, h7, h8, h9, h10, h11]
  have hg : goff.toNat % 16 = 0 → fld goff 0 4 = 0#4 := fun e => BitVec.eq_of_toNat_eq (by simp [fld_toNat, e])
  have hr := rstr.isLt
  obtain ⟨a1, a2⟩ := h
  rw [if_neg, if_neg]
  · rintro ⟨e, hh⟩
    rcases a2 with a2 | ⟨a2, a3⟩
    · exact a2 e
    · rcases hh with hh | hh | hh
      · exact hh (hg a2)
      · omega
      · omega
  · rintro ⟨e, hh⟩
    rcases a1 with a1 | ⟨⟨rfl, rfl⟩, rfl⟩
    · exact e.elim a1.1 a1.2
    · exact hh (by decide)
theorem gfmt (afmt : BitVec 4) (bfmt : BitVec 4) : Statement (.gfmt afmt bfmt) := of_gallery _ _ rfl rfl rfl rfl fun h => by
  simp [wellFormed] at h
  refine (?_ : ∀ w : W64, fld w 60 4 = 10#4 →
      fld w 56 4 = afmt →
      fld w 52 4 = bfmt →
      fld w 0 52 = 0#52 → decodeGallery w = .ok (.gfmt afmt bfmt)) _ (fld_w32_60_4 10#4 afmt bfmt 0#52) (fld_w32_56_4 10#4 afmt bfmt 0#52) (fld_w32_52_4 10#4 afmt bfmt 0#52) (fld_w32_0_52 10#4 afmt bfmt 0#52)
  intro w h0 h1 h2 h3
  unfold decodeGallery
  rw [h0]
  dsimp only [BitVec.reduceToNat]
  simp [h1, h2, h3]
  grind
theorem gscale (sslot : BitVec 5) (soff : BitVec 5) : Statement (.gscale sslot soff) := of_gallery _ _ rfl rfl rfl rfl fun _ => by
  refine (?_ : ∀ w : W64, fld w 60 4 = 11#4 →
      fld w 55 5 = sslot →
      fld w 50 5 = soff →
      fld w 0 50 = 0#50 → decodeGallery w = .ok (.gscale sslot soff)) _ (fld_w33_60_4 11#4 sslot soff 0#50) (fld_w33_55_5 11#4 sslot soff 0#50) (fld_w33_50_5 11#4 sslot soff 0#50) (fld_w33_0_50 11#4 sslot soff 0#50)
  intro w h0 h1 h2 h3
  unfold decodeGallery
  rw [h0]
  dsimp only [BitVec.reduceToNat]
  simp [h1, h2, h3]
theorem gfence (entry : BitVec 4) (tag : BitVec 16) : Statement (.gfence entry tag) := of_gallery _ _ rfl rfl rfl rfl fun _ => by
  refine (?_ : ∀ w : W64, fld w 60 4 = 12#4 →
      fld w 56 4 = entry →
      fld w 40 16 = tag →
      fld w 0 40 = 0#40 → decodeGallery w = .ok (.gfence entry tag)) _ (fld_w34_60_4 12#4 entry tag 0#40) (fld_w34_56_4 12#4 entry tag 0#40) (fld_w34_40_16 12#4 entry tag 0#40) (fld_w34_0_40 12#4 entry tag 0#40)
  intro w h0 h1 h2 h3
  unfold decodeGallery
  rw [h0]
  dsimp only [BitVec.reduceToNat]
  simp [h1, h2, h3]
theorem gstatus (entry : BitVec 4) (sel : BitVec 1) (clr : BitVec 1) : Statement (.gstatus entry sel clr) := of_gallery _ _ rfl rfl rfl rfl fun _ => by
  refine (?_ : ∀ w : W64, fld w 60 4 = 13#4 →
      fld w 56 4 = entry →
      fld w 55 1 = sel →
      fld w 54 1 = clr →
      fld w 0 54 = 0#54 → decodeGallery w = .ok (.gstatus entry sel clr)) _ (fld_w35_60_4 13#4 entry sel clr 0#54) (fld_w35_56_4 13#4 entry sel clr 0#54) (fld_w35_55_1 13#4 entry sel clr 0#54) (fld_w35_54_1 13#4 entry sel clr 0#54) (fld_w35_0_54 13#4 entry sel clr 0#54)
  intro w h0 h1 h2 h3 h4
  unfold decodeGallery
  rw [h0]
  dsimp only [BitVec.reduceToNat]
  simp [h1, h2, h3, h4]
theorem reportTrap : Statement (.reportTrap) := of_event _ rfl
theorem blockRetire : Statement (.blockRetire) := of_event _ rfl
theorem handlerSelect : Statement (.handlerSelect) := of_event _ rfl
theorem controlTokenTake : Statement (.controlTokenTake) := of_event _ rfl
theorem linkTokenArrival : Statement (.linkTokenArrival) := of_event _ rfl
theorem returnLaneToken : Statement (.returnLaneToken) := of_event _ rfl
theorem gallopProbeReturn : Statement (.gallopProbeReturn) := of_event _ rfl
theorem scanReference : Statement (.scanReference) := of_event _ rfl
theorem isectStep : Statement (.isectStep) := of_event _ rfl
theorem unionStep : Statement (.unionStep) := of_event _ rfl
theorem sbayBarrier : Statement (.sbayBarrier) := of_event _ rfl
theorem repeatToken : Statement (.repeatToken) := of_event _ rfl
theorem reduceToken : Statement (.reduceToken) := of_event _ rfl
theorem selectToken : Statement (.selectToken) := of_event _ rfl
theorem partToken : Statement (.partToken) := of_event _ rfl
theorem lwriteToken : Statement (.lwriteToken) := of_event _ rfl
theorem lwriteHeadEntry : Statement (.lwriteHeadEntry) := of_event _ rfl
theorem bumpRequest : Statement (.bumpRequest) := of_event _ rfl
theorem translateRequest : Statement (.translateRequest) := of_event _ rfl
theorem pageTableWalk : Statement (.pageTableWalk) := of_event _ rfl
theorem pageReady : Statement (.pageReady) := of_event _ rfl
theorem shootdownDrainArrival : Statement (.shootdownDrainArrival) := of_event _ rfl
theorem stairElementIssue : Statement (.stairElementIssue) := of_event _ rfl
theorem stairWindowAnswer : Statement (.stairWindowAnswer) := of_event _ rfl
theorem stairLineReturn : Statement (.stairLineReturn) := of_event _ rfl
theorem stairWriteAck : Statement (.stairWriteAck) := of_event _ rfl
theorem stairTokenArrival : Statement (.stairTokenArrival) := of_event _ rfl
theorem fenceRelease : Statement (.fenceRelease) := of_event _ rfl
theorem memoryPortDone : Statement (.memoryPortDone) := of_event _ rfl
theorem commandStart : Statement (.commandStart) := of_event _ rfl
theorem commandRetire : Statement (.commandRetire) := of_event _ rfl
theorem sinkCountZero : Statement (.sinkCountZero) := of_event _ rfl
theorem bankRequestServe : Statement (.bankRequestServe) := of_event _ rfl
theorem parkedReadServe : Statement (.parkedReadServe) := of_event _ rfl
theorem mbankApply : Statement (.mbankApply) := of_event _ rfl
theorem mportTokenArrival : Statement (.mportTokenArrival) := of_event _ rfl
theorem updateToken : Statement (.updateToken) := of_event _ rfl
theorem updateWindowExpiry : Statement (.updateWindowExpiry) := of_event _ rfl
theorem memoryEdgeAccess : Statement (.memoryEdgeAccess) := of_event _ rfl
theorem galleryCrossing : Statement (.galleryCrossing) := of_event _ rfl
theorem galleryMarker : Statement (.galleryMarker) := of_event _ rfl
theorem gclaimGrant : Statement (.gclaimGrant) := of_event _ rfl
theorem greleaseExecute : Statement (.greleaseExecute) := of_event _ rfl
theorem gclearExecute : Statement (.gclearExecute) := of_event _ rfl
theorem gdrainExecute : Statement (.gdrainExecute) := of_event _ rfl
theorem gfenceExecute : Statement (.gfenceExecute) := of_event _ rfl
theorem gstatusExecute : Statement (.gstatusExecute) := of_event _ rfl
theorem operandLineWrite : Statement (.operandLineWrite) := of_event _ rfl
theorem galleryRowFire : Statement (.galleryRowFire) := of_event _ rfl
theorem flitReceive : Statement (.flitReceive) := of_event _ rfl
theorem laneFailure : Statement (.laneFailure) := of_event _ rfl
theorem portRetrained : Statement (.portRetrained) := of_event _ rfl
theorem rreq : Statement (.rreq) := of_event _ rfl
theorem wreq : Statement (.wreq) := of_event _ rfl
theorem areq : Statement (.areq) := of_event _ rfl
theorem cred : Statement (.cred) := of_event _ rfl
theorem rresp : Statement (.rresp) := of_event _ rfl
theorem wack : Statement (.wack) := of_event _ rfl
theorem rdreq : Statement (.rdreq) := of_event _ rfl
theorem rdwr : Statement (.rdwr) := of_event _ rfl
theorem rdsent : Statement (.rdsent) := of_event _ rfl
theorem rdflt : Statement (.rdflt) := of_event _ rfl
theorem rdack : Statement (.rdack) := of_event _ rfl
theorem gack : Statement (.gack) := of_event _ rfl
theorem wabort : Statement (.wabort) := of_event _ rfl
theorem reservedPacketDiscard : Statement (.reservedPacketDiscard) := of_event _ rfl
theorem sourceTimeout : Statement (.sourceTimeout) := of_event _ rfl
theorem deadPeerBroadcast : Statement (.deadPeerBroadcast) := of_event _ rfl
theorem rdforTimeout : Statement (.rdforTimeout) := of_event _ rfl
theorem launchToken : Statement (.launchToken) := of_event _ rfl
theorem placement : Statement (.placement) := of_event _ rfl
theorem switchMarker : Statement (.switchMarker) := of_event _ rfl
theorem switchCompletion : Statement (.switchCompletion) := of_event _ rfl
theorem regionCompletion : Statement (.regionCompletion) := of_event _ rfl
theorem swapStart : Statement (.swapStart) := of_event _ rfl
theorem drainArrival : Statement (.drainArrival) := of_event _ rfl
theorem saveComplete : Statement (.saveComplete) := of_event _ rfl
theorem restore : Statement (.restore) := of_event _ rfl
theorem revokingRestore : Statement (.revokingRestore) := of_event _ rfl
theorem watchdogStall : Statement (.watchdogStall) := of_event _ rfl
theorem saveWatchdogExpiry : Statement (.saveWatchdogExpiry) := of_event _ rfl
theorem snapshotArrival : Statement (.snapshotArrival) := of_event _ rfl
theorem snapshotComplete : Statement (.snapshotComplete) := of_event _ rfl
theorem bayFailure : Statement (.bayFailure) := of_event _ rfl
theorem spareSwitchIn : Statement (.spareSwitchIn) := of_event _ rfl
theorem fcmdResume : Statement (.fcmdResume) := of_event _ rfl
theorem fcmdResumeSkip : Statement (.fcmdResumeSkip) := of_event _ rfl
theorem fcmdAbort : Statement (.fcmdAbort) := of_event _ rfl
theorem barrierArrival : Statement (.barrierArrival) := of_event _ rfl
theorem barrierPhaseComplete : Statement (.barrierPhaseComplete) := of_event _ rfl
theorem barrierPhaseReceive : Statement (.barrierPhaseReceive) := of_event _ rfl
theorem mwaitWake : Statement (.mwaitWake) := of_event _ rfl
theorem mwaitTimeout : Statement (.mwaitTimeout) := of_event _ rfl
theorem trpop : Statement (.trpop) := of_event _ rfl
theorem tkpay : Statement (.tkpay) := of_event _ rfl
theorem hmskWrite : Statement (.hmskWrite) := of_event _ rfl
theorem sfrdWrite : Statement (.sfrdWrite) := of_event _ rfl
theorem barcfgWrite : Statement (.barcfgWrite) := of_event _ rfl
theorem registerWrite : Statement (.registerWrite) := of_event _ rfl
theorem arcDeadWrite : Statement (.arcDeadWrite) := of_event _ rfl
theorem arcIinv : Statement (.arcIinv) := of_event _ rfl
theorem resyncRequest : Statement (.resyncRequest) := of_event _ rfl
theorem rlaunch : Statement (.rlaunch) := of_event _ rfl
theorem hbmret : Statement (.hbmret) := of_event _ rfl
theorem sqinv : Statement (.sqinv) := of_event _ rfl
theorem kcmdLoad : Statement (.kcmdLoad) := of_event _ rfl
theorem kcmdClear : Statement (.kcmdClear) := of_event _ rfl
theorem pwrRun : Statement (.pwrRun) := of_event _ rfl
theorem pwrIdle : Statement (.pwrIdle) := of_event _ rfl
theorem pwrD3hot : Statement (.pwrD3hot) := of_event _ rfl
theorem ingbWrite : Statement (.ingbWrite) := of_event _ rfl
theorem ingressWord : Statement (.ingressWord) := of_event _ rfl
theorem consumerIndexWrite : Statement (.consumerIndexWrite) := of_event _ rfl
theorem sinkQueueDelivery : Statement (.sinkQueueDelivery) := of_event _ rfl
theorem bar4Access : Statement (.bar4Access) := of_event _ rfl
theorem bringUp : Statement (.bringUp) := of_event _ rfl
theorem thermalThrottle : Statement (.thermalThrottle) := of_event _ rfl
theorem thermalRecover : Statement (.thermalRecover) := of_event _ rfl
theorem thermalShutdown : Statement (.thermalShutdown) := of_event _ rfl
theorem thermalReset : Statement (.thermalReset) := of_event _ rfl
theorem getVersion : Statement (.getVersion) := of_event _ rfl
theorem getCapabilities : Statement (.getCapabilities) := of_event _ rfl
theorem negotiateAlgorithms : Statement (.negotiateAlgorithms) := of_event _ rfl
theorem getDigests : Statement (.getDigests) := of_event _ rfl
theorem getCertificate : Statement (.getCertificate) := of_event _ rfl
theorem challenge : Statement (.challenge) := of_event _ rfl
theorem getMeasurements : Statement (.getMeasurements) := of_event _ rfl
theorem keyExchange : Statement (.keyExchange) := of_event _ rfl
theorem finish : Statement (.finish) := of_event _ rfl
theorem ideKm : Statement (.ideKm) := of_event _ rfl
theorem illegalInstruction : Statement (.illegalInstruction) := of_event _ rfl
theorem arcadeInvalidation : Statement (.arcadeInvalidation) := of_event _ rfl
theorem peerLineRegistration : Statement (.peerLineRegistration) := of_event _ rfl
theorem perstAssertion : Statement (.perstAssertion) := of_event _ rfl
theorem pciePowerStateChange : Statement (.pciePowerStateChange) := of_event _ rfl

end Sys2Proof.Laws.RoundTrip
end

