-- ==== Sys2Proof/Certificates/Slice0/Obligations.lean ====
section
/-! DEFINITION. The statements about the model, one definition each; each docstring names the rules of the specification it rests on. -/

open Sys2Proof Sys2Proof.Machine

/-- R58, R67, R73, R79, R202, R270: what `encode` writes for a well-formed instruction, `decode` reads back, with every operand and with
no byte left. -/
def Obligations.EncodedInstructionsReadBack : Prop :=
  ∀ i : Instr, wellFormed i = true → ∀ l bs, encode i = some (l, bs) → decode l bs = .ok (i, [])

/-- R68, R70, R73, R78, R85, R202, R270: an accepted word is the encoding of the instruction it stands for, so that no bit of it is
ignored. -/
def Obligations.DecodedWordsWriteBack : Prop :=
  (∀ w i, decodeLanding w = .ok i → wellFormed i = true ∧ encodeLanding i = some w) ∧
  (∀ w i, decodeBay w = .ok i → wellFormed i = true ∧ encodeBay i = some w) ∧
  (∀ w i, decodeCommand w = .ok i → wellFormed i = true ∧ encodeCommand i = some w) ∧
  (∀ w i, decodeGallery w = .ok i → wellFormed i = true ∧ encodeGallery i = some w) ∧
  (∀ w i, decodeTag w = .ok i → wellFormed i = true ∧ encodeTag i = some w)

namespace Sys2Proof.Claims

/-- The focused thread writes a register, with a poison bit, its instruction retires, and the next one follows; nothing else changes. -/
def wrote (s : State) (d : BitVec 5) (v : W64) (p : Bool) : Res := .next (s.setMe (s.me.wx d v p).next)

end Sys2Proof.Claims

open Sys2Proof.Claims

/-- R339, first part: each instruction of major 0x01. -/
def Obligations.IntegerRegisterResults : Prop :=
  ∀ (s : State) (d a b : BitVec 5),
    let x := (s.me.rx a).v
    let y := (s.me.rx b).v
    let p := (s.me.rx a).poison
    let q := (s.me.rx a).poison || (s.me.rx b).poison
    exec (.add d a b) s = wrote s d (x + y) q ∧
    exec (.sub d a b) s = wrote s d (x - y) q ∧
    exec (.and d a b) s = wrote s d (x &&& y) q ∧
    exec (.or d a b) s = wrote s d (x ||| y) q ∧
    exec (.xor d a b) s = wrote s d (x ^^^ y) q ∧
    exec (.shl d a b) s = wrote s d (BitVec.ofNat 64 (x.toNat * 2 ^ y.toNat)) q ∧
    exec (.shr d a b) s = wrote s d (BitVec.ofNat 64 (x.toNat / 2 ^ y.toNat)) q ∧
    exec (.sra d a b) s = wrote s d (BitVec.ofInt 64 (x.toInt / 2 ^ (min y.toNat 63))) q ∧
    exec (.mul d a b) s = wrote s d (BitVec.ofInt 64 (x.toInt * y.toInt)) q ∧
    exec (.mulh d a b) s = wrote s d ((BitVec.ofInt 128 (x.toInt * y.toInt)).extractLsb' 64 64) q ∧
    exec (.mulhN d a b) s = wrote s d ((BitVec.ofNat 128 (x.toNat * y.toNat)).extractLsb' 64 64) q ∧
    exec (.div d a b) s = wrote s d (if y = 0 then BitVec.allOnes 64 else x.sdiv y) q ∧
    exec (.divN d a b) s = wrote s d (if y = 0 then BitVec.allOnes 64 else x / y) q ∧
    exec (.rem d a b) s = wrote s d (if y = 0 then x else x - x.sdiv y * y) q ∧
    exec (.remN d a b) s = wrote s d (if y = 0 then x else x - x / y * y) q ∧
    exec (.slt d a b) s = wrote s d (if x.toInt < y.toInt then 1 else 0) q ∧
    exec (.sltN d a b) s = wrote s d (if x.toNat < y.toNat then 1 else 0) q ∧
    exec (.min d a b) s = wrote s d (if x.toInt ≤ y.toInt then x else y) q ∧
    exec (.max d a b) s = wrote s d (if x.toInt ≤ y.toInt then y else x) q ∧
    exec (.minN d a b) s = wrote s d (if x.toNat ≤ y.toNat then x else y) q ∧
    exec (.maxN d a b) s = wrote s d (if x.toNat ≤ y.toNat then y else x) q ∧
    exec (.clz d a) s = wrote s d (BitVec.ofNat 64 (if x = 0 then 64 else 63 - x.toNat.log2)) p ∧
    exec (.popc d a) s = wrote s d (BitVec.ofNat 64 ((List.range 64).countP fun i => x.getLsbD i)) p

/-- R339, second part: the instructions of majors 0x02–0x0D. -/
def Obligations.IntegerImmediateResults : Prop :=
  ∀ (s : State) (d a : BitVec 5) (imm : BitVec 16) (k : BitVec 6),
    let x := (s.me.rx a).v
    let p := (s.me.rx a).poison
    exec (.addi d a imm) s = wrote s d (BitVec.ofInt 64 (x.toInt + imm.toInt)) p ∧
    exec (.andi d a imm) s = wrote s d (BitVec.ofNat 64 (x.toNat &&& imm.toNat)) p ∧
    exec (.ori d a imm) s = wrote s d (BitVec.ofNat 64 (x.toNat ||| imm.toNat)) p ∧
    exec (.xori d a imm) s = wrote s d (BitVec.ofNat 64 (x.toNat ^^^ imm.toNat)) p ∧
    exec (.slti d a imm) s = wrote s d (if x.toInt < imm.toInt then 1 else 0) p ∧
    exec (.sltiN d a imm) s = wrote s d (if x.toNat < imm.toNat then 1 else 0) p ∧
    exec (.shli d a k) s = wrote s d (BitVec.ofNat 64 (x.toNat * 2 ^ k.toNat)) p ∧
    exec (.shri d a k) s = wrote s d (BitVec.ofNat 64 (x.toNat / 2 ^ k.toNat)) p ∧
    exec (.srai d a k) s = wrote s d (BitVec.ofInt 64 (x.toInt / 2 ^ k.toNat)) p ∧
    exec (.lui d imm) s = wrote s d (BitVec.ofInt 64 (imm.toInt * 2 ^ 16)) false ∧
    exec (.luh d a imm) s = wrote s d ((x &&& 0xFFFF0000FFFFFFFF) ||| (imm.setWidth 64 <<< 32)) p ∧
    exec (.luhh d a imm) s = wrote s d ((x &&& 0x0000FFFFFFFFFFFF) ||| (imm.setWidth 64 <<< 48)) p

namespace Sys2Proof.Claims

/-- R71: a condition code as a relation of two numbers read as signed and as unsigned. -/
def condition (cond : BitVec 3) (x y : W64) : Prop :=
  (cond = 0 ∧ x = y) ∨ (cond = 1 ∧ x ≠ y) ∨ (cond = 2 ∧ x.toInt < y.toInt) ∨ (cond = 3 ∧ y.toInt ≤ x.toInt) ∨
    (cond = 4 ∧ x.toNat < y.toNat) ∨ (cond = 5 ∧ y.toNat ≤ x.toNat)

/-- The focused thread writes a predicate, with a poison bit, its instruction retires, and the next one follows; nothing else changes. -/
def wrotePred (s : State) (n : BitVec 3) (v p : Bool) : Res := .next (s.setMe (s.me.wp n v p).next)

end Sys2Proof.Claims

open Sys2Proof.Claims

/-- R346, with R71's conditions and R330's p0. -/
def Obligations.PredicateResults : Prop :=
  (∀ (s : State) (n cond : BitVec 3) (a b : BitVec 5) (imm : BitVec 15), cond.toNat ≤ 5 → ∃ v w : Bool,
    (v = true ↔ condition cond (s.me.rx a).v (s.me.rx b).v) ∧
    (w = true ↔ condition cond (s.me.rx a).v (imm.signExtend 64)) ∧
    exec (.setp n cond a b) s = wrotePred s n v ((s.me.rx a).poison || (s.me.rx b).poison) ∧
    exec (.setpi n cond a imm) s = wrotePred s n w (s.me.rx a).poison) ∧
  (∀ (s : State) (n pa pb : BitVec 3),
    let x := (s.me.rp pa).v
    let y := (s.me.rp pb).v
    let q := (s.me.rp pa).poison || (s.me.rp pb).poison
    exec (.plog n 0 pa pb) s = wrotePred s n (x && y) q ∧
    exec (.plog n 1 pa pb) s = wrotePred s n (x || y) q ∧
    exec (.plog n 2 pa pb) s = wrotePred s n (Bool.xor x y) q ∧
    exec (.plog n 3 pa pb) s = wrotePred s n (x && !y) q) ∧
  (∀ (t : Thread) (v p : Bool), t.wp 0 v p = t ∧ (t.rp 0).v = true ∧ (t.rp 0).poison = false)

namespace Sys2Proof.Claims

/-- The focused thread's branch retires and it goes on at an address, or traps with `align` where the address is not a multiple of 4. -/
def wentTo (s : State) (t : Thread) (target : W64) : Res :=
  if target.toNat % 4 = 0 then
    .next (s.setMe { t with pc := target, instret := t.instret + 1, inWait := 0, ir := none })
  else .next (s.precise .align target)

end Sys2Proof.Claims

open Sys2Proof.Claims

/-- R345, with R58. -/
def Obligations.BranchTargets : Prop :=
  (∀ (s : State) (d a : BitVec 5) (imm : BitVec 16) (far : BitVec 26),
    let t := s.me
    exec (.br far) s = wentTo s t (t.pc + 4 * far.signExtend 64) ∧
    exec (.call far) s = wentTo s (t.wx 31 (t.pc + 4)) (t.pc + 4 * far.signExtend 64) ∧
    ((t.rx a).poison = false → exec (.jl d a imm) s = wentTo s (t.wx d (t.pc + 4)) ((t.rx a).v + imm.signExtend 64)) ∧
    ((t.rx a).poison = true → exec (.jl d a imm) s = .next (s.precise .poisonuse))) ∧
  (∀ (s : State) (n : BitVec 3) (sense : BitVec 1) (imm : BitVec 22),
    let t := s.me
    ((t.rp n).poison = true → exec (.bp n sense imm) s = .next (s.precise .poisonuse)) ∧
    ((t.rp n).poison = false → (t.rp n).v = (sense == 1) →
      exec (.bp n sense imm) s = wentTo s t (t.pc + 4 * imm.signExtend 64)) ∧
    ((t.rp n).poison = false → (t.rp n).v ≠ (sense == 1) → exec (.bp n sense imm) s = .next (s.setMe t.next))) ∧
  (∀ (s u : State) (h c : Nat) (k : Cause), partOk h 0 c = true → s.powered = true → s.threadRuns h c = true →
    s.outranked (.thread h c) = false → (s.thr h c).takesReport = false →
    ({ s with focus := { hall := h, elem := 0, ctx := c } } : State).fetch = .trap u k →
    act (.thread h c) s = .next (u.precise k u.me.pc))

namespace Sys2Proof.Claims

/-- R340: the address of a form-I access. -/
def address (s : State) (a : BitVec 5) (imm : BitVec 16) : W64 := (s.me.rx a).v + imm.signExtend 64

/-- A VA of n aligned bytes translates for a kind of access, through the buffer or a walk, to a local address. -/
def Local (s : State) (va : W64) (n : Nat) (k : AccKind) (u : State) (x : Xlat) : Prop :=
  va.toNat % n = 0 ∧ s.xlate va k = (u, .ok x) ∧ x.rem = none

/-- The focused thread has no access waiting for an edge. -/
def NothingOwn (s : State) : Prop := ∀ p ∈ s.edge, p.mine s.focus.hall s.focus.ctx = false

/-- The bank of a local address, where it has one, is open to the focused landing core, and n bytes are read there through the data cache without a
refusal. -/
def Readable (u : State) (x : Xlat) (n : Nat) (r : ERead) : Prop :=
  u.lcOpen x.pa = true ∧ u.cachedRead u.focus.hall x.pa n x.key = r ∧ r.cause = .none

/-- The seven plain loads: the instruction, its bytes, and how it extends their number. -/
def plainLoads (d a : BitVec 5) (imm : BitVec 16) : List (Instr × Nat × (Nat → W64)) :=
  [(.ldI8 d a imm, 1, fun v => (BitVec.ofNat 8 v).signExtend 64), (.ldN8 d a imm, 1, fun v => BitVec.ofNat 64 (v % 2 ^ 8)),
    (.ldI16 d a imm, 2, fun v => (BitVec.ofNat 16 v).signExtend 64), (.ldN16 d a imm, 2, fun v => BitVec.ofNat 64 (v % 2 ^ 16)),
    (.ldI32 d a imm, 4, fun v => (BitVec.ofNat 32 v).signExtend 64), (.ldN32 d a imm, 4, fun v => BitVec.ofNat 64 (v % 2 ^ 32)),
    (.ld64 d a imm, 8, fun v => BitVec.ofNat 64 v)]

end Sys2Proof.Claims

open Sys2Proof.Claims

/-- R340, R337, R315, R112. -/
def Obligations.PlainLoadResults : Prop :=
  ∀ (s u : State) (d a : BitVec 5) (imm : BitVec 16) (x : Xlat), (s.me.rx a).poison = false →
    ∀ i n f, (i, n, f) ∈ plainLoads d a imm → Local s (address s a imm) n .read u x →
      (∀ r, NothingOwn u → Readable u x n r → exec i s = wrote (r.s.logAll u.lcSite r.logs) d (f (leNat r.bytes)) r.poison) ∧
      (∀ bs, (granules (u.placeOf x.pa) n).any u.mem.pois.contains = false → u.forwarded u.focus.hall u.focus.ctx x.pa n = some bs →
        exec i s = wrote u d (f (leNat bs)) false)

/-- R337's column of the loads, with the alignment of R340, R342 and R347. -/
def Obligations.LoadFaults : Prop :=
  (∀ (s : State) (d a : BitVec 5) (imm : BitVec 16) i n f, (i, n, f) ∈ plainLoads d a imm →
    ((s.me.rx a).poison = true → ∃ v, exec i s = wrote s.drawn d v true) ∧
    ((s.me.rx a).poison = false → (address s a imm).toNat % n ≠ 0 → exec i s = .next (s.precise .align (address s a imm))) ∧
    ((s.me.rx a).poison = false → (address s a imm).toNat % n = 0 → ∀ u c, s.xlate (address s a imm) .read = (u, .error c) →
      (c = .nopage → exec i s = .next (u.precise .nopage (address s a imm))) ∧
      (c ≠ .nopage → ∃ v, exec i s = wrote (u.drawn.logFault c u.lcSite (address s a imm).toNat) d v true))) ∧
  (∀ (s : State) (d a : BitVec 5) (n : BitVec 4), (s.me.rx a).poison = false →
    (s.me.rx a).v.toNat % 8 ≠ 0 → exec (.ldm d a n) s = .next (s.precise .align (s.me.rx a).v)) ∧
  (∀ (s : State) (d a : BitVec 5) (z : BitVec 2) (scope : BitVec 3) (sx : BitVec 1), (s.me.rx a).poison = false →
    (s.me.rx a).v.toNat % 2 ^ z.toNat ≠ 0 → exec (.ldAcq d a z scope sx) s = .next (s.precise .align (s.me.rx a).v)) ∧
  (∀ (s : State) (c : BitVec 3) (a : BitVec 5) (imm : BitVec 16), (s.me.rx a).poison = false →
    (address s a imm).toNat % 16 ≠ 0 → exec (.cld c a imm) s = .next (s.precise .align (address s a imm)))

namespace Sys2Proof.Claims

/-- The four plain stores and their bytes. -/
def plainStores (a b : BitVec 5) (imm : BitVec 16) : List (Instr × Nat) :=
  [(.st8 a b imm, 1), (.st16 a b imm, 2), (.st32 a b imm, 4), (.st64 a b imm, 8)]

/-- A store of the focused thread, of bytes to a local address, waits for its edge. -/
def storeWaits (u : State) (x : Xlat) (va : W64) (bs : List Byte) : State :=
  { u with edge := u.edge ++ [{ who := .thread u.focus.hall u.focus.ctx, pa := x.pa, key := x.key, size := bs.length, data := bs, va := va }] }

/-- The focused thread's instruction retires and the next one follows; nothing else changes. -/
def retired (s : State) : Res := .next (s.setMe s.me.next)

end Sys2Proof.Claims

open Sys2Proof.Claims

/-- R340's stores, with R315's order, R331's sixteen outstanding stores and R337's column of the stores. -/
def Obligations.PlainStoreResults : Prop :=
  ∀ (s : State) (a b : BitVec 5) (imm : BitVec 16) i n, (i, n) ∈ plainStores a b imm → s.sent = false →
    (s.storeRoom s.focus.hall s.focus.ctx = false → exec i s = .next s) ∧
    (s.storeRoom s.focus.hall s.focus.ctx = true →
      let va := address s a imm
      ((s.me.rx a).poison = true ∨ (s.me.rx b).poison = true → exec i s = .next (s.precise .poisonuse va)) ∧
      ((s.me.rx a).poison = false → (s.me.rx b).poison = false →
        (va.toNat % n ≠ 0 → exec i s = .next (s.precise .align va)) ∧
        (∀ u c, va.toNat % n = 0 → s.xlate va .write = (u, .error c) → exec i s = .next (u.precise c va)) ∧
        (∀ u x, Local s va n .write u x → u.edgeRefuses x.pa n x.key = .none →
          exec i s = retired (storeWaits u x va (leBytes n (s.me.rx b).v.toNat)) ∧
          (storeWaits u x va (leBytes n (s.me.rx b).v.toNat)).mem = u.mem)))

/-- R306, R94, R193: the store that `focus.idx` names, with no earlier access it must follow, reaches its edge; no region's fault ring is
written, since nothing is found wrong with the line. -/
def Obligations.PerformedStoreChangesItsBytesOnly : Prop :=
  ∀ (s : State) (p : Pend) (h c : Nat), Memory.wf s.mem.cells = true → s.edge[s.focus.idx]? = some p → p.who = .thread h c → p.skip = [] → s.pendOpen p = true →
    ((s.edge.take s.focus.idx).any fun q => q.before p) = false →
    (spaceOf p.pa = .host ∨
      (spaceOf p.pa = .hbm ∧ p.key = 0 ∧ Tab.find s.mem.lkey (p.pa / 64) = none ∧ s.retiredAt p.pa = false ∧ s.mem.cvBad (p.pa / 64) = false) ∨
      (spaceOf p.pa = .spad ∧ s.mem.cvBad (s.placeOf p.pa / 64) = false)) →
    ∃ t, exec .memoryEdgeAccess s = .next t ∧ t.edge = s.edge.eraseIdx s.focus.idx ∧
      (∀ k, k < p.data.length → Memory.byte t.mem.cells (s.placeOf p.pa + k) = p.data.getD k 0) ∧
      (∀ a, a < s.placeOf p.pa ∨ s.placeOf p.pa + p.data.length ≤ a → Memory.byte t.mem.cells a = Memory.byte s.mem.cells a)

/-- R341, R316, R318, R344, R198. -/
def Obligations.OrderedAndSynchronisingAccesses : Prop :=
  (∀ (s u : State) (d a : BitVec 5) (z : BitVec 2) (scope : BitVec 3) (sx : BitVec 1) (x : Xlat) (r : ERead),
    s.sent = false → (s.me.rx a).poison = false → Local s (s.me.rx a).v (2 ^ z.toNat) .read u x → NothingOwn u → Readable u x (2 ^ z.toNat) r →
    exec (.ldAcq d a z scope sx) s = wrote (r.s.logAll u.lcSite r.logs) d
      (if sx = 1 then (BitVec.ofNat (8 * 2 ^ z.toNat) (leNat r.bytes)).signExtend 64 else BitVec.ofNat 64 (leNat r.bytes % 2 ^ (8 * 2 ^ z.toNat))) r.poison) ∧
  (∀ (s : State) (a b : BitVec 5) (z : BitVec 2) (scope : BitVec 3), s.sent = false →
    (s.quiet s.focus.hall s.focus.ctx = false → exec (.stRel a b z scope) s = .next s ∧ exec (.fence scope) s = .next s) ∧
    (s.quiet s.focus.hall s.focus.ctx = true → exec (.fence scope) s = retired s ∧
      ∀ u x, (s.me.rx a).poison = false → (s.me.rx b).poison = false → Local s (s.me.rx a).v (2 ^ z.toNat) .write u x →
        u.edgeRefuses x.pa (2 ^ z.toNat) x.key = .none →
        exec (.stRel a b z scope) s = retired (storeWaits u x (s.me.rx a).v (leBytes (2 ^ z.toNat) (s.me.rx b).v.toNat)))) ∧
  (∀ (s u : State) (d a : BitVec 5) (z : BitVec 2) (scope : BitVec 3) (clr sx : BitVec 1) (x : Xlat),
    s.sent = false → (s.me.rx a).poison = false → Local s (s.me.rx a).v (2 ^ z.toNat) .read u x →
    (spaceOf x.pa ≠ .spad → exec (.ldSync d a z clr sx) s = .next (u.precise .range (s.me.rx a).v) ∧
      exec (.ldSyncAcq d a z scope clr sx) s = .next (u.precise .range (s.me.rx a).v)) ∧
    (spaceOf x.pa = .spad → NothingOwn u →
      let p := u.spadPlace x.pa
      u.lcOpen x.pa = true → u.netRoom u.coreSrc p.1 p.2.1 = true →
      ∃ t, exec (.ldSync d a z clr sx) s = .next t ∧ exec (.ldSyncAcq d a z scope clr sx) s = .next t ∧
        t = (u.netSend u.coreSrc p.1 p.2.1 {
          op := if clr = 1 then .syncClr else .syncKeep
          boff := p.2.2
          size := 2 ^ z.toNat
          reply := .thread u.focus.hall u.focus.ctx (sx == 1)
          ctx := u.focus.ctx
          va := (s.me.rx a).v }).setMe { u.me with parked := true })) ∧
  (∀ (s : State) (d a : BitVec 5) (z : BitVec 2) (scope : BitVec 3) (clr sx : BitVec 1) (v : Reg64), s.me.served = some v →
    let t := { s.me with served := none, parked := false }
    let w := if sx = 1 then (BitVec.ofNat (8 * 2 ^ z.toNat) v.v.toNat).signExtend 64 else BitVec.ofNat 64 (v.v.toNat % 2 ^ (8 * 2 ^ z.toNat))
    exec (.ldSync d a z clr sx) s = .next (s.setMe (t.wx d w v.poison).next) ∧
    exec (.ldSyncAcq d a z scope clr sx) s = .next (s.setMe (t.wx d w v.poison).next))

namespace Sys2Proof.Claims

/-- Every VA of a list translates for a kind of access, one after the other, to a local address. -/
def LocalAll (k : AccKind) : State → List W64 → State → List Xlat → Prop
  | s, [], u, xs => u = s ∧ xs = []
  | s, va :: t, u, xs => ∃ v x rest, s.xlate va k = (v, .ok x) ∧ x.rem = none ∧ xs = x :: rest ∧ LocalAll k v t u rest

/-- The focused thread reads double words of this package's memory, one after the other, each without a refusal; it keeps what it has received. -/
def ReadsAll : State → List Xlat → State → List Reg64 → Prop
  | s, [], u, vs => u = s ∧ vs = []
  | s, x :: xs, u, vs => ∃ r rest, Readable s x 8 r ∧
      let v : Reg64 := { v := BitVec.ofNat 64 (leNat r.bytes), poison := r.poison }
      let w := r.s.logAll s.lcSite r.logs
      vs = v :: rest ∧ ReadsAll (w.setMe { w.me with got := s.me.got ++ [v] }) xs u rest

/-- n double words from an address. -/
def doubleWords (va : W64) (n : Nat) : List W64 := (List.range n).map fun i => va + BitVec.ofNat 64 (8 * i)

/-- Local stores of double words wait for their edges, in order. -/
def storesWait (u : State) : List W64 → List Xlat → List W64 → State
  | va :: vas, x :: xs, v :: vs => storesWait (storeWaits u x va (leBytes 8 v.toNat)) vas xs vs
  | _, _, _ => u

end Sys2Proof.Claims

open Sys2Proof.Claims

/-- R342, R347. -/
def Obligations.SeveralRegistersAtOnce : Prop :=
  (∀ (s u w : State) (d a : BitVec 5) (n : BitVec 4) (xs : List Xlat) (vs : List Reg64), d.toNat + n.toNat ≤ 31 → (s.me.rx a).poison = false →
    u.me.got = [] → (s.me.rx a).v.toNat % 8 = 0 → LocalAll .read s (doubleWords (s.me.rx a).v (n.toNat + 1)) u xs → NothingOwn u →
    ReadsAll u xs w vs →
    ∃ t, exec (.ldm d a n) s = .next t ∧ t.mem = w.mem ∧ t.me.pc = u.me.pc + 4 ∧ t.me.got = [] ∧
      (∀ k ≤ n.toNat, d.toNat + k ≠ 0 → ∀ v, vs[k]? = some v → t.me.rx (BitVec.ofNat 5 (d.toNat + k)) = v) ∧
      (∀ r : BitVec 5, (r.toNat < d.toNat ∨ d.toNat + n.toNat < r.toNat) → t.me.rx r = u.me.rx r)) ∧
  (∀ (s u : State) (d a : BitVec 5) (n : BitVec 4) (xs : List Xlat), d.toNat + n.toNat ≤ 31 → s.sent = false →
    s.storeRoom s.focus.hall s.focus.ctx (n.toNat + 1) = true → s.me.got = [] →
    let regs := (List.range (n.toNat + 1)).map fun k => s.me.rx (BitVec.ofNat 5 (d.toNat + k))
    ((s.me.rx a).poison = true ∨ (∃ r ∈ regs, r.poison = true) → exec (.stm d a n) s = .next (s.precise .poisonuse (s.me.rx a).v)) ∧
    ((s.me.rx a).poison = false → (∀ r ∈ regs, r.poison = false) → (s.me.rx a).v.toNat % 8 = 0 →
      LocalAll .write s (doubleWords (s.me.rx a).v (n.toNat + 1)) u xs → (∀ x ∈ xs, u.edgeRefuses x.pa 8 x.key = .none) →
      ∃ t, exec (.stm d a n) s = .next t ∧ t.me.pc = u.me.pc + 4 ∧ t.mem = u.mem ∧
        t.edge = (storesWait u (doubleWords (s.me.rx a).v (n.toNat + 1)) xs (regs.map fun r => r.v)).edge)) ∧
  (∀ (s u w : State) (c : BitVec 3) (a : BitVec 5) (imm : BitVec 16) (x : Xlat) (v0 v1 : Reg64), (s.me.rx a).poison = false → u.me.got = [] →
    Local s (address s a imm) 16 .read u x → NothingOwn u → ReadsAll u [x, { x with pa := x.pa + 8 }] w [v0, v1] →
    ∃ t, exec (.cld c a imm) s = .next t ∧ t.mem = w.mem ∧ t.me.pc = u.me.pc + 4 ∧
      t.me.rc c = { v := BitVec.ofNat 128 (v0.v.toNat + 2 ^ 64 * v1.v.toNat), poison := v0.poison || v1.poison, fresh := 0 }) ∧
  (∀ (s u : State) (c : BitVec 3) (a : BitVec 5) (imm : BitVec 16) (xs : List Xlat), s.sent = false →
    s.storeRoom s.focus.hall s.focus.ctx 2 = true → s.me.got = [] →
    ((s.me.rx a).poison = true ∨ (s.me.rc c).poison = true → exec (.cst c a imm) s = .next (s.precise .poisonuse (address s a imm))) ∧
    ((s.me.rx a).poison = false → (s.me.rc c).poison = false → (address s a imm).toNat % 16 = 0 →
      LocalAll .write s (doubleWords (address s a imm) 2) u xs → (∀ x ∈ xs, u.edgeRefuses x.pa 8 x.key = .none) →
      ∃ t, exec (.cst c a imm) s = .next t ∧ t.me.pc = u.me.pc + 4 ∧ t.mem = u.mem ∧
        t.edge = (storesWait u (doubleWords (address s a imm) 2) xs
          [(s.me.rc c).v.extractLsb' 0 64, (s.me.rc c).v.extractLsb' 64 64]).edge))

namespace Sys2Proof.Claims

/-- R287, codes 0 to 8, on n bytes. -/
def updated (op n old v : Nat) : Nat :=
  let m := 2 ^ (8 * n)
  let sg (z : Nat) : Int := if z < m / 2 then z else (z : Int) - m
  match op with
  | 0 => (old + v) % m
  | 1 => old &&& v
  | 2 => old ||| v
  | 3 => old ^^^ v
  | 4 => if sg old ≤ sg v then old else v
  | 5 => if sg old ≤ sg v then v else old
  | 6 => if old ≤ v then old else v
  | 7 => if old ≤ v then v else old
  | _ => v

end Sys2Proof.Claims

open Sys2Proof.Claims

/-- R343, R287. -/
def Obligations.AtomicResults : Prop :=
  ∀ (s : State) (d a b : BitVec 5) (dbl : BitVec 1) (scope : BitVec 3) (order : BitVec 2) (op : BitVec 4), op.toNat ≤ 8 → s.sent = false →
    let n := if dbl = 1 then 8 else 4
    let va := (s.me.rx a).v
    let v := (s.me.rx b).v.toNat % 2 ^ (8 * n)
    ((s.me.rx a).poison = true ∨ (s.me.rx b).poison = true → exec (.amo d a b dbl scope order op) s = .next (s.precise .poisonuse va)) ∧
    ((s.me.rx a).poison = true ∨ (s.me.rx b).poison = true ∨ (s.me.rx d).poison = true →
      exec (.cas d a b dbl scope order) s = .next (s.precise .poisonuse va)) ∧
    ((s.me.rx a).poison = false → (s.me.rx b).poison = false →
      (va.toNat % n ≠ 0 → exec (.amo d a b dbl scope order op) s = .next (s.precise .align va)) ∧
      (va.toNat % n = 0 → order.getLsbD 1 = true → s.quiet s.focus.hall s.focus.ctx = false →
        exec (.amo d a b dbl scope order op) s = .next s) ∧
      (∀ u x bs, Local s va n .atomic u x → (order.getLsbD 1 = true → s.quiet s.focus.hall s.focus.ctx = true) → NothingOwn u →
        u.lcOpen x.pa = true → u.edgeRead x.pa n x.key = { s := u, bytes := bs } → bs.length = n →
        (∀ w, u.edgeWrite x.pa (leBytes n (updated op.toNat n (leNat bs) v)) x.key = { s := w } →
          exec (.amo d a b dbl scope order op) s = wrote w d (BitVec.ofNat 64 (leNat bs)) false) ∧
        ((s.me.rx d).poison = false →
          (leNat bs ≠ (s.me.rx d).v.toNat % 2 ^ (8 * n) →
            exec (.cas d a b dbl scope order) s = wrote u d (BitVec.ofNat 64 (leNat bs)) false) ∧
          (∀ w, leNat bs = (s.me.rx d).v.toNat % 2 ^ (8 * n) → u.edgeWrite x.pa (leBytes n v) x.key = { s := w } →
            exec (.cas d a b dbl scope order) s = wrote w d (BitVec.ofNat 64 (leNat bs)) false))) ∧
      (∀ u x bs, Local s va n .atomic u x → (order.getLsbD 1 = true → s.quiet s.focus.hall s.focus.ctx = true) → NothingOwn u →
        u.lcOpen x.pa = true → u.edgeRead x.pa n x.key = { s := u, bytes := bs, poison := true } →
        ∃ z, exec (.amo d a b dbl scope order op) s = wrote ((u.logFault .poisonuse u.lcSite x.pa true).drawn) d z true))

namespace Sys2Proof.Claims

/-- Quarter K of a command register. -/
def quarter (v : BitVec 128) (k : Nat) : BitVec 32 := v.extractLsb' (32 * k) 32

end Sys2Proof.Claims

open Sys2Proof.Claims

/-- R347, R348, R349. -/
def Obligations.CommandRegistersAndStatus : Prop :=
  (∀ (s : State) (c : BitVec 3) (q : BitVec 2) (a : BitVec 5) (imm : BitVec 16),
    let old := s.me.rc c
    ∃ new : CReg, exec (.cmov c q a imm) s = .next (s.setMe (s.me.wc c new).next) ∧
      quarter new.v q.toNat = (address s a imm).setWidth 32 ∧
      (∀ k < 4, k ≠ q.toNat → quarter new.v k = quarter old.v k) ∧
      (new.poison = true ↔ (s.me.rx a).poison = true ∨ (old.poison = true ∧ old.fresh ||| (1#4 <<< q.toNat) ≠ 0xF)) ∧
      (new.fresh = if (s.me.rx a).poison = true then 0 else if new.poison = true then old.fresh ||| (1#4 <<< q.toNat) else 0)) ∧
  (∀ (s : State) (a : BitVec 5) (wait : BitVec 1),
    let n := (s.me.rx a).v.toNat % 65536
    let l := (s.disp s.focus.hall).stats
    let own (e : TStat) : Bool := e.ticket % 65536 == n && e.ctx == s.focus.ctx && some e.region == s.regionAt s.focus.hall s.focus.ctx
    ((s.me.rx a).poison = true → exec (.cstat a wait) s = .next (s.precise .poisonuse)) ∧
    ((s.me.rx a).poison = false → l.find? own = none →
      exec (.cstat a wait) s = wrote s a 0xA000000000000000 false) ∧
    (∀ e, (s.me.rx a).poison = false → l.find? own = some e →
      (e.ret = true → e.cause = .none → exec (.cstat a wait) s = wrote s a (BitVec.ofNat 64 (2 ^ 63 + n)) false) ∧
      (e.ret = true → e.cause ≠ .none → exec (.cstat a wait) s = wrote s a (BitVec.ofNat 64 (2 ^ 63 + 2 ^ 62 + e.cause.code * 2 ^ 48 + n)) false) ∧
      (e.ret = false → wait = 0 → exec (.cstat a wait) s = wrote s a (BitVec.ofNat 64 n) false) ∧
      (e.ret = false → wait = 1 → exec (.cstat a wait) s = .next (s.setMe { s.me with inWait := 4 })))) ∧
  (∀ (s : State) (c : BitVec 3) (a : BitVec 5),
    let h := s.focus.hall
    let trap (k : Cause) : Res := .next (s.precise k (BitVec.ofNat 64 (s.disp h).next))
    (64 ≤ (s.disp h).cmds.length → exec (.issue c a) s = .next s) ∧
    ((s.disp h).cmds.length < 64 → (s.me.rc c).poison = true → exec (.issue c a) s = trap .poisonuse) ∧
    ((s.disp h).cmds.length < 64 → (s.me.rc c).poison = false → cmdLegal (cmdW (s.me.rc c).v) = false → exec (.issue c a) s = trap .illegal) ∧
    ((s.disp h).cmds.length < 64 → (s.me.rc c).poison = false → cmdLegal (cmdW (s.me.rc c).v) = true →
      let b := s.shifted h s.focus.ctx (s.me.rc c).v
      let w := cmdW b
      w.cls < s.nclassOf h s.focus.ctx → w.ctx < s.nsOf h s.focus.ctx → (writingCmd w.op && w.eot) = false → w.hasDesc = false →
      (issueCheck s h s.focus.ctx w 0).cause = .none → w.op ≠ 0x15 →
      let k := issueCheck s h s.focus.ctx w 0
      exec (.issue c a) s =
        wrote ((k.s.enqueueCmd h s.focus.ctx b 0 k.aux).shutWindow h s.focus.ctx w (k.s.disp h).next) a (BitVec.ofNat 64 (k.s.disp h).next) false) ∧
    ((s.disp h).cmds.length < 64 → (s.me.rc c).poison = false → cmdLegal (cmdW (s.me.rc c).v) = true →
      let b := s.shifted h s.focus.ctx (s.me.rc c).v
      let w := cmdW b
      w.cls < s.nclassOf h s.focus.ctx → w.ctx < s.nsOf h s.focus.ctx → w.op = 0x15 → w.hasDesc = true →
      ∀ v d, readDesc s (s.rootOf h s.focus.ctx) (BitVec.ofNat 64 w.addr) = .ok v d → (issueCheck v h s.focus.ctx w d).cause = .none →
        v.me.pl = false → exec (.issue c a) s =
          .next ((issueCheck v h s.focus.ctx w d).s.precise .prot (BitVec.ofNat 64 ((issueCheck v h s.focus.ctx w d).s.disp (issueCheck v h s.focus.ctx w d).s.focus.hall).next))))

namespace Sys2Proof.Claims

/-- R268, where the maximum is a multiple of the granule: the request, or at most the maximum. -/
def granted (req mx : Nat) : Nat := min req mx

/-- R351: the fields of a shape register. -/
def shapeReg (kind g0 g1 : Nat) (empty : Bool) : W64 :=
  BitVec.ofNat 64 (kind * 2 ^ 62 + (if empty then 2 ^ 61 else 0) + g1 * 2 ^ 16 + g0)

end Sys2Proof.Claims

open Sys2Proof.Claims

/-- R350, R351, R352, with R268 and R218. -/
def Obligations.ShapeGrants : Prop :=
  (∀ (s : State) (d : BitVec 2) (a b : BitVec 5) (kind : BitVec 2),
    let x := (s.me.rx a).v.toNat
    let y := (s.me.rx b).v.toNat
    let put (v : W64) : Res := .next (s.setMe { s.me with sh := Tab.put s.me.sh d.toNat v }.next)
    ((s.me.rx a).poison = true → exec (.shape d a b kind) s = .next (s.precise .poisonuse)) ∧
    ((s.me.rx a).poison = false →
      ((s.me.rx b).poison = true → exec (.shape d a b 0) s = .next (s.precise .poisonuse)) ∧
      ((s.me.rx b).poison = false →
        let k := granted x 256
        let n := granted y (if Config.binned (s.focus.hall / 16) then 192 else 256)
        exec (.shape d a b 0) s = put (shapeReg 0 k n (decide (k = 0 ∨ n = 0)))) ∧
      exec (.shape d a b 1) s = put (shapeReg 1 (granted x 128) 0 (decide (x = 0))) ∧
      exec (.shape d a b 2) s = put (shapeReg 2 (granted x 64) 0 (decide (x = 0))) ∧
      exec (.shape d a b 3) s = put (shapeReg 3 (granted x 32) 0 (decide (x = 0))))) ∧
  (∀ (s : State) (d n : BitVec 5),
    let v := Tab.get s.me.sh n.toNat 0
    exec (.shrd d n 0 0) s = wrote s d v false ∧
    exec (.shrd d n 0 1) s = wrote s d (BitVec.ofNat 64 (v.toNat % 2 ^ 16)) false ∧
    exec (.shrd d n 0 2) s = wrote s d (BitVec.ofNat 64 (v.toNat / 2 ^ 16 % 2 ^ 16)) false ∧
    (∀ f : BitVec 2, f ≠ 3 → ∃ t, exec (.shrd d n 0 f) s = .next (s.setMe t) ∧
      exec (.shrd d n 1 f) s = .next (s.setMe { t with sh := Tab.put t.sh n.toNat (v &&& 0xEFFFFFFFFFFFFFFF) })))

namespace Sys2Proof.Claims

/-- The lowest watch entry with a latched cause. -/
def firstLatched (t : Thread) (n : Nat) : Prop := n < 16 ∧ (t.watch n).cause ≠ 0 ∧ ∀ k < n, (t.watch k).cause = 0

/-- The `mwait` at the thread's address no longer waits. -/
def ended (t : Thread) : Thread := { t with mwLeft := Tab.del t.mwLeft t.pc.toNat, mwD := none }

/-- What `mwait` leaves when it reports an entry: the cause cleared, its word in xd, no wait left. -/
def reported (t : Thread) (d : BitVec 5) (n : Nat) : Thread :=
  let u := t.setWatch n { t.watch n with cause := 0 }
  let more := decide (∃ k ∈ List.range 16, (u.watch k).cause ≠ 0)
  ended (u.wx d (BitVec.ofNat 64 ((if more then 256 else 0) + 16 * n + (t.watch n).cause)))

/-- What `mwait` leaves when its time has run out. -/
def timedOut (t : Thread) (d : BitVec 5) : Thread := ended (t.wx d 2)

end Sys2Proof.Claims

open Sys2Proof.Claims

/-- R353, R354, R355. -/
def Obligations.WatchingMemory : Prop :=
  (∀ (s : State) (m a : BitVec 5),
    let va := (s.me.rx a).v
    exec (.unwatch m) s = .next (s.setMe (s.me.setWatch m.toNat {}).next) ∧
    (s.me.served = some { v := 0 } → ∃ t, exec (.watch m a) s = .next (s.setMe t) ∧ t.parked = false ∧ t.served = none ∧ t.pc = s.me.pc + 4 ∧
      t.watch m.toNat = { s.me.watch m.toNat with armed := true }) ∧
    (s.sent = false → (s.me.rx a).poison = true → exec (.watch m a) s = .next (s.precise .poisonuse va)) ∧
    (s.sent = false → (s.me.rx a).poison = false →
      (∀ u x p, s.xlate va .read = (u, .ok x) → x.rem = some p → u.peerFault u.focus.hall p false = .none →
        ∃ t, exec (.watch m a) s = .next t ∧ t.me.watch m.toNat = { va := va, pa := x.pa / 64, peer := some p } ∧ t.me.parked = true ∧
          t.me.pc = u.me.pc ∧ t.arc.regOut = u.arc.regOut ++ [(p, x.pa / 64 * 64, tkey u.focus.hall u.focus.ctx, m.toNat)]) ∧
      (∀ u c, s.xlate va .read = (u, .error c) → exec (.watch m a) s = .next (u.precise c va)) ∧
      (∀ u x, s.xlate va .read = (u, .ok x) → x.rem = none → spaceOf x.pa ≠ .reserved →
        exec (.watch m a) s = .next (u.setMe (u.me.setWatch m.toNat { va := va, pa := u.placeOf x.pa / 64, armed := true }).next)))) ∧
  (∀ (s : State) (d a : BitVec 5),
    ((s.me.rx a).poison = true → exec (.mwait d a) s = .next (s.precise .poisonuse)) ∧
    ((s.me.rx a).poison = false → s.me.mwSaved = some s.me.pc →
      exec (.mwait d a) s = .next (s.setMe { ended (s.me.wx d 4) with mwSaved := none }.next)) ∧
    ((s.me.rx a).poison = false → s.me.mwSaved ≠ some s.me.pc →
      (∀ n, firstLatched s.me n → exec (.mwait d a) s = .next (s.setMe (reported s.me d n).next)) ∧
      ((∀ k < 16, (s.me.watch k).cause = 0) →
        ((s.me.rx a).v = 0 → (∀ k < 16, (s.me.watch k).armed = false) → exec (.mwait d a) s = .next (s.setMe (timedOut s.me d).next)) ∧
        ((s.me.rx a).v ≠ 0 ∨ (∃ k < 16, (s.me.watch k).armed = true) → ∃ t, exec (.mwait d a) s = .next (s.setMe t) ∧ t.mwD = some d ∧
          t.pc = s.me.pc ∧ ((s.me.rx a).v ≠ 0 → Tab.find s.me.mwLeft s.me.pc.toNat = none → Tab.find t.mwLeft s.me.pc.toNat = some (s.me.rx a).v.toNat) ∧
          (Tab.find s.me.mwLeft s.me.pc.toNat ≠ none → t.mwLeft = s.me.mwLeft))))) ∧
  (∀ (s : State) (d : BitVec 5), s.me.mwD = some d →
    (∀ n, firstLatched s.me n → exec .mwaitWake s = .next (s.setMe (reported s.me d n).next)) ∧
    ((∀ k < 16, (s.me.watch k).cause = 0) → exec .mwaitWake s = .next s) ∧
    (Tab.find s.me.mwLeft s.me.pc.toNat = some 0 → (∀ k < 16, (s.me.watch k).cause = 0) → exec .mwaitTimeout s = .next (s.setMe (timedOut s.me d).next)))

/-- R356, R357. -/
def Obligations.BarrierPhases : Prop :=
  (∀ (s : State) (d n : BitVec 5),
    let h := s.focus.hall
    let b := s.bar h n.toNat
    let own := Tab.get s.me.own n.toNat b.phase
    (b.en = false ∨ b.mask.getLsbD h = false → exec (.arrive d n) s = .next (s.precise .cfg)) ∧
    (b.en = true → b.mask.getLsbD h = true → (own + 2 ^ 27 - b.phase) % 2 ^ 27 < 4 → s.quiet h s.focus.ctx = true →
      ∃ t, exec (.arrive d n) s = .next t ∧ t.barArr = s.barArr ++ [{ hall := b.home, n := n.toNat, phase := own, src := h }] ∧
        (d ≠ 0 → t.me.rx d = { v := BitVec.ofNat 64 (n.toNat * 2 ^ 27 + own % 2 ^ 27) }) ∧
        Tab.get t.me.own n.toNat 0 = (own + 1) % 2 ^ 27 ∧ t.me.pc = s.me.pc + 4 ∧ t.mem = s.mem)) ∧
  (∀ (s : State) (a : BitVec 5),
    let x := (s.me.rx a).v.toNat
    let b := s.bar s.focus.hall (x / 2 ^ 27 % 32)
    let gone := (b.phase + 2 ^ 27 - x % 2 ^ 27) % 2 ^ 27
    ((s.me.rx a).poison = true → exec (.await a) s = .next (s.precise .poisonuse)) ∧
    ((s.me.rx a).poison = false → b.en = false → exec (.await a) s = .next (s.precise .cfg)) ∧
    ((s.me.rx a).poison = false → b.en = true → 1 ≤ gone → gone ≤ 2 ^ 26 → exec (.await a) s = retired s) ∧
    ((s.me.rx a).poison = false → b.en = true → gone = 0 ∨ 2 ^ 26 < gone → exec (.await a) s = .next (s.setMe { s.me with inWait := 3 }))) ∧
  (∀ (s : State) (m : BarMsg), s.barArr[s.focus.idx]? = some m →
    let b := s.bar m.hall m.n
    ∃ t, exec .barrierArrival s = .next t ∧ t.barArr = s.barArr.eraseIdx s.focus.idx ∧
      (b.en = true → b.home = m.hall → b.mask.getLsbD m.src = true →
        Tab.get (t.bar m.hall m.n).count (m.phase % 4) 0 = Tab.get b.count (m.phase % 4) 0 + 1) ∧ (t.bar m.hall m.n).phase = b.phase) ∧
  (∀ (s : State),
    let h := s.focus.hall
    let b := s.bar h s.focus.idx
    b.en = true → b.home = h → 0 < b.cnt → Tab.get b.count (b.phase % 4) 0 = b.cnt →
    ∃ t, exec .barrierPhaseComplete s = .next t ∧ (t.bar h s.focus.idx).phase = (b.phase + 1) % 2 ^ 27 ∧
      (∀ k < 64, k ≠ h → b.mask.getLsbD k = true → { hall := k, n := s.focus.idx, phase := (b.phase + 1) % 2 ^ 27, src := h } ∈ t.barPh)) ∧
  (∀ (s : State) (m : BarMsg), s.barPh[s.focus.idx]? = some m →
    ((s.barPh.take s.focus.idx).any fun e => e.hall == m.hall && e.n == m.n && e.src == m.src) = false →
    (s.bar m.hall m.n).en = true → (s.bar m.hall m.n).home = m.src → (s.bar m.hall m.n).mask.getLsbD m.hall = true →
    ∃ t, exec .barrierPhaseReceive s = .next t ∧ t.barPh = s.barPh.eraseIdx s.focus.idx ∧ (t.bar m.hall m.n).phase = m.phase ∧
      (t.bar m.hall m.n).cnt = (s.bar m.hall m.n).cnt) ∧
  (∀ (s : State), s.focus.idx < 32 →
    let h := s.focus.hall
    let v := s.focus.val
    (barcfgBad h v (s.bar h s.focus.idx).mask = true → exec .barcfgWrite s = .next (s.precise .illegal)) ∧
    (barcfgBad h v (s.bar h s.focus.idx).mask = false → ∃ t, exec .barcfgWrite s = .next t ∧
      (t.bar h s.focus.idx).en = v.getLsbD 63 ∧ (t.bar h s.focus.idx).phase = 0 ∧ (t.bar h s.focus.idx).home = v.toNat / 2 ^ 48 % 64 ∧
      (t.bar h s.focus.idx).cnt = v.toNat / 2 ^ 32 % 2 ^ 16 ∧ (t.bar h s.focus.idx).count = [] ∧
      ((s.bar (v.toNat / 2 ^ 48 % 64) s.focus.idx).joins (v.toNat / 2 ^ 48 % 64) h = true →
        (t.bar (v.toNat / 2 ^ 48 % 64) s.focus.idx).count = [])))

namespace Sys2Proof.Claims

/-- R333: the thread after a trap at pl0. -/
def trapped (t : Thread) (cause info back : W64) : Thread :=
  { t with epc := back &&& 0x00FFFFFFFFFFFFFF, ecause := cause, einfo := info, ppl := t.pl, pl := true, pc := t.ebase,
           inWfi := false, mwD := none, inWait := 0, ir := none, parked := false, served := none, got := [] }

end Sys2Proof.Claims

open Sys2Proof.Claims

/-- R333, R334, R359, R78. -/
def Obligations.TrapsAndReturns : Prop :=
  (∀ (s : State) (code : BitVec 8), s.me.pl = false →
    exec (.trap code) s = .next (s.setMe (trapped s.me (0x4000000000000000 ||| (code.setWidth 64 <<< 8)) 0 (s.me.pc + 4))) ∧
    exec .illegalInstruction s = .next (s.setMe (trapped s.me 10 s.focus.val s.me.pc)) ∧
    exec .eret s = .next (s.setMe (trapped s.me 10 0xFC000400 s.me.pc)) ∧
    (∀ c info, s.precise c info = s.setMe (trapped s.me (BitVec.ofNat 64 c.code) info s.me.pc))) ∧
  (∀ (s : State) (code : BitVec 8), s.me.pl = true →
    (∃ t, exec (.trap code) s = .next t ∧ t.me.dead = true ∧ t.me.pc = s.me.pc ∧ t.me.x = s.me.x ∧ t.me.epc = s.me.epc ∧ t.me.ecause = s.me.ecause) ∧
    (s.me.epc.toNat % 4 = 0 → exec .eret s = .next (s.setMe { s.me with pl := s.me.ppl, pc := s.me.epc, instret := s.me.instret + 1, ir := none,
                                                                                     mwLeft := s.me.mwLeft.filter fun p => p.1 == s.me.epc.toNat })) ∧
    (s.me.epc.toNat % 4 ≠ 0 → ∃ t, exec .eret s = .next t ∧ t.me.dead = true ∧ t.me.x = s.me.x)) ∧
  (∀ (s : State) (r : BitVec 512) (rest : List (BitVec 512)), s.me.reps = r :: rest → s.me.live = true → s.me.dead = false → s.me.ie = true →
    s.me.pl = false → s.me.parked = false → s.me.served = none → s.me.got = [] →
    exec .reportTrap s = .next (s.setMe (trapped s.me (0x8000000000000000 ||| (r.extractLsb' 504 8).setWidth 64) 0 s.me.pc)))

/-- R336, R334, R335. -/
def Obligations.ControlRegisterReads : Prop :=
  (∀ (s : State) (d : BitVec 5) (csr : BitVec 8), csrListed csr.toNat = false →
    exec (.csrr d csr) s = .next (s.precise .illegal ((0xFC000000#32 ||| (d.setWidth 32 <<< 21) ||| csr.setWidth 32).setWidth 64))) ∧
  (∀ (s : State) (d : BitVec 5) (csr : BitVec 8), csrListed csr.toNat = true → csrReadPl1 csr.toNat = true → s.me.pl = false →
    exec (.csrr d csr) s = .next (s.precise .prot)) ∧
  (∀ (s : State) (d : BitVec 5),
    let h := s.focus.hall
    exec (.csrr d 0x00) s = wrote s d (BitVec.ofNat 64 (h % 64 * 2 ^ 8 + s.logCtx h s.focus.ctx % 4 * 2 ^ 6 + (if s.me.pl then 1 else 0))) false ∧
    exec (.csrr d 0x01) s = wrote s d (Tab.get s.cycle h 0) false ∧
    exec (.csrr d 0x02) s = wrote s d s.me.instret false ∧
    exec (.csrr d 0x08) s = wrote s d s.me.rcbva false ∧
    exec (.csrr d 0x20) s = wrote s d (match s.me.toks with | [] => 0 | k :: _ => BitVec.ofNat 64 (2 ^ 63 + k.header)) false ∧
    exec (.csrr d 0x32) s = wrote s d (s.me.sfsel.setWidth 64) false ∧
    (∀ k rest, s.me.toks = k :: rest → ∃ t, exec (.csrr d 0x21) s = .next (s.setMe t) ∧ t.toks = rest ∧ t.pc = s.me.pc + 4 ∧
      (d ≠ 0 → t.rx d = { v := k.payload, poison := k.kind == .data && k.poison })) ∧
    (s.me.toks = [] → exec (.csrr d 0x21) s = wrote s d 0 false)) ∧
  (∀ (s : State) (d : BitVec 5), s.me.pl = true →
    exec (.csrr d 0x09) s = wrote s d (s.me.lroot.setWidth 64) false ∧
    exec (.csrr d 0x10) s = wrote s d (BitVec.ofNat 64 ((if s.me.ie then 4 else 0) + (if s.me.ppl then 2 else 0) + 1)) false ∧
    exec (.csrr d 0x11) s = wrote s d s.me.epc false ∧
    exec (.csrr d 0x12) s = wrote s d s.me.ecause false ∧
    exec (.csrr d 0x13) s = wrote s d s.me.einfo false ∧
    exec (.csrr d 0x14) s = wrote s d s.me.ebase false ∧
    exec (.csrr d 0x15) s = wrote s d s.me.escr false ∧
    exec (.csrr d 0x16) s = wrote s d (BitVec.ofNat 64 s.me.reps.length) false ∧
    (∀ (k : Nat), k < 8 → exec (.csrr d (BitVec.ofNat 8 (0x18 + k))) s = wrote s d ((s.me.reps.headD 0).extractLsb' (64 * k) 64) false) ∧
    exec (.csrr d 0x30) s = wrote s d (s.me.hmsel.setWidth 64) false ∧
    (∀ (k : Nat), k < 32 → exec (.csrr d (BitVec.ofNat 8 (0xA0 + k))) s = wrote s d (s.bar s.focus.hall k).mask false) ∧
    exec (.csrr d 0xC0) s = wrote s d s.me.mwsel false)

/-- R336, R333, R334, R380. -/
def Obligations.ControlRegisterWrites : Prop :=
  (∀ (s : State) (a : BitVec 5) (csr : BitVec 8),
    (csrListed csr.toNat = true → csrWritePl1 csr.toNat = true → s.me.pl = false → exec (.csrw a csr) s = .next (s.precise .prot)) ∧
    (csrListed csr.toNat = true → s.me.pl = true → (s.me.rx a).poison = true → exec (.csrw a csr) s = .next (s.precise .poisonuse)) ∧
    (csrListed csr.toNat = false → ∃ w, exec (.csrw a csr) s = .next (s.precise .illegal w))) ∧
  (∀ (s : State) (a : BitVec 5), s.me.pl = true → (s.me.rx a).poison = false →
    let v := (s.me.rx a).v
    let t := s.me
    let put (u : Thread) : Res := .next (s.setMe u.next)
    exec (.csrw a 0x08) s = put { t with rcbva := v &&& 0x00FFFFFFFFFFFFFF } ∧
    exec (.csrw a 0x09) s = put { t with lroot := v.setWidth 37 } ∧
    exec (.csrw a 0x10) s = put { t with ie := v.getLsbD 2, ppl := v.getLsbD 1 } ∧
    exec (.csrw a 0x11) s = put { t with epc := v &&& 0x00FFFFFFFFFFFFFF } ∧
    exec (.csrw a 0x12) s = put { t with ecause := v &&& 0xC00000000000FFFF } ∧
    exec (.csrw a 0x13) s = put { t with einfo := v } ∧
    exec (.csrw a 0x14) s = put { t with ebase := v &&& 0x00FFFFFFFFFFFFFC } ∧
    exec (.csrw a 0x15) s = put { t with escr := v } ∧
    (bayKind (v.toNat % 64) = .a → exec (.csrw a 0x30) s = put { t with hmsel := v.setWidth 6 }) ∧
    (bayKind (v.toNat % 64) ≠ .a → exec (.csrw a 0x30) s = .next (s.precise .range)) ∧
    (bayKind (v.toNat % 64) = .s → exec (.csrw a 0x32) s = put { t with sfsel := v.setWidth 6 }) ∧
    (bayKind (v.toNat % 64) ≠ .s → exec (.csrw a 0x32) s = .next (s.precise .range)) ∧
    exec (.csrw a 0xC0) s = put { t with mwsel := v &&& 0x000000000000FFF8 } ∧
    (∀ n ∈ [0x00#8, 0x01, 0x02, 0x16, 0x18, 0x1F, 0x20], exec (.csrw a n) s = put t) ∧
    exec (.csrw a 0x31) s = put { t with hmOut := t.hmOut ++ [(t.hmsel.toNat, v)] } ∧
    (∀ (k : Nat), k < 32 → exec (.csrw a (BitVec.ofNat 8 (0xA0 + k))) s =
      .next ((s.setBar s.focus.hall k { s.bar s.focus.hall k with mask := v }).setMe t.next))) ∧
  (∀ (s : State) (rec : BitVec 512) (rest : List (BitVec 512)), s.me.reps = rec :: rest → rec.extractLsb' 464 8 ≠ 1 →
    exec .trpop s = .next (s.setMe { s.me with reps := rest })) ∧
  (∀ (s : State) (b : Nat) (m : W64) (rest : List (Nat × W64)), s.me.hmOut = (b, m) :: rest → b < 64 → s.focus.ctx < 4 →
    ∃ t, exec .hmskWrite s = .next t ∧ t.me = { s.me with hmOut := rest } ∧ (t.bayCtx s.focus.hall b s.focus.ctx).msk = some (m.setWidth 16)) ∧
  (∀ (s : State), bayKind s.me.sfsel.toNat = .s →
    ∃ t, exec .sfrdWrite s = .next t ∧ (t.unit s.focus.hall s.me.sfsel.toNat s.focus.ctx).sf =
      (s.unit s.focus.hall s.me.sfsel.toNat s.focus.ctx).sf &&& ~~~(s.focus.val.setWidth 6)) ∧
  (∀ (s : State), s.focus.aux = 0 → s.focus.idx = 0x15 → exec .registerWrite s = .next (s.setMe { s.me with escr := s.focus.val })) ∧
  (∀ (s : State) (k : Token) (rest : List Token), s.me.toks = k :: rest →
    ∃ t, exec .tkpay s = .next (s.setMe t) ∧ t.toks = rest ∧ t.pc = s.me.pc ∧
      (BitVec.ofNat 5 s.focus.idx ≠ 0 → t.rx (BitVec.ofNat 5 s.focus.idx) = { v := k.payload, poison := k.kind == .data && k.poison }))

/-- R92, R93, R359, R360. -/
def Obligations.FeaturesWaitsAndInvalidation : Prop :=
  (∀ (s : State) (d : BitVec 5),
    exec (.feat d 1) s = wrote s d 0x030000FF false ∧ exec (.feat d 2) s = wrote s d 0x0000404802040100 false ∧
    (∀ n : BitVec 8, 4 ≤ n.toNat → exec (.feat d n) s = wrote s d 0 false)) ∧
  (∀ s : State,
    (s.me.toks ≠ [] ∨ s.me.takesReport = true → exec .wfi s = .next (s.setMe { s.me with inWfi := false }.next)) ∧
    (s.me.toks = [] → s.me.takesReport = false → exec .wfi s = .next (s.setMe { s.me with inWfi := true }))) ∧
  (∀ s : State,
    let h := s.focus.hall
    ∃ t, exec .invalTlb s = .next t ∧ t.me.pc = s.me.pc + 4 ∧ t.me.x = s.me.x ∧ t.mem = s.mem ∧
      (∀ e ∈ Tab.get t.lctlb h [], e.root ≠ s.me.lroot) ∧ (∀ e ∈ Tab.get s.lctlb h [], e.root ≠ s.me.lroot → e ∈ Tab.get t.lctlb h [])) ∧
  (∀ (s : State) (a : BitVec 5),
    let h := s.focus.hall
    ∃ t, exec (.invalTlbva a) s = .next t ∧ t.me.pc = s.me.pc + 4 ∧ t.me.x = s.me.x ∧ t.mem = s.mem ∧
      (∀ e ∈ Tab.get t.lctlb h [], e.covers s.me.lroot (s.me.rx a).v.toNat = false) ∧
      (∀ e ∈ Tab.get s.lctlb h [], e.covers s.me.lroot (s.me.rx a).v.toNat = false → e ∈ Tab.get t.lctlb h [])) ∧
  (∀ s : State, ∃ t, exec .invalIcache s = .next t ∧ Tab.get t.icache s.focus.hall [] = [] ∧ t.me.pc = s.me.pc + 4 ∧ t.me.x = s.me.x ∧ t.mem = s.mem) ∧
  (∀ (s u : State) (a : BitVec 5) (x : Xlat), s.xlate (s.me.rx a).v .exec = (u, .ok x) →
    ∃ t, exec (.invalIline a) s = .next t ∧ Tab.find (Tab.get t.icache u.focus.hall []) (x.pa / 64) = none ∧ t.me.pc = u.me.pc + 4 ∧ t.me.x = u.me.x ∧
      t.mem = u.mem)

/-- R358, R365, R366. -/
def Obligations.LaunchAndWaitForChild : Prop :=
  (∀ (s : State) (d a b : BitVec 5),
    let va := (s.me.rx a).v
    let by_ : Launcher := { parent := s.regionAt s.focus.hall s.focus.ctx, ctx := some (s.focus.hall, s.focus.ctx), rroot := s.me.lroot, x1 := some (s.me.rx b).v }
    ((s.me.rx a).poison = true ∨ (s.me.rx b).poison = true → exec (.launch d a b) s = .next (s.precise .poisonuse)) ∧
    ((s.me.rx a).poison = false → (s.me.rx b).poison = false → s.quiet s.focus.hall s.focus.ctx = true →
      (va.toNat % 256 ≠ 0 → exec (.launch d a b) s = .next (s.precise .align va)) ∧
      (∀ u x v bs, va.toNat % 256 = 0 → s.xlate va .read = (u, .ok x) → u.readRcb x = (v, .ok bs) →
        (∀ w c, v.launchBytes by_ va bs = .fault w c → exec (.launch d a b) s = .next (w.precise c)) ∧
        (v.launchBytes by_ va bs = .full → exec (.launch d a b) s = .next s) ∧
        (∀ w n, v.launchBytes by_ va bs = .ok w n → exec (.launch d a b) s = wrote w d (BitVec.ofNat 64 n) false)))) ∧
  (∀ (s t : State) (w : Launcher) (va : W64) (bs : List Byte) (n : Nat), s.launchBytes w va bs = .ok t n →
    rcbOk bs = true ∧ s.pool.length < 4096 ∧ t.regions.length = s.regions.length + 1 ∧ (t.region s.regions.length).rcb = va ∧
      (t.region s.regions.length).pctx = w.ctx ∧ (t.region s.regions.length).hdl = n ∧ Tab.find t.pool (n % 4096) = some s.regions.length) ∧
  (∀ (s : State) (d a : BitVec 5), (s.me.rx a).poison = false →
    (s.childOf s.focus.hall s.focus.ctx (s.me.rx a).v = none → exec (.lwait d a) s = .next (s.precise .range)) ∧
    (∀ r, s.childOf s.focus.hall s.focus.ctx (s.me.rx a).v = some r →
      ((s.region r).state ≠ 4 → exec (.lwait d a) s = .next s) ∧
      (∀ u bs l, (s.region r).state = 4 → s.vaRead (s.region r).rroot ((s.region r).rcb + 0xC0) 8 = (u, bs, .none, l) →
        exec (.lwait d a) s = wrote (u.freeEntry r) d (BitVec.ofNat 64 (leNat bs)) false)))

/-- R58, R331, R337, R338, R78: what the next act of the agenda runs, and what a fetch gives. -/
def Obligations.StepRunsDecodedInstruction : Prop :=
  (∀ (s u : State) (h c : Nat) (rest : List Act) (w : W32), s.agenda = .thread h c :: rest → partOk h 0 c = true → s.powered = true →
    let s1 : State := { s with agenda := rest }
    let s2 : State := { s1 with focus := { hall := h, elem := 0, ctx := c } }
    s1.outranked (.thread h c) = false → s2.threadRuns h c = true → s2.me.takesReport = false → s2.fetch = .word u w → u.me.holds w = false →
    (∀ i, decodeLanding w = .ok i → step s = settled s1 (exec i u)) ∧
    (∀ e, decodeLanding w = .error e → step s = settled s1 (exec .illegalInstruction { u with focus := { u.focus with val := w.setWidth 64 } }))) ∧
  (∀ (s : State) (h b c k : Nat) (rest : List Act) (t : Task) (i : Instr), s.agenda = .fire h b c k :: rest → partOk h b c = true → b < 64 →
    s.powered = true → (s.bayCtx h b c).task = some t → decodeBay (s.bayWord h b c t.blk.frame k) = .ok i →
    let s1 : State := { s with agenda := rest }
    s1.outranked (.fire h b c k) = false → step s = settled s1 (exec i { s1 with focus := { hall := h, elem := b, ctx := c, idx := k } })) ∧
  (∀ (s : State) (h n pick : Nat) (rest : List Act) (d : DCmd) (i : Instr), s.agenda = .command h n pick :: rest → partOk h 0 0 = true →
    s.powered = true → s.cmd h n = some d → decodeCommand d.word = .ok i →
    let s1 : State := { s with agenda := rest }
    let s2 : State := { s1 with focus := { hall := h, elem := 0, ctx := d.ctx, idx := n, aux := pick } }
    ((∀ p x c f m a, i ≠ .rred p x c f m a) → step s = settled s1 (exec i s2)) ∧
    (∀ p x c f m a, i = .rred p x c f m a →
      (d.desc.getLsbD 234 = false → step s = settled s1 (exec i s2)) ∧
      (d.desc.getLsbD 234 = true → step s = settled s1 (exec (.rredReadout p x c f m a) s2)))) ∧
  (∀ (s : State) (f : Focus) (rest : List Act) (i : Instr), s.agenda = .event i f :: rest → f.ok = true → s.takesEvent i = true →
    let s1 : State := { s with agenda := rest }
    s1.outranked (.event i f) = false → step s = settled s1 (exec i { s1 with focus := f })) ∧
  (∀ (s : State) (w : W32), s.me.ir = some w → s.fetch = .word s w) ∧
  (∀ (s u : State) (x : Xlat), s.me.ir = none → s.me.pc.toNat % 4 = 0 → s.xlate s.me.pc .exec = (u, .ok x) → x.rem = none →
    (∀ l, Tab.find (Tab.get u.icache u.focus.hall []) (x.pa / 64) = some l → ∃ v, s.fetch = .word v (BitVec.ofNat 32 (leNat ((l.drop (x.pa % 64)).take 4)))) ∧
    (∀ r, Tab.find (Tab.get u.icache u.focus.hall []) (x.pa / 64) = none → NothingOwn u → u.lcOpen x.pa = true → u.edgeRead (x.pa / 64 * 64) 64 x.key = r → r.cause = .none →
      r.poison = false → ∃ v, s.fetch = .word v (BitVec.ofNat 32 (leNat ((r.bytes.drop (x.pa % 64)).take 4))) ∧
        Tab.find (Tab.get v.icache u.focus.hall []) (x.pa / 64) = some r.bytes))

namespace Sys2Proof.Claims

/-- The integer instructions, with the register each writes. -/
def integerInstrs (d a b : BitVec 5) (imm : BitVec 16) (k : BitVec 6) : List Instr :=
  [.add d a b, .sub d a b, .and d a b, .or d a b, .xor d a b, .shl d a b, .shr d a b, .sra d a b, .mul d a b, .mulh d a b, .mulhN d a b, .div d a b,
    .divN d a b, .rem d a b, .remN d a b, .slt d a b, .sltN d a b, .min d a b, .max d a b, .minN d a b, .maxN d a b, .clz d a, .popc d a, .addi d a imm,
    .andi d a imm, .ori d a imm, .xori d a imm, .slti d a imm, .sltiN d a imm, .shli d a k, .shri d a k, .srai d a k, .lui d imm, .luh d a imm, .luhh d a imm]

/-- Two threads agree but for their registers, predicates, program counter and what says how far it has got. -/
def SameBut (t u : Thread) : Prop :=
  { t with x := u.x, p := u.p, pc := u.pc, instret := u.instret, inWait := u.inWait, ir := u.ir } = u

end Sys2Proof.Claims

open Sys2Proof.Claims

/-- R339, R346, R330: what the register instructions leave alone. -/
def Obligations.IntegerInstructionsChangeOnlyXd : Prop :=
  (∀ (s t : State) (d a b : BitVec 5) (imm : BitVec 16) (k : BitVec 6) (n f : BitVec 8), ∀ i ∈ integerInstrs d a b imm k ++ [.feat d n, .shrd d a 0 (f.setWidth 2)],
    exec i s = .next t →
      (∀ r : BitVec 5, r ≠ d → t.me.rx r = s.me.rx r) ∧ t.me.rx 0 = {} ∧ t.me.p = s.me.p ∧ SameBut t.me s.me ∧
      (∀ h c, tkey h c ≠ tkey s.focus.hall s.focus.ctx → t.thr h c = s.thr h c) ∧
      (∀ p, Memory.byte t.mem.cells p = Memory.byte s.mem.cells p) ∧ t = { s with threads := t.threads }) ∧
  (∀ (s t : State) (n cond pa pb : BitVec 3) (a b : BitVec 5) (imm : BitVec 15) (op : BitVec 2),
    ∀ i ∈ ([.setp n cond a b, .setpi n cond a imm, .plog n op pa pb] : List Instr), exec i s = .next t →
      (∀ q : BitVec 3, q ≠ n → t.me.rp q = s.me.rp q) ∧ t.me.rp 0 = { v := true } ∧ t.me.x = s.me.x ∧ SameBut t.me s.me ∧
      (∀ h c, tkey h c ≠ tkey s.focus.hall s.focus.ctx → t.thr h c = s.thr h c) ∧
      (∀ p, Memory.byte t.mem.cells p = Memory.byte s.mem.cells p) ∧ t = { s with threads := t.threads })

namespace Sys2Proof.Claims

/-- R210–R212: the focused instruction fires, on operands a and b and the predicate q it reads; its task neither trapped nor stopped. -/
def Fires (s : State) (op : Nat) (f : BitVec 13) (a b : PW32) (q : Option PW32) : Prop :=
  ∃ k, s.myBay.task = some k ∧ s.myBay.trapped = false ∧ s.halted s.focus.hall s.focus.elem s.focus.ctx = false ∧
    s.bayReady s.focus.hall s.focus.elem s.focus.ctx s.myBay k.blk s.focus.idx op f = .go a b q

/-- The predicate read is poisoned. -/
def poisoned (q : Option PW32) : Bool := match q with
  | some p => p.poison
  | none => false

/-- Instruction i of the active block has fired and its targets t and u receive x and y. -/
def delivered (c : BayCtx) (i : Nat) (t u : BitVec 6) (x y : SlotVal) : BayCtx :=
  { c with task := c.task.map fun k => { k with blk := k.blk.done i t u x y } }

/-- The same, with one value for both. -/
def result (c : BayCtx) (i : Nat) (t u : BitVec 6) (v : W32) (p : Bool) : BayCtx :=
  delivered c i t u (.val { v := v, poison := p }) (.val { v := v, poison := p })

/-- Nothing but the focused context of the focused bay differs. -/
def OnlyBay (s v : State) : Prop :=
  v = { s with bays := v.bays } ∧
    ∀ k, k ≠ bkey s.focus.hall s.focus.elem s.focus.ctx → Tab.find v.bays k = Tab.find s.bays k

/-- An answer is a next state in which the focused context of the focused bay is c, and nothing else differs. -/
def Makes (s : State) (r : Res) (c : BayCtx) : Prop := ∃ v, r = .next v ∧ v.myBay = c ∧ OnlyBay s v

/-- An exact number clamped to a range. -/
def clampTo (lo hi v : Int) : Int := if v < lo then lo else if hi < v then hi else v

/-- R220: the instructions but sel: opcode, and for a field f the value as a number, and the range it is clamped to, if any. -/
def bayIntRows : List ((BitVec 6 → BitVec 6 → BitVec 13 → Instr) × Nat × (BitVec 13 → W32 → W32 → Int) × Option (Int × Int)) :=
  let flag (p : Bool) : Int := if p then 1 else 0
  let less (c : BitVec 13) (a b : W32) : Bool :=
    match (c.extractLsb' 0 3).toNat with
    | 0 => a == b
    | 1 => a != b
    | 2 => decide (a.toInt < b.toInt)
    | 3 => decide (b.toInt ≤ a.toInt)
    | 4 => decide (a.toNat < b.toNat)
    | _ => decide (b.toNat ≤ a.toNat)
  [(.bayAddI32, 0x00, fun _ a b => a.toInt + b.toInt, none), (.baySubI32, 0x01, fun _ a b => a.toInt - b.toInt, none),
   (.bayAddsI32, 0x02, fun _ a b => a.toInt + b.toInt, some (-2147483648, 2147483647)),
   (.baySubsI32, 0x03, fun _ a b => a.toInt - b.toInt, some (-2147483648, 2147483647)),
   (.bayAddsN32, 0x04, fun _ a b => (a.toNat : Int) + b.toNat, some (0, 4294967295)),
   (.baySubsN32, 0x05, fun _ a b => (a.toNat : Int) - b.toNat, some (0, 4294967295)),
   (.bayMulI32, 0x06, fun _ a b => a.toInt * b.toInt, none),
   (.bayMulhI32, 0x07, fun _ a b => a.toInt * b.toInt / 2 ^ 32, none),
   (.bayMulhN32, 0x08, fun _ a b => (a.toNat * b.toNat / 2 ^ 32 : Nat), none),
   (.bayMinI32, 0x09, fun _ a b => min a.toInt b.toInt, none), (.bayMaxI32, 0x0A, fun _ a b => max a.toInt b.toInt, none),
   (.bayMinN32, 0x0B, fun _ a b => (min a.toNat b.toNat : Nat), none), (.bayMaxN32, 0x0C, fun _ a b => (max a.toNat b.toNat : Nat), none),
   (.bayAnd, 0x0D, fun _ a b => (a.toNat &&& b.toNat : Nat), none), (.bayOr, 0x0E, fun _ a b => (a.toNat ||| b.toNat : Nat), none),
   (.bayXor, 0x0F, fun _ a b => (a.toNat ^^^ b.toNat : Nat), none),
   (.bayShl, 0x10, fun _ a b => if 32 ≤ b.toNat then 0 else (a.toNat * 2 ^ b.toNat : Nat), none),
   (.bayShr, 0x11, fun _ a b => if 32 ≤ b.toNat then 0 else (a.toNat / 2 ^ b.toNat : Nat), none),
   (.baySra, 0x12, fun _ a b => a.toInt / 2 ^ min b.toNat 31, none),
   (.bayCmpI32, 0x13, fun f a b => flag (less f a b), none), (.bayCmpN32, 0x14, fun f a b => flag (less f a b), none),
   (.bayClz, 0x15, fun _ a _ => ((List.range 32).countP fun k => a.toNat < 2 ^ k : Nat), none),
   (.bayPopc, 0x16, fun _ a _ => ((List.range 32).countP fun k => a.getLsbD k : Nat), none)]

end Sys2Proof.Claims

open Sys2Proof.Claims

/-- R220, with R46 and R215. -/
def Obligations.BayIntegerResults : Prop :=
  ∀ (s : State) (t u : BitVec 6) (f : BitVec 13) (a b : PW32) (q : Option PW32),
    (∀ row ∈ bayIntRows, Fires s row.2.1 f a b q →
      let p := a.poison || b.poison || poisoned q
      let x := row.2.2.1 f a.v b.v
      let y := match row.2.2.2 with
        | some r => clampTo r.1 r.2 x
        | none => x
      let fs := if p = false ∧ x ≠ y then s.myBay.fs ||| 4 else s.myBay.fs
      Makes s (exec (row.1 t u f) s) { result s.myBay s.focus.idx t u (BitVec.ofInt 32 y) p with fs := fs }) ∧
    (∀ p, Fires s 0x17 f a b (some p) →
      let v := if p.v.getLsbD 0 then a else b
      Makes s (exec (.baySel t u f) s) (result s.myBay s.focus.idx t u v.v (v.poison || p.poison)))

namespace Sys2Proof.Claims

/-- R221: opcode, and for a rounding or condition code and two patterns the result's pattern and flags. -/
def bayFpRows : List ((BitVec 6 → BitVec 6 → BitVec 13 → Instr) × Nat × (Nat → Nat → Nat → Nat × BitVec 6)) :=
  let x := decodeF fp32
  [(.bayAddFp32, 0x18, fun q a b => addF fp32 q (x a) (x b)), (.baySubFp32, 0x19, fun q a b => addF fp32 q (x a) (negF (x b))),
   (.bayMulFp32, 0x1A, fun q a b => mulF fp32 q (x a) (x b)), (.bayDivFp32, 0x1B, fun q a b => divF fp32 q (x a) (x b)),
   (.baySqrtFp32, 0x1C, fun q a _ => sqrtF fp32 q (x a)), (.bayMinFp32, 0x1D, fun _ a b => (minmaxF fp32 false a b, 0)),
   (.bayMaxFp32, 0x1E, fun _ a b => (minmaxF fp32 true a b, 0)), (.bayCmpFp32, 0x1F, fun q a b => (if condF fp32 q a b then 1 else 0, 0)),
   (.bayRcpFp32, 0x20, fun q a _ => rcpF fp32 q (x a)), (.bayRsqrtFp32, 0x21, fun q a _ => rsqrtF fp32 q (x a)),
   (.bayExp2Fp32, 0x22, fun q a _ => exp2F fp32 q (x a)), (.bayLog2Fp32, 0x23, fun q a _ => log2F fp32 q (x a)),
   (.bayCvtFp32I32, 0x24, fun q a _ => cvtFromInt fp32 q (BitVec.ofNat 32 a).toInt), (.bayCvtI32Fp32, 0x25, fun q a _ => cvtToInt 32 true q (x a)),
   (.bayCvtFp32N32, 0x26, fun q a _ => cvtFromInt fp32 q a), (.bayCvtN32Fp32, 0x27, fun q a _ => cvtToInt 32 false q (x a)),
   (.bayCvtBf16Fp32, 0x28, fun q a _ => cvtF bf16 q (x a)), (.bayCvtFp16Fp32, 0x29, fun q a _ => cvtF fp16 q (x a)),
   (.bayCvtFp32Bf16, 0x2A, fun _ a _ => cvtF fp32 0 (decodeF bf16 (a % 2 ^ 16))), (.bayCvtFp32Fp16, 0x2B, fun _ a _ => cvtF fp32 0 (decodeF fp16 (a % 2 ^ 16)))]

end Sys2Proof.Claims

open Sys2Proof.Claims

/-- R221, with R46, R47 and R57. -/
def Obligations.BayFloatResults : Prop :=
  ∀ (s : State) (t u : BitVec 6) (f : BitVec 13) (a b : PW32) (q : Option PW32),
    ∀ row ∈ bayFpRows, Fires s row.2.1 f a b q →
      let p := a.poison || b.poison || poisoned q
      let r := row.2.2 (f.extractLsb' 0 3).toNat a.v.toNat b.v.toNat
      Makes s (exec (row.1 t u f) s)
        { result s.myBay s.focus.idx t u (BitVec.ofNat 32 r.1) p with fs := if p then s.myBay.fs else s.myBay.fs ||| r.2 }

namespace Sys2Proof.Claims

/-- m × 2^e is at most n / d. -/
def atMost (m : Nat) (e : Int) (n d : Nat) : Prop := m * 2 ^ e.toNat * d ≤ n * 2 ^ (-e).toNat
/-- m × 2^e is at least n / d. -/
def atLeast (m : Nat) (e : Int) (n d : Nat) : Prop := n * 2 ^ (-e).toNat ≤ m * 2 ^ e.toNat * d

/-- How far m × 2^e is from n / d, as a fraction over d × 2^k, where e is at least −k. -/
def gap (m : Nat) (e : Int) (n d k : Nat) : Nat :=
  let a := m * 2 ^ (e + k).toNat * d
  let b := n * 2 ^ k
  if a ≤ b then b - a else a - b

/-- The formats with an exponent field (R36, R39). -/
def roundFormats : List Fmt := [fp64, fp32, bf16, fp16, e4m3, e5m2, e3m2, e2m3, e2m1, e2m2, e1m2]

/-- The magnitude of a finite pattern without sign. -/
def magnitude (f : Fmt) (p : Nat) : Nat × Int := match decodeF f p with
  | .fin _ m e => (m, e)
  | _ => (0, 0)

/-- R45: the magnitude pattern p, at most the largest finite one, is what the mode selects for (−1)^neg × n / d. -/
def Selected (f : Fmt) (mode : Nat) (neg : Bool) (n d p : Nat) : Prop :=
  let r := magnitude f p
  let k := f.bias + f.mb
  (mode = 1 → atMost r.1 r.2 n d ∧ (p < maxPat f → ¬ atMost (magnitude f (p + 1)).1 (magnitude f (p + 1)).2 n d)) ∧
  (mode = 2 → if neg then atLeast r.1 r.2 n d ∧ (0 < p → ¬ atLeast (magnitude f (p - 1)).1 (magnitude f (p - 1)).2 n d)
    else atMost r.1 r.2 n d ∧ (p < maxPat f → ¬ atMost (magnitude f (p + 1)).1 (magnitude f (p + 1)).2 n d)) ∧
  (mode = 3 → if neg then atMost r.1 r.2 n d ∧ (p < maxPat f → ¬ atMost (magnitude f (p + 1)).1 (magnitude f (p + 1)).2 n d)
    else atLeast r.1 r.2 n d ∧ (0 < p → ¬ atLeast (magnitude f (p - 1)).1 (magnitude f (p - 1)).2 n d)) ∧
  (mode = 0 → ∀ j ≤ maxPat f, gap r.1 r.2 n d k ≤ gap (magnitude f j).1 (magnitude f j).2 n d k ∧
    (j ≠ p → gap r.1 r.2 n d k = gap (magnitude f j).1 (magnitude f j).2 n d k → p % 2 = 0)) ∧
  (mode = 4 → ∀ j ≤ maxPat f, gap r.1 r.2 n d k ≤ gap (magnitude f j).1 (magnitude f j).2 n d k ∧
    (j ≠ p → gap r.1 r.2 n d k = gap (magnitude f j).1 (magnitude f j).2 n d k → j < p))

end Sys2Proof.Claims

open Sys2Proof.Claims

/-- R45, with R38, R44 and R46. -/
def Obligations.RoundGivesTheNeighbourTheModeSelects : Prop :=
  ∀ f ∈ roundFormats, ∀ mode < 5, ∀ (neg : Bool) (n d : Nat), 0 < n → 0 < d →
    let r := roundQ f mode neg n d
    let sign := if neg then 2 ^ (f.eb + f.mb) else 0
    let away := f.top ≠ 0 ∨ mode = 1 ∨ (mode = 2 ∧ neg = false) ∨ (mode = 3 ∧ neg = true)
    let inexact := r.2.getLsbD 0
    let underflow := r.2.getLsbD 1
    let overflow := r.2.getLsbD 2
    (overflow = false → ∃ p ≤ maxPat f, r.1 = sign + p ∧ Selected f mode neg n d p ∧
      (inexact = false ↔ (atMost (magnitude f p).1 (magnitude f p).2 n d ∧ atLeast (magnitude f p).1 (magnitude f p).2 n d)) ∧
      (underflow = true → inexact = true) ∧ (underflow = true → p ≤ 2 ^ f.mb)) ∧
    (overflow = true → inexact = true ∧ ¬ atLeast (magnitude f (maxPat f)).1 (magnitude f (maxPat f)).2 n d ∧
      (away → r.1 = sign + maxPat f) ∧ (¬ away → r.1 = sign + (2 ^ f.eb - 1) * 2 ^ f.mb))

namespace Sys2Proof.Claims

/-- The formats in which instructions compute. -/
def scalarFormats : List Fmt := [fp32, bf16, fp16]

/-- A power of two as a finite pattern of a format, without sign (R36). -/
def powerPattern (f : Fmt) (k : Int) : Nat :=
  if 1 - (f.bias : Int) ≤ k then (k + f.bias).toNat * 2 ^ f.mb else 2 ^ (k + f.bias - 1 + f.mb).toNat

end Sys2Proof.Claims

open Sys2Proof.Claims

/-- R57, R37, R221, R47. -/
def Obligations.SpecialOperandsAndExactCases : Prop :=
  (∀ f ∈ scalarFormats, ∀ (mode : Nat) (x : FV) (m : Nat) (e : Int) (n : Bool),
    let nan : Nat := (2 ^ f.eb - 1) * 2 ^ f.mb + 2 ^ (f.mb - 1)
    let inf (neg : Bool) : Nat := (if neg then 2 ^ (f.eb + f.mb) else 0) + (2 ^ f.eb - 1) * 2 ^ f.mb
    let zero (neg : Bool) : Nat := if neg then 2 ^ (f.eb + f.mb) else 0
    addF f mode .nan x = (nan, 0) ∧ addF f mode x .nan = (nan, 0) ∧ mulF f mode .nan x = (nan, 0) ∧ mulF f mode x .nan = (nan, 0) ∧
    divF f mode .nan x = (nan, 0) ∧ divF f mode x .nan = (nan, 0) ∧ sqrtF f mode .nan = (nan, 0) ∧ rcpF f mode .nan = (nan, 0) ∧
    rsqrtF f mode .nan = (nan, 0) ∧ exp2F f mode .nan = (nan, 0) ∧ log2F f mode .nan = (nan, 0) ∧
    addF f mode (.inf n) (.inf (!n)) = (nan, 16) ∧ addF f mode (.inf n) (.inf n) = (inf n, 0) ∧
    mulF f mode (.inf n) (.fin n 0 e) = (nan, 16) ∧ mulF f mode (.fin n 0 e) (.inf n) = (nan, 16) ∧
    divF f mode (.fin n 0 e) (.fin n 0 e) = (nan, 16) ∧ divF f mode (.inf n) (.inf n) = (nan, 16) ∧
    (0 < m → divF f mode (.fin n m e) (.fin false 0 e) = (inf n, 8) ∧ divF f mode (.fin n m e) (.fin true 0 e) = (inf (!n), 8)) ∧
    sqrtF f mode (.fin n 0 e) = (zero n, 0) ∧ sqrtF f mode (.inf false) = (inf false, 0) ∧ sqrtF f mode (.inf true) = (nan, 16) ∧
    (0 < m → sqrtF f mode (.fin true m e) = (nan, 16) ∧ rsqrtF f mode (.fin true m e) = (nan, 16) ∧ log2F f mode (.fin true m e) = (nan, 16)) ∧
    rcpF f mode (.fin n 0 e) = (inf n, 8) ∧ rcpF f mode (.inf n) = (zero n, 0) ∧
    rsqrtF f mode (.fin n 0 e) = (inf n, 8) ∧ rsqrtF f mode (.inf false) = (0, 0) ∧ rsqrtF f mode (.inf true) = (nan, 16) ∧
    exp2F f mode (.inf true) = (0, 0) ∧ exp2F f mode (.inf false) = (inf false, 0) ∧
    log2F f mode (.fin n 0 e) = (inf true, 8) ∧ log2F f mode (.inf false) = (inf false, 0) ∧ log2F f mode (.inf true) = (nan, 16)) ∧
  (∀ f ∈ scalarFormats, ∀ mode < 5, ∀ k : Int, 1 - (f.bias : Int) - f.mb ≤ k → k ≤ f.bias →
    (∀ (m : Nat) (e : Int), m * 2 ^ e.toNat = k.natAbs * 2 ^ (-e).toNat → exp2F f mode (.fin (decide (k < 0)) m e) = (powerPattern f k, 0)) ∧
    (decodeF f (powerPattern f k) = .fin false (if 1 - (f.bias : Int) ≤ k then 2 ^ f.mb else 2 ^ (k + f.bias - 1 + f.mb).toNat)
      (if 1 - (f.bias : Int) ≤ k then k - f.mb else 1 - f.bias - f.mb)) ∧
    ∃ r, log2F f mode (decodeF f (powerPattern f k)) = (r, 0) ∧ (k = 0 → r = 0) ∧
      (k ≠ 0 → ∃ m e, decodeF f r = .fin (decide (k < 0)) m e ∧ m * 2 ^ e.toNat = k.natAbs * 2 ^ (-e).toNat)) ∧
  (∀ (mode w : Nat) (sg n : Bool), cvtToInt w sg mode .nan = (0, 16) ∧
    cvtToInt w sg mode (.inf n) = (if sg then (if n then 2 ^ (w - 1) else 2 ^ (w - 1) - 1) else (if n then 0 else 2 ^ w - 1), 16))

namespace Sys2Proof.Claims

/-- The bay instructions with targets, and their opcodes: all but `send` and `br`. -/
def bayRows : List ((BitVec 6 → BitVec 6 → BitVec 13 → Instr) × Nat) :=
  [(.bayAddI32, 0x00), (.baySubI32, 0x01), (.bayAddsI32, 0x02), (.baySubsI32, 0x03), (.bayAddsN32, 0x04), (.baySubsN32, 0x05), (.bayMulI32, 0x06),
   (.bayMulhI32, 0x07), (.bayMulhN32, 0x08), (.bayMinI32, 0x09), (.bayMaxI32, 0x0A), (.bayMinN32, 0x0B), (.bayMaxN32, 0x0C), (.bayAnd, 0x0D),
   (.bayOr, 0x0E), (.bayXor, 0x0F), (.bayShl, 0x10), (.bayShr, 0x11), (.baySra, 0x12), (.bayCmpI32, 0x13), (.bayCmpN32, 0x14), (.bayClz, 0x15),
   (.bayPopc, 0x16), (.baySel, 0x17), (.bayAddFp32, 0x18), (.baySubFp32, 0x19), (.bayMulFp32, 0x1A), (.bayDivFp32, 0x1B), (.baySqrtFp32, 0x1C),
   (.bayMinFp32, 0x1D), (.bayMaxFp32, 0x1E), (.bayCmpFp32, 0x1F), (.bayRcpFp32, 0x20), (.bayRsqrtFp32, 0x21), (.bayExp2Fp32, 0x22),
   (.bayLog2Fp32, 0x23), (.bayCvtFp32I32, 0x24), (.bayCvtI32Fp32, 0x25), (.bayCvtFp32N32, 0x26), (.bayCvtN32Fp32, 0x27), (.bayCvtBf16Fp32, 0x28),
   (.bayCvtFp16Fp32, 0x29), (.bayCvtFp32Bf16, 0x2A), (.bayCvtFp32Fp16, 0x2B), (.bayCvtmx, 0x2C), (.bayVshape, 0x2D), (.bayVaddI32, 0x2E),
   (.bayVmulI32, 0x2F), (.bayVaddFp32, 0x30), (.bayVsubFp32, 0x31), (.bayVmulFp32, 0x32), (.bayVminFp32, 0x33), (.bayVmaxFp32, 0x34),
   (.bayVaddBf16, 0x35), (.bayVmulBf16, 0x36), (.bayVaddFp16, 0x37), (.bayVmulFp16, 0x38), (.bayVaddI8, 0x39), (.bayVaddI16, 0x3A),
   (.bayVcmpFp32, 0x3B), (.bayVsel, 0x3C), (.bayVbcast, 0x3D), (.bayVext, 0x3E), (.bayVins, 0x3F), (.bayVperm, 0x40), (.bayVcvt, 0x41),
   (.bayVput, 0x42), (.bayVget, 0x43), (.bayDot, 0x44), (.bayDots, 0x45), (.bayLacc, 0x46), (.bayLvacc, 0x47), (.bayLanchor, 0x48), (.bayLclr, 0x49),
   (.bayLread, 0x4A), (.bayLraw, 0x4B), (.bayLd, 0x4C), (.baySt, 0x4D), (.bayLdSync, 0x4E), (.bayVld, 0x4F), (.bayVst, 0x50), (.bayVgather, 0x51),
   (.bayAmo, 0x52), (.bayLut, 0x53), (.bayLutst, 0x54), (.bayLutrd, 0x55), (.baySteer, 0x56), (.bayMerge, 0x57), (.bayLoop, 0x58), (.bayLoopt, 0x59),
   (.bayRecv, 0x5B), (.bayLaunch, 0x5D), (.bayIspois, 0x5E)]

/-- R67: an instruction before idx has a target that is the predicate slot of idx. -/
def predicated (s : State) (h bay ctx frame idx : Nat) : Bool :=
  ((s.blockWords h bay ctx frame).take idx).any fun w => w.extractLsb' 19 6 == BitVec.ofNat 6 (32 + idx) || w.extractLsb' 13 6 == BitVec.ofNat 6 (32 + idx)

/-- R68: the instructions of one operand that also take form R. -/
def unaryOp (op : Nat) : Prop := op ∈ [0x15, 0x16, 0x1C] ∨ (0x20 ≤ op ∧ op ≤ 0x2B)

/-- R211, R212: an instruction is in its block, has not fired, and does not wait for an ordered one. -/
def turnOf (s : State) (h bay ctx : Nat) (b : Block) (idx op : Nat) : Prop :=
  let ws := s.blockWords h bay ctx b.frame
  idx < ws.length ∧ idx ∉ b.fired ∧
    (isOrdered op = true → ∀ k < idx, isOrdered (opOf (ws.getD k 0)) = true → k ∈ b.fired)

end Sys2Proof.Claims

open Sys2Proof.Claims

/-- R210–R213, R67, R68. -/
def Obligations.WhenABayInstructionFires : Prop :=
  (∀ (s : State) (h bay ctx : Nat) (c : BayCtx) (b : Block) (idx op : Nat) (f : BitVec 13),
    let ready := s.bayReady h bay ctx c b idx op f
    let need := op = 0x17 ∨ op = 0x56
    let named := predicated s h bay ctx b.frame idx = true
    (¬ turnOf s h bay ctx b idx op → ready = .wait) ∧ (rawOperands c b idx op f = none → ready = .wait) ∧
    (turnOf s h bay ctx b idx op → op ≠ 0x57 → op ≠ 0x5C → ∀ x y, rawOperands c b idx op f = some (x, y) →
      (¬ named → ¬ need → (∀ v w, x = .val v → y = .val w → ready = .go v w none) ∧ (x = .null ∨ y = .null → ready = .null)) ∧
      (named ∨ need → (b.slot idx 2 = none → ready = .wait) ∧ (b.slot idx 2 = some .null → ready = .null) ∧
        (∀ q, b.slot idx 2 = some (.val q) → (¬ need → q.v.getLsbD 0 = false → ready = .null) ∧
          (need ∨ q.v.getLsbD 0 = true → (∀ v w, x = .val v → y = .val w → ready = .go v w (some q)) ∧ (x = .null ∨ y = .null → ready = .null))))) ∧
    (turnOf s h bay ctx b idx 0x57 → ∀ x y, rawOperands c b idx 0x57 f = some (x, y) →
      (¬ named → (∀ v, x = .val v → s.bayReady h bay ctx c b idx 0x57 f = .go v v (some { v := 1 })) ∧
        (∀ w, x = .null → y = .val w → s.bayReady h bay ctx c b idx 0x57 f = .go w w (some { v := 1 })) ∧
        (x = .null → y = .null → s.bayReady h bay ctx c b idx 0x57 f = .null)) ∧
      (named → (b.slot idx 2 = some .null → s.bayReady h bay ctx c b idx 0x57 f = .null) ∧
        (∀ q, b.slot idx 2 = some (.val q) →
          (q.poison = true → s.bayReady h bay ctx c b idx 0x57 f = .go {} {} (some q)) ∧
          (q.poison = false → ((if q.v.getLsbD 0 then x else y) = .null → s.bayReady h bay ctx c b idx 0x57 f = .null) ∧
            (∀ v, (if q.v.getLsbD 0 then x else y) = .val v → s.bayReady h bay ctx c b idx 0x57 f = .go v v (some q))))))) ∧
  (∀ (c : BayCtx) (b : Block) (idx op : Nat) (f : BitVec 13),
    let l := b.slot idx 0
    let r := b.slot idx 1
    let form := (f.extractLsb' 11 2).toNat
    let x := c.reg (f.extractLsb' 7 4).toNat
    let y := c.reg (f.extractLsb' 3 4).toNat
    (form = 1 → rawOperands c b idx op f = r.map fun v => (.val x, v)) ∧
    (form = 2 → (¬ unaryOp op → rawOperands c b idx op f = some (.val x, .val y)) ∧ (unaryOp op → rawOperands c b idx op f = some (.val x, .val {}))) ∧
    (form = 3 → rawOperands c b idx op f = l.map fun v => (v, .val { v := (f.extractLsb' 0 11).signExtend 32 })) ∧
    (form = 0 → slotReads op f = .two → rawOperands c b idx op f = l.bind fun v => r.map fun w => (v, w)) ∧
    (form = 0 → slotReads op f = .one → ∀ v, l = some v ∨ (l = none ∧ r = some v) → rawOperands c b idx op f = some (v, .val {})) ∧
    (form = 0 → slotReads op f = .none → rawOperands c b idx op f = some (.val {}, .val {}))) ∧
  (∀ (s : State) (t u : BitVec 6) (f : BitVec 13) (k : Task), s.myBay.task = some k → s.myBay.trapped = false →
    s.halted s.focus.hall s.focus.elem s.focus.ctx = false → ∀ row ∈ bayRows,
      (s.bayReady s.focus.hall s.focus.elem s.focus.ctx s.myBay k.blk s.focus.idx row.2 f = .wait → exec (row.1 t u f) s = .next s) ∧
      (s.bayReady s.focus.hall s.focus.elem s.focus.ctx s.myBay k.blk s.focus.idx row.2 f = .null →
        Makes s (exec (row.1 t u f) s) (delivered s.myBay s.focus.idx t u .null .null))) ∧
  (∀ (b : Block) (idx : Nat) (t u : BitVec 6) (x y : SlotVal),
    let d := b.done idx t u x y
    let cell (t : BitVec 6) : Nat := 3 * (t.toNat % 16) + t.toNat / 16
    idx ∈ d.fired ∧ (∀ k ∈ b.fired, k ∈ d.fired) ∧
    (u.toNat < 48 → Tab.find d.slots (cell u) = some y) ∧ (t.toNat < 48 → t ≠ u → Tab.find d.slots (cell t) = some x) ∧
    (∀ k, (t.toNat < 48 → k ≠ cell t) → (u.toNat < 48 → k ≠ cell u) → Tab.find d.slots k = Tab.find b.slots k) ∧
    (∀ w, y = .val w → 48 < u.toNat → (u.toNat - 48, idx, w) ∈ d.regw) ∧ (∀ w, x = .val w → 48 < t.toNat → (t.toNat - 48, idx, w) ∈ d.regw) ∧
    (t.toNat ≤ 48 ∨ x = .null → u.toNat ≤ 48 ∨ y = .null → d.regw = b.regw))

namespace Sys2Proof.Claims

/-- R218: lanes below m of a register, at width w, are g's; the other bits stay; words take the poison of the lanes written. -/
def LanesAre (w m : Nat) (old new : VReg) (g : Nat → PW32) : Prop :=
  (∀ k < m, new.v.extractLsb' (w * k) w = (g k).v.setWidth w) ∧ (∀ j < 1024, w * m ≤ j → new.v.getLsbD j = old.v.getLsbD j) ∧
    (∀ d < 32, new.pois.getLsbD d = true ↔ (∃ k < m, w * k / 32 = d ∧ (g k).poison = true) ∨ (old.pois.getLsbD d = true ∧ m * w < 32 * (d + 1)))

/-- R218: lane k of a register at width w. -/
def laneOf (v : VReg) (w k : Nat) : PW32 := { v := (v.v.extractLsb' (w * k) w).setWidth 32, poison := v.pois.getLsbD (w * k / 32) }

/-- R218: the lanes an instruction acts on at width w, and the width of the shape. -/
def lanesOf (c : BayCtx) (w : Nat) : Nat := min c.vsN (1024 / w)
def shapeWidth (c : BayCtx) : Nat := 8 * 2 ^ c.vsW

/-- R222: the two-address operations: opcode, lane width, and a lane's pattern and flags under a rounding code. -/
def bayLaneRows : List ((BitVec 6 → BitVec 6 → BitVec 13 → Instr) × Nat × Nat × (Nat → Nat → Nat → Nat × BitVec 6)) :=
  [(.bayVaddI32, 0x2E, 32, fun _ a b => ((a + b) % 2 ^ 32, 0)), (.bayVmulI32, 0x2F, 32, fun _ a b => (a * b % 2 ^ 32, 0)),
   (.bayVaddFp32, 0x30, 32, fun q a b => addF fp32 q (decodeF fp32 a) (decodeF fp32 b)),
   (.bayVsubFp32, 0x31, 32, fun q a b => addF fp32 q (decodeF fp32 a) (negF (decodeF fp32 b))),
   (.bayVmulFp32, 0x32, 32, fun q a b => mulF fp32 q (decodeF fp32 a) (decodeF fp32 b)),
   (.bayVminFp32, 0x33, 32, fun _ a b => (minmaxF fp32 false a b, 0)), (.bayVmaxFp32, 0x34, 32, fun _ a b => (minmaxF fp32 true a b, 0)),
   (.bayVaddBf16, 0x35, 16, fun q a b => addF bf16 q (decodeF bf16 a) (decodeF bf16 b)),
   (.bayVmulBf16, 0x36, 16, fun q a b => mulF bf16 q (decodeF bf16 a) (decodeF bf16 b)),
   (.bayVaddFp16, 0x37, 16, fun q a b => addF fp16 q (decodeF fp16 a) (decodeF fp16 b)),
   (.bayVmulFp16, 0x38, 16, fun q a b => mulF fp16 q (decodeF fp16 a) (decodeF fp16 b)),
   (.bayVaddI8, 0x39, 8, fun _ a b => ((a + b) % 2 ^ 8, 0)), (.bayVaddI16, 0x3A, 16, fun _ a b => ((a + b) % 2 ^ 16, 0))]

/-- R222: the conversions of `vcvt`: source width, destination width, and a lane's pattern and flags. -/
def bayVcvtRow (kind q : Nat) (a : Nat) : Nat × BitVec 6 :=
  match kind with
  | 0 => cvtF bf16 q (decodeF fp32 a)
  | 1 => cvtF fp16 q (decodeF fp32 a)
  | 2 => cvtF fp32 0 (decodeF bf16 a)
  | _ => cvtF fp32 0 (decodeF fp16 a)

/-- A register is replaced. -/
def withVreg (c : BayCtx) (n : Nat) (v : VReg) : BayCtx := { c with v := Tab.put c.v (n % 8) v }

end Sys2Proof.Claims

open Sys2Proof.Claims

/-- R222 and R218. -/
def Obligations.BayVectorResults : Prop :=
  ∀ (s : State) (t u : BitVec 6) (f : BitVec 13) (a b : PW32) (qp : Option PW32),
    let c := s.myBay
    let done (c : BayCtx) (v : W32) (p : Bool) : BayCtx := result c s.focus.idx t u v (p || poisoned qp)
    let ra := (f.extractLsb' 7 4).toNat
    let rb := (f.extractLsb' 3 4).toNat
    let q := (f.extractLsb' 0 3).toNat
    let reg (n : Nat) : VReg := Tab.get c.v (n % 8) {}
    let sw := shapeWidth c
    let sm := lanesOf c sw
    c.vsW < 3 →
    (∀ row ∈ bayLaneRows, Fires s row.2.1 f a b qp →
      let w := row.2.2.1
      let m := lanesOf c w
      let r (k : Nat) := row.2.2.2 q (laneOf (reg ra) w k).v.toNat (laneOf (reg rb) w k).v.toNat
      let p (k : Nat) := (laneOf (reg ra) w k).poison || (laneOf (reg rb) w k).poison
      (c.vsN = 0 → Makes s (exec (row.1 t u f) s) (done c 1 false)) ∧
      (c.vsN ≠ 0 → ∃ v, LanesAre w m (reg ra) v (fun k => { v := BitVec.ofNat 32 (r k).1, poison := p k }) ∧
        (∀ i < 6, v.fl.getLsbD i = true ↔ (reg ra).fl.getLsbD i = true ∨ ∃ k < m, p k = false ∧ (r k).2.getLsbD i = true) ∧
        Makes s (exec (row.1 t u f) s) (done (withVreg c ra v) 1 false))) ∧
    (Fires s 0x3B f a b qp →
      let hit (k : Nat) : Bool := !(laneOf (reg ra) 32 k).poison && !(laneOf (reg rb) 32 k).poison &&
        condF fp32 q (laneOf (reg ra) 32 k).v.toNat (laneOf (reg rb) 32 k).v.toNat
      let n := BitVec.ofNat 32 ((List.range (lanesOf c 32)).countP hit)
      (c.vsN = 0 → Makes s (exec (.bayVcmpFp32 t u f) s) (done c 0 false)) ∧
      (c.vsN ≠ 0 → ∃ vm, (∀ k < 128, vm.getLsbD k = true ↔ k < lanesOf c 32 ∧ hit k = true) ∧
        Makes s (exec (.bayVcmpFp32 t u f) s) (done { c with vm := vm } n false))) ∧
    (Fires s 0x3C f a b qp → ∃ v, LanesAre sw sm (reg ra) v (fun k => laneOf (if c.vm.getLsbD k then reg rb else reg ra) sw k) ∧
      v.fl = (reg ra).fl ∧ Makes s (exec (.bayVsel t u f) s) (done (withVreg c ra v) 1 false)) ∧
    (Fires s 0x3D f a b qp → ∃ v, LanesAre sw sm (reg ra) v (fun _ => b) ∧
      v.fl = (reg ra).fl ∧ Makes s (exec (.bayVbcast t u f) s) (done (withVreg c ra v) 1 false)) ∧
    (Fires s 0x3E f a b qp → Makes s (exec (.bayVext t u f) s)
      (if b.v.toNat < sm then done c (laneOf (reg ra) sw b.v.toNat).v ((laneOf (reg ra) sw b.v.toNat).poison || b.poison) else done c 0 b.poison)) ∧
    (Fires s 0x3F f a b qp →
      let n := (f.extractLsb' 3 3).toNat
      (b.poison = true ∨ sm ≤ b.v.toNat → Makes s (exec (.bayVins t u f) s) (done c 1 false)) ∧
      (b.poison = false → b.v.toNat < sm → ∃ v : VReg, v.fl = (reg n).fl ∧ v.v.extractLsb' (sw * b.v.toNat) sw = a.v.setWidth sw ∧
        (∀ j < 1024, j < sw * b.v.toNat ∨ sw * (b.v.toNat + 1) ≤ j → v.v.getLsbD j = (reg n).v.getLsbD j) ∧
        (∀ d < 32, v.pois.getLsbD d = if d = sw * b.v.toNat / 32 then a.poison || ((reg n).pois.getLsbD d && decide (sw < 32)) else (reg n).pois.getLsbD d) ∧
        Makes s (exec (.bayVins t u f) s) (done (withVreg c n v) 1 false))) ∧
    (Fires s 0x40 f a b qp →
      let i (k : Nat) := laneOf (reg rb) sw k
      ∃ v, LanesAre sw sm (reg ra) v (fun k => if (i k).v.toNat < sm then
          { laneOf (reg ra) sw (i k).v.toNat with poison := (laneOf (reg ra) sw (i k).v.toNat).poison || (i k).poison } else { v := 0, poison := (i k).poison }) ∧
        v.fl = (reg ra).fl ∧ Makes s (exec (.bayVperm t u f) s) (done (withVreg c ra v) 1 false)) ∧
    (Fires s 0x41 f a b qp →
      let kind := (f.extractLsb' 9 2).toNat
      let d := (f.extractLsb' 6 3).toNat
      let src := reg (f.extractLsb' 3 3).toNat
      let ws := if kind < 2 then 32 else 16
      let wd := if kind < 2 then 16 else 32
      let m := lanesOf c 32
      let r (k : Nat) := bayVcvtRow kind q (laneOf src ws k).v.toNat
      (c.vsN = 0 → Makes s (exec (.bayVcvt t u f) s) (done c 1 false)) ∧
      (c.vsN ≠ 0 → ∃ v, LanesAre wd m (reg d) v (fun k => { v := BitVec.ofNat 32 (r k).1, poison := (laneOf src ws k).poison }) ∧
        (∀ i < 6, v.fl.getLsbD i = true ↔ (reg d).fl.getLsbD i = true ∨ ∃ k < m, (laneOf src ws k).poison = false ∧ (r k).2.getLsbD i = true) ∧
        Makes s (exec (.bayVcvt t u f) s) (done (withVreg c d v) 1 false))) ∧
    (Fires s 0x2C f a b qp →
      let code := (f.extractLsb' 3 4).toNat
      let n := (f.extractLsb' 7 3).toNat
      let m := lanesOf c 32
      let k := convertBlock code q ((List.range 32).map fun i => if i < m then decodeF fp32 (laneOf (reg n) 32 i).v.toNat else .fin false 0 0)
      let p := (List.range m).any fun i => (laneOf (reg n) 32 i).poison
      let w := storeBits code
      let fl := k.2.2 ||| (if code = 8 ∨ code = 9 then 32 else 0)
      (c.vsN = 0 → Makes s (exec (.bayCvtmx t u f) s) (done c 0 false)) ∧
      (c.vsN ≠ 0 → code < 10 → code ≠ 6 → code ≠ 7 → ∃ v : VReg, (∀ i < 32, v.v.extractLsb' (w * i) w = BitVec.ofNat w (k.2.1.getD i 0)) ∧
        (∀ j < 1024, 32 * w ≤ j → v.v.getLsbD j = false) ∧ (∀ d < 32, v.pois.getLsbD d = (p && decide (d < w))) ∧
        v.fl = (if p then (reg n).fl else (reg n).fl ||| fl) ∧
        Makes s (exec (.bayCvtmx t u f) s) (done (withVreg c n v) (BitVec.ofNat 32 k.1) p))) ∧
    (Fires s 0x2D f a b qp →
      let w := (f.extractLsb' 3 2).toNat
      let n := if a.poison then 0 else min a.v.toNat (1024 / (8 * 2 ^ w))
      Makes s (exec (.bayVshape t u f) s) (done { c with vsN := n, vsW := w } (BitVec.ofNat 32 n) a.poison))

namespace Sys2Proof.Claims

/-- An accumulator of a context, and replacing it. -/
def accOf (c : BayCtx) (n : Nat) : Lacc := Tab.get c.la (n % 2) {}
def withAcc (c : BayCtx) (n : Nat) (l : Lacc) : BayCtx := { c with la := Tab.put c.la (n % 2) l }

/-- R223: element e of a register by format code, its word's poison, and whether the shape masks it. -/
def elemOf (code : Nat) (v : VReg) (e : Nat) : FV := decodeElem code (v.v.extractLsb' (storeBits code * e) (storeBits code)).toNat
def elemTaint (code : Nat) (v : VReg) (e : Nat) : Bool := v.pois.getLsbD (storeBits code * e / 32)
def elemMasked (c : BayCtx) (code e : Nat) : Bool := decide (c.vsN ≤ storeBits code * e / shapeWidth c)

/-- R223, R50: the exact sum of the products of these pairs of elements. -/
def sumOfProducts (code : Nat) (a b : VReg) (ps : List (Nat × Nat)) : Contr :=
  ps.foldl (fun x p => sumC x (prodC (elemOf code a p.1) (elemOf code b p.2))) (.fin 0 0)

/-- R223: the scaled contribution of a block; formats 6 and 7 have scale 1. -/
def blockContr (code sa sb : Nat) (x : Contr) : Contr :=
  if code = 6 ∨ code = 7 then x
  else if sa = 255 ∨ sb = 255 then .nan
  else match x with
    | .fin m e => .fin m (e + ((sa : Int) - 127) + ((sb : Int) - 127))
    | y => y

/-- R51: a contribution enters an accumulator. -/
def entered (l : Lacc) (x : Contr) (p : Bool) : Lacc := { l with cell := enterCell l.cell l.anchor x p }

/-- R224: the type codes of `lacc`. -/
def laccValue (ty : Nat) (v : W32) : Contr :=
  match ty with
  | 0 => contrOf (decodeF fp32 v.toNat)
  | 1 => .fin v.toInt 0
  | 2 => .fin v.toNat 0
  | 3 => contrOf (decodeF bf16 (v.setWidth 16).toNat)
  | _ => contrOf (decodeF fp16 (v.setWidth 16).toNat)

/-- R224: the type codes of `lvacc`: width and the value of a lane. -/
def lvaccValue (ty : Nat) (v : W32) : Contr :=
  match ty with
  | 0 => contrOf (decodeF fp32 v.toNat)
  | 1 => .fin v.toInt 0
  | 2 => contrOf (decodeF bf16 v.toNat)
  | 3 => contrOf (decodeF fp16 v.toNat)
  | 4 => .fin (v.setWidth 8).toInt 0
  | _ => .fin (v.setWidth 16).toInt 0
def lvaccWidth (ty : Nat) : Nat := if ty < 2 then 32 else if ty = 4 then 8 else 16

/-- R224: the formats of `lread`. -/
def lreadAs (ty : Nat) : RdFmt :=
  match ty with
  | 0 => .flt fp32
  | 1 => .flt bf16
  | 2 => .flt fp16
  | 3 => .int true
  | _ => .int false

/-- R227: what a six-bit map select names. -/
def mapBit (c : BayCtx) (outs : List Bool) (w : W64) (r : Nat) : Bool :=
  let k := (w.extractLsb' (6 * r) 6).toNat
  if k < 48 then outs.getD k false else c.lutSt.getLsbD (k - 48)

/-- R227: the outputs of the LUTs, each of which sees the operands, the state and the LUTs before it. -/
def LutOutputs (c : BayCtx) (a b : W32) (outs : List Bool) : Prop :=
  outs.length = 48 ∧ ∀ i < 48,
    let w : W64 := Tab.get c.lut (48 + i) 0
    let input (j : Nat) : Bool :=
      let k := (w.extractLsb' (7 * j) 7).toNat
      if k < 32 then a.getLsbD k
      else if k < 64 then b.getLsbD (k - 32)
      else if k < 112 then (decide (k - 64 < i) && outs.getD (k - 64) false)
      else c.lutSt.getLsbD (k - 112)
    let u := (List.range 6).foldl (fun n j => n + if input j then 2 ^ j else 0) 0
    outs.getD i false = (Tab.get c.lut i (0 : W64)).getLsbD u

/-- R227: a value an entry may hold. -/
def lutLegal (e : Nat) (w : W64) : Prop :=
  e < 103 ∧ (48 ≤ e → e < 96 → w.extractLsb' 42 22 = 0 ∧ ∀ j < 6, let k := (w.extractLsb' (7 * j) 7).toNat; 64 ≤ k → k < 112 → k - 64 < e - 48) ∧
    (96 ≤ e → e < 102 → w.extractLsb' 60 4 = 0) ∧ (e = 102 → w.extractLsb' 16 48 = 0)

end Sys2Proof.Claims

open Sys2Proof.Claims

/-- R223, R224, R227, R228. -/
def Obligations.BayAccumulatorAndLutResults : Prop :=
  ∀ (s : State) (t u : BitVec 6) (f : BitVec 13) (a b : PW32) (qp : Option PW32),
    let c := s.myBay
    let done (c : BayCtx) (v : W32) (p : Bool) : BayCtx := result c s.focus.idx t u v (p || poisoned qp)
    let x (lo n : Nat) : Nat := (f.extractLsb' (3 + lo) n).toNat
    let reg (n : Nat) : VReg := Tab.get c.v (n % 8) {}
    let q := (f.extractLsb' 0 3).toNat
    c.vsW < 3 →
    (Fires s 0x44 f a b qp ∨ Fires s 0x45 f a b qp →
      let code := x 0 4
      let va := reg (2 * x 4 2)
      let vb := reg (2 * x 4 2 + 1)
      let j := (a.v.extractLsb' 16 3).toNat % (1024 / (32 * storeBits code))
      let sa := (a.v.extractLsb' 0 8).toNat
      let sb := (a.v.extractLsb' 8 8).toNat
      let dots (k : Nat) : Nat × Nat := (16 * j + k, 32 * j + 4 * (k / 2) + (b.v.extractLsb' (2 * k) 2).toNat)
      let after (sum : Contr) (p : Bool) : BayCtx :=
        { withAcc c (x 6 1) (entered (accOf c (x 6 1)) (blockContr code sa sb sum) p) with
          fs := if (code = 8 ∨ code = 9) ∧ p = false then c.fs ||| 32 else c.fs }
      code < 10 →
      (Fires s 0x44 f a b qp →
        let ks := (List.range 32).map (32 * j + ·)
        Makes s (exec (.bayDot t u f) s) (done (after
          (sumOfProducts code va vb ((ks.filter fun e => !elemMasked c code e).map fun e => (e, e)))
          (a.poison || poisoned qp || ks.any fun e => elemTaint code va e || elemTaint code vb e)) 1 false)) ∧
      (Fires s 0x45 f a b qp →
        let ks := (List.range 16).map dots
        Makes s (exec (.bayDots t u f) s) (done (after
          (sumOfProducts code va vb (ks.filter fun e => !elemMasked c code e.2))
          (a.poison || b.poison || poisoned qp || (ks.any fun e => elemTaint code va e.1) || (List.range 32).any fun k => elemTaint code vb (32 * j + k))) 1 false))) ∧
    (Fires s 0x46 f a b qp → x 0 3 < 5 → Makes s (exec (.bayLacc t u f) s)
      (done (withAcc c (x 4 1) (entered (accOf c (x 4 1)) (laccValue (x 0 3) a.v) (a.poison || poisoned qp))) 1 false)) ∧
    (Fires s 0x47 f a b qp → x 0 3 < 6 →
      let w := lvaccWidth (x 0 3)
      let l := (List.range (lanesOf c w)).foldl (fun (l : Lacc) k =>
        entered l (lvaccValue (x 0 3) (laneOf (reg (x 4 3)) w k).v) ((laneOf (reg (x 4 3)) w k).poison || poisoned qp)) (accOf c (x 7 1))
      Makes s (exec (.bayLvacc t u f) s) (done (withAcc c (x 7 1) l) (BitVec.ofNat 32 (lanesOf c w)) false)) ∧
    (Fires s 0x48 f a b qp → ∃ l, Makes s (exec (.bayLanchor t u f) s) (done (withAcc c (x 0 1) l) 1 false) ∧
      (a.poison = false → poisoned qp = false → l = { accOf c (x 0 1) with anchor := a.v.setWidth 12 }) ∧
      (a.poison = true → l.anchor = (accOf c (x 0 1)).anchor ∧ l.cell.getLsbD 127 = true ∧ ∀ i < 127, l.cell.getLsbD i = (accOf c (x 0 1)).cell.getLsbD i)) ∧
    (Fires s 0x49 f a b qp → Makes s (exec (.bayLclr t u f) s) (done (withAcc c (x 0 1) { accOf c (x 0 1) with cell := 0 }) 1 false)) ∧
    (Fires s 0x4A f a b qp → x 0 3 < 5 →
      let l := accOf c (x 4 1)
      let c' := if f.getLsbD 8 then withAcc c (x 4 1) { l with cell := 0 } else c
      (∀ v fl, readCell l.cell l.anchor (lreadAs (x 0 3)) q = some (v, fl) →
        Makes s (exec (.bayLread t u f) s) (done { c' with fs := if poisoned qp then c.fs else c.fs ||| fl } (BitVec.ofNat 32 v) false)) ∧
      (readCell l.cell l.anchor (lreadAs (x 0 3)) q = none → ∃ v w, exec (.bayLread t u f) s = .next v ∧ v.myBay = done c' w true ∧
        v = { s with bays := v.bays, fresh := v.fresh })) ∧
    (Fires s 0x4B f a b qp → x 0 3 < 5 → Makes s (exec (.bayLraw t u f) s)
      (done c (if x 0 3 = 4 then (accOf c (x 4 1)).anchor.signExtend 32 else (accOf c (x 4 1)).cell.extractLsb' (32 * x 0 3) 32) false)) ∧
    (Fires s 0x53 f a b qp → ∃ outs v st, LutOutputs c a.v b.v outs ∧
      (∀ r < 32, v.getLsbD r = mapBit c outs (Tab.get c.lut (96 + r / 10) 0) (r % 10)) ∧
      (if f.extractLsb' 11 2 = 0 ∧ f.getLsbD 3 = true ∧ a.poison = false ∧ b.poison = false ∧ poisoned qp = false then
        ∀ r < 16, st.getLsbD r = mapBit c outs (Tab.get c.lut (100 + r / 10) 0) (r % 10) else st = c.lutSt) ∧
      Makes s (exec (.bayLut t u f) s) (done { c with lutSt := st } v (a.poison || b.poison))) ∧
    (Fires s 0x54 f a b qp →
      let e := a.v.toNat
      let old : W64 := Tab.get c.lut e 0
      let w : W64 := if f.getLsbD 3 then b.v ++ old.extractLsb' 0 32 else old.extractLsb' 32 32 ++ b.v
      (lutLegal e w → Makes s (exec (.bayLutst t u f) s)
        (done { c with lut := Tab.put c.lut e w, lutSt := if e = 102 then w.setWidth 16 else c.lutSt } 1 false)) ∧
      (¬ lutLegal e w → let r := s.reportElem .cfg s.focus.hall s.focus.elem s.focus.ctx {}
        ∃ v, exec (.bayLutst t u f) s = .next v ∧ v = { r with bays := v.bays } ∧ v.myBay = done r.myBay 1 false)) ∧
    (Fires s 0x55 f a b qp →
      let w : W64 := if a.v.toNat < 103 then Tab.get c.lut a.v.toNat 0 else 0
      Makes s (exec (.bayLutrd t u f) s) (done c (if f.getLsbD 3 then w.extractLsb' 32 32 else w.extractLsb' 0 32) a.poison))

namespace Sys2Proof.Claims

/-- R48: the fields of a cell. -/
def cellValue (c : BitVec 128) : Int := (c.extractLsb' 0 116).toInt
def cellCheck (c : BitVec 128) : BitVec 7 := c.extractLsb' 116 7

/-- m × 2^e is at least 2^k. -/
def reaches (m e k : Int) : Prop := 2 ^ (k - e).toNat ≤ m * 2 ^ (e - k).toNat

/-- R51: a cell after a contribution that adds c, with what it adds to the flags. -/
def CellAfter (old new : BitVec 128) (anchor : BitVec 12) (c : Int) (poison nan saturated inexact : Bool) : Prop :=
  let t := cellValue old + c
  let a : BitVec 7 := anchor.extractLsb' 0 7
  new.getLsbD 123 = true ∧ cellCheck new = (if old.getLsbD 123 then cellCheck old else a) ∧
  new.extractLsb' 0 116 = BitVec.ofInt 116 t ∧
  new.getLsbD 127 = (old.getLsbD 127 || poison) ∧
  new.getLsbD 126 = (old.getLsbD 126 || (old.getLsbD 123 && decide (cellCheck old ≠ a)) || nan) ∧
  new.getLsbD 125 = (old.getLsbD 125 || saturated || decide (2 ^ 115 ≤ t) || decide (t < -(2 ^ 115))) ∧
  new.getLsbD 124 = (old.getLsbD 124 || inexact)

end Sys2Proof.Claims

open Sys2Proof.Claims

/-- R51, on the fields of R48. -/
def Obligations.AContributionEntersACell : Prop :=
  ∀ (cell : BitVec 128) (anchor : BitVec 12),
    let A := anchor.toInt
    (∀ x, CellAfter cell (enterCell cell anchor x true) anchor 0 true false false false) ∧
    CellAfter cell (enterCell cell anchor .nan false) anchor 0 false true false false ∧
    CellAfter cell (enterCell cell anchor (.inf false) false) anchor (2 ^ 99 - 1) false false true false ∧
    CellAfter cell (enterCell cell anchor (.inf true) false) anchor (-(2 ^ 99)) false false true false ∧
    ∀ m e : Int,
      let new := enterCell cell anchor (.fin m e) false
      (reaches m e (99 + A) → CellAfter cell new anchor (2 ^ 99 - 1) false false true false) ∧
      (reaches (-m) e (99 + A) → CellAfter cell new anchor (-(2 ^ 99)) false false true false) ∧
      (¬ reaches m e (99 + A) → ¬ reaches (-m) e (99 + A) → ∃ c : Int,
        c * 2 ^ (A - e).toNat ≤ m * 2 ^ (e - A).toNat ∧ m * 2 ^ (e - A).toNat < (c + 1) * 2 ^ (A - e).toNat ∧
        CellAfter cell new anchor c false false false (decide (c * 2 ^ (A - e).toNat ≠ m * 2 ^ (e - A).toNat)))

namespace Sys2Proof.Claims

/-- R51: contributions enter a cell one after another. -/
def enterAll (cell : BitVec 128) (anchor : BitVec 12) (l : List (Contr × Bool)) : BitVec 128 :=
  l.foldl (fun c x => enterCell c anchor x.1 x.2) cell

end Sys2Proof.Claims

open Sys2Proof.Claims

/-- R55, steps 1 to 4. -/
def Obligations.ContributionsEnterInAnyOrder : Prop :=
  ∀ (anchor : BitVec 12) (l l' : List (Contr × Bool)), l.Perm l' → l.length ≤ 65536 →
    enterAll 0 anchor l = enterAll 0 anchor l' ∧
    cellValue (enterAll 0 anchor l) = (l.map fun x => if x.2 then 0 else (contrInt anchor.toInt x.1).1).sum ∧
    ∀ fmt mode, readCell (enterAll 0 anchor l) anchor fmt mode = readCell (enterAll 0 anchor l') anchor fmt mode

namespace Sys2Proof.Claims

/-- R225: an access of n bytes from an address word lies in reach of the focused bay; and one it may make, aligned to a unit. -/
def inReach (s : State) (aw : W32) (n : Nat) : Prop :=
  let classes := match s.regionAt s.focus.hall s.focus.ctx with
    | none => 256
    | some r => (s.region r).eff.nclass
  aw.extractLsb' 20 4 = 0 ∧ (aw.extractLsb' 24 8).toNat < classes ∧
    (aw.extractLsb' 0 20).toNat + n ≤ (s.bank s.focus.hall (quadOf s.focus.elem)).groupSize (quadOf s.focus.elem)
def mayAccess (s : State) (aw : PW32) (n unit : Nat) : Prop := aw.poison = false ∧ inReach s aw.v n ∧ (aw.v.extractLsb' 0 20).toNat % unit = 0

/-- R193, R197: where the byte at a group offset lies, and the queue of that bank which the focused bay feeds. -/
def bankFor (s : State) (goff : Nat) : Nat × Nat := groupPlace (s.bank s.focus.hall (quadOf s.focus.elem)) (quadOf s.focus.elem) goff
def queueFor (s : State) (quad : Nat) : Nat :=
  if quad ≠ quadOf s.focus.elem then 3 else if s.focus.elem = firstABay (quadOf s.focus.elem) then 0 else 1

/-- R197, R214, R28: a request of the class can leave the focused bay now for the bank that holds a group offset: for a queue of its own quad's
bank, or by the packet network; one that is answered while fewer than 32 answers are outstanding. -/
def bankTakes (s : State) (aw : W32) (goff : Nat) (answered : Bool) : Prop :=
  let n := (bankFor s goff).1
  s.classBusy (aw.extractLsb' 24 8).toNat n = false ∧
    (queueFor s n ≠ 3 → (s.bank s.focus.hall n).takes (queueFor s n) s.focus.ctx = true) ∧
    (queueFor s n = 3 → s.netRoom (s.focus.hall, s.focus.elem) s.focus.hall n = true) ∧
    (answered = true → s.bayOwed s.focus.hall s.focus.elem < 32)

/-- The request that the focused bay makes. -/
def asked (s : State) (aw : W32) (goff size : Nat) (op : BankOp) (data : List Byte) (p : Bool) (re : Reply) : BankReq :=
  { op := op, boff := (bankFor s goff).2, size := size, data := data, poison := p, reply := re, ctx := s.focus.ctx,
    cls := (aw.extractLsb' 24 8).toNat, src := (s.focus.hall, s.focus.elem), no := s.myBay.robSeq }

/-- R197: a request that is answered has the next place in the context's return path. -/
def expecting (s : State) (re : Reply) (c : BayCtx) : BayCtx :=
  if re = .drop then c else { c with rob := s.myBay.rob ++ [{ no := s.myBay.robSeq, reply := re }], robSeq := s.myBay.robSeq + 1 }

/-- The answer is a next state in which the bank for a group offset has this request last in its queue, or the packet network carries it there, the
focused context is c and expects the answer, if there is one, and nothing else differs. -/
def Asks (s : State) (r : Res) (goff : Nat) (q : BankReq) (c : BayCtx) : Prop :=
  let n := (bankFor s goff).1
  let k := queueFor s n
  let b := s.bank s.focus.hall n
  ∃ v, r = .next v ∧ v.myBay = expecting s q.reply c ∧
    (k ≠ 3 → v.bank s.focus.hall n = { b with q := Tab.put b.q k (Tab.get b.q k [] ++ [q]) } ∧ v.net = s.net) ∧
    (k = 3 → v.net = (s.netSend (s.focus.hall, s.focus.elem) s.focus.hall n q).net ∧ v.banks = s.banks) ∧
    v = { s with bays := v.bays, banks := v.banks, net := v.net } ∧
    (∀ j, j ≠ bkey s.focus.hall s.focus.elem s.focus.ctx → Tab.find v.bays j = Tab.find s.bays j) ∧
    (∀ j, j ≠ 16 * s.focus.hall + n → Tab.find v.banks j = Tab.find s.banks j)

/-- Instruction i has fired and its value comes later. -/
def issued (c : BayCtx) (i : Nat) : BayCtx :=
  { c with task := c.task.map fun k => { k with blk := { k.blk with fired := k.blk.fired ++ [i], inflight := k.blk.inflight ++ [i] } } }

/-- The vector instruction in progress has got to place n, with these lanes read. -/
def progressed (c : BayCtx) (n : Nat) (got : List (Nat × PW32)) : BayCtx := { c with task := c.task.map fun k => { k with pos := n, got := got } }

/-- The frame of the focused task, its place in a vector, and the lanes read. -/
def taskFrame (s : State) : Nat := (s.myBay.task.map (·.blk.frame)).getD 0
def taskPos (s : State) : Nat := (s.myBay.task.map (·.pos)).getD 0
def taskGot (s : State) : List (Nat × PW32) := (s.myBay.task.map (·.got)).getD []

/-- R226: bytes and sign of `ld`. -/
def loadForm (f : BitVec 13) : Nat × Bool :=
  if f.extractLsb' 11 2 ≠ 0 then (4, false)
  else match (f.extractLsb' 3 3).toNat with
    | 0 => (1, true)
    | 1 => (1, false)
    | 2 => (2, true)
    | 3 => (2, false)
    | _ => (4, false)
/-- R226: bytes of `st`. -/
def storeForm (f : BitVec 13) : Nat := if f.extractLsb' 11 2 ≠ 0 then 4 else 2 ^ (f.extractLsb' 3 2).toNat

end Sys2Proof.Claims

open Sys2Proof.Claims

/-- R225, R226, R197, R214, R216. -/
def Obligations.BayMemoryAccess : Prop :=
  ∀ (s : State) (t u : BitVec 6) (f : BitVec 13) (a b : PW32) (qp : Option PW32),
    let c := s.myBay
    let i := s.focus.idx
    let off (w : W32) : Nat := (w.extractLsb' 0 20).toNat
    let targets : Bool := !(t == 0x30 && u == 0x30)
    let fr := taskFrame s
    let back (sg : Bool) : Reply := .bay s.focus.hall s.focus.elem s.focus.ctx fr i sg
    let trap (k : Cause) (aw data : W32) : Res :=
      .next (s.bayTrap s.focus.hall s.focus.elem s.focus.ctx i (s.bayWord s.focus.hall s.focus.elem s.focus.ctx fr i) k (aw.extractLsb' 24 8).toNat aw data)
    let load (op n : Nat) (sg : Bool) (bop : BankOp) (x : Instr) : Prop := Fires s op f a b qp →
      (mayAccess s a n n → bankTakes s a.v (off a.v) true →
        Asks s (exec x s) (off a.v) (asked s a.v (off a.v) n bop [] (poisoned qp) (back sg)) (issued c i)) ∧
      (¬ mayAccess s a n n → ∃ v w, exec x s = .next v ∧ v.myBay = result c i t u w true)
    let store (op n : Nat) (bop : BankOp) (wait : Bool) (x : Instr) : Prop := Fires s op f a b qp →
      (mayAccess s a n n → b.poison = false → bankTakes s a.v (off a.v) wait → s.bayEcc (off a.v) n = false →
        Asks s (exec x s) (off a.v) (asked s a.v (off a.v) n bop (leBytes n b.v.toNat) (poisoned qp) (if wait then back false else .drop))
          (if wait then issued c i else result c i t u 1 (poisoned qp))) ∧
      (a.poison = true ∨ b.poison = true → exec x s = trap .poisonuse a.v b.v) ∧
      (a.poison = false → b.poison = false → inReach s a.v n → off a.v % n ≠ 0 → exec x s = trap .align a.v b.v) ∧
      (a.poison = false → b.poison = false → ¬ inReach s a.v n → exec x s = trap .range a.v b.v)
    load 0x4C (loadForm f).1 (loadForm f).2 .read (.bayLd t u f) ∧
    load 0x4E 4 false (if f.getLsbD 3 then .syncClr else .syncKeep) (.bayLdSync t u f) ∧
    store 0x4D (storeForm f) .write targets (.baySt t u f) ∧
    store 0x52 4 (.amo (f.extractLsb' 3 4).toNat) true (.bayAmo t u f) ∧
    (c.vsW < 3 →
      let w := shapeWidth c
      let m := lanesOf c w
      let n := w / 8
      let ra := (f.extractLsb' 7 4).toNat
      let v0 : VReg := Tab.get c.v (ra % 8) {}
      let k := taskPos s
      let vector (op : Nat) (place : Nat → Option Nat) (x : Instr) : Prop := Fires s op f a b qp →
        (m = 0 → taskGot s = [] → ∃ v, v.v = v0.v ∧ v.pois = v0.pois ∧ v.fl = v0.fl ∧ Makes s (exec x s)
          (result (progressed (withVreg c ra v) 0 []) i t u 1 (poisoned qp))) ∧
        (k < m → mayAccess s b 0 n → (∀ j < m, place j ≠ none) → ∀ o, place k = some o → bankTakes s b.v o true →
          Asks s (exec x s) o (asked s b.v o n .read [] false (.bayLane s.focus.hall s.focus.elem s.focus.ctx fr i k)) (progressed c (k + 1) (taskGot s))) ∧
        (k < m → ¬ mayAccess s b 0 n ∨ place k = none → ∃ v x', exec x s = .next v ∧
          v.myBay = progressed c (k + 1) (taskGot s ++ [(k, { v := x', poison := true })])) ∧
        (m ≤ k → (taskGot s).length < m → exec x s = .next s) ∧
        (0 < m → m ≤ k → ∀ g : Nat → PW32, (taskGot s).Perm ((List.range m).map fun j => (j, g j)) →
          ∃ v, LanesAre w m v0 v g ∧ v.fl = v0.fl ∧
            Makes s (exec x s) (result (progressed (withVreg c ra v) 0 []) i t u 1 (poisoned qp)))
      let fits (o : Nat) : Option Nat := if o + n ≤ (s.bank s.focus.hall (quadOf s.focus.elem)).groupSize (quadOf s.focus.elem) then some o else none
      vector 0x4F (fun j => fits (off b.v + j * n)) (.bayVld t u f) ∧
      vector 0x51 (fun j => if (laneOf v0 w j).poison then none else fits (off b.v + (laneOf v0 w j).v.toNat * n)) (.bayVgather t u f) ∧
      (Fires s 0x50 f a b qp →
        let bad := b.poison = true ∨ ∃ j < m, (laneOf v0 w j).poison = true
        (m = 0 → Makes s (exec (.bayVst t u f) s) (result c i t u 1 (poisoned qp))) ∧
        (m ≠ 0 → bad → exec (.bayVst t u f) s = trap .poisonuse b.v (v0.v.setWidth 32)) ∧
        (m ≠ 0 → ¬ bad → mayAccess s b (m * n) n → ∀ o len, (linePieces (off b.v) (m * n))[k]? = some (o, len) →
          bankTakes s b.v (off b.v + o) (targets && k + 1 == (linePieces (off b.v) (m * n)).length) → s.bayEcc (off b.v + o) len = false →
          let data := leBytes len (v0.v.toNat / 2 ^ (8 * o))
          let req (p : Bool) (re : Reply) := asked s b.v (off b.v + o) len .write data p re
          if k + 1 = (linePieces (off b.v) (m * n)).length then
            Asks s (exec (.bayVst t u f) s) (off b.v + o) (req (poisoned qp) (if targets then back false else .drop))
              (if targets then issued (progressed c 0 (taskGot s)) i else result (progressed c 0 (taskGot s)) i t u 1 (poisoned qp))
          else Asks s (exec (.bayVst t u f) s) (off b.v + o) (req false .drop) (progressed c (k + 1) (taskGot s)))))

namespace Sys2Proof.Claims

/-- R207: the head token of a channel leaves a context's queue. -/
def tookHead (c : BayCtx) (ch : Nat) : BayCtx :=
  { c with chans := Tab.put c.chans ch ((Tab.get c.chans ch []).drop 1), ingr := Tab.put c.ingr ch ((Tab.get c.ingr ch []).drop 1) }

/-- The token a task latched last (R204), and latching another. -/
def lastOf (c : BayCtx) : Token := (c.task.map (·.last)).getD {}
def latched (c : BayCtx) (tok : Token) : BayCtx := { c with task := c.task.map fun k => { k with last := tok } }
def atBeat (c : BayCtx) (n : Nat) : BayCtx := { c with task := c.task.map fun k => { k with pos := n } }

/-- R230: one turn of loop k under a bound: the counters afterwards, and what the targets receive. -/
def turned (c : BayCtx) (k : Nat) (bound : W32) : BayCtx × SlotVal × SlotVal :=
  let i := Tab.get c.lc k 0
  if i.toNat < bound.toNat then ({ c with lc := Tab.put c.lc k (i + 1) }, .val { v := i }, .val { v := 1 })
  else ({ c with lc := Tab.put c.lc k 0, lb := Tab.del c.lb k }, .null, .val { v := 0 })

/-- A value, poisoned too where the predicate read is; null stays null. -/
def touched (q : Option PW32) : SlotVal → SlotVal
  | .null => .null
  | .val w => .val { w with poison := w.poison || poisoned q }

/-- R231: a token of the focused task. -/
def ownToken (s : State) (k : TokKind) : Token := { kind := k, ctx := BitVec.ofNat 2 s.focus.ctx, round := (lastOf s.myBay).round }

/-- R231: what `send` of a kind sends. -/
def sentToken (s : State) (kind : Nat) (a b : W32) (p : Bool) : Token :=
  match kind with
  | 0 => { ownToken s .data with width := 1, poison := p, payload := a.setWidth 64 }
  | 1 => { ownToken s .data with width := 2, poison := p, payload := a ++ b }
  | 2 => { ownToken s .data with width := 0, poison := p, payload := b ++ a }
  | 3 => { ownToken s .stop with level := a.setWidth 3 }
  | 4 => ownToken s .done
  | 5 => { ownToken s .roundEnd with round := a.setWidth 4 }
  | _ => { ownToken s .marker with level := a.setWidth 3 }

/-- The focused task traps in the focused instruction, in a state that its firing has left. -/
def trapIn (s v : State) (k : Cause) (data : W32) : Res :=
  .next (v.bayTrap s.focus.hall s.focus.elem s.focus.ctx s.focus.idx
    (s.bayWord s.focus.hall s.focus.elem s.focus.ctx (taskFrame s) s.focus.idx) k 0 0 data)

/-- R232: a beat of a register. -/
def beatOf (v : VReg) (i : Nat) : W64 × Bool := (v.v.extractLsb' (64 * i) 64, v.pois.getLsbD (2 * i) || v.pois.getLsbD (2 * i + 1))

/-- R234: what follows the active block. -/
def followedBy (c : BayCtx) (n : BlkNext) : BayCtx := { c with task := c.task.map fun k => { k with blk := { k.blk with next := n } } }

end Sys2Proof.Claims

open Sys2Proof.Claims

/-- R229–R235. -/
def Obligations.BayFlowAndTokens : Prop :=
  ∀ (s : State) (t u : BitVec 6) (f : BitVec 13) (y : BitVec 8) (a b : PW32) (qp : Option PW32),
    let c := s.myBay
    let i := s.focus.idx
    let p := poisoned qp
    let x (lo n : Nat) : Nat := (f.extractLsb' (3 + lo) n).toNat
    let gives (v : W32) (q : Bool) (c : BayCtx) : BayCtx := result c i t u v (q || p)
    let fy : BitVec 13 := (0 : BitVec 2) ++ y ++ (0 : BitVec 3)
    (∀ q, Fires s 0x56 f a b (some q) →
      (q.poison = true → exec (.baySteer t u f) s = trapIn s s .poisonuse a.v) ∧
      (q.poison = false → Makes s (exec (.baySteer t u f) s)
        (if q.v.getLsbD 0 then delivered c i t u (.val a) .null else delivered c i t u .null (.val a)))) ∧
    (∀ q, Fires s 0x57 f a b (some q) →
      (q.poison = true → exec (.bayMerge t u f) s = trapIn s s .poisonuse a.v) ∧
      (q.poison = false → Makes s (exec (.bayMerge t u f) s) (delivered c i t u (.val a) (.val a)))) ∧
    (Fires s 0x5E f a b qp → Makes s (exec (.bayIspois t u f) s) (result c i t u (if a.poison then 1 else 0) false)) ∧
    (Fires s 0x58 f a b qp →
      (a.poison = true → exec (.bayLoop t u f) s = trapIn s s .poisonuse a.v) ∧
      (a.poison = false → let r := turned c (x 0 2) a.v
        Makes s (exec (.bayLoop t u f) s) (delivered r.1 i t u (touched qp r.2.1) (touched qp r.2.2)))) ∧
    (Fires s 0x59 f a b qp →
      let k := x 0 2
      let ch := x 4 4
      (∀ bound, Tab.find c.lb k = some bound → let r := turned c k bound
        Makes s (exec (.bayLoopt t u f) s) (delivered r.1 i t u (touched qp r.2.1) (touched qp r.2.2))) ∧
      (Tab.find c.lb k = none →
        (Tab.get c.chans ch [] = [] → exec (.bayLoopt t u f) s = .next s) ∧
        (∀ tok rest, Tab.get c.chans ch [] = tok :: rest →
          (tok.kind ≠ .data → Makes s (exec (.bayLoopt t u f) s) (delivered c i t u .null (touched qp (.val { v := 0 })))) ∧
          (tok.kind = .data → tok.width = 1 → tok.poison = false →
            let bound : W32 := tok.payload.extractLsb' 0 32
            let r := turned { tookHead c ch with lb := Tab.put c.lb k bound } k bound
            Makes s (exec (.bayLoopt t u f) s) (delivered r.1 i t u (touched qp r.2.1) (touched qp r.2.2))) ∧
          (tok.kind = .data → tok.width = 1 → tok.poison = true → ∃ v, v.myBay = tookHead c ch ∧ OnlyBay s v ∧
            exec (.bayLoopt t u f) s = trapIn s v .poisonuse 0) ∧
          (tok.kind = .data → tok.width ≠ 1 → ∃ v, v.myBay = tookHead c ch ∧ OnlyBay s v ∧
            exec (.bayLoopt t u f) s = .next (v.reportElem .cfg s.focus.hall s.focus.elem s.focus.ctx tok))))) ∧
    (Fires s 0x5A fy a b qp →
      let kind := (y.extractLsb' 5 3).toNat
      let q := a.poison || (decide (kind = 1 ∨ kind = 2) && b.poison)
      let tok := sentToken s kind a.v b.v (q || p)
      kind < 7 →
      (3 ≤ kind → q = true → exec (.baySend y) s = trapIn s s .poisonuse a.v) ∧
      (kind = 6 → q = false → a.v.extractLsb' 0 3 ≠ 0 → a.v.extractLsb' 0 3 ≠ 2 → a.v.extractLsb' 0 3 ≠ 3 →
        let v := s.reportElem .cfg s.focus.hall s.focus.elem s.focus.ctx {}
        v.focus = s.focus → Makes v (exec (.baySend y) s) (delivered v.myBay i 0x30 0x30 .null .null)) ∧
      (kind < 3 ∨ q = false → (kind = 6 → a.v.extractLsb' 0 3 = 0 ∨ a.v.extractLsb' 0 3 = 2 ∨ a.v.extractLsb' 0 3 = 3) →
        (s.sendToken s.focus.hall s.focus.elem (y.extractLsb' 0 5).toNat tok = none → exec (.baySend y) s = .next s) ∧
        (∀ v, s.sendToken s.focus.hall s.focus.elem (y.extractLsb' 0 5).toNat tok = some v → v.focus = s.focus →
          Makes v (exec (.baySend y) s) (delivered v.myBay i 0x30 0x30 .null .null)))) ∧
    (Fires s 0x5B f a b qp →
      let l := lastOf c
      let n := x 0 4
      (x 4 4 = 0 → (Tab.get c.chans n [] = [] → exec (.bayRecv t u f) s = .next s) ∧
        (∀ tok rest, Tab.get c.chans n [] = tok :: rest →
          Makes s (exec (.bayRecv t u f) s) (gives (tok.payload.extractLsb' 0 32) (tok.kind == .data && tok.poison) (latched (tookHead c n) tok)))) ∧
      (x 4 4 = 1 → Makes s (exec (.bayRecv t u f) s) (gives (BitVec.ofNat 32 l.header) false c)) ∧
      (x 4 4 = 2 → Makes s (exec (.bayRecv t u f) s) (gives (l.payload.extractLsb' 32 32) (l.kind == .data && l.poison) c)) ∧
      (x 4 4 = 3 → Makes s (exec (.bayRecv t u f) s) (gives (c.fs.setWidth 32) false (if f.getLsbD 3 then { c with fs := 0 } else c))) ∧
      (x 4 4 = 4 → let v : VReg := Tab.get c.v (n % 8) {}
        Makes s (exec (.bayRecv t u f) s) (gives (v.fl.setWidth 32) false (if f.getLsbD 6 then withVreg c n { v with fl := 0 } else c))) ∧
      (x 4 4 = 5 → Makes s (exec (.bayRecv t u f) s) (gives (BitVec.ofNat 32 (c.vsN + 2 ^ 8 * c.vsW + if c.vsRev then 2 ^ 10 else 0)) false
        (if f.getLsbD 3 then { c with vsRev := false } else c))) ∧
      (x 4 4 = 6 → Makes s (exec (.bayRecv t u f) s) (gives (BitVec.ofNat 32 (s.focus.elem % 8 + 2 ^ 3 * (s.focus.elem / 8) +
        2 ^ 6 * s.logCtx s.focus.hall s.focus.ctx + 2 ^ 8 * s.focus.hall)) false c))) ∧
    (Fires s 0x42 f a b qp →
      let v : VReg := Tab.get c.v (x 0 3 % 8) {}
      let nb := (lanesOf c (shapeWidth c) * shapeWidth c + 63) / 64
      let j := taskPos s
      let tok : Token := { ownToken s .data with
        width := 3, beat := BitVec.ofNat 4 j, level := if j + 1 = nb then 1 else 0, payload := (beatOf v j).1, poison := (beatOf v j).2 || p }
      (nb = 0 → Makes s (exec (.bayVput t u f) s) (gives 0 false c)) ∧
      (nb ≠ 0 → (s.sendToken s.focus.hall s.focus.elem (x 3 5) tok = none → exec (.bayVput t u f) s = .next s) ∧
        (∀ w, s.sendToken s.focus.hall s.focus.elem (x 3 5) tok = some w → w.focus = s.focus →
          Makes w (exec (.bayVput t u f) s) (if j + 1 = nb then gives (BitVec.ofNat 32 nb) false (atBeat w.myBay 0) else atBeat w.myBay (j + 1))))) ∧
    (Fires s 0x43 f a b qp →
      let n := x 0 3
      let j := taskPos s
      let v0 : VReg := Tab.get c.v (n % 8) {}
      (Tab.get c.chans (x 4 4) [] = [] → exec (.bayVget t u f) s = .next s) ∧
      (∀ tok rest, Tab.get c.chans (x 4 4) [] = tok :: rest → j < 16 →
        (tok.kind ≠ .data → Makes s (exec (.bayVget t u f) s) (gives 0 false (atBeat (latched (tookHead c (x 4 4)) tok) 0))) ∧
        (tok.kind = .data → ∃ v : VReg, beatOf v j = (tok.payload, tok.poison) ∧ v.fl = v0.fl ∧ (∀ k < 16, k ≠ j → beatOf v k = beatOf v0 k) ∧
          let d := withVreg (tookHead c (x 4 4)) n v
          Makes s (exec (.bayVget t u f) s)
            (if tok.width = 3 ∧ tok.level.getLsbD 0 = false ∧ j < 15 then atBeat d (j + 1) else gives (BitVec.ofNat 32 (j + 1)) false (atBeat d 0))))) ∧
    ((∀ k, c.task = some k → c.trapped = false → s.halted s.focus.hall s.focus.elem s.focus.ctx = false →
        s.bayReady s.focus.hall s.focus.elem s.focus.ctx c k.blk i 0x5C fy = .go {} {} none → (y.extractLsb' 6 2 = 1 ∨ y.extractLsb' 6 2 = 2) →
        Makes s (exec (.bayBr y) s) (delivered (followedBy c (.frame (taskFrame s + 1))) i 0x30 0x30 .null .null)) ∧
      (∀ q, Fires s 0x5C fy a b (some q) →
        let goes (n : BlkNext) : Prop := Makes s (exec (.bayBr y) s) (delivered (followedBy c n) i 0x30 0x30 .null .null)
        let fr := (y.extractLsb' 0 6).toNat
        (y.extractLsb' 6 2 = 0 → goes (.frame fr)) ∧ (y.extractLsb' 6 2 = 3 → goes .endTask) ∧
        (y.extractLsb' 6 2 = 1 ∨ y.extractLsb' 6 2 = 2 → a.poison = true → exec (.bayBr y) s = trapIn s s .poisonuse a.v) ∧
        (y.extractLsb' 6 2 = 1 → a.poison = false → goes (.frame (if a.v.getLsbD 0 then fr else taskFrame s + 1))) ∧
        (y.extractLsb' 6 2 = 2 → a.poison = false → goes (.frame (a.v.extractLsb' 0 6).toNat)))) ∧
    (Fires s 0x5D f a b qp →
      let q := Tab.get s.ltoks s.focus.hall []
      (a.poison = true → exec (.bayLaunch t u f) s = trapIn s s .poisonuse a.v) ∧
      (a.poison = false → 16 ≤ q.length ∨ s.bayPerformed s.focus.hall s.focus.elem s.focus.ctx = false → exec (.bayLaunch t u f) s = .next s) ∧
      (a.poison = false → q.length < 16 → s.bayPerformed s.focus.hall s.focus.elem s.focus.ctx = true →
        let l : LaunchTok := { bay := s.focus.elem, ctx := s.focus.ctx, tok := { ownToken s .data with width := 1, payload := a.v.setWidth 64 } }
        let v : State := { s with ltoks := Tab.put s.ltoks s.focus.hall (q ++ [l]) }
        Makes v (exec (.bayLaunch t u f) s) (gives 1 false c)))

namespace Sys2Proof.Claims

/-- R205: the fields of a handler entry. -/
def handlerChan (w : W64) : Nat := (w.extractLsb' 57 4).toNat
def handlerPrio (w : W64) : Nat := (w.extractLsb' 53 4).toNat
def handlerFrame (w : W64) : Nat := (w.extractLsb' 47 6).toNat
def handlerFwd (w : W64) : Nat := (w.extractLsb' 42 5).toNat

/-- R379: a handler of the focused context is eligible. -/
def eligible (c : BayCtx) (hs : Tab W64) (i : Nat) : Prop :=
  let w := Tab.get hs i 0
  i < 16 ∧ w.getLsbD 63 = true ∧ (match c.msk with | some m => m.getLsbD i | none => w.getLsbD 62) = false ∧
    ∃ t rest, Tab.get c.chans (handlerChan w) [] = t :: rest ∧ (t.kind = .data ∨ w.getLsbD 61 = true)

/-- R379: handler i is the one selected. -/
def selects (c : BayCtx) (hs : Tab W64) (i : Nat) : Prop :=
  let wait (g : Nat) : Nat := Tab.get c.waits g 0
  let prio (g : Nat) : Nat := handlerPrio (Tab.get hs g 0)
  let since (g : Nat) : Nat := Tab.get c.since g 0
  eligible c hs i ∧
    ((48 ≤ wait i ∧ ∀ g, eligible c hs g → g ≠ i → 48 ≤ wait g → wait g < wait i ∨ (wait g = wait i ∧ i < g)) ∨
     ((∀ g, eligible c hs g → wait g < 48) ∧ ∀ g, eligible c hs g → g ≠ i →
        prio g < prio i ∨ (prio g = prio i ∧ (since i < since g ∨ (since i = since g ∧ i < g)))))

/-- Two contexts of a bay agree but for the bookkeeping of R379. -/
def SameWork (c d : BayCtx) : Prop := { c with waits := d.waits, since := d.since, selCnt := d.selCnt } = d

/-- The focused context of a bay may run: it is in an A-bay, not trapped, and nothing has stopped it. -/
def mayRun (s : State) : Prop :=
  bayKind s.focus.elem = .a ∧ s.myBay.trapped = false ∧ s.halted s.focus.hall s.focus.elem s.focus.ctx = false

/-- R213: register n after the writes of a block: that of the highest index, or what it was. -/
def regAfter (c : BayCtx) (ws : List (Nat × Nat × PW32)) (n : Nat) (v : PW32) : Prop :=
  (v = Tab.get c.b n {} ∧ ∀ w ∈ ws, w.1 ≠ n) ∨
    ∃ i < 16, (n, i, v) ∈ ws ∧ ∀ w ∈ ws, w.1 = n → w.2.1 ≤ i ∧ (w.2.1 = i → w.2.2 = v)

/-- R213: some value that a load has still to bring goes to a register. -/
def owesRegister (b : Block) (ws : List W32) : Prop :=
  ∃ i ∈ b.inflight, 48 < ((ws.getD i 0).extractLsb' 19 6).toNat ∨ 48 < ((ws.getD i 0).extractLsb' 13 6).toNat

/-- R216: answers to requests of a context that nothing waits for any more. -/
def unheeded (c : BayCtx) : List RobEnt := c.rob.map fun e => { e with reply := .drop }

/-- R209: the handler table entry bound to a channel: the first valid one that names it. -/
def bindsChan (hs : Tab W64) (ch : Nat) (w : W64) : Prop :=
  ∃ i < 16, w = Tab.get hs i 0 ∧ w.getLsbD 63 = true ∧ handlerChan w = ch ∧
    ∀ j < i, ¬ ((Tab.get hs j (0 : W64)).getLsbD 63 = true ∧ handlerChan (Tab.get hs j 0) = ch)

end Sys2Proof.Claims

open Sys2Proof.Claims

/-- R208, R209, R213, R234, R379. -/
def Obligations.HandlersBlocksAndControlTokens : Prop :=
  (∀ s : State, mayRun s → s.myBay.task = none →
    let c := s.myBay
    let hs := (s.cfg s.focus.hall s.focus.elem s.focus.ctx).handlers
    ((∀ i, ¬ eligible c hs i) → exec .handlerSelect s = .next s) ∧
    ((∃ i, eligible c hs i) → ∃ i, selects c hs i) ∧
    (∀ i tok rest, selects c hs i → Tab.get c.chans (handlerChan (Tab.get hs i 0)) [] = tok :: rest →
      ∃ v, exec .handlerSelect s = .next v ∧ OnlyBay s v ∧
        SameWork v.myBay { tookHead c (handlerChan (Tab.get hs i 0)) with
          b := Tab.put c.b 0 { v := tok.payload.extractLsb' 0 32, poison := tok.kind == .data && tok.poison }
          task := some { hent := i, last := tok, blk := { frame := handlerFrame (Tab.get hs i 0) } }
          tasks := (c.tasks + 1) % 2 ^ 64 })) ∧
  (∀ (s : State) (k : Task), s.myBay.task = some k → s.myBay.trapped = false → s.halted s.focus.hall s.focus.elem s.focus.ctx = false →
    let c := s.myBay
    let ws := s.blockWords s.focus.hall s.focus.elem s.focus.ctx
    let done := ¬ owesRegister k.blk (ws k.blk.frame) ∧ ∀ i < (ws k.blk.frame).length, i ∈ k.blk.fired
    (¬ done ∨ k.blk.next = .undecided → exec .blockRetire s = .next s) ∧
    (done → k.blk.next = .endTask → ∃ v, exec .blockRetire s = .next v ∧ OnlyBay s v ∧
      SameWork v.myBay { c with b := v.myBay.b, task := none, rob := unheeded c } ∧ ∀ n x, regAfter c k.blk.regw n x → Tab.get v.myBay.b n {} = x) ∧
    (∀ fr, done → k.blk.next = .frame fr → fr < 64 → ws fr ≠ [] → ∃ v, exec .blockRetire s = .next v ∧ OnlyBay s v ∧
      v.myBay = { c with b := v.myBay.b, task := some { k with blk := { frame := fr } }, rob := unheeded c } ∧
      ∀ n x, regAfter c k.blk.regw n x → Tab.get v.myBay.b n {} = x) ∧
    (∀ fr, done → k.blk.next = .frame fr → 64 ≤ fr ∨ ws fr = [] → exec .blockRetire s = .next
      (s.bayTrap s.focus.hall s.focus.elem s.focus.ctx ((ws k.blk.frame).length - 1) ((ws k.blk.frame).getLastD 0) .cfg 0 0 0))) ∧
  (∀ (s : State) (w : W64) (tok : Token) (rest : List Token), mayRun s →
    let c := s.myBay
    let h := s.focus.hall
    let e := s.focus.elem
    let x := s.focus.ctx
    let ch := s.focus.idx % 16
    let hs := (s.cfg h e x).handlers
    bindsChan hs ch w → Tab.get c.chans ch [] = tok :: rest →
    let after (c : BayCtx) : State := s.setBayCtx h e x ((tookHead c ch).refresh hs)
    (c.task ≠ none ∨ w.getLsbD 61 = true → exec .controlTokenTake s = .next s) ∧
    (c.task = none → w.getLsbD 61 = false →
      (tok.kind = .stop ∨ tok.kind = .done ∨ tok.kind = .roundEnd ∨ (tok.kind = .marker ∧ (tok.level = 2 ∨ tok.level = 3)) →
        ((after c).sendToken h e (handlerFwd w) tok = none → exec .controlTokenTake s = .next s) ∧
        (∀ v, (after c).sendToken h e (handlerFwd w) tok = some v → exec .controlTokenTake s = .next v)) ∧
      (tok.kind = .marker → tok.level = 0 →
        ∀ v, (after { c with lc := [], lb := [], lutSt := (Tab.get c.lut 102 (0 : W64)).extractLsb' 0 16 }).sendToken h e (handlerFwd w) tok = some v →
          exec .controlTokenTake s = .next (v.invoked h 0 e x)) ∧
      (tok.kind = .marker → 4 < tok.level.toNat → exec .controlTokenTake s = .next ((after c).reportElem .cfg h e x tok))))

namespace Sys2Proof.Claims

/-- R66: the fields of a route-class entry. -/
def routeOuts (w : W32) : List Nat := (List.range 4).filter fun d => w.getLsbD (31 - d)
def routeChan (w : W32) : BitVec 4 := w.extractLsb' 23 4
def routeLocal (w : W32) : Nat := (w.extractLsb' 19 4).toNat

/-- R22, R62: a link takes a beat of a source under a context. -/
def linkTakes (s : State) (k ctx src : Nat) : Prop :=
  s.link k = [] ∧ (Tab.find s.vecOpen (4 * k + ctx) = none ∨ Tab.find s.vecOpen (4 * k + ctx) = some src)

/-- R23, R66: a token has left on these outputs of a bay and no others, with the channel of the entry. -/
def LeftOn (s v : State) (hall bay : Nat) (dirs : List Nat) (t : Token) : Prop :=
  (∀ d ∈ dirs, v.link (bayOut hall bay d) = [t]) ∧ ∀ k, (∀ d ∈ dirs, k ≠ bayOut hall bay d) → v.link k = s.link k

end Sys2Proof.Claims

open Sys2Proof.Claims

/-- R66, R22, R23, R24, R207, R249. That a beat of the element's own goes after one of equal priority on a link is the model's choice (log 54). -/
def Obligations.TokensTakeRouteClasses : Prop :=
  (∀ (s : State) (hall bay rc src ing : Nat) (t : Token) (own : Bool), hall < 64 → bay < 64 →
    let w := s.route66 hall bay t.ctx.toNat rc
    let dirs := routeOuts w
    let out : Token := { t with chan := routeChan w }
    let r := s.takeRoute hall bay rc src t own ing
    let takes (d : Nat) : Prop := linkTakes s (bayOut hall bay d) t.ctx.toNat src
    let turn := s.outBid hall bay dirs t.ctx.toNat src = false
    let moved (v : State) : State :=
      { s with links := v.links, feed := v.feed, vecOpen := v.vecOpen, linkAge := v.linkAge, linkSeq := v.linkSeq, tokCnt := v.tokCnt }
    let q := Tab.get (s.bayCtx hall bay t.ctx.toNat).chans (routeLocal w) []
    (dirs = [] → w.getLsbD 27 = false → r = some (s.reportElem .cfg hall bay t.ctx.toNat t)) ∧
    (dirs ≠ [] → (∃ d ∈ dirs, ¬ takes d) ∨ ¬ turn → r = none) ∧
    (dirs ≠ [] → (∀ d ∈ dirs, takes d) → turn → w.getLsbD 27 = false → ∃ v, r = some v ∧ LeftOn s v hall bay dirs out ∧ v = moved v) ∧
    ((∀ d ∈ dirs, takes d) → turn → w.getLsbD 27 = true → bayKind bay = .a → ¬ (own = true ∧ rc = 31 ∧ dirs = []) →
      (4 ≤ q.length → r = none) ∧
      (q.length < 4 → ∃ v, r = some v ∧ LeftOn s v hall bay dirs out ∧
        Tab.get (v.bayCtx hall bay t.ctx.toNat).chans (routeLocal w) [] = q ++ [{ t with chan := BitVec.ofNat 4 (routeLocal w) }] ∧
        v = { moved v with bays := v.bays, inFrom := v.inFrom }))) ∧
  (∀ (s : State) (hall bay src d : Nat) (dirs : List Nat) (ctx : Nat) (t : Token) (rest : List Token),
    let k := lkey hall bay d
    let x := t.ctx.toNat
    d < 4 → d ≠ src → src = 5 ∨ src < 4 → s.link k = t :: rest → t.kind ≠ .drain → t.kind ≠ .snapshot → bay ∈ (s.slot hall x).liveAt →
    s.swapStopped hall bay x = false →
    (∃ o ∈ dirs, o ∈ routeOuts (s.route66 hall bay x t.chan.toNat)) → ((s.popLink k).passRoute hall bay t.chan.toNat d t false).isSome = true →
    s.firePrio hall ctx < s.firePrio hall x ∨ (s.firePrio hall ctx = s.firePrio hall x ∧
      (src = 5 ∨ Tab.get s.linkAge k 0 < Tab.get s.linkAge (lkey hall bay src) 0)) →
    s.outBid hall bay dirs ctx src = true) ∧
  (∀ (s : State) (t : Token) (rest : List Token),
    let h := s.focus.hall
    let b := s.focus.elem
    let d := s.focus.idx % 5
    let k := lkey h b d
    (s.link k = [] → exec .linkTokenArrival s = .next s) ∧
    (s.link k = t :: rest → t.kind = .drain ∨ t.kind = .snapshot → exec .linkTokenArrival s = .next s) ∧
    (s.link k = t :: rest → t.kind ≠ .drain → t.kind ≠ .snapshot → b < 64 → b ∈ (s.slot h t.ctx.toNat).liveAt →
      s.regionAt h t.ctx.toNat = none →
      ((s.popLink k).takeRoute h b t.chan.toNat d t false = none → exec .linkTokenArrival s = .next s) ∧
      (∀ v, (s.popLink k).takeRoute h b t.chan.toNat d t false = some v → exec .linkTokenArrival s = .next v)) ∧
    (∀ r, s.link k = t :: rest → t.kind ≠ .drain → t.kind ≠ .snapshot → b < 64 → b ∈ (s.slot h t.ctx.toNat).liveAt →
      s.regionAt h t.ctx.toNat = some r → s.swapStopped h b t.ctx.toNat = false →
      ((s.popLink k).takeRoute h b t.chan.toNat d t false = none → exec .linkTokenArrival s = .next s) ∧
      (∀ v, (s.popLink k).takeRoute h b t.chan.toNat d t false = some v → exec .linkTokenArrival s = .next (v.snapCopy h b t.ctx.toNat d t)))) ∧
  (∀ (s : State) (t : RTok) (rest : List RTok),
    let h := s.focus.hall
    let e := s.focus.elem
    let k := lkey h e s.focus.idx
    let src := Tab.find s.feed (4 * bayOut h e s.focus.idx + t.ctx)
    let s1 : State := { s with rlanes := Tab.put s.rlanes k rest }
    let ws := (s.cfg h e t.ctx).words
    Tab.get s.rlanes k [] = t :: rest → e < 64 →
    (src = none ∨ s1.swapStopped h e t.ctx = true → exec .returnLaneToken s = .next s1) ∧
    (∀ d j, s1.swapStopped h e t.ctx = false → src = some d → d ≠ 5 → upstreamLane h e d = some j → exec .returnLaneToken s = .next (s1.putLane j t)) ∧
    (∀ d, src = some d → d ≠ 5 → upstreamLane h e d = none → exec .returnLaneToken s = .next s1) ∧
    (∀ w, s1.swapStopped h e t.ctx = false → src = some 5 → bayKind e = .s → modeWord ws = some w → w.extractLsb' 58 6 = 0x01 →
      let u := s.unit h e t.ctx
      let u' : SCtx := if t.level = 7 then { u with xCnt := t.coord }
        else if t.level = 0 ∧ u.xCnt = u.eCnt then { u with skipT := some t.coord } else u
      exec .returnLaneToken s = .next (s1.setUnit h e t.ctx u')))

namespace Sys2Proof.Claims

/-- The focused unit works for its context in a mode, its words being these. -/
def unitIn (s : State) (mode : Nat) : Prop := s.unitRuns = true ∧ s.myMode = mode

/-- The head of an input of the focused unit. -/
def headOf (u : SCtx) (i : Nat) : Option Token := (Tab.get u.q i []).head?

/-- R241: an answer of a unit: it waits while the outputs cannot all take the tokens, and otherwise they leave and the unit changes. -/
def Sends (s v : State) (r : Res) (ts : List (Nat × Token)) (f : State → State) : Prop :=
  (v.sendOuts ts = none → r = .next s) ∧ ∀ w, v.sendOuts ts = some w → r = .next (f w)

/-- Changes the focused unit. -/
def onUnit (f : SCtx → SCtx) (s : State) : State := s.updMyUnit f

/-- R241, R242: a pair that leaves on output k; with a bit of `swidth` only its value. -/
def pairOn (s : State) (k : Nat) (level : BitVec 3) (round : BitVec 4) (c v : W32) (p : Bool) : Token :=
  let narrow := match s.myWords.find? fun w => w.extractLsb' 58 6 == 0x12#6 with
    | none => false
    | some w => w.getLsbD (54 + k)
  { kind := .data, level := level, ctx := BitVec.ofNat 2 s.focus.ctx, round := round, poison := p,
    width := if narrow then 1 else 2, payload := if narrow then v.setWidth 64 else c ++ v }

/-- R246: what a scanner emits for an entry: none where a skip has removed it, else the pair and whether it is wrong. -/
def scanEmit (s v : State) (r : Res) (c : W32) (n : Nat) (bad : Bool) (f : SCtx → SCtx) : Prop :=
  let u := s.myUnit
  let skipped := ∃ t, u.skipT = some t ∧ c.toNat < t.toNat
  let wrong : Bool := bad || decide (boundOf s.myWords ≤ c.toNat ∨ c = 0xFFFFFFFF ∨ 2 ^ 32 ≤ n)
  (skipped → r = .next (onUnit f v)) ∧
  (¬ skipped → Sends s (if wrong then v.unitLog .range else v) r [(0, pairOn v 0 0 v.myUnit.rnd c (BitVec.ofNat 32 n) wrong)] (onUnit f))

/-- A scanner sends a stop and counts it. -/
def scanStop (s v : State) (r : Res) (level : Nat) (f : SCtx → SCtx) : Prop :=
  Sends s v r [(0, { kind := .stop, level := BitVec.ofNat 3 (min level 7), ctx := BitVec.ofNat 2 s.focus.ctx, round := v.myUnit.rnd })]
    (onUnit fun u => { f u with eCnt := (f u).eCnt + 1, skipT := none, pre := [], asks := [] })

/-- R239, R245: data that the unit does not hold yet: it asks for granules, and only its buffer, its requests and the packet network change. -/
def asksFor (s : State) (r : Res) : Prop :=
  ∃ v : State, r = .next v ∧ v = { s with units := v.units, net := v.net } ∧
    ∀ h b c, v.unit h b c = { s.unit h b c with pre := (v.unit h b c).pre, asks := (v.unit h b c).asks, askNo := (v.unit h b c).askNo }

/-- R61, R241: the coordinate and the value of a token whose width 1 carries a coordinate. -/
def crdOf (t : Token) : W32 := if t.width = 2 then t.payload.extractLsb' 32 32 else t.payload.extractLsb' 0 32
def valOf (t : Token) : W32 := if t.width = 2 then t.payload.extractLsb' 0 32 else 0

/-- A token that a comparing unit of bound b uses: data of width 1 or 2, unpoisoned, its coordinate legal and above the last. -/
def plainData (u : SCtx) (b i : Nat) (t : Token) : Prop :=
  t.kind = .data ∧ (t.width = 1 ∨ t.width = 2) ∧ t.poison = false ∧ crdOf t ≠ 0xFFFFFFFF ∧ (crdOf t).toNat < b ∧
    ∀ c, Tab.find u.lastC i = some c → c.toNat < (crdOf t).toNat

/-- The states a unit may go through as it takes heads, one input after another. -/
def takes (is : List Nat) (s : State) : State := is.foldl (fun s i => s.updMyUnit fun u => u.takeCmp i) s

end Sys2Proof.Claims

open Sys2Proof.Claims

/-- R244, R246–R253. -/
def Obligations.ScannersMergersAndRepeaters : Prop :=
  (∀ (s : State) (t : Token) (f : ScanFib), unitIn s 0x01 →
    let u := s.myUnit
    let w := s.myModeWord
    let fmt := w.extractLsb' 56 2
    let n := boundOf s.myWords
    let r := exec .scanReference s
    let p := t.payload.extractLsb' 0 32
    let base := (w.extractLsb' 36 20).toNat
    let cbase := (w.extractLsb' 16 20).toNat
    let poisonTok (v : State) := pairOn v 0 0 v.myUnit.rnd 0 0 true
    (u.fib = none → headOf u 0 = none → r = .next s) ∧
    (u.fib = none → headOf u 0 = some t → t.kind = .stop →
      scanStop s (if t.level = 7 then s.unitReport .cfg t else s) r (t.level.toNat + 1) (fun u => u.take 0)) ∧
    (u.fib = none → headOf u 0 = some t → t.kind = .data → (t.width = 1 ∨ t.width = 2) → t.poison = false → (fmt = 0 ∨ fmt = 2) →
      r = .next (onUnit (fun u => { u.take 0 with fib := some { p := p, j := 0, hi := n }, pre := [], asks := [] }) s)) ∧
    (u.fib = none → headOf u 0 = some t → t.kind = .data → (t.width = 1 ∨ t.width = 2) → t.poison = true →
      let v := onUnit (fun u => u.take 0) s
      Sends s (onUnit (fun u => { u with fib := some { p := p, j := 0, hi := 0, closing := true }, pre := [], asks := [] }) v) r [(0, poisonTok v)] id) ∧
    (u.fib = none → headOf u 0 = some t → t.kind = .data → (t.width = 1 ∨ t.width = 2) → t.poison = false → fmt = 1 →
      let v := onUnit (fun u => u.take 0) s
      let held : Prop := v.unitHas (base + 4 * p.toNat) 4 = true ∧ v.unitHas (base + 4 * p.toNat + 4) 4 = true
      (¬ held → asksFor s r) ∧
      ∀ a b, held → v.unitRead (base + 4 * p.toNat) 4 = a → a.s.unitRead (base + 4 * (p.toNat + 1)) 4 = b → a.poison = false → b.poison = false →
        (a.v ≤ b.v → r = .next (onUnit (fun u => { u with fib := some { p := p, j := a.v, hi := b.v }, pre := [], asks := [] }) b.s)) ∧
        (b.v < a.v → r = .next (onUnit (fun u => { u with fib := some { p := p, j := a.v, hi := a.v }, pre := [], asks := [] }) (b.s.unitLog .range)))) ∧
    (u.fib = none → headOf u 0 = some t → t.kind = .data → (t.width = 1 ∨ t.width = 2) → t.poison = false → fmt = 3 →
      let v := onUnit (fun u => u.take 0) s
      (v.unitHas (base + 16 * p.toNat) 16 = false → asksFor s r) ∧
      ∀ a, v.unitHas (base + 16 * p.toNat) 16 = true → v.unitRead (base + 16 * p.toNat) 16 = a → a.poison = false →
        r = .next (onUnit (fun u => { u with fib := some { p := p, j := 0, hi := a.v / 2 ^ 32 % 2 ^ 32, chunk := a.v % 2 ^ 32 }, pre := [], asks := [] }) a.s)) ∧
    (u.fib = some f → f.closing = false → u.probe = none →
      let next (u : SCtx) : SCtx := { u with fib := u.fib.map fun f => { f with j := f.j + 1 } }
      let ended (u : SCtx) : SCtx := { u with fib := u.fib.map fun f => { f with closing := true } }
      (f.hi ≤ f.j → r = .next (onUnit ended s)) ∧
      (fmt = 0 → f.j < f.hi → scanEmit s s r (BitVec.ofNat 32 f.j) (f.p.toNat * n + f.j) false next) ∧
      (fmt = 1 → f.j < f.hi → s.unitHas (cbase + 4 * f.j) 4 = false → asksFor s r) ∧
      (fmt = 1 → f.j < f.hi → s.unitHas (cbase + 4 * f.j) 4 = true → let a := s.unitRead (cbase + 4 * f.j) 4
        scanEmit s a.s r (BitVec.ofNat 32 a.v) f.j a.poison next) ∧
      (fmt = 2 → f.j < f.hi → s.unitHas (cbase + 8 * (f.p.toNat * ((n + 63) / 64) + f.j / 64)) 8 = false → asksFor s r) ∧
      (fmt = 2 → f.j < f.hi → s.unitHas (cbase + 8 * (f.p.toNat * ((n + 63) / 64) + f.j / 64)) 8 = true → let a := s.unitRead (cbase + 8 * (f.p.toNat * ((n + 63) / 64) + f.j / 64)) 8
        let inWord (b : Nat) : Prop := f.j % 64 ≤ b ∧ b < 64 ∧ b < n - 64 * (f.j / 64) ∧ a.v.testBit b = true
        ((∀ b, ¬ inWord b) → r = .next (onUnit (fun u => { u with fib := u.fib.map fun f => { f with j := 64 * (f.j / 64 + 1) } }) a.s)) ∧
        (∀ b, inWord b → (∀ k < b, ¬ inWord k) → scanEmit s a.s r (BitVec.ofNat 32 (64 * (f.j / 64) + b)) (f.p.toNat * n + (64 * (f.j / 64) + b)) a.poison
          (fun u => { u with fib := u.fib.map fun f => { f with j := 64 * (f.j / 64) + b + 1 } }))) ∧
      (fmt = 3 → f.j < f.hi → f.ce < f.cn → s.unitHas (f.at_ + 16 + 8 * f.ce) 8 = false → asksFor s r) ∧
      (fmt = 3 → f.j < f.hi → f.ce < f.cn → s.unitHas (f.at_ + 16 + 8 * f.ce) 8 = true → let a := s.unitRead (f.at_ + 16 + 8 * f.ce) 8
        scanEmit s a.s r (BitVec.ofNat 32 (a.v / 2 ^ 32)) (a.v % 2 ^ 32) a.poison
          (fun u => { u with fib := u.fib.map fun f => { f with j := f.j + 1, ce := f.ce + 1 } })) ∧
      (fmt = 3 → f.j < f.hi → f.cn ≤ f.ce →
        (f.chunk = 0 → r = .next (onUnit ended (s.unitLog .range))) ∧
        (f.chunk ≠ 0 → s.unitHas f.chunk 16 = false → asksFor s r) ∧
        (∀ a, f.chunk ≠ 0 → s.unitHas f.chunk 16 = true → s.unitRead f.chunk 16 = a → a.poison = false →
          (a.v / 2 ^ 32 % 2 ^ 32 = 0 → r = .next (onUnit ended (a.s.unitLog .range))) ∧
          (a.v / 2 ^ 32 % 2 ^ 32 ≠ 0 → r = .next (onUnit (fun u => { u with fib := u.fib.map fun f => { f with cn := min (a.v / 2 ^ 32 % 2 ^ 32) (f.hi - f.j), ce := 0, at_ := f.chunk, chunk := a.v % 2 ^ 32 } }) a.s))))) ∧
    (u.fib = some f → f.closing = true → (headOf u 0 = none → r = .next s) ∧
      (headOf u 0 = some t → t.kind = .stop → scanStop s (if t.level = 7 then s.unitReport .cfg t else s) r (t.level.toNat + 1) (fun u => { u.take 0 with fib := none })) ∧
      (headOf u 0 = some t → t.kind ≠ .stop → scanStop s s r 0 (fun u => { u with fib := none })))) ∧
  (∀ (s : State) (f : ScanFib) (t : W32) (w : W64), unitIn s 0x01 → s.myModeWord.extractLsb' 56 2 = 1 →
    let u := s.myUnit
    u.fib = some f → f.closing = false → u.skipT = some t → s.myWords.find? (fun w => w.extractLsb' 58 6 == 0x02#6) = some w →
    let crd (j : Nat) : Nat := (s.unitRead ((s.myModeWord.extractLsb' 16 20).toNat + 4 * j) 4).v
    let top (h : Nat) : Nat := crd (min (4 * h + 3) (f.hi - 1))
    let pmax := 2 ^ (w.extractLsb' 54 4).toNat
    let r := exec .gallopProbeReturn s
    let cbase := (s.myModeWord.extractLsb' 16 20).toNat
    let holds (h : Nat) : Prop := s.unitHas (cbase + 16 * h) 16 = true
    (∀ g0, u.probe = none → f.j < f.hi → f.j / 4 ≤ g0 → g0 ≤ f.j / 4 + 7 → (∀ h, f.j / 4 ≤ h → h ≤ g0 → holds h) → (g0 = f.j / 4 + 7 ∨ ¬ holds (g0 + 1)) →
      (∀ j, f.j ≤ j → j < 4 * (g0 + 1) → j < f.hi → crd j < t.toNat) → g0 < (f.hi - 1) / 4 →
      r = .next (onUnit (fun u => { u with probe := some { t := t, g := g0, h := min (g0 + 1) ((f.hi - 1) / 4), d := 1, gl := (f.hi - 1) / 4, at_ := min (g0 + 1) ((f.hi - 1) / 4) } }) s)) ∧
    (∀ p, u.probe = some p →
      let less := top p.at_ < t.toNat
      let ends (j : Nat) (pre : Tab (BitVec 128 × Bool)) : Prop := r = .next (onUnit (fun u => { u with probe := none, pre := pre, fib := u.fib.map fun f => { f with j := j } }) s)
      let goes (q : Probe) : Prop := r = .next (onUnit (fun u => { u with probe := some { q with t := t } }) s)
      let found (h : Nat) : Prop := ∀ j, 4 * h ≤ j → j < 4 * h + 4 → f.j ≤ j → j < f.hi → t.toNat ≤ crd j →
        (∀ k, 4 * h ≤ k → k < j → f.j ≤ k → crd k < t.toNat) →
        ends j (Tab.keep u.pre fun g => g ∈ granules (cbase + 16 * h) 16)
      (¬ holds p.at_ → asksFor s r) ∧
      (holds p.at_ →
      (p.bin = false → less → p.at_ < p.gl → goes { p with g := p.at_, d := min (2 * p.d) pmax, h := min (p.at_ + min (2 * p.d) pmax) p.gl, at_ := min (p.at_ + min (2 * p.d) pmax) p.gl }) ∧
      (p.bin = false → less → p.gl ≤ p.at_ → ends f.hi u.pre) ∧
      (p.bin = false → ¬ less → p.at_ - p.g ≤ 1 → found p.at_) ∧
      (p.bin = false → ¬ less → 1 < p.at_ - p.g → goes { p with h := p.at_, bin := true, at_ := (p.g + p.at_) / 2 }) ∧
      (p.bin = true → less → p.h - p.at_ ≤ 1 → found p.h) ∧
      (p.bin = true → less → 1 < p.h - p.at_ → goes { p with g := p.at_, at_ := (p.at_ + p.h) / 2 }) ∧
      (p.bin = true → ¬ less → p.at_ - p.g ≤ 1 → found p.at_) ∧
      (p.bin = true → ¬ less → 1 < p.at_ - p.g → goes { p with h := p.at_, at_ := (p.g + p.at_) / 2 })))) ∧
  (∀ s : State,
    let u := s.myUnit
    let w := s.myModeWord
    let n := (w.extractLsb' 56 2).toNat + 1
    let b := boundOf s.myWords
    let is := List.range n
    let good (i : Nat) (t : Token) : Prop := headOf u i = some t ∧ plainData u b i t
    let stopped (i : Nat) (l : Nat) : Prop := ∃ t, headOf u i = some t ∧ ((t.kind = .stop ∧ t.level.toNat = l) ∨ (l = 8 ∧ (t.kind = .done ∨ t.kind = .marker ∨ t.kind = .roundEnd)))
    let lowStop (r : Res) (outs : Nat) : Prop := ∀ (lv : Nat → Nat) (t : Token) (m i : Nat), (∀ i < n, stopped i (lv i)) → i < n → m < 8 → lv i = m →
      (∀ k < n, m ≤ lv k) → (∀ k < i, lv k ≠ m) → headOf u i = some t →
      Sends s s r ((List.range outs).map fun k => (k, { kind := .stop, level := BitVec.ofNat 3 m, ctx := BitVec.ofNat 2 s.focus.ctx, round := t.round }))
        (fun v => (is.filter fun k => lv k = m).foldl (fun v k => (v.updMyUnit fun u => u.takeCmp k).echoOn k) v)
    (unitIn s 0x03 →
      let r := exec .isectStep s
      (∀ (ts : Nat → Token) (c : W32), (∀ i < n, good i (ts i) ∧ crdOf (ts i) = c) →
        Sends s s r (is.map fun k => (k, pairOn s k (ts k).level (ts k).round c (valOf (ts k)) false)) (takes is)) ∧
      (∀ (ts : Nat → Token) (c : W32), (∀ i < n, good i (ts i) ∧ (crdOf (ts i)).toNat ≤ c.toNat) → (∃ i < n, crdOf (ts i) = c) → (∃ i < n, crdOf (ts i) ≠ c) →
        skipGap s.myWords = none → r = .next (takes (is.filter fun i => crdOf (ts i) ≠ c) s)) ∧
      lowStop r n) ∧
    (unitIn s 0x04 →
      let r := exec .unionStep s
      let pm := w.getLsbD 23
      let fill := w.extractLsb' 24 32
      (∀ (ts : Nat → Token) (has : Nat → Bool) (c : W32) (k0 : Nat), (∀ i < n, if has i then good i (ts i) ∧ c.toNat ≤ (crdOf (ts i)).toNat else ∃ l, stopped i l) →
        k0 < n → has k0 = true → crdOf (ts k0) = c → (∀ i < k0, has i = true → crdOf (ts i) ≠ c) →
        let hit (i : Nat) : Bool := has i && decide (crdOf (ts i) = c)
        let tok (k : Nat) (v : W32) : Token := pairOn s k (ts k0).level (ts k0).round c v false
        Sends s s r ((is.map fun k => (k, tok k (if hit k then valOf (ts k) else fill))) ++
          (if pm then [(n, tok n (BitVec.ofNat 32 ((is.map fun i => if hit i then 2 ^ i else 0).sum)))] else [])) (takes (is.filter hit))) ∧
      lowStop r (if pm then n + 1 else n))) ∧
  (∀ (s : State) (t x : Token) (v : PW32), unitIn s 0x05 →
    let u := s.myUnit
    let rl := (s.myModeWord.extractLsb' 55 3).toNat
    let r := exec .repeatToken s
    let data (t : Token) : Prop := t.kind = .data ∧ (t.width = 1 ∨ t.width = 2)
    let held (x : Token) (u : SCtx) : SCtx := { u.take 1 with held := some { v := valOf x, poison := x.poison }, rnd := u.rnd }
    (headOf u 0 = some t → data t → u.held = some v → (headOf u 1 = none ∨ ∃ y, headOf u 1 = some y ∧ data y) →
      Sends s s r [(0, pairOn s 0 t.level t.round (crdOf t) v.v (t.poison || v.poison))] (onUnit fun u => u.take 0)) ∧
    (headOf u 0 = some t → data t → u.held = none → headOf u 1 = some x → data x → r = .next (onUnit (held x) s)) ∧
    (headOf u 0 = some t → t.kind = .stop → t.level.toNat < rl → (headOf u 1 = none ∨ ∃ y, headOf u 1 = some y ∧ data y) →
      Sends s s r [(0, t)] (onUnit fun u => u.take 0)) ∧
    (headOf u 0 = some t → t.kind = .stop → rl ≤ t.level.toNat → u.held = some v → (headOf u 1 = none ∨ ∃ y, headOf u 1 = some y ∧ data y) →
      Sends s s r [(0, t)] (onUnit fun u => { u.take 0 with held := none })) ∧
    (headOf u 0 = some t → t.kind = .stop → rl ≤ t.level.toNat → u.held = none → headOf u 1 = some x → data x → r = .next (onUnit (held x) s)) ∧
    ((∀ y, headOf u 0 = some y → ¬ (y.kind = .data ∧ y.width ≠ 1 ∧ y.width ≠ 2)) → headOf u 1 = some x → x.kind = .stop → r = .next (onUnit (fun u => u.take 1) s))) ∧
  (∀ (s : State) (t : Token), s.unitRuns = true → s.myMode ≠ 0x1D → s.myMode ≠ 0x10 →
    let is := List.range (unitInputs s.myWords)
    let r := exec .sbayBarrier s
    0 < unitInputs s.myWords → (∀ i ∈ is, headOf s.myUnit i = some t) → barrierPending s t = none →
    let gone (v : State) : State := onUnit (fun u => (is.foldl (fun u i => u.take i) u).afterBarrier t s.myWords) v
    let all := (outsInUse s.myWords).map fun k => (k, t)
    (t.kind = .done ∨ t.kind = .roundEnd ∨ (t.kind = .marker ∧ (t.level = 2 ∨ t.level = 3)) → Sends s s r all gone) ∧
    (t.kind = .marker → t.level = 0 → Sends s s r all fun v => (gone v).invoked v.focus.hall 0 v.focus.elem v.focus.ctx) ∧
    (t.kind = .marker → 4 < t.level.toNat → r = .next ((gone s).unitReport .cfg t)))

namespace Sys2Proof.Claims

/-- R255: the identity of an operation, and how a value merges. -/
def reduceIdentity (op : Nat) : W32 :=
  match op with
  | 2 => 0x7FFFFFFF
  | 3 => 0x80000000
  | 4 => 0xFFFFFFFF
  | 6 => 0x7F800000
  | 7 => 0xFF800000
  | 9 => 0xFFFFFFFF
  | _ => 0
def reduceMerge (op : Nat) (a v : W32) : W32 :=
  match op with
  | 0 => a + v
  | 2 => if a.toInt ≤ v.toInt then a else v
  | 3 => if a.toInt ≤ v.toInt then v else a
  | 4 => if a.toNat ≤ v.toNat then a else v
  | 5 => if a.toNat ≤ v.toNat then v else a
  | 6 => BitVec.ofNat 32 (minmaxF fp32 false a.toNat v.toNat)
  | 7 => BitVec.ofNat 32 (minmaxF fp32 true a.toNat v.toNat)
  | 8 => a ||| v
  | 9 => a &&& v
  | _ => a + 1

/-- R254, R255: an entry that has merged nothing, and one more token. -/
def emptyEntry (op : Nat) : RedEnt := { v := reduceIdentity op }
def mergedEntry (op : Nat) (anchor : BitVec 12) (e : RedEnt) (v : W32) (p : Bool) : RedEnt :=
  if op = 1 then { e with n := e.n + 1, poison := e.poison || p, cell := enterCell e.cell anchor (contrOf (decodeF fp32 v.toNat)) p }
  else { e with n := e.n + 1, poison := e.poison || p, v := reduceMerge op e.v v }

/-- R241: the coordinate of a token where width 1 carries a value: its ordinal. -/
def ordinalCrd (u : SCtx) (t : Token) : W32 := if t.width = 2 then t.payload.extractLsb' 32 32 else BitVec.ofNat 32 u.ord

/-- A data token that a unit reads: width 1 or 2. -/
def readable (t : Token) : Prop := t.kind = .data ∧ (t.width = 1 ∨ t.width = 2)

/-- The unit took a data token of its fibre. -/
def tookData (u : SCtx) : SCtx := { u.take 0 with ord := u.ord + 1, seen := true }

/-- R254, R255: an entry is released: its pair leaves, and the flags of its read-out enter `sf`. -/
def releases (s : State) (r : Res) (op : Nat) (anchor : BitVec 12) (rm : Nat) (c : W32) (level : BitVec 3) (e : RedEnt) (f : SCtx → SCtx) : Prop :=
  let out (v : W32) (p : Bool) (fl : BitVec 6) : Prop := ∃ d : State, d.focus = s.focus ∧ d = { s with fresh := d.fresh } ∧
    (d.sendOuts [(0, pairOn s 0 level s.myUnit.rnd c v p)] = none → r = .next s) ∧
    ∀ w, d.sendOuts [(0, pairOn s 0 level s.myUnit.rnd c v p)] = some w → r = .next (onUnit (fun u => { f u with sf := (f u).sf ||| fl }) w)
  (op ≠ 1 → out e.v e.poison 0) ∧
  (op = 1 → ∀ v fl, readCell e.cell anchor (.flt fp32) rm = some (v, fl) → out (BitVec.ofNat 32 v) e.poison (if e.poison then 0 else fl)) ∧
  (op = 1 → readCell e.cell anchor (.flt fp32) rm = none → ∃ v, out v true 0)

/-- R257: the order of preference. -/
def prefers (w : W64) (a b : W32 × W32) : Prop :=
  let kt := (w.extractLsb' 50 2).toNat
  let nan (x : W32) : Prop := kt = 0 ∧ isNan (decodeF fp32 x.toNat) = true
  let lt (x y : W32) : Prop := if kt = 0 then condF fp32 2 x.toNat y.toNat = true else if kt = 1 then x.toInt < y.toInt else x.toNat < y.toNat
  let better : Prop := if w.getLsbD 49 then lt a.2 b.2 else lt b.2 a.2
  let worse : Prop := if w.getLsbD 49 then lt b.2 a.2 else lt a.2 b.2
  (nan b.2 ∧ ¬ nan a.2) ∨ (nan a.2 ∧ nan b.2 ∧ a.1.toNat < b.1.toNat) ∨
    (¬ nan a.2 ∧ ¬ nan b.2 ∧ (better ∨ (¬ worse ∧ a.1.toNat < b.1.toNat)))

/-- R259, R260: a writer's writes join the write of their granule or are sent, and the unit changes; it waits where one cannot be sent. -/
def Writes (s v : State) (r : Res) (ws : List (Nat × List Byte × Bool)) (f : SCtx → SCtx) : Prop :=
  (v.unitWrites ws = none → r = .next s) ∧ ∀ x, v.unitWrites ws = some (x, .none) → r = .next (onUnit f x)

end Sys2Proof.Claims

open Sys2Proof.Claims

/-- R254–R261. -/
def Obligations.ReducersSelectorsPartitionsAndWriters : Prop :=
  (∀ (s : State) (t : Token), unitIn s 0x06 → headOf s.myUnit 0 = some t →
    let u := s.myUnit
    let w := s.myModeWord
    let form := w.extractLsb' 56 2
    let op := (w.extractLsb' 52 4).toNat
    let trig := (w.extractLsb' 50 2).toNat
    let rl := (w.extractLsb' 47 3).toNat
    let rm := (w.extractLsb' 44 3).toNat
    let anchor := w.extractLsb' 32 12
    let tsz := (w.extractLsb' 24 8).toNat + 1
    let kbase := (w.extractLsb' 0 24).toNat
    let r := exec .reduceToken s
    let add (e : RedEnt) := mergedEntry op anchor e (t.payload.extractLsb' 0 32) t.poison
    let c := ordinalCrd u t
    op < 11 →
    (readable t → form = 0 →
      (u.runC = none → r = .next (onUnit (fun u => { tookData u with runC := some (c, t.level), acc := add (emptyEntry op) }) s)) ∧
      (∀ l, u.runC = some (c, l) → r = .next (onUnit (fun u => { tookData u with acc := add u.acc }) s)) ∧
      (∀ c' l, u.runC = some (c', l) → c' ≠ c → releases s r op anchor rm c' l u.acc fun u => { u with runC := none, acc := {} })) ∧
    (readable t → form = 1 → r = .next (onUnit (fun u => { tookData u with acc := add (if u.acc.n = 0 then emptyEntry op else u.acc) }) s)) ∧
    (readable t → form = 2 → kbase ≤ c.toNat → c.toNat < kbase + tsz →
      let k := c.toNat - kbase
      r = .next (onUnit (fun u => { tookData u with tab := Tab.put u.tab k (add (Tab.get u.tab k (emptyEntry op))) }) s)) ∧
    (readable t → form = 2 → c.toNat < kbase ∨ kbase + tsz ≤ c.toNat →
      r = .next (onUnit (fun u => { tookData u with logged := setIns u.logged 8 }) (if 8 ∈ u.logged then s else s.unitLog .range))) ∧
    (t.kind = .stop → form = 0 →
      (∀ c' l, u.runC = some (c', l) → releases s r op anchor rm c' l u.acc fun u => { u with runC := none, acc := {} }) ∧
      (u.runC = none → Sends s s r [(0, t)] (onUnit fun u => { u.take 0 with ord := 0, seen := false, relDone := false }))) ∧
    (t.kind = .stop → form = 1 →
      (u.relDone = false → releases s r op anchor rm (BitVec.ofNat 32 u.acc.n) 0 (if u.acc.n = 0 then emptyEntry op else u.acc)
        fun u => { u with acc := {}, relDone := true }) ∧
      (u.relDone = true → t.level = 0 → r = .next (onUnit (fun u => { u.take 0 with ord := 0, seen := false, relDone := false }) s)) ∧
      (u.relDone = true → t.level ≠ 0 → Sends s s r [(0, { t with level := t.level - 1 })]
        (onUnit fun u => { u.take 0 with ord := 0, seen := false, relDone := false }))) ∧
    (t.kind = .stop → form = 2 → trig = 0 → rl ≤ t.level.toNat →
      (∀ k e rest, u.tab = (k, e) :: rest → releases s r op anchor rm (BitVec.ofNat 32 (k + kbase)) 0 e fun u => { u with tab := rest }) ∧
      (u.tab = [] → Sends s s r [(0, t)] (onUnit fun u => { u.take 0 with ord := 0, seen := false, relDone := false, logged := [] }))) ∧
    (t.kind = .stop → form = 2 → (trig ≠ 0 ∨ t.level.toNat < rl) →
      Sends s s r [(0, t)] (onUnit fun u => { u.take 0 with ord := 0, seen := false, relDone := false }))) ∧
  (∀ (s : State) (t : Token), unitIn s 0x07 → headOf s.myUnit 0 = some t →
    let u := s.myUnit
    let w := s.myModeWord
    let k := (w.extractLsb' 52 6).toNat + 1
    let r := exec .selectToken s
    let e : W32 × W32 := (ordinalCrd u t, t.payload.extractLsb' 0 32)
    (readable t → ∃ kept : List (W32 × W32), r = .next (onUnit (fun u => { tookData u with fpois := u.fpois || t.poison, kept := kept }) s) ∧
      (u.kept.length < k → kept.Perm (e :: u.kept)) ∧
      (k ≤ u.kept.length → ∀ x ∈ u.kept, (∀ y ∈ u.kept, ¬ prefers w x y ∨ y = x) →
        (prefers w e x → u.kept.Nodup → (∀ y ∈ u.kept, y ≠ x → prefers w y x) → kept.Perm (e :: u.kept.erase x)) ∧ (¬ prefers w e x → (∀ y ∈ u.kept, y ≠ x → prefers w y x) → kept = u.kept))) ∧
    (t.kind = .stop → u.kept = [] → Sends s s r [(0, t)] (onUnit fun u => { u.take 0 with ord := 0, seen := false, fpois := false, kept := [] })) ∧
    (t.kind = .stop → ∀ x xs, w.getLsbD 48 = false → u.kept = x :: xs →
      Sends s s r [(0, pairOn s 0 0 u.rnd x.1 x.2 u.fpois)] (onUnit fun u => { u with kept := u.kept.erase x })) ∧
    (t.kind = .stop → ∀ x ∈ u.kept, w.getLsbD 48 = true → (∀ y ∈ u.kept, y ≠ x → prefers w x y ∧ ¬ prefers w y x) →
      Sends s s r [(0, pairOn s 0 0 u.rnd x.1 x.2 u.fpois)] (onUnit fun u => { u with kept := u.kept.erase x }))) ∧
  (∀ (s : State) (t : Token), unitIn s 0x08 → headOf s.myUnit 0 = some t →
    let u := s.myUnit
    let w := s.myModeWord
    let np := (w.extractLsb' 54 4).toNat + 1
    let total := (w.extractLsb' 22 32).toNat
    let count := t.payload.extractLsb' 0 32
    let row := ordinalCrd u t
    let part := if total = 0 then np - 1 else min (np - 1) (u.cum * np / total)
    let p := u.fpois || t.poison
    let r := exec .partToken s
    let leaves (e : W32 × Bool) (n : Nat) : Prop := Sends s s r [(0, pairOn s 0 0 u.rnd e.1 (BitVec.ofNat 32 n) e.2)] (onUnit fun u => { u with empties := u.empties.drop 1 })
    (readable t → count = 0 → r = .next (onUnit (fun u => { tookData u with fpois := p, empties := u.empties ++ [(row, p)] }) s)) ∧
    (readable t → count ≠ 0 → (∀ e rest, u.empties = e :: rest → leaves e part) ∧
      (u.empties = [] → Sends s s r [(0, pairOn s 0 0 u.rnd row (BitVec.ofNat 32 part) p)]
        (onUnit fun u => { tookData u with fpois := p, cum := min (u.cum + count.toNat) (2 ^ 40 - 1) }))) ∧
    (t.kind = .stop → (∀ e rest, u.empties = e :: rest → leaves e (np - 1)) ∧
      (u.empties = [] → Sends s s r [(0, t)] (onUnit fun u => { u.take 0 with ord := 0, seen := false, fpois := false, cum := 0 })))) ∧
  (∀ (s : State) (t : Token), unitIn s 0x09 → s.myUnit.lwStop = false →
    let u := s.myUnit
    let w := s.myModeWord
    let fmt := w.extractLsb' 56 2
    let pbase := (w.extractLsb' 35 20).toNat
    let cbase := (w.extractLsb' 15 20).toNat
    let aux := (w.extractLsb' 0 15).toNat
    let csz := (w.extractLsb' 7 8).toNat + 1
    let c := ordinalCrd u t
    let v := t.payload.extractLsb' 0 32
    let n := boundOf s.myWords
    let r := exec .lwriteToken s
    let took (u : SCtx) : SCtx := { tookData u with lwFirst := false }
    (headOf u 0 = some t → u.heads = [] → (u.lwFirst = false ∨ fmt ≠ 1) → readable t → fmt = 0 →
      (c.toNat < n → Writes s s r [(cbase + 4 * (u.lwI * n + c.toNat), leBytes 4 v.toNat, t.poison)] took) ∧
      (n ≤ c.toNat → r = .next (onUnit took (s.unitLog .range)))) ∧
    (headOf u 0 = some t → u.heads = [] → u.lwFirst = true → fmt = 1 → t.kind = .stop ∨ readable t →
      Writes s s r [(pbase + 4 * u.lwI, leBytes 4 u.lwJ, false)] fun u => { u with lwFirst := false }) ∧
    (headOf u 0 = some t → u.heads = [] → u.lwFirst = false → fmt = 1 → readable t →
      Writes s s r [(cbase + 4 * u.lwJ, leBytes 4 c.toNat, t.poison), (cbase + 16 * aux + 4 * u.lwJ, leBytes 4 v.toNat, t.poison)]
        fun u => { took u with lwJ := u.lwJ + 1 }) ∧
    (headOf u 0 = some t → u.heads = [] → fmt = 2 → readable t → u.cur ≠ 0 → u.nc ≠ 2 * csz - 2 →
      Writes s s r [(u.cur + 16 + 8 * u.nc, leBytes 8 ((c ++ v : W64).toNat), t.poison)] fun u' => { took u' with nc := u.nc + 1, tot := u.tot + 1 }) ∧
    (∀ x g, headOf u 0 = some t → u.heads = [] → fmt = 2 → readable t → u.cur = 0 → s.alloc (16 * csz) = (x, some g) →
      Writes s x r [(g + 16, leBytes 8 ((c ++ v : W64).toNat), t.poison)] fun u' => { took u' with hd := g, cur := g, nc := 1, tot := u.tot + 1 }) ∧
    (headOf u 0 = some t → u.heads = [] → fmt = 0 → t.kind = .stop →
      r = .next (onUnit (fun u => { u.take 0 with ord := 0, seen := false, lwI := u.lwI + 1 }) s)) ∧
    (headOf u 0 = some t → u.heads = [] → fmt = 1 → u.lwFirst = false → t.kind = .stop →
      Writes s s r [(pbase + 4 * (u.lwI + 1), leBytes 4 u.lwJ, false)] fun u => { u.take 0 with ord := 0, seen := false, lwI := u.lwI + 1 }) ∧
    (∀ i h k rest, u.heads = (i, h, k) :: rest → (u.lwHeld = none → u.unacked ≠ 0 → exec .lwriteHeadEntry s = .next s) ∧
      (u.lwHeld ≠ none → exec .lwriteHeadEntry s = .next (s.unitFlush.getD s)) ∧
      (u.lwHeld = none → u.unacked = 0 → Writes s s (exec .lwriteHeadEntry s)
        [(pbase + 16 * i, leBytes 8 (h % 2 ^ 32 + k % 2 ^ 32 * 2 ^ 32) ++ List.replicate 8 0, false)] fun u => { u with heads := rest }))) ∧
  (∀ (s : State) (t : Token) (rest : List Token) (w : W64), s.unitRuns = true → s.myUnit.rq = t :: rest →
    s.myWords.find? (fun w => w.extractLsb' 58 6 == 0x0A#6) = some w →
    let u := s.myUnit
    let ptr := u.bump.getD (w.extractLsb' 38 20).toNat
    let n := (t.payload.extractLsb' 0 32).toNat
    let rc := (w.extractLsb' 9 5).toNat
    let r := exec .bumpRequest s
    let tok (v : W32) (p : Bool) : Token := { kind := .data, width := 1, ctx := BitVec.ofNat 2 s.focus.ctx, round := t.round, poison := p, payload := v.setWidth 64 }
    let answers (x : State) (v : W32) (p : Bool) : Prop := (x.takeRoute s.focus.hall s.focus.elem rc 5 (tok v p) true = none → r = .next s) ∧
      ∀ y, x.takeRoute s.focus.hall s.focus.elem rc 5 (tok v p) true = some y → r = .next y
    (t.kind ≠ .data → r = .next (onUnit (fun u => { u with rq := rest }) s)) ∧
    (t.kind = .data → t.width = 1 → t.poison = true → answers (onUnit (fun u => { u with rq := rest }) s) 0xFFFFFFFF true) ∧
    (t.kind = .data → t.width = 1 → t.poison = false → 16 ≤ n → n ≤ 65536 → n % 16 = 0 →
      (ptr + n ≤ (w.extractLsb' 18 20).toNat → answers (onUnit (fun u => { u with rq := rest, bump := some (ptr + n) }) s) (BitVec.ofNat 32 ptr) false) ∧
      ((w.extractLsb' 18 20).toNat < ptr + n → u.bumpLog = true → answers (onUnit (fun u => { u with rq := rest }) s) 0xFFFFFFFF false)) ∧
    (t.kind = .data → t.width = 1 → t.poison = false → ¬ (16 ≤ n ∧ n ≤ 65536 ∧ n % 16 = 0) →
      answers ((onUnit (fun u => { u with rq := rest }) s).unitReport .cfg t) 0xFFFFFFFF false))

namespace Sys2Proof.Claims

/-- R98, R99: what makes an entry malformed at a level. -/
def malformedEntry (e : W64) (lv : Nat) : Prop :=
  if e.getLsbD 1 then
    e.extractLsb' 9 7 ≠ 0 ∨ 3 ≤ lv ∨ (lv = 2 ∧ e.extractLsb' 16 14 ≠ 0) ∨ (lv = 1 ∧ e.extractLsb' 16 5 ≠ 0) ∨
      (e.getLsbD 8 = false ∧ (spaceOf ((e.extractLsb' 16 32).toNat * 2 ^ 16) = .reserved ∨ e.extractLsb' 56 8 ≠ 0))
  else
    e.extractLsb' 48 16 ≠ 0 ∨ e.extractLsb' 2 6 ≠ 0 ∨ lv = 0 ∨ (2 ≤ lv ∧ e.extractLsb' 8 4 ≠ 0) ∨ 0xC000000000 ≤ (e.extractLsb' 8 40).toNat * 2 ^ 8

/-- R100: the permission bit of a kind of access. -/
def permitted (e : W64) (k : AccKind) : Bool :=
  match k with
  | .read => e.getLsbD 2
  | .write => e.getLsbD 3
  | .atomic => e.getLsbD 4
  | .exec => e.getLsbD 5

/-- R97: the index of a level, and the exponent of its pages. -/
def tableIndex (va : W64) (lv : Nat) : Nat :=
  match lv with
  | 0 => (va.extractLsb' 16 5).toNat
  | 1 => (va.extractLsb' 21 9).toNat
  | 2 => (va.extractLsb' 30 9).toNat
  | 3 => (va.extractLsb' 39 9).toNat
  | _ => (va.extractLsb' 48 8).toNat
def pageBits (lv : Nat) : Nat :=
  match lv with
  | 0 => 16
  | 1 => 21
  | 2 => 30
  | 3 => 39
  | _ => 48

end Sys2Proof.Claims

open Sys2Proof.Claims

/-- R100, with R97 to R99. -/
def Obligations.PageTableWalks : Prop :=
  (∀ (s : State) (root : BitVec 37) (va : W64) (k : AccKind) (ok : Nat → Bool), s.walk root va k ok = s.walkFrom va k ok 4 (root.toNat * 2 ^ 11)) ∧
  ∀ (s : State) (va : W64) (k : AccKind) (ok : Nat → Bool) (lv t : Nat) (r : ERead), lv < 5 →
    let a := t + 8 * tableIndex va lv
    s.edgeRead a 8 0 = r →
    let e := BitVec.ofNat 64 (leNat r.bytes)
    let n : W64 := if k = .write ∨ k = .atomic then e ||| 0xC0 else e ||| 0x40
    let w := s.walkFrom va k ok lv t
    (r.poison = true ∨ r.cause ≠ .none → w = (r.s, .fault .range, r.logs)) ∧
    (r.poison = false → r.cause = .none →
      (e.getLsbD 0 = false → w = (r.s, .fault .nopage, r.logs)) ∧
      (e.getLsbD 0 = true → malformedEntry e lv → w = (r.s, .fault .range, r.logs)) ∧
      (e.getLsbD 0 = true → ¬ malformedEntry e lv → e.getLsbD 1 = false → ∃ l, lv = l + 1 ∧
        (let x := r.s.walkFrom va k ok l ((e.extractLsb' 8 40).toNat * 2 ^ 8)
         w = (x.1, x.2.1, r.logs ++ x.2.2))) ∧
      (e.getLsbD 0 = true → ¬ malformedEntry e lv → e.getLsbD 1 = true →
        (permitted e k = false → w = (r.s, .fault .prot, r.logs)) ∧
        (permitted e k = true → ok (e.extractLsb' 48 8).toNat = false → w = (r.s, .fault .key, r.logs)) ∧
        (permitted e k = true → ok (e.extractLsb' 48 8).toNat = true →
          (n = e → w = (r.s, .leaf e (pageBits lv), r.logs)) ∧
          (n ≠ e → let x := r.s.edgeWrite a (leBytes 8 n.toNat) 0
            w = (x.s, .leaf n (pageBits lv), r.logs ++ x.logs)))))

namespace Sys2Proof.Claims

/-- R102: the payload of a window for a leaf of page exponent P. -/
def windowOf (pte : W64) (P va emax : Nat) : W64 :=
  let ext := min P emax
  let pa := (pte.extractLsb' 16 32).toNat * 2 ^ 16 + va % 2 ^ P
  let bit (b : Bool) (n : Nat) : Nat := if b then 2 ^ n else 0
  BitVec.ofNat 64 ((pte.extractLsb' 48 16).toNat * 2 ^ 48 + (pa / 2 ^ ext * 2 ^ ext) / 2 ^ 12 % 2 ^ 36 * 2 ^ 12 + ext * 2 ^ 7 + bit (pte.getLsbD 8) 6 +
    bit (pte.getLsbD 2) 5 + bit (pte.getLsbD 3 && pte.getLsbD 7) 4 + bit (pte.getLsbD 4 && pte.getLsbD 7) 3 + bit (pte.getLsbD 5) 2)

/-- R103: the payload of a fault token. -/
def faultOf (c : Cause) (k : AccKind) (va : Nat) : W64 :=
  let res : Nat := if c = .nopage then 1 else if c = .prot then 2 else if c = .key then 4 else 3
  let kind : Nat := if k = .write then 1 else if k = .atomic then 2 else 0
  BitVec.ofNat 64 (res * 2 ^ 61 + kind * 2 ^ 59 + va / 2 ^ 16 % 2 ^ 40 * 2 ^ 16)

/-- R104: the largest extent of a slot's windows, and its root. -/
def emaxOfSlot (ws : List W64) : Nat := match ws.find? fun w => w.extractLsb' 58 6 == 0x22#6 with
  | none => 30
  | some w => (w.extractLsb' 53 5).toNat
def rootOfSlot (ws : List W64) : BitVec 37 := match ws.find? fun w => w.extractLsb' 58 6 == 0x20#6 with
  | none => 0
  | some w => w.extractLsb' 0 37

/-- R104: the kind of an input's requests; none where the word says `none`. -/
def inputKind (w : W64) (i : Nat) : Option AccKind :=
  match (w.extractLsb' (40 + 2 * i) 2).toNat with
  | 0 => some .read
  | 1 => some .write
  | 2 => some .atomic
  | _ => none

/-- The focused unit takes the head of an input, and remembers a request. -/
def requests (s : State) (i : Nat) (r : XReq) : State := onUnit (fun u => { u.take i with xq := u.xq ++ [r] }) s

/-- Ranges that meet. -/
def meets (a n b m : Nat) : Prop := a < b + m ∧ b < a + n

end Sys2Proof.Claims

open Sys2Proof.Claims

/-- R101–R105, R121, R122. -/
def Obligations.TranslateUnitsAndShootdowns : Prop :=
  (∀ (s : State) (x : W64), bayKind s.focus.elem = .s → s.myMode = 0x1D → modeWord s.myWords = some x → s.ctxStopped s.focus.hall s.focus.ctx = false →
    s.swapSaved s.focus.hall s.focus.elem s.focus.ctx = false →
    let u := s.myUnit
    let r := exec .translateRequest s
    let h := s.focus.hall
    let e := s.focus.elem
    (∀ q t rest, u.xq = q :: rest → q.ans = some t →
      let fault := t.kind = .data ∧ t.width = 5 ∧ t.poison = false ∧ t.payload.extractLsb' 7 5 = 0
      ∀ v, t.kind ≠ .snapshot → s.takeRoute h e (if fault then (x.extractLsb' 48 5).toNat else (x.extractLsb' 53 5).toNat) 5 t true = some v →
        v.focus = s.focus →
        let sent := v.setUnit h e s.focus.ctx (let u := { v.unit h e s.focus.ctx with xq := rest }
          if t.kind = .done ∧ q.inp = 0 then { u with sink := u.sink.map (· - 1), sinkHit := true } else u)
        (t.kind ≠ .marker ∨ (t.level ≠ 0 ∧ t.level ≠ 1) → r = .next sent) ∧
        (t.kind = .marker → t.level = 0 → r = .next (sent.invoked h 0 e s.focus.ctx))) ∧
    (∀ i is t, s.unitRuns = true → (u.xq = [] ∨ ∃ q rest, u.xq = q :: rest ∧ q.ans = none) → u.arr = i :: is → headOf u i = some t → i < 4 →
      (u.xq.countP fun q => q.ans.isSome) < 8 →
      let va := t.payload.toNat
      let new (k : Option AccKind) (ans : Option Token) : XReq := { va := if t.kind = .data ∧ t.poison = false then va else 0, kind := k, tok := t, ans := ans, inp := i }
      (t.kind ≠ .data → r = .next (requests s i (new none (some t)))) ∧
      (t.kind = .data → t.width ≠ 4 ∨ inputKind x i = none → r = .next ((onUnit (fun u => u.take i) s).unitReport .cfg t)) ∧
      (∀ k, t.kind = .data → t.width = 4 → inputKind x i = some k →
        (t.poison = true → r = .next (requests s i (new none (some { t with width := 5, payload := 0 })))) ∧
        (t.poison = false → 2 ^ 56 ≤ va → r = .next (requests s i (new (some k) (some { t with width := 5, payload := faultOf .range k va })))) ∧
        (∀ en, t.poison = false → va < 2 ^ 56 → u.tlb.find? (fun en => en.hits (rootOfSlot s.myWords) va k) = some en →
          r = .next (onUnit (fun u => { u with tlb := en :: u.tlb.erase en })
            (requests s i (new (some k) (some { t with width := 5, payload := windowOf en.pte en.psz va (emaxOfSlot s.myWords) }))))) ∧
        (t.poison = false → va < 2 ^ 56 → u.tlb.find? (fun en => en.hits (rootOfSlot s.myWords) va k) = none →
          ((u.xq.countP fun q => q.ans.isNone) < 4 → ∃ v, r = .next v ∧ v = { requests s i (new (some k) none) with walks := v.walks } ∧
            v.walks = s.walks ++ [{ hall := h, bay := e, ctx := s.focus.ctx, va := va, kind := k }]) ∧
          (4 ≤ (u.xq.countP fun q => q.ans.isNone) → r = .next s)))) ∧
    (u.arr = [] → u.xq = [] → r = .next s)) ∧
  (∀ (s v : State) (w : Walk) (ans : WalkAns) (logs : List (Cause × Nat)), s.walks[s.focus.idx]? = some w →
    let ws := (s.cfg w.hall w.bay w.ctx).words
    s.walk (rootOfSlot ws) (BitVec.ofNat 64 w.va) w.kind (xAdmits ws) = (v, ans, logs) →
    let x := v.logAll { hall := w.hall, elem := w.bay, eclass := 0, ctx := w.ctx } logs
    let u := x.unit w.hall w.bay w.ctx
    let queue := (s.unit w.hall w.bay w.ctx).xq
    let late : Prop := 8 ≤ ((queue.dropWhile fun q => q.ans.isSome).countP fun q => q.ans.isSome) ∧
      ∃ q, queue.find? (fun q => q.ans.isNone) = some q ∧ ¬ (q.va = w.va ∧ q.kind = some w.kind)
    (late → exec .pageTableWalk s = .next s) ∧
    (¬ late → ∃ y, exec .pageTableWalk s = .next y ∧ y = { x with walks := y.walks, units := y.units } ∧ y.walks = x.walks.eraseIdx s.focus.idx ∧
      (∀ k, k ≠ bkey w.hall w.bay w.ctx → Tab.find y.units k = Tab.find x.units k) ∧
      (∀ pre q post, u.xq = pre ++ q :: post → (∀ p ∈ pre, ¬ (p.ans = none ∧ p.va = w.va ∧ p.kind = some w.kind)) →
        q.ans = none → q.va = w.va → q.kind = some w.kind →
        let y' := y.unit w.hall w.bay w.ctx
        (∀ c, ans = .fault c → y' = { u with xq := pre ++ { q with ans := some { q.tok with width := 5, payload := faultOf c w.kind w.va } } :: post }) ∧
        (∀ pte P, ans = .leaf pte P → y' = { u with tlb := y'.tlb, xq := pre ++ { q with ans := some { q.tok with width := 5, payload := windowOf pte P w.va (emaxOfSlot ws) } } :: post } ∧
          ∃ en ∈ y'.tlb, en.root = rootOfSlot ws ∧ en.va = w.va ∧ en.psz = P ∧ en.pte = pte)))) ∧
  (∀ (s : State) (d : Shoot), s.shoots[s.focus.idx]? = some d → d.part.2 < 64 →
    let x := s.shootUnit d.part.1 d.part.2 d.root d.va d.len
    exec .shootdownDrainArrival s = .next ({ x with shoots := x.shoots.eraseIdx s.focus.idx }.setDisp d.hall ((x.disp d.hall).ack d.ticket)) ∧
    (∀ c < 4, ∀ en, en ∈ (x.unit d.part.1 d.part.2 c).tlb ↔ en ∈ (s.unit d.part.1 d.part.2 c).tlb ∧
      ¬ (en.root = d.root ∧ meets (en.va / 2 ^ en.psz * 2 ^ en.psz) (2 ^ en.psz) d.va d.len)) ∧
    ∀ c < 4, rootOfSlot (s.cfg d.part.1 d.part.2 c).words = d.root → ∀ q ∈ (x.unit d.part.1 d.part.2 c).xq, ∀ t, q.ans = some t → q.kind ≠ none → t.poison = false →
      ¬ (t.kind = .data ∧ t.width = 5 ∧ t.payload.extractLsb' 7 5 = 0) →
      let n := 2 ^ (t.payload.extractLsb' 7 5).toNat
      ¬ meets (q.va / n * n) n d.va d.len)

namespace Sys2Proof.Claims

/-- R163: fields of the words of a stair's slot. -/
def stairField (ws : List W64) (op : BitVec 6) (hi lo : Nat) : Nat :=
  match ws.find? fun w => w.extractLsb' 58 6 == op with
  | none => 0
  | some w => w.toNat / 2 ^ lo % 2 ^ (hi - lo + 1)

/-- R163: the word of a flight; how many there are; a stride. -/
def flightWord (ws : List W64) (k : Nat) : Option W64 := ws.find? fun w => w.extractLsb' 58 6 == 0x13#6 && (w.extractLsb' 55 3).toNat == k
def flightCount (ws : List W64) : Nat := (List.range 6).countP fun k => (flightWord ws k).isSome
def flightStride (ws : List W64) (k : Nat) : Int := match flightWord ws k with
  | none => 0
  | some w => (w.extractLsb' 0 30).toInt

/-- R163: what `stelem` gives, or its default: bytes of an element, and its beats. -/
def elemWord (ws : List W64) : W64 := match ws.find? fun w => w.extractLsb' 58 6 == 0x19#6 with
  | none => 0x6600000000000000
  | some w => w
def elemBeats (ws : List W64) : Nat := if (elemWord ws).getLsbD 54 then ((elemWord ws).extractLsb' 50 4).toNat + 1 else 1
def elemSize (ws : List W64) : Nat := if (elemWord ws).getLsbD 54 then 8 * elemBeats ws else 2 ^ ((elemWord ws).extractLsb' 56 2).toNat

/-- R163: the channel of indexes and of data. -/
def indexChan (ws : List W64) : Nat := match ws.find? fun w => w.extractLsb' 58 6 == 0x18#6 with
  | none => 1
  | some w => (w.extractLsb' 50 4).toNat
def dataChan (ws : List W64) : Nat := match ws.find? fun w => w.extractLsb' 58 6 == 0x18#6 with
  | none => 2
  | some w => (w.extractLsb' 46 4).toNat

/-- R166: the route class of a window request. -/
def requestClass (ws : List W64) (k : AccKind) : Nat :=
  match k with
  | .write => stairField ws 0x1B 52 48
  | .atomic => stairField ws 0x1B 47 43
  | _ => stairField ws 0x1B 57 53

/-- A channel of a stair. -/
def stairChan (x : Stair) (ctx chan : Nat) : List Token := Tab.get x.chans (16 * ctx + chan) []

/-- The next element of a command. -/
def nextElem (ws : List W64) (r : StairRun) (e : Elem) : Prop :=
  e.ser = r.ser ∧ e.ctx = r.ctx ∧ e.n = elemSize ws ∧ e.idx = r.idx ∧ e.data = [] ∧ e.ps = [] ∧ e.bad = .none ∧ e.aux = false ∧ e.asked = false ∧ e.replay = false ∧
    e.kind = (match stairField ws 0x15 57 56 with | 0 => AccKind.read | 1 => .write | _ => .atomic)

/-- R168: the byte that a write puts at a PA. -/
def putsAt (p : Pend) (a : Nat) : Option Byte :=
  if p.pa ≤ a ∧ a - p.pa ∉ p.skip then p.data[a - p.pa]? else none

/-- R168, R170: what a stair's merged write leaves at its edge when it goes: nothing where it goes to a peer. -/
def mergedLocal (x : Stair) : List Pend := x.mrg.toList.filter fun p => p.rem = none

end Sys2Proof.Claims

open Sys2Proof.Claims

/-- R157–R163, R166–R168, R113, R115. -/
def Obligations.StairElementsAndWindows : Prop :=
  (∀ (s : State) (r : StairRun),
    let h := s.focus.hall
    let n := s.focus.elem % 16
    let x := s.stair h n
    let ws := (s.cfg h (64 + n) r.ctx).words
    let res := exec .stairElementIssue s
    let on (f : Stair → Stair) : Prop := res = .next (s.setStair h n (f x))
    let base : Int := r.base
    let top := flightCount ws
    x.run = some r → r.ramo = false → x.stop = none → s.halted h (64 + n) r.ctx = false →
    (x.want = none → x.aside = [] → (∀ q ∈ x.spill, q.ok = none) → r.ended = false → x.held = [] →
      (stairField ws 0x15 55 54 = 0 →
        (∀ b (A : Int), Tab.find r.bnd 0 = some b → r.f.getD 0 0 < b → A = (List.range top).foldl (fun a k => a + (r.f.getD k 0 : Int) * flightStride ws k) base →
          0 ≤ A → A + elemSize ws ≤ 2 ^ 56 →
          ∃ e, nextElem ws r e ∧ e.va = A.toNat ∧ e.coord = r.idx ∧
            on fun x => { x with run := some { r with f := r.f.set 0 (r.f.getD 0 0 + 1), idx := r.idx + 1, ser := r.ser + 1 }, want := some e }) ∧
        (∀ c b w, 0 < c → c < 6 → Tab.find r.bnd c = some b → (∀ j < c, Tab.find r.bnd j = none) → r.f.getD c 0 < b → c < top → flightWord ws (c - 1) = some w → w.getLsbD 54 = false →
          on fun x => { x with run := some { r with f := r.f.set (c - 1) 0, bnd := Tab.put r.bnd (c - 1) (w.extractLsb' 30 24).toNat, started := true } }) ∧
        (∀ c b, c < 6 → Tab.find r.bnd c = some b → (∀ j < c, Tab.find r.bnd j = none) → b ≤ r.f.getD c 0 →
          let last : Prop := r.f.getD (c + 1) 0 + 1 = Tab.get r.bnd (c + 1) 0
          let stop : Prop := stairField ws 0x15 52 52 = 1 ∧ c + 1 < top ∧ ¬ (last ∧ c + 2 < top) ∧ stairField ws 0x15 57 56 ≠ 1
          ∃ o, (stop → o = [OutItem.tok { kind := .stop, level := BitVec.ofNat 3 c, ctx := BitVec.ofNat 2 r.ctx } none]) ∧ (¬ stop → o = []) ∧
            (c + 1 = top → on fun x => { x with run := some { r with bnd := Tab.del r.bnd c, ended := true }, out := x.out ++ o }) ∧
            (c + 1 ≠ top → on fun x => { x with run := some { r with bnd := Tab.del r.bnd c, f := r.f.set (c + 1) (r.f.getD (c + 1) 0 + 1) }, out := x.out ++ o }))) ∧
      (∀ b lo hi (A : Int), stairField ws 0x15 55 54 = 1 → Tab.find r.bnd 1 = some b → r.row = some (lo, hi) → (ws.find? fun w => w.extractLsb' 58 6 == 0x17#6) = none →
        A = base + (r.f.getD 0 0 : Int) * flightStride ws 0 → 0 ≤ A → A + elemSize ws ≤ 2 ^ 56 → BitVec.ofNat 32 (r.f.getD 0 0) ≠ 0xFFFFFFFF →
        (r.f.getD 0 0 < hi → ∃ e, nextElem ws r e ∧ e.va = A.toNat ∧ e.coord = BitVec.ofNat 32 (r.f.getD 0 0) ∧
          on fun x => { x with run := some { r with f := r.f.set 0 (r.f.getD 0 0 + 1), idx := r.idx + 1, ser := r.ser + 1, aux := [] }, want := some e })) ∧
      (∀ t rest (A : Int), 2 ≤ stairField ws 0x15 55 54 → stairChan x r.ctx (indexChan ws) = t :: rest → t.kind = .data →
        let i := t.payload.extractLsb' 0 32
        A = base + (i.toNat : Int) * elemSize ws → A + elemSize ws ≤ 2 ^ 56 →
        let taken (x : Stair) : Stair := { x with chans := Tab.put x.chans (16 * r.ctx + indexChan ws) rest, cur := none }
        (t.width ≠ 1 → t.width ≠ 2 → res = .next ((s.setStair h n (taken x)).reportElem .cfg h (64 + n) t.ctx.toNat t)) ∧
        (t.width = 1 ∨ t.width = 2 → ∃ e, e.ser = r.ser ∧ e.ctx = r.ctx ∧ e.va = A.toNat ∧ e.n = elemSize ws ∧ e.idx = r.idx ∧ e.round = t.round ∧
          e.coord = (if t.width = 2 then t.payload.extractLsb' 32 32 else i) ∧
          e.bad = (if t.poison then .poisonuse else if r.bound ≤ i.toNat ∨ i = 0xFFFFFFFF then .range else .none) ∧
          on fun x => { taken x with run := some { r with idx := r.idx + 1, ser := r.ser + 1 }, want := some e }))) ∧
    (∀ e, x.want = some e → e.ctx = r.ctx →
      let size := (e.ps.map Piece.len).foldl (· + ·) 0
      let va := e.va + size
      let len := min (64 - va % 64) (e.n - size)
      let ready := (e.kind = .read ∨ elemBeats ws ≤ e.data.length) ∧ e.bad = .none ∧ e.dpois = false ∧ (e.kind = .atomic → e.va % e.n = 0) ∧
        (e.kind = .read ∨ x.spill = [] ∨ e.replay = true)
      (∀ t rest, e.kind ≠ .read → e.data.length < elemBeats ws → (e.data ≠ [] ∨ x.held = []) → stairChan x e.ctx (dataChan ws) = t :: rest → t.kind = .data →
        on fun x => { x with chans := Tab.put x.chans (16 * e.ctx + dataChan ws) rest, cur := none, want := some { e with data := e.data ++ [t.payload], dpois := e.dpois || t.poison } }) ∧
      (e.kind ≠ .read → elemBeats ws ≤ e.data.length → e.bad ≠ .none → ∃ v q, res = .next v ∧ (v.stair h n).stop = some q ∧ q.cause = e.bad ∧ v.edge = s.edge ++ mergedLocal x ∧ (v.stair h n).mrg = none) ∧
      (e.kind ≠ .read → elemBeats ws ≤ e.data.length → e.bad = .none → e.dpois = true →
        ∃ v q, res = .next v ∧ (v.stair h n).stop = some q ∧ q.cause = .poisonuse ∧ v.edge = s.edge ++ mergedLocal x ∧ (v.stair h n).mrg = none) ∧
      (ready → size < e.n → (∀ q ∈ x.spill, q.page = va / 2 ^ 16 → e.replay = true ∧ e.ser ≤ q.e.ser) →
        let serves (w : Window) : Bool :=
          let p := (w.pay.extractLsb' 7 5).toNat
          w.va / 2 ^ p == va / 2 ^ p && w.pay.getLsbD (match e.kind with | .read => 5 | .write => 4 | .atomic => 3 | .exec => 2)
        (∀ w, x.wins.find? serves = some w →
          let pc : Piece := { pa := (w.pay.extractLsb' 12 36).toNat * 4096 + va % 2 ^ (w.pay.extractLsb' 7 5).toNat, key := (w.pay.extractLsb' 48 8).toNat,
                              rem := if w.pay.getLsbD 6 then some (w.pay.extractLsb' 56 8).toNat else none, len := len }
          on fun x => { x with wins := w :: x.wins.erase w, want := some { e with asked := false, ps := e.ps ++ [pc] } }) ∧
        (x.wins.find? serves = none → e.asked = false →
          ∀ v, s.stairSend h n (requestClass ws e.kind) { kind := .data, width := 4, ctx := BitVec.ofNat 2 e.ctx, payload := BitVec.ofNat 64 va } = some v →
            let y := v.stair h n
            res = .next (v.setStair h n { y with asks := y.asks ++ [(va, true, [])], want := some { e with asked := true } }))) ∧
      (ready → e.n ≤ size → e.aux = false → (∀ p ∈ e.ps, p.rem = none) →
        (e.kind = .read → OutItem.hole e.ser ∉ x.out → x.lines.length + e.ps.length ≤ 64 → x.cur = none → on fun x => { x with out := x.out ++ [OutItem.el e], want := none }) ∧
        (∀ p l, e.kind = .read → OutItem.hole e.ser ∉ x.out → x.lines.length + e.ps.length ≤ 64 → x.cur = some l → e.replay = false → e.ps = [p] →
          p.pa / 64 = l.line → p.key = l.key → l.rem = none →
          on fun x => { x with want := none, out := x.out ++ [OutItem.el { e with ps := [{ p with got := some ((l.data.drop (p.pa % 64)).take p.len, (granules (p.pa % 64) p.len).any fun g => g ∈ l.pois) }] }] }) ∧
        (∀ p, e.ps = [p] → p.len = e.n → s.edgeRefuses p.pa p.len p.key = .none →
          let bs := (e.data.map fun w => leBytes (min 8 e.n) w.toNat).flatten
          let pend : Pend := { who := .stair h n e.ctx, pa := p.pa, key := p.key, size := e.n, data := bs.take e.n, cls := r.cls, va := BitVec.ofNat 64 e.va }
          (e.kind = .write → x.mrg = none → on fun x => { x with mrg := some pend, mrgEls := [], unacked := x.unacked + 1, want := none }) ∧
          (∀ o, e.kind = .write → x.mrg = some o → o.pa / 64 = p.pa / 64 → o.key = p.key → o.rem = none →
            ∃ q, (on fun x => { x with mrg := some q, want := none }) ∧ q.who = o.who ∧ q.key = o.key ∧ q.rem = none ∧ q.atomic = o.atomic ∧
              ∀ a, putsAt q a = (putsAt pend a).or (putsAt o a)) ∧
          (∀ o, e.kind = .write → x.mrg = some o → ¬ (o.pa / 64 = p.pa / 64 ∧ o.key = p.key) → o.rem = none →
            res = .next ({ s with edge := s.edge ++ [o] }.setStair h n { x with mrg := some pend, mrgEls := [], unacked := x.unacked + 1, want := none })) ∧
          (e.kind = .atomic → x.mrg = none → OutItem.hole e.ser ∉ x.out →
            res = .next ({ s with edge := s.edge ++ [{ pend with data := leBytes e.n ((e.data.headD 0).toNat % 2 ^ (8 * e.n)), atomic := some (stairField ws 0x15 51 48), tag := e.ser }] }.setStair h n
              { x with out := x.out ++ [OutItem.el e], unacked := x.unacked + 1, want := none })))))) ∧
  (∀ (s : State) (t : Token) (rest : List Token) (va : Nat) (cut : List (Nat × Nat)) (asks : List (Nat × Bool × List (Nat × Nat))) (e : Elem),
    let h := s.focus.hall
    let n := s.focus.elem % 16
    let c := s.focus.ctx
    let x := s.stair h n
    let ws := (s.cfg h (64 + n) c).words
    let ch := stairField ws 0x1B 42 39
    let r := exec .stairWindowAnswer s
    let taken : Stair := { x with chans := Tab.put x.chans (16 * c + ch) rest, cur := none }
    stairChan x c ch = t :: rest → t.kind = .data → x.stop = none → s.halted h (64 + n) c = false →
    (t.width ≠ 5 → r = .next ((s.setStair h n taken).reportElem .cfg h (64 + n) t.ctx.toNat t)) ∧
    (t.width = 5 → x.asks = (va, true, cut) :: asks → x.want = some e →
      let ext := (t.payload.extractLsb' 7 5).toNat
      let res := (t.payload.extractLsb' 61 3).toNat
      let w : Window := { va := va, pay := t.payload }
      let shot : Prop := ∃ c ∈ cut, meets (va / 2 ^ ext * 2 ^ ext) (2 ^ ext) c.1 c.2
      (t.poison = false → ext ≠ 0 → shot →
        r = .next (s.setStair h n { taken with lastWin := t.payload, asks := asks, want := some { e with asked := false } })) ∧
      (t.poison = false → ext ≠ 0 → ¬ shot →
        r = .next (s.setStair h n { taken with lastWin := t.payload, asks := asks, wins := (w :: x.wins).take (stairField ws 0x1B 38 37 + 1), want := some { e with asked := false } })) ∧
      (t.poison = false → ext = 0 → res = 1 → x.spill.length < 16 → (∀ k ∈ x.spill, k.page = va / 2 ^ 16 → k.e.ser ≤ e.ser) → ∀ q, x.reqs.find? (fun r => r.2 == va / 2 ^ 16) = some q →
        ∃ v, r = .next v ∧ let y := v.stair h n
          y.want = none ∧ y.spill = x.spill ++ [{ e := { e with ps := [], asked := false, replay := false }, page := va / 2 ^ 16, seq := q.1, ok := none }] ∧ y.wins = x.wins) ∧
      (∀ run, x.run = some run → e.kind ≠ .read → t.poison = true ∨ (ext = 0 ∧ res ≠ 1) → ∃ v q, r = .next v ∧ (v.stair h n).stop = some q ∧ v.edge = s.edge ++ mergedLocal x ∧ (v.stair h n).mrg = none ∧
        q.cause = (if t.poison then .poisonuse else if res = 2 then .prot else if res = 4 then .key else .range)))) ∧
  (∀ s : State, (s.stair s.focus.hall (s.focus.elem % 16)).run = none → (s.stair s.focus.hall (s.focus.elem % 16)).mrg = none → exec .stairElementIssue s = .next s) ∧
  (∀ s : State, stairChan (s.stair s.focus.hall (s.focus.elem % 16)) s.focus.ctx (stairField (s.cfg s.focus.hall (64 + s.focus.elem % 16) s.focus.ctx).words 0x1B 42 39) = [] →
    exec .stairWindowAnswer s = .next s)

namespace Sys2Proof.Claims

/-- R159: the tokens of an element's value. -/
def elemTokens (ws : List W64) (e : Elem) (bs : List Byte) (p : Bool) : List Token :=
  let w := elemWord ws
  let x := leNat bs
  let base : Token := { kind := .data, ctx := BitVec.ofNat 2 e.ctx, round := e.round, poison := p }
  let wide : W32 := match (w.extractLsb' 56 2).toNat with
    | 0 => if w.getLsbD 55 then (BitVec.ofNat 8 x).signExtend 32 else (BitVec.ofNat 8 x).setWidth 32
    | 1 => if w.getLsbD 55 then (BitVec.ofNat 16 x).signExtend 32 else (BitVec.ofNat 16 x).setWidth 32
    | _ => BitVec.ofNat 32 x
  if w.getLsbD 54 then (List.range (elemBeats ws)).map fun i =>
    { base with width := 3, beat := BitVec.ofNat 4 i, level := if i + 1 = elemBeats ws then 1 else 0, payload := BitVec.ofNat 64 (leNat ((bs.drop (8 * i)).take 8)) }
  else if e.replay && stairField ws 0x15 53 53 == 1 then [{ base with width := 2, payload := e.idx ++ wide }]
  else if stairField ws 0x15 42 42 = 1 then [{ base with width := 2, payload := e.coord ++ wide }]
  else if (w.extractLsb' 56 2).toNat = 3 then [{ base with width := 0, payload := BitVec.ofNat 64 x }]
  else [{ base with width := 1, payload := wide.setWidth 64 }]

/-- R168: a stair has no element on its way but one that has taken no data. -/
def untouched (x : Stair) : Prop := ∀ e, x.want = some e → e.kind ≠ .read ∧ e.data = [] ∧ e.replay = false

/-- R256: an element of a stair can still come late. -/
def lateOnes (x : Stair) : Prop := x.spill ≠ [] ∨ x.aside ≠ [] ∨ ∃ e, x.want = some e ∧ e.replay = true

/-- R119: nothing of a stair is on its way; R120: no write of it is. -/
def portQuiet (x : Stair) : Prop :=
  x.unacked = 0 ∧ x.mrg = none ∧ x.spill = [] ∧ untouched x ∧ x.aside = [] ∧ x.auxq = [] ∧ x.rdfors = 0 ∧
    ∀ i ∈ x.out, match i with
      | .el e => ∀ p ∈ e.ps, p.got ≠ none
      | .hole _ => False
      | .tok _ _ => True
def portWritten (x : Stair) : Prop := x.unacked = 0 ∧ x.mrg = none ∧ x.spill = [] ∧ x.aside = [] ∧ untouched x

/-- R174: the work of the command of a ticket is complete. -/
def completes (s v : State) (h ticket : Nat) (c : Cause) : Prop :=
  (v.disp h).cmds = (s.disp h).cmds.map fun k => if k.ticket = ticket then
    { k with done := true, fault := if k.fault.isSome then k.fault else if c = .none then none else some c, faultVa := 0 } else k

/-- No bound and no index of the slot comes by token. -/
def ownBounds (ws : List W64) : Prop := stairField ws 0x15 55 54 ≠ 2 ∧ ∀ k < 6, ∀ w, flightWord ws k = some w → w.getLsbD 54 = false

/-- The words of a slot name a channel of a stair. -/
def usesChan (ws : List W64) (c : Nat) : Prop :=
  (ws.find? fun w => w.extractLsb' 58 6 == 0x1B#6) ≠ none ∧ (c = stairField ws 0x1B 42 39 ∨ (c = indexChan ws ∧ stairField ws 0x15 55 54 = 2) ∨ (c = dataChan ws ∧ stairField ws 0x15 57 56 ≠ 0))

end Sys2Proof.Claims

open Sys2Proof.Claims

/-- R159, R167, R117–R120, R165, R169, R177, R188. -/
def Obligations.StairLinesPortAndTokens : Prop :=
  (∀ s : State,
    let h := s.focus.hall
    let n := s.focus.elem % 16
    let x := s.stair h n
    let r := exec .stairLineReturn s
    let words (c : Nat) : List W64 := (s.cfg h (64 + n) c).words
    (x.out = [] → r = .next s) ∧
    (∀ e rest, x.out = .el e :: rest → (∀ p ∈ e.ps, p.got ≠ none) →
      let bs := (e.ps.map fun p => (p.got.getD ([], false)).1).flatten
      let p := e.ps.any fun p => (p.got.getD ([], false)).2
      r = .next (s.setStair h n { x with out := (elemTokens (words e.ctx) e bs p).map (fun t => .tok t none) ++ rest })) ∧
    (∀ t rest, x.out = .tok t none :: rest → t.kind ≠ .done →
      ∀ v, (s.setStair h n { x with out := rest }).stairSend h n (stairField (words t.ctx.toNat) 0x15 47 43) t = some v → r = .next v) ∧
    (∀ e p, x.out = [.el e] → e.kind = .read → e.ps = [p] → p.got = none → p.rem = none → 0 < p.len → p.pa % 64 + p.len ≤ 64 →
      let own := s.bankOpen (h, 64 + n) e.ctx p.pa
      (own = false → r = .next s) ∧
      ∀ a, own = true → s.edgeRead (64 * (p.pa / 64)) 64 p.key = a → ∃ v q, r = .next v ∧ v.stair h n = { x with
        cur := (v.stair h n).cur
        out := [.el { e with ps := [{ p with got := some q }] }] } ∧
        (a.cause = .none → q.1 = (a.bytes.drop (p.pa % 64)).take p.len) ∧
        (a.cause ≠ .none ∨ s.checkBad p.pa p.key = true → q.2 = true))) ∧
  (∀ s : State,
    let h := s.focus.hall
    let n := s.focus.elem % 16
    let x := s.stair h n
    (x.ackDue = 0 → exec .stairWriteAck s = .next s) ∧
    (x.ackDue ≠ 0 → exec .stairWriteAck s = .next (s.setStair h n { x with ackDue := x.ackDue - 1, unacked := x.unacked - 1 }))) ∧
  (∀ (s : State) (t : Token) (k : Option Nat) (rest : List (Token × Option Nat)),
    let h := s.focus.hall
    let n := s.focus.elem % 16
    let x := s.stair h n
    let r := exec .fenceRelease s
    let fence := t.kind = .marker ∧ t.level = 3
    x.held = (t, k) :: rest →
    (fence → ¬ portQuiet x → x.mrg = none → r = .next s) ∧
    (t.kind = .roundEnd → ¬ portWritten x → x.mrg = none → r = .next s) ∧
    ((fence ∧ portQuiet x) ∨ (t.kind = .roundEnd ∧ portWritten x) → ∃ v, r = .next v ∧ v = { s with stairs := v.stairs, disps := v.disps } ∧
      v.stair h n = { x with held := rest } ∧ (k = none → v = s.setStair h n { x with held := rest }) ∧ ∀ i, k = some i → completes s v h i .none)) ∧
  (∀ (s : State) (q : StairRun) (t : Token) (k : Option Nat) (rest : List (Token × Option Nat)),
    let h := s.focus.hall
    let n := s.focus.elem % 16
    let x := s.stair h n
    let r := exec .memoryPortDone s
    x.run = some q → q.doneMade = true → x.rdfors = 0 → x.spill = [] → x.stop = none → x.want = none → x.aside = [] →
    (0 < x.unacked → r = .next s) ∧
    (x.unacked = 0 → x.mrg = none → x.out = [] → x.held = (t, k) :: rest → t.kind = .done →
      (q.eot = true → q.eotSent = false → r = .next (s.setStair h n { x with
        run := some { q with eotSent := true }
        out := [OutItem.tok { kind := .marker, level := 2, ctx := BitVec.ofNat 2 q.ctx, payload := BitVec.ofNat 64 (q.ticket % 2 ^ 16 + if q.fault = .none then 0 else 2 ^ 16) } none] })) ∧
      (q.eot = false ∨ q.eotSent = true → ∃ v, r = .next v ∧ v.stair h n = { x with held := rest, run := none, wins := [], asks := [], cur := none } ∧ completes s v h q.ticket q.fault ∧
        (∀ c, Tab.find (s.disp h).sinks (4 * n + q.ctx) = some c → Tab.find (v.disp h).sinks (4 * n + q.ctx) = some { c with left := c.left - 1, hit := true })))) ∧
  (∀ (s : State) (t : Token) (rest : List Token),
    let h := s.focus.hall
    let n := s.focus.elem % 16
    let x := s.stair h n
    let c := t.ctx.toNat
    let k := lkey h (64 + n) 0
    let ws := (s.cfg h (64 + n) c).words
    let e := s.route66 h (64 + n) c t.chan.toNat
    let ch := (e.extractLsb' 19 4).toNat
    let r := exec .stairTokenArrival s
    s.focus.aux = 0 → s.focus.idx % 2 = 0 →
    (s.link k = [] → r = .next s) ∧
    (s.link k = t :: rest → t.kind ≠ .drain → t.kind ≠ .snapshot → 64 + n ∈ (s.slot h c).liveAt →
      ((ws.find? fun w => w.extractLsb' 58 6 == 0x1C#6) = none → e.getLsbD 27 = true → s.swapStopped h (64 + n) c = false → usesChan ws ch →
        (4 ≤ (stairChan x c ch).length → r = .next s) ∧
        ((stairChan x c ch).length < 4 → ∃ v, r = .next v ∧ v.link k = rest ∧
          v.stair h n = { x with chans := Tab.put x.chans (16 * c + ch) (stairChan x c ch ++ [{ t with chan := BitVec.ofNat 4 ch }]) })) ∧
      (∀ w h' n', (ws.find? fun w => w.extractLsb' 58 6 == 0x1C#6) = some w → w.getLsbD 57 = true → facingStair h n = some (h', n') →
        linkTakes s (lkey h' (64 + n') 1) c 0 → k ≠ lkey h' (64 + n') 1 →
        ∃ v, r = .next v ∧ v.link k = rest ∧ v.link (lkey h' (64 + n') 1) = [{ t with chan := w.extractLsb' 48 4 }]))) ∧
  (∀ (s : State) (t : Token) (rest : List Token),
    let h := s.focus.hall
    let n := s.focus.elem % 16
    let c := s.focus.ctx
    let ch := s.focus.idx % 16
    let x := s.stair h n
    let ws := (s.cfg h (64 + n) c).words
    let r := exec .stairTokenArrival s
    let taken : Stair := { x with chans := Tab.put x.chans (16 * c + ch) rest, cur := none }
    let comm : Prop := stairField ws 0x15 53 53 = 1
    let sub (l : Nat) : Prop := t.kind = .marker ∧ t.level.toNat = l
    s.focus.aux ≠ 0 → stairChan x c ch = t :: rest → ownBounds ws → x.stop = none → s.halted h (64 + n) c = false →
    (stairField ws 0x15 57 56 ≠ 0 →
      (sub 0 ∨ sub 1 ∨ sub 3 ∨ t.kind = .roundEnd → r = .next (s.setStair h n { taken with held := x.held ++ [(t, none)] })) ∧
      (sub 2 ∨ (t.kind = .stop ∧ ch = dataChan ws) → r = .next (s.setStair h n taken)) ∧
      (∀ q, t.kind = .done → ch = dataChan ws → x.run = some q → q.ctx = c → x.want = none → r = .next (s.setStair h n { taken with run := some { q with ended := true } }))) ∧
    (stairField ws 0x15 57 56 = 0 → comm → lateOnes x → sub 0 ∨ sub 1 ∨ sub 3 → r = .next s) ∧
    (stairField ws 0x15 57 56 = 0 → sub 2 ∨ (sub 3 ∧ ¬ lateOnes x) ∨ t.kind = .roundEnd → r = .next (s.setStair h n { taken with out := x.out ++ [.tok t none] })) ∧
    (sub 5 ∨ sub 6 ∨ sub 7 → r = .next ((s.setStair h n taken).reportElem .cfg h (64 + n) t.ctx.toNat t))) ∧
  (∀ s : State,
    let w := s.focus.val
    let h := (w.extractLsb' 10 6).toNat
    let n := (w.extractLsb' 6 4).toNat
    let seq := (w.extractLsb' 0 6).toNat
    let x := s.stair h n
    ((∀ q ∈ x.reqs, q.1 ≠ seq) → exec .pageReady s = .next s) ∧
    ((∃ q ∈ x.reqs, q.1 = seq) → ∃ v, exec .pageReady s = .next v ∧ v = { s with stairs := v.stairs, disps := v.disps } ∧
      v.stair h n = { x with reqs := x.reqs.filter (fun q => q.1 ≠ seq),
                             spill := x.spill.map fun q => if q.seq = seq ∧ q.ok = none then { q with ok := some (w.getLsbD 16) } else q } ∧
      ∀ c ∈ (v.disp h).cmds, (c.word.extractLsb' 114 6).toNat % 16 = n → c.waitPage ≠ some seq))

namespace Sys2Proof.Claims

/-- R79: a command word. -/
def commandWord (op : BitVec 8) (port : BitVec 6) (ctx : BitVec 2) (cls flags : BitVec 8) (imm : BitVec 32) (addr : BitVec 64) : BitVec 128 :=
  op ++ port ++ ctx ++ cls ++ flags ++ imm ++ addr

/-- R174: the focused command of the dispatcher has started, is not complete, waits for no page, and has this word. -/
def commandIs (s : State) (w : BitVec 128) (c : DCmd) : Prop :=
  (s.disp s.focus.hall).cmds.find? (fun k => k.ticket == s.focus.idx) = some c ∧ c.started = true ∧ c.done = false ∧ c.word = w ∧ c.waitPage = none

/-- Changes the command of a ticket; the focused one. -/
def withCmd (h t : Nat) (f : DCmd → DCmd) (s : State) : State :=
  s.setDisp h { s.disp h with cmds := (s.disp h).cmds.map fun k => if k.ticket = t then f k else k }
def myCmd (f : DCmd → DCmd) (s : State) : State := withCmd s.focus.hall s.focus.idx f s

/-- R174, R176: a command is complete, with its cause. -/
def closed (c : Cause) (va : W64) (k : DCmd) : DCmd :=
  { k with done := true, fault := if k.fault.isSome then k.fault else if c = .none then none else some c, faultVa := va }

/-- R178: a command's lane; R79: its port and operation. -/
def opOf (c : DCmd) : BitVec 8 := c.word.extractLsb' 120 8
def laneOfCmd (c : DCmd) : Nat :=
  if opOf c = 0x07 ∨ opOf c = 0x08 ∨ opOf c = 0x0E ∨ opOf c = 0x15 ∨ opOf c = 0x19 then 64 else (c.word.extractLsb' 114 6).toNat

/-- The commands of a dispatcher older than one. -/
def olderThan (s : State) (h : Nat) (c : DCmd) : List DCmd := (s.disp h).cmds.takeWhile fun k => k.ticket != c.ticket

end Sys2Proof.Claims

open Sys2Proof.Claims

/-- R172, R174–R176, R178, R180, R183, R185, R188, R189, R191, R192. -/
def Obligations.DispatcherAndPortCommands : Prop :=
  (∀ (s : State) (c : DCmd),
    let h := s.focus.hall
    let r := exec .commandStart s
    let mine := (olderThan s h c).filter fun k => k.ictx == c.ictx
    (s.disp h).cmds.find? (fun k => k.ticket == s.focus.idx) = some c → c.started = false → s.ctxStopped h c.ctx = false → s.swapping h c = false →
    ¬ (opOf c = 1 ∧ c.word.getLsbD 95 = true) →
    ((∃ k ∈ olderThan s h c, laneOfCmd k = laneOfCmd c) ∨ (∃ k ∈ mine, k.word.getLsbD 102 = true) → r = .next s) ∧
    ((∀ k ∈ olderThan s h c, laneOfCmd k ≠ laneOfCmd c) → (∀ k ∈ mine, k.word.getLsbD 102 = false) →
      (c.word.getLsbD 103 = true → mine = [] ∧ s.lcQuiet h c.ictx = true) → r = .next (myCmd (fun k => { k with started := true }) s))) ∧
  (∀ (s : State) (c : DCmd),
    let h := s.focus.hall
    let t := s.focus.idx
    let d := s.disp h
    let f := c.fault.getD .none
    let after : Disp := { d with cmds := d.cmds.filter (fun k => k.ticket ≠ t), stats := d.stats.map fun x => if x.ticket = t then { x with ret := true, cause := f } else x }
    d.cmds.find? (fun k => k.ticket == t) = some c →
    (c.done = false → exec .commandRetire s = .next s) ∧
    (c.done = true → c.fault = none → exec .commandRetire s = .next (s.setDisp h after)) ∧
    (c.done = true → ∃ v, exec .commandRetire s = .next v ∧ v.disp h = after)) ∧
  (∀ (s : State) (port : BitVec 6) (ctx : BitVec 2) (cls flags : BitVec 8) (imm : BitVec 32) (addr : BitVec 64) (c : DCmd),
    let h := s.focus.hall
    let p := port.toNat
    let t := s.focus.idx
    let n := p % 16
    let x := s.stair h n
    let is (op : BitVec 8) : Prop := commandIs s (commandWord op port ctx cls flags imm addr) c
    let acted (v : State) : State := myCmd (fun k => { k with acted := true }) v
    let ends (cause : Cause) (v : State) (i : Instr) : Prop := exec i s = .next (myCmd (closed cause 0) v)
    let words := (s.cfg h (64 + n) c.ctx).words
    let sends (i : Instr) (v : State) (tok : Token) : Prop := c.acted = false → (v.portSend h p (2 * t + 1) tok = none → exec i s = .next v) ∧
      ∀ w, v.portSend h p (2 * t + 1) tok = some w → w.focus = s.focus → exec i s = .next (acted w)
    (∀ k tok, s.portCut h p tok.ctx.toNat = false → p < 16 → 64 + p ∈ (s.slot h tok.ctx.toNat).liveAt → s.portSend h p k tok = some (s.setStair h p { s.stair h p with out := (s.stair h p).out ++ [.tok tok (some k)] })) ∧
    (is 0x0B → sends (.marker port ctx cls flags imm addr) s
      { kind := .marker, level := imm.extractLsb' 0 3, ctx := BitVec.ofNat 2 c.ctx, chan := imm.extractLsb' 4 4, payload := addr }) ∧
    (is 0x0C → sends (.round port ctx cls flags imm addr) s { kind := .roundEnd, round := imm.extractLsb' 0 4, ctx := BitVec.ofNat 2 c.ctx, chan := imm.extractLsb' 4 4 }) ∧
    (is 0x0F → let dst := s.physOf h c.ctx (imm.toNat % 4)
      sends (.cfgswitch port ctx cls flags imm addr) (s.setSlot h c.ctx { s.slot h c.ctx with switchTo := some dst })
        { kind := .marker, level := 1, ctx := BitVec.ofNat 2 c.ctx, chan := imm.extractLsb' 4 4, payload := BitVec.ofNat 64 dst }) ∧
    (is 0x18 → ends .none s (.nop port ctx cls flags imm addr)) ∧
    (is 0x14 → let k := 4 * p + c.ctx
      let x := Tab.get (s.disp h).sinks k { left := 0 }
      ends .none (s.setDisp h { s.disp h with sinks := Tab.put (s.disp h).sinks k { x with left := x.left + imm.toNat % 65536, told := false } }) (.sink port ctx cls flags imm addr)) ∧
    (is 0x19 → ((∃ k ∈ olderThan s h c, laneOfCmd k < 64 ∧ addr.getLsbD (laneOfCmd k) = true) → exec (.portwait port ctx cls flags imm addr) s = .next s) ∧
      ((∀ k ∈ olderThan s h c, laneOfCmd k < 64 → addr.getLsbD (laneOfCmd k) = false) → ends .none s (.portwait port ctx cls flags imm addr))) ∧
    (is 0x11 → c.acted = false → let fence : Token := { kind := .marker, level := 3, ctx := BitVec.ofNat 2 c.ctx }
      (x.mrg = none → exec (.sfence port ctx cls flags imm addr) s = .next (acted (s.setStair h n { x with held := x.held ++ [(fence, some t)] }))) ∧
      (∀ o, x.mrg = some o → o.rem = none → exec (.sfence port ctx cls flags imm addr) s =
        .next (acted ({ s with edge := s.edge ++ [o] }.setStair h n { x with mrg := none, mrgEls := [], held := x.held ++ [(fence, some t)] })))) ∧
    (let mode := stairField words 0x15 55 54
     let dir := stairField words 0x15 57 56
     let base := if stairField words 0x14 57 56 = 1 then addr.toNat else stairField words 0x14 55 0
     let run : StairRun := { ticket := t, ctx := c.ctx, cls := cls.toNat, eot := flags.getLsbD 2, bound := imm.toNat, ob := imm.toNat % 2 ^ 24, base := base }
     let starts (i : Instr) : Prop := exec i s = .next (acted (s.setStair h n { x with run := some run, stop := none, wins := [], want := none, asks := [], cur := none }))
     let ready : Prop := c.acted = false ∧ x.run = none
     let has : Prop := (words.find? fun w => w.extractLsb' 58 6 == 0x15#6) ≠ none
     (is 0x01 → p < 16 → ready → (has → mode < 2 → starts (.bind port ctx cls flags imm addr)) ∧ (¬ has ∨ 2 ≤ mode → ends .cfg s (.bind port ctx cls flags imm addr))) ∧
     (is 0x04 → ready → (has → mode = 2 → dir = 0 → starts (.gather port ctx cls flags imm addr)) ∧ (¬ has ∨ mode ≠ 2 ∨ dir ≠ 0 → ends .cfg s (.gather port ctx cls flags imm addr))) ∧
     (is 0x05 → ready → (has → mode = 2 → dir ≠ 0 → starts (.scatter port ctx cls flags imm addr)) ∧ (¬ has ∨ mode ≠ 2 ∨ dir = 0 → ends .cfg s (.scatter port ctx cls flags imm addr)))) ∧
    (is 0x01 → 16 ≤ p → c.acted = false →
      (s.mportOf h n c.ctx = none → ends .cfg s (.bind port ctx cls flags imm addr)) ∧
      (∀ m, s.mportOf h n c.ctx = some m → m.extractLsb' 58 2 ≠ 3 ∨ imm.toNat % 2 ^ 24 = 0 →
        exec (.bind port ctx cls flags imm addr) s = .next (acted (s.setBank h n { s.bank h n with
          strm := some { ticket := t, ctx := c.ctx, count := if imm.toNat % 2 ^ 24 ≠ 0 then imm.toNat % 2 ^ 24 else (m.extractLsb' 0 12).toNat, eot := flags.getLsbD 2 } })))) ∧
    (is 0x01 → ∀ q st, x.run = some q → x.stop = some st →
      ends .none (s.setStair h n { x with stop := none }) (.bindResume port ctx cls flags imm addr) ∧
      (∀ e, x.want = some e → e.aux = false → ends .none (s.setStair h n { x with stop := none, want := none, out := x.out.filter fun i => i ≠ .hole e.ser }) (.bindResumeSkip port ctx cls flags imm addr)) ∧
      (∀ e, x.want = some e → e.aux = true → q.row = none →
        ends .none (s.setStair h n { x with stop := none, want := none, run := some { q with row := some (0, 0), aux := [] } }) (.bindResumeSkip port ctx cls flags imm addr)) ∧
      ∃ v, exec (.bindAbandon port ctx cls flags imm addr) s = .next v ∧ (v.stair h n).run = some { q with ended := true, fault := st.cause } ∧ (v.stair h n).stop = none ∧
        (v.stair h n).want = none ∧ (v.stair h n).aside = [] ∧ (v.stair h n).spill = [] ∧ (v.stair h n).reqs = [] ∧ (v.stair h n).asks = [] ∧
        (∀ k ∈ (v.disp h).cmds, k.ticket = q.ticket → k.reported = true) ∧ (∀ k ∈ (v.disp h).cmds, k.ticket = t → k.done = true)) ∧
    (is 0x01 → x.run = none ∨ x.stop = none → ends .cfg s (.bindResume port ctx cls flags imm addr) ∧ ends .cfg s (.bindResumeSkip port ctx cls flags imm addr) ∧
      ends .cfg s (.bindAbandon port ctx cls flags imm addr)) ∧
    (is 0x15 → let ps := s.shootParts h (flags.extractLsb' 3 3).toNat
      (c.acted = false → exec (.shoot port ctx cls flags imm addr) s = .next (myCmd (fun k => { k with acted := true, waitParts := ps.length })
        { s with shoots := s.shoots ++ ps.map fun q => { hall := h, ticket := t, part := q, va := (c.desc.extractLsb' 0 64).toNat, len := (c.desc.extractLsb' 64 64).toNat, root := c.desc.extractLsb' 128 37 } })) ∧
      (c.acted = true → 0 < c.waitParts → exec (.shoot port ctx cls flags imm addr) s = .next s) ∧
      (c.acted = true → c.waitParts = 0 → ends .none s (.shoot port ctx cls flags imm addr)) ∧
      (∀ k < 17, (h, 64 + k) ∈ s.shootParts h 1) ∧ (h, 81) ∈ ps) ∧
    (is 0x17 → (words.find? fun w => w.extractLsb' 58 6 == 0x1B#6) ≠ none → x.asks = [] →
      let va := addr.toNat + c.prog
      let i := Instr.prefetch port ctx cls flags imm addr
      (c.acted = false → imm.toNat ≤ c.prog → ends .none s i) ∧
      (c.acted = false → c.prog < imm.toNat → va < 2 ^ 56 → ∀ v, s.stairSend h n (requestClass words .read) { kind := .data, width := 4, ctx := BitVec.ofNat 2 c.ctx, payload := BitVec.ofNat 64 va } = some v →
        v.focus = s.focus → exec i s = .next (acted (v.setStair h n { v.stair h n with asks := (v.stair h n).asks ++ [(va, false, [])] }))) ∧
      (c.acted = true → (∀ w ∈ x.wins, w.va / 2 ^ (w.pay.extractLsb' 7 5).toNat ≠ va / 2 ^ (w.pay.extractLsb' 7 5).toNat) →
        exec i s = .next (myCmd (fun k => { k with acted := false, prog := (va / 2 ^ 16 + 1) * 2 ^ 16 - addr.toNat }) s)) ∧
      (∀ w, c.acted = true → x.wins = [w] → w.pay.getLsbD 5 = true → w.va / 2 ^ (w.pay.extractLsb' 7 5).toNat = va / 2 ^ (w.pay.extractLsb' 7 5).toNat →
        exec i s = .next (myCmd (fun k => { k with acted := false, prog := (va / 2 ^ (w.pay.extractLsb' 7 5).toNat + 1) * 2 ^ (w.pay.extractLsb' 7 5).toNat - addr.toNat }) s)))) ∧
  (∀ s : State,
    let h := s.focus.hall
    let u := s.unit h s.focus.elem s.focus.ctx
    let k := 4 * s.focus.idx + s.focus.ctx
    let r := exec .sinkCountZero s
    (s.focus.aux = 1 → u.sink = some 0 → u.sinkHit = true → u.sinkTold = false → r = .next (s.setUnit h s.focus.elem s.focus.ctx { u with sinkTold := true })) ∧
    (∀ c, s.focus.aux ≠ 1 → Tab.find (s.disp h).sinks k = some c →
      (c.left = 0 → c.hit = true → c.told = false → r = .next (s.setDisp h { s.disp h with sinks := Tab.put (s.disp h).sinks k { c with told := true } })) ∧
      (c.left ≠ 0 ∨ c.hit = false ∨ c.told = true → r = .next s)))

namespace Sys2Proof.Claims

/-- A part of a command is done: in the count of parts, or among those done ahead of it. -/
def partDone (c : DCmd) (i : Nat) : Prop := i < c.prog ∨ i ∈ c.ahead

/-- A part that the focus may name: neither done nor begun. -/
def partFree (c : DCmd) (i : Nat) : Prop := c.prog ≤ i ∧ i ∉ c.ahead ∧ ∀ b ∈ c.buf, b.ix ≠ i

/-- The focused command in a state. -/
def cmdNow (s : State) : Option DCmd := (s.disp s.focus.hall).cmds.find? fun k => k.ticket == s.focus.idx

/-- A part that has been read whole: its bytes, and whether any is poison. -/
def partRead (b : CBuf) (bs : List Byte) (p : Bool) : Prop :=
  (∀ q ∈ b.ps, q.got ≠ none) ∧ bs = (b.ps.map fun q => (q.got.getD ([], false)).1).flatten ∧ p = b.ps.any fun q => (q.got.getD ([], false)).2

/-- R195–R197: the bank of an access of a command takes it. -/
def cmdTakes (s : State) (c : DCmd) (pa : Nat) : Prop := s.bankOpen (s.focus.hall, 81) c.ctx pa = true

/-- An address of a command in local memory, whose bank takes the access. -/
def localAt (s : State) (c : DCmd) (va : Nat) (k : AccKind) (s1 : State) (x : Xlat) : Prop := (∃ psz, s.cmdXlate c va k = .ok s1 x psz) ∧ x.rem = none ∧ x.pa < 2 ^ 52 ∧ cmdTakes s1 c x.pa

/-- R293, R297: an element of a command that its stair places without windows, in local memory, at a PA under a key slot. -/
def elementAt (s : State) (c : DCmd) (va : Nat) (k : AccKind) (s1 : State) (pa key : Nat) : Prop :=
  ((s.cfg s.focus.hall (64 + (c.word.extractLsb' 114 6).toNat % 16) c.ctx).words.find? fun w => w.extractLsb' 58 6 == 0x1B#6) = none ∧ va < 2 ^ 56 ∧
    ∃ pte psz, s.walk (s.rootOf s.focus.hall c.ictx) (BitVec.ofNat 64 va) k = (s1, .leaf pte psz, []) ∧ pte.getLsbD 8 = false ∧
      pa = (pte.extractLsb' 16 32).toNat * 2 ^ 16 + va % 2 ^ psz ∧ key = (pte.extractLsb' 48 8).toNat

/-- A read that gives these bytes, and a write that is performed, with nothing to log. -/
def readsAt (s : State) (x : Xlat) (n : Nat) (a : ERead) : Prop := s.edgeRead x.pa n x.key = a ∧ a.cause = .none ∧ a.logs = []
def writesAt (s : State) (x : Xlat) (bs : List Byte) (o : WMode) (w : EWrite) : Prop :=
  s.edgeWrite x.pa bs x.key o = w ∧ w.cause = .none ∧ w.logs = [] ∧ (bs.length % 16 = 0 ∨ s.edgeRefuses x.pa bs.length x.key = .none)

/-- The answer carries these words on: a state with the memory of one write, in which a part of the focused command is done and no longer kept. -/
def wroteCmdPart (w : State) (r : Res) (i : Nat) : Prop :=
  ∃ v k, r = .next v ∧ v.mem = w.mem ∧ cmdNow v = some k ∧ partDone k i ∧ ∀ b ∈ k.buf, b.ix ≠ i

/-- R59, R60: the token of a record under a context; only data is poisoned. -/
def tokenOfRecord (ctx : Nat) (bs : List Byte) : Token :=
  let h : BitVec 64 := BitVec.ofNat 64 (leNat (bs.take 8))
  { kind := (match (h.extractLsb' 21 3).toNat with | 0 => .data | 1 => .stop | 2 => .done | 3 => .marker | 4 => .roundEnd | 5 => .drain | 6 => .snapshot | _ => .skip)
    level := h.extractLsb' 18 3, ctx := BitVec.ofNat 2 ctx, round := h.extractLsb' 12 4, poison := h.getLsbD 11 && h.extractLsb' 21 3 == 0#3, chan := h.extractLsb' 7 4
    width := h.extractLsb' 4 3, beat := h.extractLsb' 0 4, payload := BitVec.ofNat 64 (leNat (bs.drop 8)) }

end Sys2Proof.Claims

open Sys2Proof.Claims

/-- R177, R181, R182, R186, R187, R190, R293–R299. -/
def Obligations.EngineCommands : Prop :=
  ∀ (s : State) (port : BitVec 6) (ctx : BitVec 2) (cls flags : BitVec 8) (imm : BitVec 32) (addr : BitVec 64) (c : DCmd),
    let h := s.focus.hall
    let t := s.focus.idx
    let i := s.focus.aux
    let d := c.desc
    let is (op : BitVec 8) : Prop := commandIs s (commandWord op port ctx cls flags imm addr) c
    let word (k : Nat) : Nat := (d.extractLsb' (64 * k) 64).toNat
    let va (x : Int) : Nat := if x < 0 then 2 ^ 56 else x.toNat
    let ends (ins : Instr) : Prop := c.waitAcks = 0 →
      (flags.getLsbD 2 = false → exec ins s = .next (withCmd h t (closed .none c.faultVa) s)) ∧
      (flags.getLsbD 2 = true → ∀ v, s.portSend h (imm.toNat % 64) (2 * t) { kind := .marker, level := 2, ctx := BitVec.ofNat 2 (s.physOf h c.ictx (imm.toNat / 64 % 4)), payload := BitVec.ofNat 64 (t % 2 ^ 16 + if c.fault.isSome then 2 ^ 16 else 0) } = some v → exec ins s = .next (withCmd h t (closed .none c.faultVa) v))
    (is 0x02 →
      let rows := (d.extractLsb' 160 32).toNat
      let rlen := (d.extractLsb' 128 32).toNat
      let per := rlen / 64
      let src : Int := (d.extractLsb' 0 56).toNat + ((i / per : Nat) : Int) * (d.extractLsb' 192 64).toInt + 64 * ((i % per : Nat) : Int)
      let dst : Int := (d.extractLsb' 64 56).toNat + ((i / per : Nat) : Int) * (d.extractLsb' 256 64).toInt + 64 * ((i % per : Nat) : Int)
      let fe := d.getLsbD 320 = false
      let ins := Instr.copy port ctx cls flags imm addr
      word 0 % 64 = 0 → word 1 % 64 = 0 → rlen % 64 = 0 → word 3 % 64 = 0 → word 4 % 64 = 0 → 0 < rlen → (d.extractLsb' 56 8 = 0 ∧ d.extractLsb' 120 8 = 0) → c.fault = none →
      (∀ s1 x a, i < rows * per → partFree c i → localAt s c (va src) .read s1 x → readsAt s1 x 64 a → va src % 64 = 0 →
        exec ins s = .next (myCmd (fun k => { k with buf := k.buf ++ [{ ix := i, ps := [{ pa := x.pa, key := x.key, len := 64, got := some (a.bytes, a.poison) }], cv := some (a.s.mem.cv (a.s.placeOf x.pa / 64)), marks := a.s.lineMarks x.pa, va := va src }] }) a.s)) ∧
      (∀ b bs p s1 x w, c.buf = [b] → b.ix = i → partRead b bs p → bs.length = 64 → localAt s c (va dst) .write s1 x → cmdNow s1 = some c →
        writesAt s1 x bs { fill := decide fe, cv := b.cv, marks := markedGranules x.pa 64 (if b.cv.isSome then b.marks else if p then 15 else 0) } w →
        wroteCmdPart w.s (exec ins s) i) ∧
      (c.prog = rows * per → c.ahead = [] → c.buf = [] → ends ins)) ∧
    (is 0x03 →
      let va0 := (d.extractLsb' 0 56).toNat
      let len := (d.extractLsb' 128 32).toNat
      let fe := (d.extractLsb' 192 2).toNat
      let ins := Instr.fill port ctx cls flags imm addr
      c.fault = none →
      (∀ s1 x w, va0 % 16 = 0 → len % 16 = 0 → i < len / 16 → partFree c i → localAt s c (va0 + 16 * i) .write s1 x → cmdNow s1 = some c →
        writesAt s1 x (leBytes 8 (word 1) ++ leBytes 8 (word 1)) { fill := decide (fe = 0), empty := decide (fe = 2) } w → wroteCmdPart w.s (exec ins s) i) ∧
      (c.prog = len / 16 + 2 → c.ahead = [] → c.buf = [] → ends ins)) ∧
    (is 0x12 →
      let at_ := addr.toNat + 16 * c.prog
      let ins := Instr.inject port ctx cls flags imm addr
      let last : Nat := if c.prog + 1 = imm.toNat then 1 else 0
      addr.toNat % 16 = 0 → c.fault = none → c.prog < imm.toNat →
      (∀ s1 s2 x a, c.buf = [] → localAt s c at_ .read s1 x → (s1.edgeRead x.pa 16 x.key).cause = .none → localAt s1 c at_ .read s2 x → readsAt s2 x 16 a →
        exec ins s = .next (myCmd (fun k => { k with buf := [{ ix := c.prog, ps := [{ pa := x.pa, key := x.key, len := 16, got := some (a.bytes, a.poison) }], va := at_ }] }) a.s)) ∧
      (∀ b bs p, c.buf = [b] → partRead b bs p → bs.length = 16 →
        let kind := leNat (bs.take 8) / 2 ^ 21 % 8
        let good : Prop := leNat (bs.take 8) < 2 ^ 24 ∧ (kind = 0 ∨ kind = 1 ∨ kind = 2 ∨ kind = 4)
        (∀ tok, (p = true ∧ tok = { tokenOfRecord c.ctx bs with kind := .data, poison := true }) ∨ (p = false ∧ good ∧ tok = tokenOfRecord c.ctx bs) →
          (s.portSend h port.toNat (2 * t + last) tok = none → exec ins s = .next s) ∧
          ∀ v, s.portSend h port.toNat (2 * t + last) tok = some v → v.focus = s.focus → exec ins s = .next (myCmd (fun k => { k with prog := c.prog + 1, buf := [] }) v)) ∧
        (p = false → ¬ good → exec ins s = .next (myCmd (fun k => if k.fault.isSome then k else { k with fault := some .illegal, faultVa := BitVec.ofNat 64 at_, faultIx := c.prog, buf := [] }) s)))) ∧
    (is 0x13 →
      let at_ := addr.toNat + 16 * c.prog
      let ins := Instr.collect port ctx cls flags imm addr
      let q := Tab.get (s.disp h).ports (4 * port.toNat + c.ctx) []
      (c.fault = none → c.acted = false → c.prog < imm.toNat → q = [] → exec ins s = .next s) ∧
      (∀ tok rest s1 x w, c.waitAcks = 0 → c.fault = none → c.acted = false → c.prog < imm.toNat → q = tok :: rest → localAt s c at_ .write s1 x → x.pa % 16 = 0 →
        writesAt s1 x (leBytes 8 tok.header ++ leBytes 8 tok.payload.toNat) { fill := true, marks := if tok.poison && tok.kind == .data then [x.pa / 16] else [] } w → w.s.focus = s.focus →
        exec ins s = .next (myCmd (fun k => { k with prog := c.prog + 1, acted := decide (tok.kind = .done) })
          (w.s.setDisp h { w.s.disp h with ports := Tab.put (s.disp h).ports (4 * port.toNat + c.ctx) rest }))) ∧
      (c.acted = true ∨ imm.toNat ≤ c.prog → c.waitAcks = 0 → exec ins s = .next (withCmd h t (closed .none c.faultVa) s))) ∧
    (is 0x16 →
      let ins := Instr.tload port ctx cls flags imm addr
      (∀ s1 x a, i < 1024 → partFree c i → addr.toNat % 64 = 0 → localAt s c (addr.toNat + 64 * i) .read s1 x → readsAt s1 x 64 a → s1.checkBad x.pa x.key = false → s.checkBad x.pa x.key = false →
        ∃ k, exec ins s = .next (myCmd (fun k' => { k' with buf := k'.buf ++ [k] }) a.s) ∧ k.ix = i ∧ k.ps = [{ pa := x.pa, key := x.key, len := 64, got := some (a.bytes, a.poison) }] ∧ k.marks = a.s.lineMarks x.pa) ∧
      (∀ b bs p, c.buf = [b] → b.ix = i → partRead b bs p → ∃ v l, exec ins s = .next v ∧ (v.gal h).port = (s.gal h).port ++ [l] ∧ l.ticket = t ∧ l.ctx = c.ctx ∧ l.slot = imm.toNat % 32 ∧
        l.line = i ∧ l.bytes = bs ∧ (p = false → l.marks = 0) ∧ (p = true → b.cv = none → l.marks = 15)) ∧
      (c.prog = 1024 → c.ahead = [] → c.buf = [] → (∀ l ∈ (s.gal h).port, l.ticket ≠ t) → ∃ v, exec ins s = .next v ∧ (v.disp h).cmds = (s.disp h).cmds.map fun k => if k.ticket = t then closed .none c.faultVa k else k)) ∧
    (is 0x09 →
      let x := s.stair h (port.toNat % 16)
      let n := (d.extractLsb' 256 13).toNat
      let esz := (d.extractLsb' 314 2).toNat
      let op := (d.extractLsb' 316 4).toNat
      let e := if esz = 0 then 16 else if esz = 2 then 4 else 8
      let ins := Instr.ramo port ctx cls flags imm addr
      x.stop = none → x.run = none → x.spill = [] →
      (∀ b ix o po s1 pa key u, c.buf = [b] → b.ix = i → b.ps.map Piece.got = [some (ix, false), some (o, po)] → BitVec.ofNat 32 (leNat ix) ≠ (0xFFFFFFFF : W32) → (po = false ∨ op = 9 ∨ op = 10) →
        let a := word 0 + (BitVec.ofNat 32 (leNat ix)).toNat * e
        elementAt s c a .atomic s1 pa key → cmdTakes s1 c pa → cmdNow s1 = some c →
        s1.edgeUpdate pa e key op (leNat o) 0 (d.extractLsb' 302 12) po = u → u.cause = .none → u.logs = [] →
        ∃ v k, exec ins s = .next v ∧ v.mem = u.s.mem ∧ cmdNow v = some k ∧ partDone k i ∧ (word 3 = 0 → k.buf = []) ∧
          (word 3 ≠ 0 → u.poison = false → k.buf = [{ ix := i, ps := [{ pa := pa, key := key, len := e, got := some (leBytes e u.old, false) }], va := a }])) ∧
      (∀ b v p s1 x' w, c.buf = [b] → b.ps.length = 1 → partRead b v p → word 3 ≠ 0 → localAt s c (word 3 + e * b.ix) .write s1 x' → cmdNow s1 = some c →
        writesAt s1 x' v { marks := markedGranules x'.pa v.length (if p then 15 else 0) } w →
        ∃ y k, exec ins s = .next y ∧ y.mem = w.s.mem ∧ cmdNow y = some k ∧ k.buf = []) ∧
      (c.prog = n → c.ahead = [] → c.buf = [] → ends ins)) ∧
    (is 0x0A → d.getLsbD 234 = false →
      let n := (d.extractLsb' 192 32).toNat
      let op : Nat := if d.extractLsb' 252 4 = 0 then 9 else 10
      let ins := Instr.rred port ctx cls flags imm addr
      let x := s.stair h (port.toNat % 16)
      x.stop = none → x.run = none → x.spill = [] →
      (∀ b bs p s1 pa key u, c.fault = none → c.acted = false → c.prog < n → c.buf = [b] → partRead b bs p → elementAt s c (word 1 + 16 * c.prog) .atomic s1 pa key → cmdTakes s1 c pa →
        s1.edgeUpdate pa 16 key op (leNat bs) 0 (d.extractLsb' 240 12) p = u → u.cause = .none → u.logs = [] →
        exec ins s = .next (myCmd (fun k => { k with prog := c.prog + 1, buf := [] }) u.s)) ∧
      (c.fault = none → c.acted = false → c.prog = n → 0 < n → d.getLsbD 235 = false → exec ins s = .next (myCmd (fun k => { k with acted := true }) s)) ∧
      (∀ s1 pa key, c.fault = none → c.acted = false → n = 0 → d.getLsbD 235 = false → elementAt s c (word 1) .atomic s1 pa key → exec ins s = .next (myCmd (fun k => { k with acted := true }) s1)) ∧
      (c.acted = true → ends ins)) ∧
    (is 0x0A → d.getLsbD 234 = true →
      let n := (d.extractLsb' 192 32).toNat
      let clr := d.getLsbD 233
      let fmt : RdFmt := if d.extractLsb' 252 4 = 0 then .flt fp32 else .int true
      let ins := Instr.rredReadout port ctx cls flags imm addr
      let x := s.stair h (port.toNat % 16)
      x.stop = none → x.run = none → x.spill = [] →
      (∀ s1 y s2 pa key a q fl w, c.fault = none → c.prog < n → elementAt s c (word 1 + 16 * c.prog) (if clr then .atomic else .read) s1 pa key → localAt s1 c (word 0 + 4 * c.prog) .write s2 y →
        cmdTakes s2 c pa → cmdNow s2 = some c → s2.edgeRefuses y.pa 4 y.key = .none → s2.edgeRead pa 16 key = a → a.cause = .none → a.logs = [] → readCell (cellOf a.bytes a.poison) (d.extractLsb' 240 12) fmt (d.extractLsb' 230 3).toNat = some (q, fl) →
        let z := (if clr then (a.s.edgeWrite pa (List.replicate 16 0) key).s else a.s).drawn
        cmdTakes z c y.pa → writesAt z y (leBytes 4 q) { fill := true } w → wroteCmdPart w.s (exec ins s) c.prog) ∧
      (n ≤ c.prog → ends ins))

namespace Sys2Proof.Claims

/-- R201: an entry of a bank's tag table; and a bank with one replaced. -/
def tagOf (b : Bank) (j : Nat) : TagEnt := Tab.get b.tags j {}
def withTag (b : Bank) (j : Nat) (e : TagEnt) : Bank := { b with tags := Tab.put b.tags j e }

/-- R201: slots, ways, bytes of a slot, and where a slot lies in its bank. -/
def slotCount (mt : W64) : Nat := (mt.extractLsb' 52 8).toNat + 1
def wayCount (mt : W64) : Nat := 2 ^ (mt.extractLsb' 50 2).toNat
def slotBytes (mt : W64) : Nat := 2 ^ ((mt.extractLsb' 46 4).toNat + 6)
def slotAt (mt : W64) (j : Nat) : Nat := (mt.extractLsb' 36 10).toNat * 64 + j * slotBytes mt

/-- R202: a result on a slot of the focused bank's table. -/
def tagResult (b : Bank) (mt : W64) (q res : Nat) (vv vd : Bool) (j : Nat) : W64 :=
  BitVec.ofNat 64 (res * 2 ^ 30 + (if vv then 2 ^ 29 else 0) + (if vd then 2 ^ 28 else 0) + j * 2 ^ 20 + groupOff b q (slotAt mt j) % 2 ^ 20)

/-- R203: most recent. -/
def made (b : Bank) (j : Nat) : Bank := { b with recency := j :: b.recency.filter fun k => k ≠ j }

/-- R203: the least recent of the ways that are neither pinned nor pending: one never made recent, else the last of the recency list. -/
def leastOf (b : Bank) (ws : List Nat) (j : Nat) : Prop :=
  let ok (k : Nat) : Prop := k ∈ ws ∧ (tagOf b k).pin = false ∧ (tagOf b k).pend = false
  ok j ∧ ((j ∉ b.recency ∧ ∀ k ∈ ws.takeWhile fun k => k != j, ok k → k ∈ b.recency) ∨
    ((∀ k, ok k → k ∈ b.recency) ∧ ∃ pre post, b.recency = pre ++ j :: post ∧ ∀ k ∈ post, ¬ ok k))

/-- R203: what `tlook` does to a bank: the bank afterwards, the result, and the slot whose granules are set empty. -/
def looksUp (b : Bank) (mt : W64) (q : Nat) (key : BitVec 40) (b' : Bank) (r : W64) (e : Option Nat) : Prop :=
  let st := key.toNat % (slotCount mt / wayCount mt)
  let ws := (List.range (wayCount mt)).map fun i => st * wayCount mt + i
  let has (j : Nat) : Prop := ((tagOf b j).v = true ∨ (tagOf b j).pend = true) ∧ (tagOf b j).key = key
  let free (j : Nat) : Prop := (tagOf b j).v = false ∧ (tagOf b j).pend = false
  let takes (j : Nat) : Prop := b' = withTag b j { key := key, v := false, pend := true } ∧ r = tagResult b mt q 1 (tagOf b j).v (tagOf b j).dty j ∧ e = some j
  (∃ j ∈ ws, has j ∧ (∀ k ∈ ws.takeWhile fun k => k != j, ¬ has k) ∧ e = none ∧
      (if (tagOf b j).v then b' = made b j ∧ r = tagResult b mt q 0 false false j else b' = b ∧ r = tagResult b mt q 2 false false j)) ∨
    ((∀ k ∈ ws, ¬ has k) ∧
      ((∃ j ∈ ws, free j ∧ (∀ k ∈ ws.takeWhile fun k => k != j, ¬ free k) ∧ takes j) ∨
       ((∀ k ∈ ws, ¬ free k) ∧ ((∃ j, leastOf b ws j ∧ takes j) ∨
         ((∀ k ∈ ws, (tagOf b k).pin = true ∨ (tagOf b k).pend = true) ∧ b' = b ∧ r = 0xC0000000 ∧ e = none)))))

/-- R202: the payload of an operation. -/
def keyed (top : BitVec 3) (key : BitVec 40) : W64 := BitVec.ofNat 64 (top.toNat * 2 ^ 61 + key.toNat)
def slotted (top : BitVec 3) (slot : BitVec 8) : W64 := BitVec.ofNat 64 (top.toNat * 2 ^ 61 + slot.toNat * 2 ^ 40)

end Sys2Proof.Claims

open Sys2Proof.Claims

/-- R201–R203. -/
def Obligations.TagOperations : Prop :=
  ∀ (s : State) (m : MStream) (w mt : W64) (t : Token) (rest : List Token),
    let h := s.focus.hall
    let q := s.focus.elem % 16
    let b := s.bank h q
    let ch := 16 * m.ctx + (w.extractLsb' 45 4).toNat
    let rco := (w.extractLsb' 49 5).toNat
    let words := (s.cfg h (mbayOf q) m.ctx).words
    b.strm = some m → words.find? (fun w => w.extractLsb' 60 4 == 2#4) = some w → words.find? (fun w => w.extractLsb' 60 4 == 3#4) = some mt →
    w.extractLsb' 58 2 = 2 → m.ended = false → Tab.get b.chans ch [] = t :: rest → t.kind = .data → t.width = 0 →
    s.halted h (mbayOf q) m.ctx = false → m.ctx ∉ b.stopped →
    let took : Bank := { b with chans := Tab.put b.chans ch rest }
    let answers (i : Instr) (width : BitVec 3) (b' : Bank) (r : W64) (e : Option Nat) : Prop :=
      let s1 := s.setBank h q b'
      let s2 := match e with
        | none => s1
        | some j => s1.setEmpty (granules (bankBase h q + slotAt mt j) (slotBytes mt))
      let a := s2.takeRoute h (mbayOf q) rco 5 { t with width := width, payload := r } true
      (a = none → exec i s = .next s) ∧ ∀ v, a = some v → exec i s = .next v
    (t.poison = false →
      (∀ key, t.payload = keyed 0 key → ∃ b' r e, looksUp took mt q key b' r e ∧ answers (.tlook key) 1 b' r e) ∧
      (∀ key, t.payload = keyed 1 key →
        let has (j : Nat) : Prop := (tagOf b j).pend = true ∧ (tagOf b j).key = key
        (∀ j, j < slotCount mt → has j → (∀ k < j, ¬ has k) → answers (.tfill key) 1 (made (withTag took j { tagOf b j with v := true, pend := false }) j) (tagResult b mt q 0 false false j) none) ∧
        ((∀ k < slotCount mt, ¬ has k) → answers (.tfill key) 1 took 0xC0000000 none)) ∧
      (∀ slot : BitVec 8, slot.toNat < slotCount mt →
        let j := slot.toNat
        let e := tagOf b j
        let sets (i : Instr) (e' : TagEnt) : Prop := (e.v = true → answers i 1 (withTag took j e') (tagResult b mt q 0 false false j) none) ∧
          (e.v = false → answers i 1 took (tagResult b mt q 3 false false j) none)
        (t.payload = slotted 2 slot → answers (.tevict slot) 1 (withTag took j { e with v := false, pend := false, pin := false, dty := false }) (tagResult b mt q 0 e.v e.dty j) none) ∧
        (t.payload = slotted 3 slot → sets (.tpin slot) { e with pin := true }) ∧
        (t.payload = slotted 4 slot → sets (.tunpin slot) { e with pin := false }) ∧
        (t.payload = slotted 5 slot → sets (.tdirty slot) { e with dty := true }) ∧
        (t.payload = slotted 6 slot → answers (.tread slot) 0 took
          (BitVec.ofNat 64 ((if e.v then 2 ^ 63 else 0) + (if e.pend then 2 ^ 62 else 0) + (if e.pin then 2 ^ 61 else 0) + (if e.dty then 2 ^ 60 else 0) + j * 2 ^ 40 + e.key.toNat)) none))) ∧
    (∀ key, t.poison = true → t.payload = keyed 0 key → ∃ x : W64, ∀ v, (s.setBank h q took).takeRoute h (mbayOf q) rco 5 { t with width := 1, payload := x } true = some v →
      ∃ y, exec (.tlook key) s = .next y ∧ y = { v with fresh := y.fresh }) ∧
    (t.poison = true → t.payload.extractLsb' 61 3 = 7 → ∃ x : W64, ∀ v, (s.setBank h q took).takeRoute h (mbayOf q) rco 5 { t with width := 1, payload := x } true = some v →
      m.rob = [] → ∃ y, exec .mportTokenArrival s = .next y ∧ y = { v with fresh := y.fresh })

namespace Sys2Proof.Claims

/-- The bank of the focused quad. -/
def myBank (s : State) : Bank := s.bank s.focus.hall (s.focus.elem % 16)
def withBank (s : State) (f : Bank → Bank) : State := s.setBank s.focus.hall (s.focus.elem % 16) (f (myBank s))

/-- A synchronising read of a granule that is empty. -/
def parks (s : State) (r : BankReq) : Prop := (r.op = .syncKeep ∨ r.op = .syncClr) ∧ (bankBase s.focus.hall (s.focus.elem % 16) + r.boff) / 16 ∈ s.mem.empties

/-- R198: what performing a request of a bank does to memory, what it returns, and whether that is poison. -/
def performs (s v : State) (place : Nat) (r : BankReq) (x : BitVec 128) (p : Bool) : Prop :=
  match r.op with
  | .write => let w := s.bankWrite place r.data
    w.logs = [] → v = w.s ∧ p = false
  | .fillWrite => let w := s.bankWrite place r.data { fill := true, marks := if r.poison then granules place r.data.length else [] }
    w.logs = [] → r.skip = [] → v = w.s ∧ p = false
  | .empty => v = s.setEmpty (granules place r.size) ∧ p = false
  | .read | .syncKeep => let a := s.bankRead place r.size
    a.logs = [] → v = a.s ∧ x = BitVec.ofNat 128 (leNat a.bytes) ∧ p = a.poison
  | .syncClr => let a := s.bankRead place r.size
    a.logs = [] → v = a.s.setEmpty (granules place r.size) ∧ x = BitVec.ofNat 128 (leNat a.bytes) ∧ p = a.poison
  | _ => True

/-- The stream of the focused bank, with its `mport` word, works. -/
def streamIs (s : State) (m : MStream) (w : W64) : Prop :=
  let h := s.focus.hall
  let q := s.focus.elem % 16
  (myBank s).strm = some m ∧ (s.cfg h (mbayOf q) m.ctx).words.find? (fun w => w.extractLsb' 60 4 == 2#4) = some w ∧
    s.halted h (mbayOf q) m.ctx = false ∧ m.ctx ∉ (myBank s).stopped

/-- R197, R28: the request a stream makes of the bank that holds a group offset: in queue 2 of its own bank, or on the packet network to another. -/
def streamAsks (s v : State) (o : Nat) (r : BankReq) : Prop :=
  let h := s.focus.hall
  let q := s.focus.elem % 16
  let n := (groupPlace (myBank s) q o).1
  let r : BankReq := { r with boff := (groupPlace (myBank s) q o).2, src := (h, mbayOf q) }
  if n = q then Tab.get (v.bank h q).q 2 [] = Tab.get (s.bank h q).q 2 [] ++ [r] else v.net = s.net.send (h, mbayOf q) (16 * h + n) r

/-- R195–R197, R28, R312: a stream's request can be made: its bank or the network takes it, and, where the stream keeps an order, nothing of the stream
is at another bank or is a synchronising read. -/
def streamTakes (s : State) (o ctx : Nat) (ordered : Prop) : Prop :=
  let h := s.focus.hall
  let q := s.focus.elem % 16
  let n := (groupPlace (myBank s) q o).1
  (if n = q then (s.bank h q).takes 2 ctx = true else s.netRoom (h, mbayOf q) h n = true) ∧
    (ordered → ∀ k < 16, ∀ r ∈ s.reqsAt h (mbayOf q) ctx k, k = n ∧ r.op.isSync = false)

end Sys2Proof.Claims

open Sys2Proof.Claims

/-- R195–R198, R200, R286, R289, R290. -/
def Obligations.BanksStreamsAndUpdates : Prop :=
  (∀ (s : State) (r : BankReq) (rest : List BankReq),
    let b := myBank s
    let k := (b.rr + 1) % 4
    let base := bankBase s.focus.hall (s.focus.elem % 16)
    let after (r : BankReq) (b' : Bank) (i : Instr) : Prop := ∀ v x p, (withBank s fun _ => b').bankDo s.focus.hall (s.focus.elem % 16) r = (v, x, p) →
      exec i s = .next (v.replyTo r x p) ∧ performs (withBank s fun _ => b') v (base + r.boff) r x p
    ((∃ r ∈ b.parked, ¬ parks s r) → exec .bankRequestServe s = .next s) ∧
    ((∀ r ∈ b.parked, parks s r) → Tab.get b.q k [] = r :: rest →
      (parks s r → b.parked.length < 16 → exec .bankRequestServe s = .next (withBank s fun b => { b with q := Tab.put b.q k rest, rr := k, parked := b.parked ++ [r] })) ∧
      (¬ parks s r → after r { b with q := Tab.put b.q k rest, rr := k } .bankRequestServe)) ∧
    ((∀ r ∈ b.parked, parks s r) → exec .parkedReadServe s = .next s) ∧
    (∀ l, b.parked = r :: l → ¬ parks s r → s.focus.idx = 0 → after r { b with parked := l } .parkedReadServe)) ∧
  (∀ (s : State) (slot owner : Nat) (later : List (Nat × Nat)) (w : W64),
    let h := s.focus.hall
    let q := s.focus.elem % 16
    let b := myBank s
    let lo := bankBase h q
    b.mbPend = (slot, owner) :: later → (s.cfg h (mbayOf q) slot).words.find? (fun w => w.extractLsb' 60 4 == 1#4) = some w →
    let port := Tab.get s.net.bufs (16 * h + q) []
    ((∃ p ∈ b.q, p.2 ≠ []) ∨ port ≠ [] → exec .mbankApply s = .next s) ∧
    ((∀ p ∈ b.q, p.2 = []) → port = [] →
      let nb : Bank := { b with mbPend := later, owner := some owner, gsz := (w.extractLsb' 57 3).toNat, gbase := (w.extractLsb' 52 5).toNat, ilv := (w.extractLsb' 49 3).toNat }
      (b.owner = some owner → w.getLsbD 48 = false → exec .mbankApply s = .next (withBank s fun _ => nb)) ∧
      (b.owner = some owner → w.getLsbD 48 = true → b.parked = [] → ∃ v, exec .mbankApply s = .next v ∧ myBank v = { nb with tags := [], recency := [], win := [] } ∧
        (∀ a, lo ≤ a → a < lo + 65536 → Memory.byte v.mem.cells a = 0) ∧ (∀ a, ¬ (lo ≤ a ∧ a < lo + 65536) → Memory.byte v.mem.cells a = Memory.byte s.mem.cells a) ∧
        ∀ g, g ∈ v.mem.empties ↔ g ∈ s.mem.empties ∧ ¬ (lo ≤ 16 * g ∧ 16 * g < lo + 65536)) ∧
      (∀ g, b.owner = some g → owner ≠ g → (∃ c < 4, c ≠ slot ∧ mbayOf q ∈ (s.slot h c).liveAt ∧ (s.slot h c).region = some g) →
        ∃ v, exec .mbankApply s = .next v ∧ myBank v = { b with mbPend := later, stopped := setIns b.stopped slot }))) ∧
  (∀ (s : State) (m : MStream) (w : W64),
    let h := s.focus.hall
    let q := s.focus.elem % 16
    let mode := (w.extractLsb' 58 2).toNat
    let esz : Nat := 2 ^ (w.extractLsb' 56 2).toNat
    let o : Int := (w.extractLsb' 25 20).toNat + (m.k : Int) * (w.extractLsb' 12 13).toInt * (esz : Int)
    let inside : Prop := 0 ≤ o ∧ o + esz ≤ (myBank s).groupSize q
    let rco := (w.extractLsb' 49 5).toNat
    let ch := 16 * m.ctx + (w.extractLsb' 45 4).toNat
    let r := exec .mportTokenArrival s
    let strm (v : State) : Option MStream := (v.bank h q).strm
    streamIs s m w →
    (∀ k v p rest, mode < 2 → m.rob = (k, some (v, p)) :: rest →
      (mode = 1 → r = .next (withBank s fun b => { b with strm := some { m with rob := rest } })) ∧
      (mode = 0 → ∀ x, s.takeRoute h (mbayOf q) rco 5 { kind := .data, ctx := BitVec.ofNat 2 m.ctx, poison := p, width := if w.extractLsb' 56 2 = 3 then 0 else 1, payload := v } true = some x → strm x = some m →
        ∃ y, r = .next y ∧ strm y = some { m with rob := rest })) ∧
    (mode = 0 → m.rob = [] → m.ended = false → m.k < m.count → Tab.get (myBank s).chans ch [] = [] →
      (inside → streamTakes s o.toNat m.ctx True → ∃ v, r = .next v ∧ strm v = some { m with k := m.k + 1, rob := [(m.k, none)] } ∧
        streamAsks s v o.toNat { op := match (w.extractLsb' 54 2).toNat with | 0 => .read | 1 => .syncKeep | _ => .syncClr
                                 boff := 0, size := esz, reply := .port h q m.k, ctx := m.ctx }) ∧
      (¬ inside → ∃ v x, r = .next v ∧ strm v = some { m with k := m.k + 1, rob := [(m.k, some (x, true))] })) ∧
    (∀ t rest, mode = 1 → m.rob = [] → m.ended = false → m.k < m.count → Tab.get (myBank s).chans ch [] = t :: rest → t.kind = .data →
      (t.poison = false → inside → streamTakes s o.toNat m.ctx True → ∃ v, r = .next v ∧ strm v = some { m with k := m.k + 1, rob := [(m.k, none)] } ∧ Tab.get (v.bank h q).chans ch [] = rest ∧
        streamAsks s v o.toNat { op := if w.extractLsb' 54 2 = 1 then .fillWrite else .write, boff := 0, size := esz, data := leBytes esz t.payload.toNat, reply := .port h q m.k, ctx := m.ctx }) ∧
      (t.poison = true ∨ ¬ inside → r = .next (withBank s fun b => { b with
        chans := Tab.put b.chans ch rest
        strm := some { m with ended := true, fault := if t.poison then .poisonuse else .range, faultIx := m.k } }))) ∧
    (mode < 2 → m.rob = [] → m.ended = true ∨ m.count ≤ m.k → m.eot = false ∨ m.eotSent = true →
      ∀ x, s.takeRoute h (mbayOf q) rco 5 { kind := .done, ctx := BitVec.ofNat 2 m.ctx } true = some x → ∃ y, r = .next y ∧ strm y = none ∧
        ((x.disp h).cmds = (s.disp h).cmds → completes s y h m.ticket m.fault))) ∧
  (∀ (s : State) (m : MStream) (w : W64) (t : Token) (rest : List Token),
    let h := s.focus.hall
    let q := s.focus.elem % 16
    let n := if w.extractLsb' 56 2 = 0 then 16 else 4
    let op := (w.extractLsb' 21 4).toNat
    let anchor := w.extractLsb' 0 12
    let free := w.extractLsb' 54 2 = 0
    let c := t.payload.extractLsb' 32 32
    let val := t.payload.extractLsb' 0 32
    let o := (w.extractLsb' 25 20).toNat + c.toNat * n
    let place := groupPlace (myBank s) q o
    let ch := 16 * m.ctx + (w.extractLsb' 45 4).toNat
    let r := exec .updateToken s
    let took := withBank s fun b => { b with chans := Tab.put b.chans ch rest }
    streamIs s m w → w.extractLsb' 58 2 = 3 → m.ended = false → Tab.get (myBank s).chans ch [] = t :: rest → t.kind = .data →
    (t.width ≠ 2 → r = .next (took.reportElem .cfg h (mbayOf q) t.ctx.toNat t)) ∧
    (t.width = 2 → (c = 0xFFFFFFFF ∨ (myBank s).groupSize q < o + n) → r = .next (took.logOnce .range { hall := h, elem := mbayOf q, eclass := 0, ctx := m.ctx })) ∧
    (t.width = 2 → c ≠ 0xFFFFFFFF → o + n ≤ (myBank s).groupSize q →
      let e : WinEnt := if op = 9 ∨ op = 10 then { boff := place.2, ctx := m.ctx, op := op, anch := anchor, sum := (contrAlone anchor op val.toNat t.poison).1, flags := (contrAlone anchor op val.toNat t.poison).2 }
        else { boff := place.2, ctx := m.ctx, op := op, w := val }
      (free → place.1 = q → (t.poison = false ∨ op = 9 ∨ op = 10) →
        ((∀ x ∈ (myBank s).win, x.boff ≠ place.2) → (myBank s).win.length < 32 →
          r = .next (withBank s fun b => { b with chans := Tab.put b.chans ch rest, win := b.win ++ [e] })) ∧
        (∀ x, (myBank s).win = [x] → x.boff = place.2 → x.op = op → x.anch = e.anch →
          r = .next (withBank s fun b => { b with
            chans := Tab.put b.chans ch rest
            win := [if op = 9 ∨ op = 10 then { x with sum := x.sum + e.sum, flags := x.flags ||| e.flags } else { x with w := BitVec.ofNat 32 (updVal op 4 x.w.toNat val.toNat) }] }))) ∧
      (free → place.1 = q → t.poison = true → op ≠ 9 → op ≠ 10 → r = .next (took.markPois (granules (bankBase h q + place.2) n))) ∧
      (place.1 ≠ q ∨ ¬ free → streamTakes s o m.ctx (¬ free) → ∃ v, r = .next v ∧ Tab.get (v.bank h q).chans ch [] = rest ∧
        streamAsks s v o { op := .update op anchor (decide free), boff := 0, size := n, data := leBytes 4 val.toNat, poison := t.poison, reply := .drop, ctx := m.ctx }))) ∧
  (∀ (s : State) (e : WinEnt), (myBank s).win[s.focus.idx]? = some e →
    let place := bankBase s.focus.hall (s.focus.elem % 16) + e.boff
    let s1 := withBank s fun b => { b with win := b.win.erase e }
    (e.op ≠ 9 → e.op ≠ 10 → ∀ a w, s1.bankRead place 4 = a → a.logs = [] → a.cause = .none → a.poison = false → a.s.bankWrite place (leBytes 4 (updVal e.op 4 (leNat a.bytes) e.w.toNat)) = w → w.logs = [] → e.op ≠ 12 →
      exec .updateWindowExpiry s = .next w.s) ∧
    (e.op = 9 ∨ e.op = 10 → ∀ a w, s1.bankRead place 16 = a → a.logs = [] → a.s.bankWrite place (leBytes 16 (enterMerged (cellOf a.bytes a.poison) e).toNat) = w → w.logs = [] →
      exec .updateWindowExpiry s = .next w.s))

namespace Sys2Proof.Claims

/-- R264: the word at the head of the focused context's control channel, in a gallery context that works. -/
def wordHead (s : State) (w : W64) (t : Token) (rest : List Token) : Prop :=
  let c := (s.gal s.focus.hall).ctx s.focus.ctx
  c.words = t :: rest ∧ t.kind = .data ∧ t.width = 0 ∧ t.poison = false ∧ t.payload = w ∧ c.stopped = false ∧ c.claim = none ∧
    s.halted s.focus.hall 80 s.focus.ctx = false

/-- The focused context of the gallery changes. -/
def onGctx (f : GCtx → GCtx) (s : State) : State :=
  let g := s.gal s.focus.hall
  s.setGal s.focus.hall (g.setCtx s.focus.ctx (f (g.ctx s.focus.ctx)))

/-- The focused context stops at a word; the word has left, and nothing else of the context changes. -/
def stopsAt (s : State) (r : Res) (rest : List Token) : Prop :=
  ∃ v, r = .next v ∧ v.gal s.focus.hall = (onGctx (fun c => { c with words := rest, stopped := true }) s).gal s.focus.hall

/-- R271, R275: what the focused context holds, as the checks see it. -/
def slotHeld (s : State) (n : Nat) : Prop :=
  let g := s.gal s.focus.hall
  (Tab.get g.slots n {}).held = some s.focus.ctx ∧ ∀ m a, GEnt.release m a ∈ (g.ctx s.focus.ctx).queue → m.getLsbD n = false
def quarterHeld (s : State) (q : Nat) : Prop :=
  let g := s.gal s.focus.hall
  Tab.find g.quarters q = some s.focus.ctx ∧ ∀ m a, GEnt.release m a ∈ (g.ctx s.focus.ctx).queue → a.getLsbD q = false
def rowsHeld (s : State) (row0 n : Nat) : Prop := ∀ i < n, quarterHeld s ((row0 + i) / 64)

/-- R273: a B binding that a format admits. -/
def bindable (s : State) (b : Nat) (fmt : BitVec 4) : Prop :=
  if fmt = 6 ∨ fmt = 7 then b % 2 = 0 ∧ slotHeld s b ∧ slotHeld s (b + 1) else slotHeld s b

/-- R266: the most rows of an A slot under a format. -/
def rowsFor (fmt : BitVec 4) : Nat := if fmt = 4 then 256 else if fmt = 6 ∨ fmt = 7 then 128 else 248

/-- R268: a shape grant. -/
def grantOf (req max g : Nat) : Nat := if req = 0 then 0 else if req ≤ max then req else max / g * g

end Sys2Proof.Claims

open Sys2Proof.Claims

/-- R264, R268–R282. -/
def Obligations.GalleryControlWords : Prop :=
  ∀ (s : State) (t : Token) (rest : List Token),
    let c := (s.gal s.focus.hall).ctx s.focus.ctx
    let g := s.gal s.focus.hall
    let fits (w : W64) : Prop := wordHead s w t rest ∧ c.queue.length < 32
    let full (w : W64) (i : Instr) : Prop := wordHead s w t rest → 32 ≤ c.queue.length → exec i s = .next s
    let sets (w : W64) (i : Instr) (f : GCtx → GCtx) : Prop := full w i ∧ (fits w → exec i s = .next (onGctx (fun c => { f c with words := rest }) s))
    let queues (w : W64) (i : Instr) (e : GEnt) : Prop := full w i ∧ (fits w → exec i s = .next (onGctx (fun c => { c with words := rest, queue := c.queue ++ [e] }) s))
    (∀ (mask : BitVec 32) (accm : BitVec 4),
      full (0#4 ++ mask ++ accm ++ 0#24) (.gclaim mask accm) ∧ (fits (0#4 ++ mask ++ accm ++ 0#24) →
        exec (.gclaim mask accm) s = .next (s.setGal s.focus.hall ({ g with claimSeq := g.claimSeq + 1 }.setCtx s.focus.ctx { c with words := rest, claim := some (mask, accm, g.claimSeq), claimImg := decide (t.chan ≠ 15) }))) ∧
      queues (1#4 ++ mask ++ accm ++ 0#24) (.grelease mask accm) (.release mask accm)) ∧
    (∀ slot : BitVec 5, full (2#4 ++ 0#1 ++ slot ++ 0#54) (.gbslotB slot) ∧ (fits (2#4 ++ 0#1 ++ slot ++ 0#54) →
      (bindable s slot.toNat c.bfmt → exec (.gbslotB slot) s = .next (onGctx (fun c => { c with words := rest, bslot := some slot.toNat }) s)) ∧
      (¬ bindable s slot.toNat c.bfmt → stopsAt s (exec (.gbslotB slot) s) rest))) ∧
    (∀ (slot : BitVec 5) (rows : BitVec 9) (arow0 : BitVec 8) (keep : BitVec 1),
      let w : W64 := 2#4 ++ 1#1 ++ slot ++ rows ++ arow0 ++ keep ++ 0#36
      let i := Instr.gbslotA slot rows arow0 keep
      let mx : Prop := c.afmt ≠ 6 ∧ c.afmt ≠ 7
      let good (b : Nat) : Prop := slotHeld s slot.toNat ∧ bindable s b c.bfmt ∧ (mx → c.scale ≠ none) ∧ (∀ n o, c.scale = some (n, o) → slotHeld s n) ∧ rows.toNat ≤ rowsFor c.afmt ∧
        arow0.toNat + rows.toNat ≤ 256 ∧ rowsHeld s arow0.toNat rows.toNat
      (∀ b, c.bslot = some b → good b → queues w i (.a slot.toNat rows.toNat arow0.toNat (decide (keep = 1)) c.k c.n c.afmt c.bfmt c.anchor b c.scale 0)) ∧ full w i ∧
      (fits w → (c.bslot = none ∨ ∃ b, c.bslot = some b ∧ ¬ good b) → stopsAt s (exec i s) rest)) ∧
    (∀ kreq nreq : BitVec 9, sets (3#4 ++ kreq ++ nreq ++ 0#42) (.gshape kreq nreq) fun c =>
      { c with k := grantOf kreq.toNat 256 32, n := grantOf nreq.toNat (if Config.binned (s.focus.hall / 16) then 192 else 256) 16 }) ∧
    (∀ a : BitVec 12, sets (4#4 ++ a ++ 0#48) (.ganchor a) fun c => { c with anchor := a }) ∧
    (∀ (row0 : BitVec 8) (n : BitVec 9), let w : W64 := 5#4 ++ row0 ++ n ++ 0#43
      (rowsHeld s row0.toNat n.toNat → queues w (.gclear row0 n) (.clear row0.toNat n.toNat)) ∧
      (fits w → ¬ rowsHeld s row0.toNat n.toNat → stopsAt s (exec (.gclear row0 n) s) rest)) ∧
    (∀ (fmt rm : BitVec 3) (clr : BitVec 1), sets (6#4 ++ fmt ++ rm ++ clr ++ 0#53) (.grdfmt fmt rm clr) fun c => { c with rfmt := fmt, rm := rm, rclr := decide (clr = 1) }) ∧
    (∀ (row0 : BitVec 8) (n : BitVec 9) (dmask tag : BitVec 16),
      let w : W64 := 7#4 ++ row0 ++ n ++ dmask ++ tag ++ 0#11
      let mask := c.steer.getD dmask
      let routes := ((List.range 16).filter fun i => mask.getLsbD i).map fun i => (i, Tab.get c.routes i 0)
      let good : Prop := rowsHeld s row0.toNat n.toNat ∧ ∀ p ∈ routes, p.2.extractLsb' 54 2 ≠ 0
      (fits w → good → exec (.gdrain row0 n dmask tag) s = .next (onGctx (fun c => { c with
        words := rest
        steer := none
        queue := c.queue ++ [.drain row0.toNat n.toNat mask tag c.n c.rfmt c.rm c.rclr routes t] }) s)) ∧ full w (.gdrain row0 n dmask tag) ∧
      (fits w → ¬ good → stopsAt s (exec (.gdrain row0 n dmask tag) s) rest)) ∧
    (∀ m : BitVec 16, sets (8#4 ++ m ++ 0#44) (.gsteer m) fun c => { c with steer := some m }) ∧
    (∀ (e : BitVec 4) (gk : BitVec 2) (lrow : BitVec 3) (ochan : BitVec 4) (eot : BitVec 1) (q : BitVec 4) (goff : BitVec 20) (rstr : BitVec 13),
      let w : W64 := 9#4 ++ e ++ gk ++ lrow ++ ochan ++ eot ++ q ++ goff ++ rstr ++ 0#9
      let i := Instr.groute e gk lrow ochan eot q goff rstr
      (gk ≠ 2 ∨ hallBeside s.focus.hall 1 ≠ none → sets w i fun c => { c with routes := Tab.put c.routes e.toNat w }) ∧
      (fits w → gk = 2 → hallBeside s.focus.hall 1 = none → stopsAt s (exec i s) rest)) ∧
    (∀ af bf : BitVec 4, sets (10#4 ++ af ++ bf ++ 0#52) (.gfmt af bf) fun c => { c with afmt := af, bfmt := bf }) ∧
    (∀ n o : BitVec 5, sets (11#4 ++ n ++ o ++ 0#50) (.gscale n o) fun c => { c with scale := some (n.toNat, 2048 * o.toNat) }) ∧
    (∀ (e : BitVec 4) (tag : BitVec 16), queues (12#4 ++ e ++ tag ++ 0#40) (.gfence e tag) (.fence (some e.toNat) tag t)) ∧
    (∀ (e : BitVec 4) (sel clr : BitVec 1), queues (13#4 ++ e ++ sel ++ clr ++ 0#54) (.gstatus e sel clr) (.status e.toNat (decide (sel = 1)) (decide (clr = 1)) t))

namespace Sys2Proof.Claims

/-- R280: the values of a drained row as beats: at most sixteen a vector, then a stop of level 0. -/
def rowOut (ctx : Nat) (w : W64) (round : BitVec 4) (sz : Nat) (vs : List DVal) : List Token :=
  let base : Token := { kind := .data, ctx := BitVec.ofNat 2 ctx, round := round, chan := w.extractLsb' 47 4 }
  let bytes := (vs.map fun d => leBytes sz d.v).flatten
  let n := (sz * vs.length + 7) / 8
  (List.range n).map (fun i => { base with
    width := 3
    beat := BitVec.ofNat 4 (i % 16)
    level := if i % 16 = 15 ∨ i + 1 = n then 1 else 0
    poison := ((vs.drop (8 * i / sz)).take (8 / sz)).any DVal.pois
    payload := BitVec.ofNat 64 (leNat ((bytes.drop (8 * i)).take 8)) }) ++ [{ base with kind := .stop }]

/-- R280: the link that an entry leads to, west or a bank's row westward. -/
def westEntry (s : State) (e : Nat) (w : W64) : Prop :=
  Tab.get ((s.gal s.focus.hall).ctx s.focus.ctx).routes e 0 = w ∧ (w.extractLsb' 54 2 = 1 ∨ w.extractLsb' 54 2 = 3)
def westLink (s : State) (w : W64) : Nat := lkey s.focus.hall (8 * (w.extractLsb' 51 3).toNat + 7) 1

/-- R275: the entry at the head of the queue of a context that works. -/
def queueHead (s : State) (e : GEnt) (rest : List GEnt) : Prop :=
  let c := (s.gal s.focus.hall).ctx s.focus.ctx
  c.queue = e :: rest ∧ c.stopped = false ∧ s.galHalted s.focus.hall s.focus.ctx = false

end Sys2Proof.Claims

open Sys2Proof.Claims

/-- R263–R282, R410. -/
def Obligations.GalleryWork : Prop :=
  (∀ (s : State) (row : Nat) (t : Token) (rest : List Token), row < 8 →
    let h := s.focus.hall
    let x := t.ctx.toNat
    let r := exec .galleryCrossing s
    let at_ (e d : Nat) : Prop := s.focus.elem = e + row ∧ s.focus.idx % 4 = d ∧ s.link (lkey h (e + row) d) = t :: rest ∧ t.kind ≠ .drain ∧ t.kind ≠ .snapshot
    let k := lkey h (80 + row) 3
    let toPort (g p k : Nat) : Prop := let q := Tab.get (s.disp g).ports (4 * p + x) []
      (64 ≤ q.length → r = .next s) ∧ (q.length < 64 → ∃ v, r = .next v ∧ Tab.get (v.disp g).ports (4 * p + x) [] = q ++ [t] ∧ v.link k = rest)
    let passes (k k' src : Nat) : Prop := k ≠ k' → (linkTakes s k' x src → ∃ v, r = .next v ∧ v.link k' = [t] ∧ v.link k = rest) ∧ (¬ linkTakes s k' x src → r = .next s)
    (at_ 80 3 → s.portClaimed h (40 + row) x = true → toPort h (40 + row) k) ∧
    (at_ 80 3 → s.portClaimed h (40 + row) x = false → t.chan ≠ 15 →
      (hallBeside h 1 = none → ∃ v, r = .next v ∧ v.link k = rest) ∧ (∀ g, hallBeside h 1 = some g → passes k (lkey g (8 * row) 3) 3)) ∧
    (at_ 80 3 → s.portClaimed h (40 + row) x = false → t.chan = 15 → 80 ∈ (s.slot h x).liveAt → s.regionAt h x = none →
      (((s.gal h).ctx x).words = [] → ∃ v, r = .next v ∧ v.link k = rest ∧ (v.gal h).ctx x = { (s.gal h).ctx x with words := [t] }) ∧
      (((s.gal h).ctx x).words ≠ [] → r = .next s)) ∧
    (∀ g, at_ 80 1 → hallBeside h 1 = some g → s.portClaimed g (32 + row) x = false → passes (lkey h (80 + row) 1) (lkey h (8 * row + 7) 1) 1) ∧
    (∀ g, at_ 80 1 → hallBeside h 1 = some g → s.portClaimed g (32 + row) x = true → toPort g (32 + row) (lkey h (80 + row) 1)) ∧
    (at_ 88 (s.focus.idx % 4) → (s.portClaimed h (32 + row) x = true → toPort h (32 + row) (lkey h (88 + row) (s.focus.idx % 4))) ∧
      (s.portClaimed h (32 + row) x = false → ∃ v, r = .next v ∧ v.link (lkey h (88 + row) (s.focus.idx % 4)) = rest))) ∧
  (∀ (s : State) (t : Token) (rest : List Token),
    let c := (s.gal s.focus.hall).ctx s.focus.ctx
    let r := exec .galleryMarker s
    let ctxAfter (d : GCtx) : Prop := ∃ v, r = .next v ∧ (v.gal s.focus.hall).ctx s.focus.ctx = d
    let sub (l : Nat) : Prop := t.kind = .marker ∧ t.level.toNat = l
    c.words = t :: rest → c.claim = none → s.halted s.focus.hall 80 s.focus.ctx = false →
    (sub 0 → c.queue ≠ [] → r = .next s) ∧ (sub 0 → c.queue = [] → ctxAfter { c with words := rest, steer := none, stopped := false }) ∧
    (c.stopped = true → ¬ sub 0 → r = .next (onGctx (fun c => { c with words := rest }) s)) ∧
    (c.stopped = false → 32 ≤ c.queue.length → r = .next s) ∧
    (c.stopped = false → c.queue.length < 32 → (sub 2 ∨ t.kind = .stop ∨ t.kind = .done ∨ t.kind = .roundEnd → r = .next (onGctx (fun c => { c with words := rest }) s)) ∧
      (sub 3 → ctxAfter { c with words := rest, queue := c.queue ++ [.fence none 0 t] }) ∧
      (t.kind = .data → t.width ≠ 0 → r = .next ((onGctx (fun c => { c with words := rest }) s).reportElem .cfg s.focus.hall 80 t.ctx.toNat t)) ∧
      (t.kind = .data → t.width = 0 → (t.poison = true ∨ ∃ e, decodeGallery t.payload = .error e) → stopsAt s r rest))) ∧
  (∀ (s : State) (mask : BitVec 32) (accm : BitVec 4) (seq : Nat),
    let x := s.focus.ctx
    let g := s.gal s.focus.hall
    let free : Prop := (∀ n < 32, mask.getLsbD n = true → (Tab.get g.slots n {}).held = none ∨ slotHeld s n) ∧ (∀ q < 4, accm.getLsbD q = true → Tab.find g.quarters q = none ∨ quarterHeld s q)
    let r := exec .gclaimGrant s
    (g.ctx x).claim = some (mask, accm, seq) → (∀ y < 4, y ≠ x → (g.ctx y).claim = none) → g.resume = none → s.galHalted s.focus.hall x = false →
    (¬ free → r = .next s) ∧
    (free → ∃ v, r = .next v ∧ let g' := v.gal s.focus.hall
      g'.ctx x = { g.ctx x with claim := none, claimImg := false } ∧
      (∀ n, Tab.get g'.slots n {} = if n < 32 ∧ mask.getLsbD n = true then { Tab.get g.slots n {} with held := some x, present := [] } else Tab.get g.slots n {}) ∧
      (∀ q, Tab.find g'.quarters q = if q < 4 ∧ accm.getLsbD q = true then some x else Tab.find g.quarters q) ∧
      ∀ k, Tab.get g'.acc k 0 = if k / 256 / 64 < 4 ∧ accm.getLsbD (k / 256 / 64) = true then 0 else Tab.get g.acc k 0)) ∧
  (∀ (s : State) (rest : List GEnt),
    let x := s.focus.ctx
    let g := s.gal s.focus.hall
    let c := g.ctx x
    (∀ (mask : BitVec 32) (accm : BitVec 4), queueHead s (.release mask accm) rest → ∃ v, exec .greleaseExecute s = .next v ∧ let g' := v.gal s.focus.hall
      g'.ctx x = { c with queue := rest } ∧ g'.acc = g.acc ∧
      (∀ n, Tab.get g'.slots n {} = if n < 32 ∧ mask.getLsbD n = true ∧ (Tab.get g.slots n {}).held = some x then { Tab.get g.slots n {} with held := none } else Tab.get g.slots n {}) ∧
      ∀ q, Tab.find g'.quarters q = if q < 4 ∧ accm.getLsbD q = true ∧ Tab.find g.quarters q = some x then none else Tab.find g.quarters q) ∧
    (∀ row0 n, queueHead s (.clear row0 n) rest → ∃ v, exec .gclearExecute s = .next v ∧ let g' := v.gal s.focus.hall
      g'.ctx x = { c with queue := rest } ∧ g'.anch = g.anch ∧ ∀ k, Tab.get g'.acc k 0 = if row0 ≤ k / 256 ∧ k / 256 < row0 + n then 0 else Tab.get g.acc k 0) ∧
    (∀ tag word, queueHead s (.fence none tag word) rest → exec .gfenceExecute s = .next (onGctx (fun c => { c with queue := rest }) s)) ∧
    (∀ e tag word w, queueHead s (.fence (some e) tag word) rest → westEntry s e w → linkTakes s (westLink s w) x 5 →
      ∃ v, exec .gfenceExecute s = .next v ∧ (v.gal s.focus.hall).ctx x = { c with queue := rest } ∧
        v.link (westLink s w) = [{ kind := .data, width := 1, ctx := BitVec.ofNat 2 x, round := word.round, chan := w.extractLsb' 47 4, payload := tag.setWidth 64 }]) ∧
    (∀ e sel clr word w, queueHead s (.status e sel clr word) rest → westEntry s e w → linkTakes s (westLink s w) x 5 →
      ∃ v p, exec .gstatusExecute s = .next v ∧ (v.gal s.focus.hall).ctx x = { c with queue := rest, flags := if clr = true ∧ sel = false then 0 else c.flags } ∧
        v.link (westLink s w) = [{ kind := .data, width := 0, ctx := BitVec.ofNat 2 x, round := word.round, chan := w.extractLsb' 47 4, payload := p }] ∧
        (sel = true → ∀ m < 32, (p.getLsbD (32 + m) = true ↔ (Tab.get g.slots m {}).held = some x) ∧ (p.getLsbD m = true ↔ ∀ i < 1024, i ∈ (Tab.get g.slots m {}).present)) ∧
        (sel = false → c.k < 512 → c.n < 512 → rest.length < 32 → (p.extractLsb' 55 9).toNat = c.k ∧ (p.extractLsb' 46 9).toNat = c.n ∧ p.getLsbD 45 = c.rev ∧ (p.extractLsb' 39 6).toNat = rest.length + 1 ∧ p.extractLsb' 33 6 = c.flags ∧
          (∀ q < 4, p.getLsbD (29 + q) = decide (Tab.find g.quarters q = some x)) ∧ p.extractLsb' 0 29 = 0)) ∧
    (∀ e word w, queueHead s (.fence (some e) 0 word) rest → Tab.get c.routes e 0 = w → w.extractLsb' 54 2 = 0 → ∃ v, exec .gfenceExecute s = .next v ∧ ((v.gal s.focus.hall).ctx x).stopped = true) ∧
    (∀ row0 n mask tag nn fmt rm clr w word, queueHead s (.drain row0 n mask tag nn fmt rm clr [(0, w)] word) rest → w.extractLsb' 54 2 = 1 →
      let r := exec .gdrainExecute s
      let sz := if fmt = 1 ∨ fmt = 2 then 2 else 4
      (c.run = none → r = .next (onGctx (fun c => { c with run := some {} }) s)) ∧
      (∀ q, c.run = some q → q.outs = [] → q.reqs = [] → q.cut = false →
        (q.next < n → let vs := (List.range nn).map fun i => g.readOut (row0 + q.next) i fmt rm
          ∃ v, r = .next v ∧ ((v.gal s.focus.hall).ctx x).run = some { q with next := q.next + 1, outs := (rowOut x w word.round sz vs).map (fun t => (0, t)), pois := q.pois || vs.any DVal.pois, inv := q.inv || vs.any DVal.inv } ∧
            ∀ k, Tab.get (v.gal s.focus.hall).acc k 0 = if clr = true ∧ k / 256 = row0 + q.next then 0 else Tab.get g.acc k 0) ∧
        (n ≤ q.next → q.unacked = 0 → q.marked = false →
          let mark : Token := { kind := .marker, level := 2, ctx := BitVec.ofNat 2 x, round := word.round, chan := w.extractLsb' 47 4, payload := BitVec.ofNat 64 (tag.toNat * 2 ^ 48 + row0 * 2 ^ 40 + (n - 1) * 2 ^ 32 + (if q.pois then 2 ^ 31 else 0) + if q.inv then 2 ^ 30 else 0) }
          r = .next (onGctx (fun c => { c with run := some { q with outs := if w.getLsbD 46 then [(0, mark)] else [], marked := true } }) s)) ∧
        (n ≤ q.next → q.unacked = 0 → q.marked = true → r = .next (onGctx (fun c => { c with queue := rest, run := none }) s))) ∧
      (∀ q t l, c.run = some q → q.outs = (0, t) :: l → (∀ p ∈ l, p.1 = 0) → linkTakes s (westLink s w) x 5 →
        Tab.find s.vecOpen (4 * westLink s w + x) = none ∨ (t.width = 3 ∧ t.beat ≠ 0) →
        ∃ v, r = .next v ∧ v.link (westLink s w) = [t] ∧ ((v.gal s.focus.hall).ctx x).run = some { q with outs := l }))) ∧
  (∀ (s : State) (l : OpLine),
    let h := s.focus.hall
    let g := s.gal h
    let y := Tab.get g.slots l.slot {}
    let r := exec .operandLineWrite s
    g.port[s.focus.idx]? = some l →
    (y.held ≠ some l.ctx → ((s.slot h l.ctx).st = .loaded → 80 ∈ (s.slot h l.ctx).liveAt) → (g.ctx l.ctx).claimImg = false → (∀ t ∈ (g.ctx l.ctx).words, t.chan = 15) → ∃ v, r = .next v ∧ (v.gal h).slots = g.slots ∧ (v.gal h).port = g.port.eraseIdx s.focus.idx ∧
      ∀ c ∈ (v.disp h).cmds, c.ticket = l.ticket → c.fault ≠ none) ∧
    (y.held = some l.ctx → y.present = [] → l.ticket ∉ g.refusedLoads → l.ticket ∉ g.lostLoads → l.bytes.length = 64 → Memory.wf y.bytes = true → ∃ v, r = .next v ∧ (v.gal h).port = g.port.eraseIdx s.focus.idx ∧
      let y' := Tab.get (v.gal h).slots l.slot {}
      y'.held = y.held ∧ y'.present = [l.line] ∧ (∀ i < 64, Memory.byte y'.bytes (64 * l.line + i) = l.bytes.getD i 0) ∧
      (∀ a, ¬ (64 * l.line ≤ a ∧ a < 64 * l.line + 64) → Memory.byte y'.bytes a = Memory.byte y.bytes a) ∧
      ∀ k < 4, 4 * l.line + k ∈ y'.pois ↔ l.marks.getLsbD k = true)) ∧
  (∀ (s : State) (slot rows arow0 : Nat) (keep : Bool) (k n : Nat) (af bf : BitVec 4) (anchor : BitVec 12) (bslot : Nat) (scale : Option (Nat × Nat)) (i : Nat) (rest : List GEnt),
    let x := s.focus.ctx
    let g := s.gal s.focus.hall
    let c := g.ctx x
    let m := arow0 + i
    queueHead s (.a slot rows arow0 keep k n af bf anchor bslot scale i) rest →
    (g.rowReady slot i k af bf bslot scale = false → exec .galleryRowFire s = .next s) ∧
    (g.rowReady slot i k af bf bslot scale = true → n ≤ 256 → g.faulty = [] → ∃ v, exec .galleryRowFire s = .next v ∧ let g' := v.gal s.focus.hall
      (∀ col < 256, Tab.get g'.acc (256 * m + col) 0 = if col < n then
          (List.range ((k + 31) / 32)).foldl (fun c b => enterCell c anchor (g.block slot i col b k af bf bslot scale).1 (g.block slot i col b k af bf bslot scale).2) (Tab.get g.acc (256 * m + col) 0)
        else Tab.get g.acc (256 * m + col) 0) ∧
      (∀ j, j / 256 ≠ m → Tab.get g'.acc j 0 = Tab.get g.acc j 0) ∧
      Tab.get g'.anch m 0 = (if k = 0 then Tab.get g.anch m 0 else anchor) ∧
      (g'.ctx x).rows = c.rows + 1 ∧ (g'.ctx x).queue = (if i + 1 = rows then rest else .a slot rows arow0 keep k n af bf anchor bslot scale (i + 1) :: rest) ∧
      (i + 1 = rows → keep = false → (Tab.get g'.slots slot {}).present = [])))

namespace Sys2Proof.Claims

/-- R135: the state with the focused packet taken and its quadruple's number advanced. -/
def taken (s : State) (p : Packet) : State :=
  let t := s.dropPacket s.focus.idx
  let k := quadKey p.shall p.sport p.src p.cls
  { t with arc := { t.arc with rxSeq := Tab.put t.arc.rxSeq k ((Tab.get t.arc.rxSeq k 0 + 1) % 65536) } }

/-- R135, R144: the focused packet is of a type, is the next of its quadruple, and comes from no dead peer. -/
def inTurn (s : State) (p : Packet) (ty : Nat) : Prop :=
  s.arc.inbox[s.focus.idx]? = some p ∧ p.ptype = ty ∧ s.anyDead p.src = false ∧ p.seq = Tab.get s.arc.rxSeq (quadKey p.shall p.sport p.src p.cls) 0

/-- The focused packet has gone and packets have left: those for this package itself, and not for a group, into its own inbox. -/
def posted (s v : State) (qs : List (Bool × Packet)) : Prop :=
  let l := qs.map fun q => (q.1, { q.2 with src := s.arc.pid })
  v.arc.inbox = s.arc.inbox.eraseIdx s.focus.idx ++ (l.filter fun q => q.2.dst == s.arc.pid && !q.1).map Prod.snd ∧
  v.arc.outbox = s.arc.outbox ++ (l.filter fun q => !(q.2.dst == s.arc.pid && !q.1)).map Prod.snd

/-- R133, R137: the answer to a packet, of a type, with a body. -/
def answerTo (p : Packet) (ty : Nat) (b : BitVec 480) : Packet :=
  { ptype := ty, dst := p.src, cls := p.cls, shall := p.shall, sport := p.sport, tag := p.tag, body := b }

/-- R135: the number that the quadruple of a packet expects has advanced. -/
def advanced (s v : State) (p : Packet) : Prop :=
  let k := quadKey p.shall p.sport p.src p.cls
  Tab.get v.arc.rxSeq k 0 = (Tab.get s.arc.rxSeq k 0 + 1) % 65536 ∧ ∀ j, j ≠ k → Tab.get v.arc.rxSeq j 0 = Tab.get s.arc.rxSeq j 0

/-- R131, R135: a packet that a port delivers has not come in before: it is not numbered, or its number is ahead of those taken and none of its
quadruple waits under it. -/
def firstTime (s : State) (p : Packet) : Bool :=
  let num (q : Packet) : Bool := q.ptype == 1 || q.ptype == 2 || q.ptype == 3 || q.ptype == 4 || q.ptype == 7
  let k := quadKey p.shall p.sport p.src p.cls
  !num p || (decide (1024 ≤ (Tab.get s.arc.rxSeq k 0 + 65536 - p.seq - 1) % 65536) &&
    s.arc.inbox.all fun q => !num q || quadKey q.shall q.sport q.src q.cls != k || q.seq != p.seq)

/-- R108: the lines of a packet bear their own check values. -/
def linesGood (p : Packet) : Prop := ∀ l ∈ p.lines, crc32c l.2.2.2 = l.2.2.1

end Sys2Proof.Claims

open Sys2Proof.Claims

/-- R130–R135, R137, R138, R140, R144, R153, R296, R298, R353, R354. -/
def Obligations.ArcadeLinkAndOwner : Prop :=
  (∀ (fseq aseq : Nat) (nak : Bool) (slots : List (BitVec 608)) (cred : BitVec 8), fseq < 4096 → aseq < 4096 → slots.length ≤ 3 →
    let f := makeFlit fseq aseq nak slots cred
    fecCorrect f = (f, false) ∧ flitGood f = true ∧ linkHdr f = { fseq := fseq, aseq := aseq, nak := nak, sv := 2 ^ slots.length - 1, cred := cred.toNat } ∧ flitSlots f = slots) ∧
  (∀ p : Packet, p.ptype < 32 → p.dst < 256 → p.src < 256 → p.cls < 256 → p.seq < 65536 → p.shall < 64 → p.sport < 128 → p.tag < 65536 → p.nl < 16 → p.addr < 2 ^ 50 →
    slotPacket (cmdSlot p) = { p with lines := [], rport := 0 }) ∧
  (∀ (p : Packet) (l : Nat × BitVec 4 × W32 × List Byte), l.1 < 16 → l.2.2.2.length = 64 → slotLine (dataSlot p l) = l) ∧
  (∀ (s : State) (port : Nat) (raw : BitVec 2048) (rest : List (Nat × BitVec 2048)), s.arc.rx = (port, raw) :: rest → port < 16 → (s.aport port).up = true →
    let x := s.aport port
    let f := (fecCorrect raw).1
    let h := linkHdr f
    let r := exec .flitReceive s
    let l := x.part ++ flitSlots f
    (flitGood f = false → ∃ v, r = .next v ∧ v.arc.rx = rest ∧ v.arc.inbox = s.arc.inbox ∧ (v.aport port).nakOut = true ∧ (v.aport port).rseq = x.rseq ∧ (v.aport port).part = x.part) ∧
    (flitGood f = true → ∃ v, r = .next v ∧ v.arc.rx = rest ∧ (v.aport port).acked = (if ∃ e ∈ x.after, e.1 = h.aseq then some h.aseq else x.acked) ∧
      (v.aport port).fixed = (if (fecCorrect raw).2 then min (x.fixed + 1) 65535 else x.fixed) ∧
      (h.fseq = x.rseq → (h.sv ≠ 0 ∨ h.cred ≠ 0) → (v.aport port).rseq = (x.rseq + 1) % 4096 ∧ v.arc.inbox = s.arc.inbox ++ (parseSlots port l.length l).1.filter (firstTime s) ∧
        (v.aport port).part = (parseSlots port l.length l).2 ∧ (v.aport port).credit = x.credit + h.cred ∧ (v.aport port).owed = x.owed + (flitSlots f).length) ∧
      (h.fseq ≠ x.rseq ∨ (h.sv = 0 ∧ h.cred = 0) → (v.aport port).rseq = x.rseq ∧ v.arc.inbox = s.arc.inbox ∧ (v.aport port).part = x.part) ∧
      (h.nak = false → v.arc.tx = s.arc.tx) ∧
      ∀ a b t, h.nak = true → (∃ e ∈ x.after, e.1 = h.aseq) → x.kept = a ++ (h.aseq, b) :: t → (∀ e ∈ a, e.1 ≠ h.aseq) → v.arc.tx = s.arc.tx ++ t.map fun e => (port, e.2))) ∧
  (∀ (s : State) (p k : Nat), s.focus.elem = p → s.focus.idx = k → p < 16 →
    (k < 8 → k ∉ (s.aport p).failed → ∃ v, exec .laneFailure s = .next v ∧ (v.aport p).up = false ∧ (∀ j, j ∈ (v.aport p).failed ↔ j = k ∨ j ∈ (s.aport p).failed) ∧ (∀ q, q ≠ p → v.aport q = s.aport q) ∧
      ((∃ l ∈ (v.aport p).failed, l / 4 = 0) ∧ (∃ l ∈ (v.aport p).failed, l / 4 = 1) → v.arc.outbox = (s.aport p).sent.map (·.2) ++ s.arc.outbox)) ∧
    ((s.aport p).up = false → (∀ half, half < 2 → ∃ l ∈ (s.aport p).failed, l / 4 = half) → exec .portRetrained s = .next s) ∧
    (∀ half, half < 2 → (s.aport p).up = false → (∀ l ∈ (s.aport p).failed, l / 4 ≠ half) →
      ∃ v, exec .portRetrained s = .next v ∧ (v.aport p).up = true ∧ (v.aport p).lanes = (if (s.aport p).failed = [] then 8 else 4) ∧
        v.arc.tx = s.arc.tx ++ (s.aport p).after.map fun e => (p, e.2))) ∧
  (∀ (s : State) (p : Packet), s.arc.inbox[s.focus.idx]? = some p → (p.ptype = 0 ∨ 13 < p.ptype) →
    ∃ v, exec .reservedPacketDiscard s = .next v ∧ posted s v [] ∧ (v.aport p.rport).replays = min ((s.aport p.rport).replays + 1) 65535) ∧
  (∀ (s : State) (p : Packet) (i : Instr) (ty : Nat), (i, ty) ∈ [(Instr.rreq, 1), (.wreq, 2), (.areq, 3), (.cred, 4), (.rdreq, 7)] →
    s.arc.inbox[s.focus.idx]? = some p →
    (p.ptype ≠ ty → exec i s = .next s) ∧
    (p.ptype = ty → s.anyDead p.src = true → ∃ v, exec i s = .next v ∧ posted s v [] ∧ v.mem = s.mem ∧ v.arc.rxSeq = s.arc.rxSeq) ∧
    (p.ptype = ty → s.anyDead p.src = false → p.seq ≠ Tab.get s.arc.rxSeq (quadKey p.shall p.sport p.src p.cls) 0 → exec i s = .next s)) ∧
  (∀ (s : State) (peer akey addr n : Nat) (k : AccKind),
    let e := addr / 65536 % 2 ^ 32
    (65536 < addr % 65536 + n ∨ s.arc.impn.toNat ≤ e → s.admitRange peer akey addr n k = (s, .error .range)) ∧
    (∀ w, addr % 65536 + n ≤ 65536 → e < s.arc.impn.toNat → Tab.find s.arc.impCache e = some w →
      (s.importCheck w peer akey k ≠ .none → s.admitRange peer akey addr n k = (s, .error (s.importCheck w peer akey k))) ∧
      (s.importCheck w peer akey k = .none → s.admitRange peer akey addr n k = (s, .ok ((w.extractLsb' 16 32).toNat * 65536 + addr % 65536, (w.extractLsb' 48 8).toNat))))) ∧
  (∀ (s : State) (p : Packet), inTurn s p 1 →
    let a := (taken s p).admitRange p.src p.akey (p.addr / 64 * 64) (64 * (p.nl + 1)) .read
    (∀ c, a.2 = .error c → ∃ v, exec .rreq s = .next v ∧ advanced s v p ∧ posted s v [(false, { answerTo p 5 (bodyPut 0 0 1 c.code) with addr := p.addr })]) ∧
    (∀ x, a.2 = .ok x → ∃ (v : State) (ls : List (Nat × BitVec 4 × W32 × List Byte)), exec .rreq s = .next v ∧ advanced s v p ∧ posted s v [(false, { answerTo p 5 0 with addr := p.addr, nl := p.nl, lines := ls })] ∧
      ls.length = p.nl + 1 ∧ (∀ (i : Nat) (m : BitVec 4) (c : W32) (b : List Byte), ls[i]? = some (i, m, c, b) → c = crc32c b) ∧ (∀ (i : Nat) (l : Nat × BitVec 4 × W32 × List Byte), ls[i]? = some l → l.1 = i) ∧
      ∀ (m : BitVec 4) (c : W32) (b : List Byte), ls[0]? = some (0, m, c, b) → b = (a.1.edgeRead x.1 64 x.2).bytes ∧ (a.1.checkBad x.1 x.2 = true ∨ (a.1.edgeRead x.1 64 x.2).cause ≠ .none → m = 15))) ∧
  (∀ (s : State) (p : Packet), inTurn s p 2 →
    let n := bodyGet p.body 4 1
    let a := (taken s p).admitRange p.src p.akey p.addr (if n = 0 then 64 * (p.nl + 1) else n) .write
    (∀ c, a.2 = .error c → ∃ v, exec .wreq s = .next v ∧ advanced s v p ∧ v.mem = a.1.mem ∧ posted s v [(false, answerTo p 6 (bodyPut 0 0 1 c.code))]) ∧
    (∀ pa, a.2 = .ok (pa, 0) → p.nl = 0 → spaceOf pa = .hbm → a.1.edgeRefuses pa n 0 = .none → (a.1.keyPair 0).isSome = true → a.1.retiredAt pa = false →
      a.1.mem.lkey = [] → Memory.wf a.1.mem.cells = true → pa % 64 + (if n = 0 then 64 else n) ≤ 64 → (p.line 0).2.2.2.length = 64 →
      ∃ v, exec .wreq s = .next v ∧ advanced s v p ∧ posted s v [(false, answerTo p 6 0)] ∧
        ∀ b, Memory.byte v.mem.cells b = if pa ≤ b ∧ b < pa + (if n = 0 then 64 else n) then (p.line 0).2.2.2.getD (b - pa) 0 else Memory.byte a.1.mem.cells b)) ∧
  (∀ (s : State) (p : Packet), inTurn s p 3 →
    let op := bodyGet p.body 4 1 % 16
    let esz := bodyGet p.body 4 1 / 16 % 4
    let n := if esz = 0 then 16 else if esz = 2 then 4 else 8
    let wrong : Prop := 12 < op ∨ esz = 1 ∨ ((op = 9 ∨ op = 10) ∧ esz ≠ 0) ∨ (op ≠ 9 ∧ op ≠ 10 ∧ esz = 0) ∨ p.addr % n ≠ 0
    let a := (taken s p).admitRange p.src p.akey p.addr n .atomic
    (wrong → ∃ v, exec .areq s = .next v ∧ advanced s v p ∧ v.mem = s.mem ∧ posted s v [(false, answerTo p 6 3)]) ∧
    (¬ wrong → (∀ c, a.2 = .error c → ∃ v, exec .areq s = .next v ∧ advanced s v p ∧ posted s v [(false, answerTo p 6 (bodyPut 0 0 1 c.code))]) ∧
      ∀ x, a.2 = .ok x → let u := a.1.edgeUpdate x.1 n x.2 op (bodyGet p.body 8 8) (bodyGet p.body 24 8) (BitVec.ofNat 12 (bodyGet p.body 6 2)) false
        ∃ v, exec .areq s = .next v ∧ advanced s v p ∧ v.mem = u.s.mem ∧
          posted s v [(false, answerTo p 6 (if u.cause ≠ .none then bodyPut 0 0 1 u.cause.code else if u.poison then 8 else bodyPut 0 8 16 u.old))])) ∧
  (∀ (s : State) (p : Packet), inTurn s p 4 →
    let n := bodyGet p.body 16 4
    let ty := bodyGet p.body 4 1 % 16
    let round := bodyGet p.body 5 1 % 16
    let anchor : BitVec 12 := BitVec.ofNat 12 (bodyGet p.body 6 2)
    let wrong : Prop := 1 < ty ∨ 256 < n ∨ p.addr % 16 ≠ 0
    let a := (taken s p).admitRange p.src p.akey p.addr (max 1 (16 * n)) .atomic
    (wrong → ∃ v, exec .cred s = .next v ∧ advanced s v p ∧ v.mem = s.mem ∧ posted s v [(false, answerTo p 6 3)]) ∧
    (¬ wrong → (∀ c, a.2 = .error c → ∃ v, exec .cred s = .next v ∧ advanced s v p ∧ posted s v [(false, answerTo p 6 (bodyPut 0 0 1 c.code))]) ∧
      ∀ x, a.2 = .ok x → linesGood p →
        let w := credApply a.1 x.1 x.2 (if ty = 0 then 9 else 10) anchor (p.values n) 0
        (bodyGet p.body 8 8 = 0 → ∃ v, exec .cred s = .next v ∧ advanced s v p ∧ v.mem = w.1.mem ∧ posted s v [(false, answerTo p 6 (bodyPut 0 0 1 w.2.code))]) ∧
        (bodyGet p.body 8 8 ≠ 0 → let q := a.1.admitRange p.src p.akey (bodyGet p.body 8 8) 64 .atomic
          (∀ c, q.2 = .error c → ∃ v, exec .cred s = .next v ∧ posted s v [(false, answerTo p 6 (bodyPut 0 0 1 c.code))]) ∧
          (∀ y, q.2 = .ok y → (∀ c, q.1.readRecord { pa := y.1, key := y.2 } round = .error c → ∃ v, exec .cred s = .next v ∧ posted s v [(false, answerTo p 6 (bodyPut 0 0 1 c.code))]) ∧
            ∀ old, q.1.readRecord { pa := y.1, key := y.2 } round = .ok old → (bodyGet p.body 4 1).testBit 4 = true → n = 0 →
              ∃ v, exec .cred s = .next v ∧ v.mem = (q.1.countMember { pa := y.1, key := y.2 } round old).mem ∧ posted s v [(false, answerTo p 6 0)])))) ∧
  (∀ (s : State) (p : Packet), inTurn s p 7 →
    let d1 := bodyGet p.body 8 8
    let d2 := bodyGet p.body 16 8
    let n := d2 % 2 ^ 32 / 64
    let own := if p.src = s.arc.pid then (s.arc.rdfors.find? fun r => r.tag == p.tag).bind (·.own) else none
    let g := gatherLines own p.src p.akey p.addr n (taken s p) 0 none
    0 < n → n ≤ 16 → d2 / 2 ^ 32 / 64 + n < 2 ^ 32 → g.2.1.length = n ∧
    ∃ v q, exec .rdreq s = .next v ∧ advanced s v p ∧
      q.ptype = 8 ∧ q.dst = d1 / 2 ^ 56 % 256 ∧ q.nl = n - 1 ∧ q.lines = g.2.1.mapIdx (fun i l => (i, l.1, l.2.1, l.2.2)) ∧
      bodyGet q.body 0 1 = p.src % 256 ∧ bodyGet q.body 1 1 = bodyGet p.body 4 1 ∧ bodyGet q.body 2 1 = d1 / 2 ^ 32 % 256 ∧ bodyGet q.body 6 2 = p.tag % 65536 ∧
      bodyGet q.body 8 4 = d2 / 2 ^ 32 / 64 ∧ bodyGet q.body 12 4 = d2 / 2 ^ 32 / 64 ∧ bodyGet q.body 16 4 = n ∧
      posted s v ((d1.testBit 55, q) :: (match g.2.2 with
        | none => []
        | some (c, off) => [(false, answerTo p 10 (bodyPut (bodyPut 0 0 1 c.code) 8 8 off))]) ++ [(false, answerTo p 9 0)])) ∧
  (∀ s : State,
    let peer := s.focus.idx % 256
    let tag := s.focus.aux % 65536
    let a := s.admitPeer peer (s.focus.aux / 65536 % 2 ^ 32) (s.focus.val.extractLsb' 0 48).toNat .read
    (∀ c, a.2 = .error c → ∃ v, exec .peerLineRegistration s = .next v ∧ v.arc.invalOut = a.1.arc.invalOut ++ [(peer, tag)] ∧ v.arc.peerReg = a.1.arc.peerReg) ∧
    (∀ x, a.2 = .ok x → ∃ v, exec .peerLineRegistration s = .next v ∧ v.arc.peerReg = a.1.arc.peerReg ++ [(a.1.placeOf x.1 / 64, peer, tag)] ∧ v.arc.invalOut = a.1.arc.invalOut)) ∧
  (∀ (s : State) (n : Nat), n < 16 → s.focus.idx = n → (s.me.watch n).armed = true → (s.me.watch n).peer ≠ none →
    ∃ v, exec .arcadeInvalidation s = .next v ∧ v.me.watch n = { s.me.watch n with armed := false, cause := 5 } ∧ ∀ k, k < 16 → k ≠ n → v.me.watch k = s.me.watch k)

namespace Sys2Proof.Claims

/-- R144: the focused packet is of a type, it answers an outstanding packet, and the hall that sent that has not marked its peer dead. -/
def answers (s : State) (p : Packet) (ty : Nat) (o : Outst) : Prop :=
  s.arc.inbox[s.focus.idx]? = some p ∧ p.ptype = ty ∧ s.isDead o.hall p.src = false ∧ s.arc.outst.find? (fun o => o.tag == p.tag && o.peer == p.src) = some o

/-- R133: the status of an answer. -/
def statusOf (p : Packet) : Nat := bodyGet p.body 0 1

/-- R138: the bytes an answered line gives from an offset, and whether they are poison. -/
def lineGives (p : Packet) (off n : Nat) (bs : List Byte) (pois : Bool) : Prop :=
  ∃ l, p.lines = [l] ∧ l.1 = 0 ∧ bs = (l.2.2.2.drop off).take n ∧ 0 < n ∧ off + n ≤ 64 ∧ l.2.2.2.length = 64 ∧
    (pois = true ↔ crc32c l.2.2.2 ≠ l.2.2.1 ∨ ∃ g < 4, l.2.1.getLsbD g = true ∧ 16 * g < off + n ∧ off < 16 * g + 16)

end Sys2Proof.Claims

open Sys2Proof.Claims

/-- R133, R137, R138, R142–R144. -/
def Obligations.ArcadeAnswersAndDeadPeers : Prop :=
  (∀ (s : State) (p : Packet) (i : Instr) (ty : Nat),
    (i, ty) ∈ [(Instr.rresp, 5), (.wack, 6), (.rdwr, 8), (.rdsent, 9), (.rdflt, 10), (.rdack, 11), (.gack, 12), (.wabort, 13)] → s.arc.inbox[s.focus.idx]? = some p →
    (p.ptype ≠ ty → exec i s = .next s) ∧
    (p.ptype = ty → ((ty = 8 ∨ ty = 13) ∧ s.anyDead p.src = true) ∨ ((ty ≠ 8 ∧ ty ≠ 13) ∧ ∃ o, s.arc.outst.find? (fun o => o.tag == p.tag && o.peer == p.src) = some o ∧ s.isDead o.hall p.src = true) →
      ∃ v, exec i s = .next v ∧ posted s v [] ∧ v.mem = s.mem ∧ v.threads = s.threads ∧ v.arc.outst = s.arc.outst)) ∧
  (∀ (s : State) (p : Packet) (i : Instr) (ty : Nat), (i, ty) ∈ [(Instr.rresp, 5), (.wack, 6)] → s.arc.inbox[s.focus.idx]? = some p → p.ptype = ty →
    s.arc.outst.find? (fun o => o.tag == p.tag && o.peer == p.src) = none → ∃ v, exec i s = .next v ∧ posted s v [] ∧ v.mem = s.mem ∧ v.threads = s.threads ∧ v.stairs = s.stairs ∧ v.disps = s.disps) ∧
  (∀ (s : State) (p : Packet) (o : Outst), answers s p 5 o → ∃ v, exec .rresp s = .next v ∧ posted s v [] ∧ v.arc.outst = s.arc.outst.erase o) ∧
  (∀ (s : State) (p : Packet) (o : Outst) (h x off n : Nat) (bs : List Byte) (pois : Bool), answers s p 5 o → o.who = .thread h x off n → (s.thr h x).parked = true → (s.thr h x).ir = none →
    (statusOf p = 0 → lineGives p off n bs pois → ∃ v r, exec .rresp s = .next v ∧ (v.thr h x).served = some r ∧ r.poison = pois ∧ (pois = false → n ≤ 8 → r.v = BitVec.ofNat 64 (leNat bs))) ∧
    (statusOf p ≠ 0 → ∃ v r, exec .rresp s = .next v ∧ (v.thr h x).served = some r ∧ r.poison = true)) ∧
  (∀ (s : State) (p : Packet) (o : Outst) (h x d off n : Nat) (bs : List Byte), answers s p 5 o → o.who = .load h x d off n false → d ∈ (s.thr h x).loads → 0 < d → d < 32 → statusOf p = 0 → lineGives p off n bs false → n ≤ 8 →
    ∃ v, exec .rresp s = .next v ∧ (v.thr h x).rx (BitVec.ofNat 5 d) = { v := BitVec.ofNat 64 (leNat bs) } ∧ (v.thr h x).loads = (s.thr h x).loads.erase d) ∧
  (∀ (s : State) (p : Packet) (o : Outst) (h n : Nat) (e : Elem) (q : Piece) (bs : List Byte) (pois : Bool), answers s p 5 o → o.who = .stairRead h n →
    (s.stair h n).out = [.el e] → (s.stair h n).auxq = [] → e.ps = [q] → e.kind = .read → e.aux = false → q.tag = some o.tag → q.got = none →
    (statusOf p = 0 → lineGives p (q.pa % 64) q.len bs pois → ∃ v, exec .rresp s = .next v ∧ (v.stair h n).out = [.el { e with ps := [{ q with got := some (bs, pois) }] }]) ∧
    (statusOf p ≠ 0 → 0 < q.len → ∃ v cs, exec .rresp s = .next v ∧ (v.stair h n).out = [.el { e with ps := [{ q with got := some (cs, true) }] }])) ∧
  (∀ (s : State) (p : Packet) (o : Outst) (h t : Nat) (k : DCmd) (b : CBuf) (q : Piece) (bs : List Byte) (pois : Bool), answers s p 5 o → o.who = .cmd h t →
    (s.disp h).cmds.find? (fun k => k.ticket == t) = some k → k.buf = [b] → b.ps = [q] → q.tag = some o.tag →
    (statusOf p = 0 → lineGives p (q.pa % 64) q.len bs pois → ∃ v k' b', exec .rresp s = .next v ∧ (v.disp h).cmds.find? (fun k => k.ticket == t) = some k' ∧
      k'.buf = [b'] ∧ b'.ix = b.ix ∧ b'.ps = [{ q with got := some (bs, pois) }]) ∧
    (statusOf p ≠ 0 → ∃ v k' b' cs, exec .rresp s = .next v ∧ (v.disp h).cmds.find? (fun k => k.ticket == t) = some k' ∧ k'.buf = [b'] ∧ b'.ix = b.ix ∧ b'.ps = [{ q with got := some (cs, true) }] ∧
      (opOf k = 0x12 ∨ opOf k = 0x0A → k.fault = none → Cause.ofCode (statusOf p) ≠ .none → k'.fault = some (Cause.ofCode (statusOf p)) ∧ k'.faultVa = BitVec.ofNat 64 b.va ∧ k'.faultIx = b.ix))) ∧
  (∀ (s : State) (p : Packet) (o : Outst), answers s p 6 o →
    let old := bodyGet p.body 8 16
    let c := Cause.ofCode (statusOf p)
    (∀ h x, o.who = .write h x → ∃ v, exec .wack s = .next v ∧ posted s v [] ∧ v.arc.outst = s.arc.outst.erase o ∧
      v.thr h x = if (s.thr h x).parked then { s.thr h x with served := some { v := BitVec.ofNat 64 c.code } } else s.thr h x) ∧
    (∀ h x n, o.who = .amo h x n → (s.thr h x).parked = true → ∃ v r, exec .wack s = .next v ∧ v.arc.outst = s.arc.outst.erase o ∧ (v.thr h x).served = some r ∧
      r.poison = decide (c ≠ .none) ∧ (c = .none → n ≤ 8 → r.v = BitVec.ofNat 64 (old % 2 ^ (8 * n)))) ∧
    (∀ h n es, o.who = .stairWrite h n → Tab.find (s.stair h n).remw o.tag = some es → c = .none →
      ∃ v, exec .wack s = .next v ∧ (v.stair h n).unacked = (s.stair h n).unacked - 1 ∧ (v.stair h n).remw = Tab.del (s.stair h n).remw o.tag) ∧
    (∀ h t k, o.who = .cmd h t → (s.disp h).cmds.find? (fun k => k.ticket == t) = some k → ∃ v k', exec .wack s = .next v ∧ (v.disp h).cmds.find? (fun k => k.ticket == t) = some k' ∧
      k'.waitAcks = k.waitAcks - 1 ∧
      (opOf k ≠ 0x09 → k'.buf = k.buf ∧ k'.fault = (if k.fault.isSome ∨ c = .none then k.fault else some c) ∧
        ∀ va ix, Tab.find k.sentW o.tag = some (va, ix) → k.fault = none → c ≠ .none → k'.faultVa = BitVec.ofNat 64 va ∧ k'.faultIx = ix) ∧
      (∀ b q, opOf k = 0x09 → c = .none → k.buf = [b] → b.ps = [q] → q.tag = some o.tag → k'.fault = k.fault ∧ k'.buf = [{ b with ps := [{ q with got := some ((leBytes 16 old).take q.len, false) }] }]))) ∧
  (∀ (s : State) (o : Outst), s.arc.outst[s.focus.idx]? = some o → o.peer < 256 →
    (s.isDead o.hall o.peer = true → exec .sourceTimeout s = .next s) ∧
    (s.isDead o.hall o.peer = false → ∃ v, exec .sourceTimeout s = .next v ∧ v.isDead o.hall o.peer = true ∧
      (∀ h q, q < 256 → (h ≠ o.hall ∨ q ≠ o.peer) → v.isDead h q = s.isDead h q) ∧ (∀ q ∈ v.arc.outst, ¬ (q.hall = o.hall ∧ q.peer = o.peer)) ∧
      (s.arc.rdfors = [] → v.arc.outst = s.arc.outst.filter fun q => !(q.hall == o.hall && q.peer == o.peer)) ∧
      (∀ h x off n, s.arc.outst = [o] → s.arc.rdfors = [] → s.arc.regOut = [] → o.who = .thread h x off n → (s.thr h x).parked = true → (s.thr h x).ir = none → ∃ r, (v.thr h x).served = some r ∧ r.poison = true))) ∧
  (∀ (s : State) (p : Nat), s.focus.idx = p → p < 256 →
    (s.isDead s.focus.hall p = true ∨ s.anyDead p = false → exec .deadPeerBroadcast s = .next s) ∧
    (s.isDead s.focus.hall p = false → s.anyDead p = true → ∃ v, exec .deadPeerBroadcast s = .next v ∧ v.isDead s.focus.hall p = true ∧
      (∀ h q, q < 256 → (h ≠ s.focus.hall ∨ q ≠ p) → v.isDead h q = s.isDead h q) ∧ ∀ q ∈ v.arc.outst, ¬ (q.hall = s.focus.hall ∧ q.peer = p)))

namespace Sys2Proof.Claims

/-- R154: the status record. -/
def statusRecord (scode who acks : Nat) (pois : Bool) (fmask : Nat) : Nat :=
  2 ^ 127 + (if pois then 2 ^ 126 else 0) + scode * 2 ^ 112 + who * 2 ^ 104 + acks % 2 ^ 32 * 2 ^ 64 + fmask

/-- R153, R155: a `rdfor` has ended: its record is written, its command is complete with its status as fault, and it is held no more. -/
def rdforEnded (s v : State) (r : Rdfor) (scode rec : Nat) : Prop :=
  v.rdfor r.hall r.ticket = none ∧ v.mem = (s.edgeWrite r.stat (leBytes 16 rec) r.statKey).s.mem ∧
  ∀ k, (s.disp r.hall).cmds.find? (fun k => k.ticket == r.ticket) = some k → ∃ k', (v.disp r.hall).cmds.find? (fun k => k.ticket == r.ticket) = some k' ∧
    k'.done = true ∧ k'.fault = if k.fault.isSome then k.fault else if scode = 0 then none else some (Cause.ofCode scode)

/-- R133: the focused packet is of a type, comes from no peer that the hall of this `rdfor` has marked dead, and is about it. -/
def about (s : State) (p : Packet) (ty : Nat) (r : Rdfor) : Prop :=
  s.arc.inbox[s.focus.idx]? = some p ∧ p.ptype = ty ∧ s.isDead r.hall p.src = false ∧ (∀ o, s.arc.outst.find? (fun o => o.tag == p.tag && o.peer == p.src) = some o → o.hall = r.hall) ∧ s.arc.rdfors.find? (fun r => r.tag == p.tag) = some r ∧ s.rdfor r.hall r.ticket = some r

/-- R149: an acknowledgement of a delivery; a group's goes to the switch. -/
def ackOf (s : State) (rq tag st : Nat) (pois : Bool) : Bool × Packet :=
  (((s.arc.rdfors.find? fun r => r.tag == tag && rq == s.arc.pid).map fun r => r.grp).getD false,
    { ptype := 11, dst := rq, tag := tag, body := bodyPut (bodyPut 0 0 1 st) 1 1 (if pois then 1 else 0) })

/-- R149: the end-of-tile marker of a delivery. -/
def tileMarker (ctx rq wid line0 nlines : Nat) (pois abort : Bool) : Token :=
  { kind := .marker, level := 2, ctx := BitVec.ofNat 2 ctx,
    payload := BitVec.ofNat 64 (rq * 2 ^ 56 + wid * 2 ^ 48 + (if pois then 2 ^ 47 else 0) + (if abort then 2 ^ 46 else 0) + line0 % 2 ^ 16 * 2 ^ 16 + nlines % 2 ^ 16) }

end Sys2Proof.Claims

open Sys2Proof.Claims

/-- R133, R147–R150, R153–R156. -/
def Obligations.ThreePartyReadsAndWindows : Prop :=
  (∀ (s : State) (port : BitVec 6) (ctx : BitVec 2) (cls flags : BitVec 8) (imm : BitVec 32) (addr : BitVec 64) (c : DCmd) (s1 s2 : State) (x y : Xlat) (psz psz' : Nat) (w : EWrite),
    commandIs s (commandWord 0x06 port ctx cls flags imm addr) c → c.acted = false → c.fault = none →
    s.cmdXlate c (c.desc.extractLsb' 0 56).toNat .read = .ok s1 x psz → s1.cmdXlate c (c.desc.extractLsb' 192 56).toNat .write = .ok s2 y psz' → y.rem = none → cmdNow s2 = some c →
    s2.focus = s.focus → writesAt s2 y (zeros 16) {} w → cmdTakes s2 c y.pa →
    let owner := x.rem.getD s2.arc.pid
    (s2.quadRoom s.focus.hall c.port owner cls.toNat = false → exec (.rdfor port ctx cls flags imm addr) s = .next s2) ∧
    (s2.quadRoom s.focus.hall c.port owner cls.toNat = true → ∃ v q r k, exec (.rdfor port ctx cls flags imm addr) s = .next v ∧ v.mem = w.s.mem ∧
      (if owner = w.s.arc.pid then v.arc.inbox = w.s.arc.inbox ++ [q] else v.arc.outbox = w.s.arc.outbox ++ [q]) ∧
      q.ptype = 7 ∧ q.dst = owner ∧ q.addr = x.pa ∧ q.cls = cls.toNat ∧ q.tag = w.s.arc.nextTag ∧
      bodyGet q.body 0 4 = (w.s.akeyOf s.focus.hall c.ictx).toNat ∧ bodyGet q.body 4 1 = w.s.kslotOf s.focus.hall c.ictx % 256 ∧
      bodyGet q.body 8 8 = (c.desc.extractLsb' 64 64).toNat ∧ bodyGet q.body 16 8 = (c.desc.extractLsb' 128 64).toNat ∧
      v.arc.rdfors = w.s.arc.rdfors ++ [r] ∧ r.hall = s.focus.hall ∧ r.ticket = c.ticket ∧ r.tag = q.tag ∧ r.stat = y.pa ∧ r.statKey = y.key ∧ r.sent = false ∧ r.ackS = none ∧ r.late = 0 ∧
      cmdNow v = some k ∧ k.acted = true)) ∧
  (∀ (s : State) (port : BitVec 6) (ctx : BitVec 2) (cls flags : BitVec 8) (imm : BitVec 32) (addr : BitVec 64) (c : DCmd) (o x psz : Nat) (s1 : State) (y : Xlat),
    commandIs s (commandWord 0x06 port ctx cls flags imm addr) c → c.acted = false → c.fault = none → s.deadOwner c = some (o, x) →
    s.cmdXlate c (c.desc.extractLsb' 192 56).toNat .write = .ok s1 y psz → s1.focus = s.focus → cmdNow s1 = some c → s1.rdfor s.focus.hall c.ticket = none → y.rem = none →
    ∃ v k, exec (.rdfor port ctx cls flags imm addr) s = .next v ∧ v.mem = (s1.edgeWrite y.pa (leBytes 16 (statusRecord 6 1 0 false 0)) y.key).s.mem ∧ v.rdfor s.focus.hall c.ticket = none ∧
      cmdNow v = some k ∧ k.done = true ∧ k.fault = some .deadpeer ∧ (c.desc.getLsbD 119 = false →
        let m := (c.desc.extractLsb' 120 8).toNat
        m ≠ s1.arc.pid → ∃ q, v.arc.outbox = s1.arc.outbox ++ (if s1.isDead s.focus.hall m then [] else [q]) ∧ q.ptype = 13 ∧ q.dst = m ∧ bodyGet q.body 6 2 = s1.arc.nextTag % 65536)) ∧
  (∀ (s : State) (p : Packet) (i : Instr) (ty : Nat), (i, ty) ∈ [(Instr.rdsent, 9), (.rdflt, 10), (.rdack, 11), (.gack, 12)] → s.arc.inbox[s.focus.idx]? = some p → p.ptype = ty →
    s.arc.rdfors.find? (fun r => r.tag == p.tag) = none → ∃ v, exec i s = .next v ∧ posted s v [] ∧ v.mem = s.mem) ∧
  (∀ (s : State) (p : Packet) (r : Rdfor), about s p 9 r → r.late = 0 → r.statRem = none →
    (r.ackS = none → ∃ v, exec .rdsent s = .next v ∧ v.mem = s.mem ∧ v.rdfor r.hall r.ticket = some { r with sent := true }) ∧
    (∀ a, r.ackS = some a → ∃ v, exec .rdsent s = .next v ∧ rdforEnded s v r (if r.flt ≠ 0 then r.flt else a)
      (statusRecord (if r.flt ≠ 0 then r.flt else a) (if r.flt ≠ 0 then 1 else if a ≠ 0 then 2 else 0) r.acks (r.pois || r.flt != 0) r.fmask.toNat))) ∧
  (∀ (s : State) (p : Packet) (r : Rdfor), about s p 10 r → ∃ v, exec .rdflt s = .next v ∧ v.mem = s.mem ∧ v.rdfor r.hall r.ticket = some { r with flt := statusOf p }) ∧
  (∀ (s : State) (p : Packet) (r : Rdfor), r.late = 0 → r.statRem = none →
    let st1 := statusOf p
    let st2 := bodyGet p.body 10 1
    let p1 := r.pois || bodyGet p.body 1 1 % 2 == 1
    let p2 := r.pois || bodyGet p.body 11 1 % 2 == 1
    let code (st : Nat) : Nat := if r.flt ≠ 0 then r.flt else st
    let who (st : Nat) : Nat := if r.flt ≠ 0 then 1 else if st ≠ 0 then 2 else 0
    (about s p 11 r → r.grp = true → ∃ v, exec .rdack s = .next v ∧ posted s v [] ∧ v.mem = s.mem ∧ v.arc.rdfors = s.arc.rdfors) ∧
    (about s p 12 r → r.grp = false → ∃ v, exec .gack s = .next v ∧ posted s v [] ∧ v.mem = s.mem ∧ v.arc.rdfors = s.arc.rdfors) ∧
    (about s p 11 r → r.grp = false →
      (r.sent = false → ∃ v, exec .rdack s = .next v ∧ v.mem = s.mem ∧
        v.rdfor r.hall r.ticket = some { r with ackS := some st1, acks := if st1 = 0 then 1 else 0, fmask := if st1 = 0 then 0 else 1, pois := p1 }) ∧
      (r.sent = true → ∃ v, exec .rdack s = .next v ∧
        rdforEnded s v r (code st1) (statusRecord (code st1) (who st1) (if st1 = 0 then 1 else 0) (p1 || r.flt != 0) (if st1 = 0 then 0 else 1)))) ∧
    (about s p 12 r → r.grp = true →
      (r.sent = false → ∃ v, exec .gack s = .next v ∧ v.mem = s.mem ∧
        v.rdfor r.hall r.ticket = some { r with ackS := some st2, acks := bodyGet p.body 8 2, fmask := BitVec.ofNat 64 (bodyGet p.body 0 8), pois := p2 }) ∧
      (r.sent = true → ∃ v, exec .gack s = .next v ∧
        rdforEnded s v r (code st2) (statusRecord (code st2) (who st2) (bodyGet p.body 8 2) (p2 || r.flt != 0) (bodyGet p.body 0 8))))) ∧
  (∀ (s : State) (r : Rdfor), s.arc.rdfors = [r] → s.arc.outst = [] → r.hall = s.focus.hall → r.ticket = s.focus.idx → r.statRem = none → r.late = 0 → r.ovr = false → r.owner < 256 → r.rcpt < 256 →
    (r.sent = false → ∃ v, exec .rdforTimeout s = .next v ∧ v.isDead r.hall r.owner = true ∧ rdforEnded s v r 6 (statusRecord 6 1 r.acks (r.pois || r.flt != 0) r.fmask.toNat) ∧
      (r.grp = false → r.rcpt ≠ r.owner → r.rcpt ≠ s.arc.pid → ∃ q, v.arc.outbox = s.arc.outbox ++ (if s.isDead r.hall r.rcpt then [] else [q]) ∧ q.ptype = 13 ∧ q.dst = r.rcpt ∧
        bodyGet q.body 2 1 = r.wid % 256 ∧ bodyGet q.body 6 2 = r.tag % 65536)) ∧
    (r.sent = true → r.ackS = none → r.grp = false → ∃ v, exec .rdforTimeout s = .next v ∧ v.isDead r.hall r.rcpt = true ∧
      rdforEnded s v r (if r.flt ≠ 0 then r.flt else 6) (statusRecord (if r.flt ≠ 0 then r.flt else 6) (if r.flt ≠ 0 then 1 else 2) r.acks (r.pois || r.flt != 0) 1))) ∧
  (∀ (s : State) (port : BitVec 6) (ctx : BitVec 2) (cls flags : BitVec 8) (imm : BitVec 32) (addr : BitVec 64) (c : DCmd), commandIs s (commandWord 0x07 port ctx cls flags imm addr) c →
    let wid := imm.toNat / 2 ^ 24
    let n := imm.toNat % 2 ^ 14 + 1
    (Tab.find s.arc.wins wid ≠ none → exec (.rwin port ctx cls flags imm addr) s = .next (myCmd (closed .window addr) s)) ∧
    (Tab.find s.arc.wins wid = none → ∃ v w k, exec (.rwin port ctx cls flags imm addr) s = .next v ∧ Tab.find v.arc.wins wid = some w ∧ cmdNow v = some k ∧ k.done = true ∧ k.fault = c.fault ∧
      w.pa = c.aux ∧ w.va = addr ∧ w.lines = n ∧ w.adm = imm.toNat / 2 ^ 22 % 4 ∧ w.apeer = imm.toNat / 2 ^ 14 % 256 ∧ w.port = (if flags.getLsbD 2 then some port.toNat else none) ∧ w.ctx = c.ctx ∧ w.cls = cls.toNat ∧
      w.kslot = s.kslotOf s.focus.hall c.ictx ∧ w.closing = false ∧ w.dels = [] ∧ v.mem.cells = s.mem.cells ∧ v.mem.pois = s.mem.pois ∧
      (∀ g, g ∈ v.mem.empties ↔ g ∈ s.mem.empties ∨ ∃ i < 4 * n, g = s.placeOf (c.aux + 16 * i) / 16) ∧ ∀ m, m ≠ wid → Tab.find v.arc.wins m = Tab.find s.arc.wins m)) ∧
  (∀ (s : State) (port : BitVec 6) (ctx : BitVec 2) (cls flags : BitVec 8) (imm : BitVec 32) (addr : BitVec 64) (c : DCmd), commandIs s (commandWord 0x08 port ctx cls flags imm addr) c →
    let wid := imm.toNat / 2 ^ 24
    let r := exec (.rwclose port ctx cls flags imm addr) s
    (Tab.find s.arc.wins wid = none → r = .next (myCmd (closed .none 0) s)) ∧
    (∀ w, Tab.find s.arc.wins wid = some w → w.closer = some (s.focus.hall, c.ticket) →
      (w.dels ≠ [] → ∃ v, r = .next v ∧ Tab.find v.arc.wins wid = some { w with closing := true } ∧ v.disps = s.disps ∧ v.mem = s.mem) ∧
      (w.dels = [] → ∃ v k, r = .next v ∧ Tab.find v.arc.wins wid = none ∧ cmdNow v = some k ∧ k.done = true ∧ v.mem.cells = s.mem.cells ∧
        (w.pfill = false → v.mem = s.mem) ∧
        (w.pfill = true → ∀ i < 4 * w.lines, let g := s.placeOf (w.pa + 16 * i) / 16; g ∉ v.mem.empties ∧ (g ∈ s.mem.empties → g ∈ v.mem.pois))))) ∧
  (∀ (s : State) (p : Packet), s.arc.inbox[s.focus.idx]? = some p → p.ptype = 8 → s.anyDead p.src = false →
    let rq := bodyGet p.body 0 1
    let wid := bodyGet p.body 2 1
    let tag := bodyGet p.body 6 2
    let at_ := bodyGet p.body 8 4
    let first := bodyGet p.body 12 4
    let total := bodyGet p.body 16 4
    let n := p.lines.length
    let refused : Prop := ∃ v, exec .rdwr s = .next v ∧ v.mem = s.mem ∧ posted s v [ackOf s rq tag 5 false] ∧ v.arc.wins = s.arc.wins ∧
      v.arc.discards = s.arc.discards ++ if n < total then [(rq, tag, wid, total - n)] else []
    (∀ x ∈ s.arc.discards, ¬ (x.1 = rq ∧ x.2.1 = tag ∧ x.2.2.1 = wid)) →
    (Tab.find s.arc.wins wid = none → refused) ∧
    (∀ w, Tab.find s.arc.wins wid = some w → (∀ d ∈ w.dels, ¬ (d.rq = rq ∧ d.tag = tag)) →
      let admitted : Prop := w.closing = false ∧ s.windowAdmits w rq = true ∧ w.kslot = bodyGet p.body 1 1 ∧ first + total ≤ w.lines ∧ w.dels.length < 32
      (¬ admitted → refused) ∧
      (∀ l, admitted → (rq, tag, wid) ∉ s.arc.aborts → p.lines = [l] → first ≤ at_ + l.1 → at_ + l.1 < first + total → crc32c l.2.2.2 = l.2.2.1 →
        let a := w.pa + 64 * (at_ + l.1)
        let e := s.edgeWrite a l.2.2.2 0 { fill := true, marks := markedGranules a 64 l.2.1.toNat, cv := some l.2.2.1 }
        let pois := l.2.1 != 0
        (1 < total → ∃ v, exec .rdwr s = .next v ∧ v.mem = e.s.mem ∧ posted s v [] ∧
          Tab.find v.arc.wins wid = some { w with dels := w.dels ++ [{ rq := rq, tag := tag, line0 := first, nlines := total, got := [at_ + l.1], pois := pois }] }) ∧
        (total = 1 → w.port = none → ∃ v, exec .rdwr s = .next v ∧ v.mem = e.s.mem ∧ posted s v [ackOf s rq tag 0 pois] ∧ Tab.find v.arc.wins wid = some w) ∧
        (∀ q, total = 1 → w.port = some q → q < 16 → s.portCut w.hall q (w.ctx % 4) = false → (s.region w.region).state ≠ 3 →
          ∃ v, exec .rdwr s = .next v ∧ v.mem = e.s.mem ∧ posted s v [ackOf s rq tag 0 pois] ∧ (v.stair w.hall q).out = (s.stair w.hall q).out ++ [.tok (tileMarker w.ctx rq wid first 1 pois false) (some 0)])))) ∧
  (∀ (s : State) (p : Packet), s.arc.inbox[s.focus.idx]? = some p → p.ptype = 13 → s.anyDead p.src = false →
    let wid := bodyGet p.body 2 1
    let tag := bodyGet p.body 6 2
    (Tab.find s.arc.wins wid = none → ∃ v, exec .wabort s = .next v ∧ v.mem = s.mem ∧ posted s v []) ∧
    (∀ w, Tab.find s.arc.wins wid = some w → (∀ d ∈ w.dels, ¬ (d.rq = p.src ∧ d.tag = tag)) → ∃ v, exec .wabort s = .next v ∧ v.mem = s.mem ∧ posted s v [] ∧ v.arc.wins = s.arc.wins ∧ v.arc.aborts = s.arc.aborts ++ [(p.src, tag, wid)]) ∧
    (∀ w d, Tab.find s.arc.wins wid = some w → w.dels.find? (fun d => d.rq == p.src && d.tag == tag) = some d → w.closing = false → d.got.length ≤ d.nlines →
      let left (i g : Nat) : Prop := ∃ k, k < d.nlines ∧ d.line0 + k ∉ d.got ∧ i < 4 ∧ g = s.placeOf (w.pa + 64 * (d.line0 + k) + 16 * i) / 16
      let pois := d.pois || d.nlines - d.got.length != 0
      let done (v : State) : Prop := posted s v [ackOf s d.rq d.tag 0 pois] ∧ v.mem.cells = s.mem.cells ∧
        Tab.find v.arc.wins wid = some { w with dels := w.dels.filter fun k => !(k.rq == d.rq && k.tag == d.tag) } ∧
        (∀ g, g ∈ v.mem.pois ↔ g ∈ s.mem.pois ∨ ∃ i, left i g) ∧ ∀ g, g ∈ v.mem.empties ↔ g ∈ s.mem.empties ∧ ∀ i, ¬ left i g
      (w.port = none → ∃ v, exec .wabort s = .next v ∧ done v) ∧
      (∀ q, w.port = some q → q < 16 → s.portCut w.hall q (w.ctx % 4) = false → (s.region w.region).state ≠ 3 →
        ∃ v, exec .wabort s = .next v ∧ done v ∧ (v.stair w.hall q).out = (s.stair w.hall q).out ++ [.tok (tileMarker w.ctx d.rq wid d.line0 d.nlines pois true) (some 0)])))

namespace Sys2Proof.Claims

/-- R382: the conditions of completion of a hall of a region. -/
def hallEnds (s : State) (r h : Nat) : Prop :=
  let g := s.region r
  let slots := g.smap.take g.own.ns
  let live (c : Nat) : Prop := c ∈ slots ∧ (s.slot h c).st = .live
  (∀ c, live c → ∀ p ∈ (s.disp h).sinks, p.1 % 4 = c → p.2.left = 0 ∧ p.2.hit = true) ∧
  (∀ c, live c → ∀ e < 64, ((s.cfg h e c).words.any fun w => w.extractLsb' 58 6 == 0x0C#6) = true → (s.unit h e c).sink = some 0 ∧ (s.unit h e c).sinkHit = true) ∧
  (∀ c ∈ slots, let t := s.thr h c; t.live = false ∨ (t.inWfi = true ∧ t.pl = false ∧ t.dead = false ∧ t.toks = [] ∧ t.reps = [])) ∧
  (∃ c, live c ∧ (s.thr h c).live = true) ∧ (∀ c ∈ (s.disp h).cmds, c.region ≠ some r) ∧
  (∀ c ∈ slots, ((s.gal h).ctx c).queue = [] ∧ (s.slot h c).switchTo = none)

/-- R382: a region completes. -/
def regionEnds (s : State) (r : Nat) : Prop :=
  let g := s.region r
  g.state = 2 ∧ g.stopped = false ∧ g.swap.seq = none ∧ (∀ h ∈ g.halls, hallEnds s r h) ∧ (∀ c ∈ s.regions, c.parent = some r → c.state = 4) ∧ s.performed r = true

end Sys2Proof.Claims

open Sys2Proof.Claims

/-- R65, R184, R361, R363, R365, R367, R369, R376, R377, R382–R384. -/
def Obligations.LaunchingPlacingAndSwitching : Prop :=
  (∀ (s : State) (port : BitVec 6) (ctx : BitVec 2) (cls flags : BitVec 8) (imm : BitVec 32) (addr : BitVec 64) (c : DCmd), commandIs s (commandWord 0x0E port ctx cls flags imm addr) c →
    let h := s.focus.hall
    let p := s.physOf h c.ictx (imm.toNat % 4)
    let x := s.slot h p
    let r := exec (.cfgload port ctx cls flags imm addr) s
    let ready : Prop := ∀ b ∈ c.buf, b.ready = true
    let good := c.buf.filter fun b => !b.pois
    let img := s.parseImage h (good.map CBuf.bytes).flatten
    let refused (off : Nat) : Prop := ∃ v k, r = .next v ∧ v.cfgs = s.cfgs ∧ v.slot h p = { x with st := if c.aux = 1 then .loaded else .empty } ∧
      cmdNow v = some k ∧ k.done = true ∧ k.faultIx = off ∧ (c.fault = none → k.fault = some .cfg)
    (c.acted = false → x.st = .live ∨ x.st = .saving → r = .next (myCmd (closed .cfg addr) s)) ∧
    (c.acted = false → x.st ≠ .live → x.st ≠ .saving → r = .next (myCmd (fun k => { k with acted := true, aux := if x.st = .loaded then 1 else 0 }) (s.setSlot h p { x with st := .empty }))) ∧
    (c.acted = true → ¬ ready → r = .next s) ∧
    (∀ off, c.acted = true → ready → img = .bad off → refused off) ∧
    (∀ off b, c.acted = true → ready → img = .more off → b ∈ c.buf → b.pois = true → refused off) ∧
    (∀ off s1 s2 y0 y a, c.acted = true → ready → img = .more off → (∀ b ∈ c.buf, b.pois = false) →
      let va := addr.toNat + 16 * c.buf.length
      addr.toNat % 16 = 0 → localAt s c va .exec s1 y0 → localAt s1 c va .exec s2 y → readsAt s2 y 16 a →
      r = .next (myCmd (fun k => { k with buf := k.buf ++ [{ ix := c.buf.length, ps := [{ pa := y.pa, key := y.key, len := 16, got := some (a.bytes, a.poison) }], va := va }] }) a.s)) ∧
    (∀ t, c.acted = true → ready → img = .ok t → p < 4 → (∀ q ∈ t, q.1 < 128) → s.shiftOf h c.ictx = (0, 0) →
      ∃ v k, r = .next v ∧ v.slot h p = { x with st := .loaded, imageVa := some addr, shift := (0, 0), liveAt := [] } ∧ cmdNow v = some k ∧ k.done = true ∧ k.fault = c.fault ∧
        (∀ e < 128, v.cfg h e p = Tab.get t e {}) ∧ ∀ k, ¬ (k / 512 = h ∧ k % 4 = p) → Tab.find v.cfgs k = Tab.find s.cfgs k)) ∧
  (∀ (s : State) (k : LaunchTok) (rest : List LaunchTok) (r : Nat),
    let h := s.focus.hall
    let s0 : State := { s with ltoks := Tab.put s.ltoks h rest }
    let g := s.region r
    let va := g.eff.lbase + BitVec.ofNat 64 ((k.tok.payload.extractLsb' 0 32).toNat * 256)
    let w : Launcher := { parent := some r, ctx := some (h, k.ctx), rroot := g.eff.root, x1 := none }
    let gone : Prop := ∃ v, exec .launchToken s = .next v ∧ Tab.get v.ltoks h [] = rest ∧ v.regions.length = s.regions.length ∧ v.pool = s.pool
    Tab.get s.ltoks h [] = k :: rest → s.regionAt h k.ctx = some r →
    (s.ctxStopped h k.ctx = true → exec .launchToken s = .next s) ∧
    (s.ctxStopped h k.ctx = false → va.toNat % 256 ≠ 0 ∨ 2 ^ 56 ≤ va.toNat → gone) ∧
    (s.ctxStopped h k.ctx = false → va.toNat % 256 = 0 → va.toNat < 2 ^ 56 →
      (∀ s1 c l, s0.walk g.eff.root va .read = (s1, .fault c, l) → gone) ∧
      (∀ s1 pte psz l, s0.walk g.eff.root va .read = (s1, .leaf pte psz, l) →
        let a := s1.launchAt w va (.ok (leafXlat pte psz va))
        (a = .full → exec .launchToken s = .next s) ∧ (∀ v c, a = .fault v c → gone) ∧
        ∀ v hdl, a = .ok v hdl → exec .launchToken s = .next v ∧ Tab.get v.ltoks h [] = rest ∧ v.regions.length = s.regions.length + 1 ∧ Tab.find v.pool (hdl % 4096) = some s.regions.length ∧
          let n := v.region s.regions.length
          n.state = 1 ∧ n.parent = some r ∧ n.rcb = va ∧ n.pctx = some (h, k.ctx) ∧ n.hdl = hdl ∧ n.rroot = g.eff.root))) ∧
  (∀ (s : State) (r : Nat), s.queueHead = some r →
    (s.host.pwr ≠ 0 ∨ (s.region r).state ≠ 1 → exec .placement s = .next s) ∧
    (s.host.pwr = 0 → (s.region r).state = 1 → r < s.regions.length →
      (∀ s1 c, s.imageTable r = (s1, .error c) → ∃ v, exec .placement s = .next v ∧ (v.region r).state = 4 ∧ (v.region r).flt = true) ∧
      (∀ s1 table, s.imageTable r = (s1, .ok table) →
        (s1.choosePlace r table = none → exec .placement s = .next s) ∧
        (∀ p, s1.choosePlace r table = some p →
          ((∃ k ∈ s.chainOf (some r), (s.region k).admits (s.region r).own.need = false) → exec .placement s = .next s) ∧
          (∀ s2, (∀ k ∈ s.chainOf (some r), (s.region k).admits (s.region r).own.need = true) → s1.loadImages r p table 0 0 = (s2, .none) →
            ∃ v, exec .placement s = .next v ∧ (v.region r).state = 2 ∧ (v.region r).org = p.org ∧ (v.region r).smap = p.slots ∧ v.regions.length = s.regions.length ∧
              ∀ l < (s.region r).nh, let g := s2.region r
                let h := (v.region r).hallOf l
                let c := (v.region r).phys (((table.getD l []).findIdx? (· != 0)).getD 0)
                let t := v.thr h c
                t.live = true ∧ t.pc = g.own.entry ∧ t.pl = false ∧ t.ie = true ∧ t.rcbva = g.rcb ∧ t.lroot = g.eff.root ∧ t.ebase.toNat = g.eff.fhandler.toNat / 4 * 4 ∧
                  t.rx 1 = { v := g.x1 } ∧ t.rx 2 = { v := g.rcb } ∧ t.rx 3 = { v := BitVec.ofNat 64 g.hdl } ∧ t.rx 4 = { v := BitVec.ofNat 64 l } ∧
                  (v.slot h c).st = .live ∧ (∀ e < 81, e ∈ (v.slot h c).liveAt) ∧ ∀ j ∈ p.slots, (v.slot h j).region = some r))))) ∧
  (∀ (s : State) (tok : Token),
    let h := s.focus.hall
    let e := s.focus.elem
    let x := s.focus.ctx
    let ch := s.focus.idx % 16
    let n := (tok.payload.extractLsb' 0 2).toNat
    let r := exec .switchMarker s
    let live (v : State) (e : Nat) : Prop := e ∈ (v.slot h n).liveAt
    tok.kind = .marker → tok.level = 1 →
    (∀ w rest, e < 64 → bayKind e = .a → bindsChan (s.cfg h e x).handlers ch w → w.getLsbD 61 = false → Tab.get (s.bayCtx h e x).chans ch [] = tok :: rest → (s.bayCtx h e x).task = none → s.halted h e x = false →
      let after := s.setBayCtx h e x ((tookHead (s.bayCtx h e x) ch).refresh (s.cfg h e x).handlers)
      (after.sendToken h e (handlerFwd w) tok = none → r = .next s) ∧ ∀ v, after.sendToken h e (handlerFwd w) tok = some v → ∃ v', r = .next v' ∧ live v' e ∧ v'.links = v.links) ∧
    (∀ m, e < 64 → bayKind e = .s → s.unitRuns = true → s.myMode = m → m ≠ 0x1D → m ≠ 0x10 → (∀ i < unitInputs s.myWords, s.myUnit.head i = some tok) → 0 < unitInputs s.myWords → barrierPending s tok = none →
      (s.sendOuts ((outsInUse s.myWords).map fun k => (k, tok)) = none → r = .next s) ∧
      ∀ v, s.sendOuts ((outsInUse s.myWords).map fun k => (k, tok)) = some v → v.focus = s.focus → ∃ v', r = .next v' ∧ live v' e ∧ v'.links = v.links) ∧
    (∀ m, e < 64 → bayKind e = .m → (s.bank h (quadOf e)).strm = some m → s.strmHead h (quadOf e) m = some tok → s.halted h (mbayOf (quadOf e)) m.ctx = false → m.ctx ∉ (s.bank h (quadOf e)).stopped → m.ended = false →
      let w := s.strmWord h (quadOf e) m
      portMode w ≠ 3 → portMode w ≠ 0 → ((s.strmTake h (quadOf e) m).strmSend h (quadOf e) w tok = none → r = .next s) ∧
      ∀ v, (s.strmTake h (quadOf e) m).strmSend h (quadOf e) w tok = some v → ∃ v', r = .next v' ∧ live v' (mbayOf (quadOf e)) ∧ v'.links = v.links) ∧
    (64 ≤ e → e < 80 → let k := e - 64
      (s.stair h k).head x ch = some tok → (s.stair h k).run = none → (s.stair h k).stop = none → s.halted h (stairElem k) x = false →
      (stDir (s.stWords h k x) ≠ 0 → r = .next (s.setStair h k { (s.stair h k).take x ch with held := (s.stair h k).held ++ [(tok, none)] })) ∧
      (stDir (s.stWords h k x) = 0 → stComm (s.stWords h k x) = false → ∃ v, r = .next v ∧ live v (stairElem k))) ∧
    (∀ rest, e = 80 → ((s.gal h).ctx x).words = tok :: rest → ((s.gal h).ctx x).claim = none → ((s.gal h).ctx x).stopped = false → ((s.gal h).ctx x).full = false → s.halted h 80 x = false → x ≠ n →
      ∃ v, r = .next v ∧ live v 80 ∧ ((v.gal h).ctx x) = { (s.gal h).ctx x with words := rest })) ∧
  (∀ (s : State) (t : Nat),
    let h := s.focus.hall
    let a := s.focus.ctx
    let cs := (s.disp h).sinks.filter fun p => p.1 % 4 == a
    let us := (List.range 64).filter fun e => (s.cfg h e a).words.any fun w => w.extractLsb' 58 6 == 0x0C#6
    let counts : Prop := (∃ c ∈ (s.disp h).cmds, c.word.extractLsb' 120 8 = 0x0F ∧ c.ctx = a)
    let done : Prop := if cs = [] ∧ us = [] then ¬ counts else (∀ p ∈ cs, p.2.switched = true) ∧ ∀ e ∈ us, e ∈ (s.slot h a).sinkReps
    let r := exec .switchCompletion s
    (s.slot h a).switchTo = some t → a < 4 → t < 4 →
    (s.ctxStopped h a = true ∨ ¬ done ∨ (s.thr h a).hmOut ≠ [] → r = .next s) ∧
    (s.ctxStopped h a = false → done → (s.thr h a).hmOut = [] → (t = a → r = .next (s.setSlot h a { s.slot h a with switchTo := none, sinkReps := [] })) ∧
      (t ≠ a → ∃ v, r = .next v ∧ v.slot h a = { s.slot h a with st := .loaded, switchTo := none, liveAt := [], sinkReps := [] } ∧ v.thr h t = s.thr h a ∧ v.thr h a = {} ∧
        (∀ e < 81, e ∈ (v.slot h t).liveAt) ∧ (v.disp h).cmds = (s.disp h).cmds.map (fun c => if c.ictx = a then { c with ictx := t } else c)))) ∧
  (∀ (s : State) (r : Nat), s.focus.idx = r → r < s.regions.length →
    let g := s.region r
    let word := 2 ^ 63 + (if g.flt then 2 ^ 62 + g.fcause.code * 2 ^ 48 else 0) + (if g.lost then 2 ^ 61 else 0) + g.hdl % 2 ^ 32
    (¬ regionEnds s r → exec .regionCompletion s = .next s) ∧
    (regionEnds s r → ∃ v u : State, exec .regionCompletion s = .next v ∧ (v.region r).state = 4 ∧ (v.region r).rcb = g.rcb ∧ (u.region r).rcb = g.rcb ∧ (u.region r).rroot = g.rroot ∧
      v.mem = ((u.rcbWrite r 0xC0 8 word).rcbWrite r 0xD0 4 4).mem ∧
      ∀ h ∈ g.halls, ∀ c ∈ g.smap.take g.own.ns, (v.slot h c).region = none ∧ (v.slot h c).st ≠ .live ∧ v.thr h c = {}))

namespace Sys2Proof.Claims

/-- R398, R400: the save of a region is complete. -/
def saveEnds (s : State) (r : Nat) : Prop :=
  let g := s.region r
  g.state = 2 ∧ g.swap.seq ≠ none ∧ (∀ h ∈ g.halls, h ∈ g.swap.halls) ∧ g.swap.toPlace = [] ∧ s.performed r = true ∧
  (∀ k ∈ g.swap.ctxs, (∀ e < 81, ckey (k / 4) e (k % 4) ∈ g.swap.saved ∧ ∀ i ∈ g.swap.inputs, i / 128 = ckey (k / 4) e (k % 4) → i ∈ g.swap.drained) ∧
    (let t := s.thr (k / 4) (k % 4)
     t.live = false ∨ (t.served = none ∧ t.got = [] ∧ t.hmOut = [] ∧ t.loads = [] ∧ (t.parked = false ∨ (∃ p ∈ g.swap.withdrawn, p.2.ofThread (k / 4) (k % 4) = true) ∨
       ∃ b ∈ s.banks, ∃ q ∈ b.2.parked, q.ofThread (k / 4) (k % 4) = true)))) ∧
  (∀ h ∈ g.halls, ∀ c ∈ (s.disp h).cmds, c.region = some r → c.started = true → (opOf c).toNat ∈ [0x01, 0x04, 0x05, 0x0B, 0x0C, 0x0F, 0x12]) ∧
  s.shadowFits g.swap.ctxs (s.imageLines r) = true

/-- R397: an element of the focus has ended its work and has still to save. -/
def mustSave (s : State) (r : Nat) : Prop :=
  let k := ckey s.focus.hall s.focus.elem s.focus.ctx
  let g := (s.region r).swap
  s.regionAt s.focus.hall s.focus.ctx = some r ∧ s.focus.elem ≤ 80 ∧ k ∈ g.stopped ∧ k ∉ g.saved ∧ s.elemQuiet s.focus.hall s.focus.elem s.focus.ctx = true

/-- R396: the drain of a swap. -/
def drainOf (q : Nat × Nat) (ctx : Nat) : Token := { kind := .drain, ctx := BitVec.ofNat 2 ctx, payload := BitVec.ofNat 64 (q.1 * 2 ^ 56 + q.2) }

end Sys2Proof.Claims

open Sys2Proof.Claims

/-- R372–R375, R378, R395–R402. -/
def Obligations.SwappingAndRestoring : Prop :=
  (∀ (s : State) (port : BitVec 6) (ctx : BitVec 2) (cls flags : BitVec 8) (imm : BitVec 32) (addr : BitVec 64) (c : DCmd), commandIs s (commandWord 0x0D port ctx cls flags imm addr) c →
    let h := s.focus.hall
    let x := s.stair h port.toNat
    let res := exec (.drain port ctx cls flags imm addr) s
    let settled : Prop := 16 ≤ port.toNat ∨ (x.unacked = 0 ∧ x.mrg = none ∧ x.rdfors = 0)
    (port.toNat < 16 → x.mrg ≠ none → res = .next (s.flushMrg h port.toNat)) ∧
    (¬ settled → x.mrg = none → res = .next s) ∧
    (settled → s.regionAt h c.ctx = none → res = .next (myCmd (closed .none 0) s)) ∧
    (∀ r, settled → s.regionAt h c.ctx = some r → r < s.regions.length → c.ctx < 4 →
      let g := s.region r
      ∃ v k, res = .next v ∧ cmdNow v = some k ∧ k.done = true ∧ k.fault = c.fault ∧
        (g.swap.seq = none → g.drainSeq ≠ some (imm.toNat % 2 ^ 16) → (v.region r).swap.seq = some (h, imm.toNat % 2 ^ 16) ∧ (v.region r).drainSeq = some (imm.toNat % 2 ^ 16)) ∧
        (g.swap.seq = none → g.drainSeq = some (imm.toNat % 2 ^ 16) → (v.region r).swap.seq = none) ∧ (g.swap.seq ≠ none → (v.region r).swap.seq = g.swap.seq) ∧
        (g.swap.seq = none → g.drainSeq ≠ some (imm.toNat % 2 ^ 16) → (h, c.ctx) ∈ g.places → (s.slot h c.ctx).st = .live → (v.slot h c.ctx).st = .saving ∧ h ∈ (v.region r).swap.halls))) ∧
  (∀ (s : State) (r : Nat), s.focus.idx = r →
    let h := s.focus.hall
    let g := s.region r
    let ok : Prop := r < s.regions.length ∧ g.state = 2 ∧ h ∈ g.halls ∧ h ∉ g.swap.halls
    (¬ ok ∨ (g.swap.seq = none ∧ s.victim ≠ some r) → exec .swapStart s = .next s) ∧
    (ok → g.swap.seq ≠ none → ∃ v, exec .swapStart s = .next v ∧ (v.region r).swap.seq = g.swap.seq ∧ h ∈ (v.region r).swap.halls ∧ v.swapCount = s.swapCount ∧
      ∀ k ∈ g.swap.ctxs, k / 4 = h → (v.slot h (k % 4)).st = .saving ∧ (v.thr h (k % 4)).inWfi = false ∧ (v.thr h (k % 4)).inWait = 0 ∧ (v.thr h (k % 4)).mwD = none) ∧
    (ok → g.swap.seq = none → s.victim = some r → ∃ v, exec .swapStart s = .next v ∧ (v.region r).swap.seq = some (g.hallOf 0, s.swapCount) ∧ h ∈ (v.region r).swap.halls ∧
      v.swapCount = (s.swapCount + 1) % 2 ^ 16 ∧ ∀ c < 4, (h, c) ∈ g.places → (s.slot h c).st = .live → (v.slot h c).st = .saving)) ∧
  (∀ (s : State) (t : Token) (rest : List Token), (∀ r, ¬ mustSave s r) →
    let h := s.focus.hall
    let e := s.focus.elem
    let d := s.focus.idx
    let x := t.ctx.toNat
    let k := lkey h e d
    s.focus.idx < 4 → s.link k = t :: rest → t.kind = .drain →
    (e < 80 → s.regionAt h x = none → ∃ v, exec .drainArrival s = .next v ∧ v.link k = rest ∧ ∀ j, j ≠ k → v.link j = s.link j) ∧
    (∀ r, e < 80 → s.regionAt h x = some r → r < s.regions.length → (s.region r).swap.seq ≠ none → inKey h e x d ∈ (s.region r).swap.inputs → inKey h e x d ∉ (s.region r).swap.drained →
      let g := (s.region r).swap
      (s.passesOnly h e x = false → ∃ v, exec .drainArrival s = .next v ∧ v.link k = rest ∧ (∀ j, j ≠ k → v.link j = s.link j) ∧
        (∀ i, i ∈ (v.region r).swap.drained ↔ i = inKey h e x d ∨ i ∈ g.drained) ∧ ∀ i, i ∈ (v.region r).swap.stopped ↔ i = ckey h e x ∨ i ∈ g.stopped) ∧
      (s.passesOnly h e x = true → (∀ i ∈ g.inputs, i / 128 = ckey h e x → i = inKey h e x d ∨ i ∈ g.drained) → ∃ v, exec .drainArrival s = .next v ∧
        ckey h e x ∈ (v.region r).swap.saved ∧ ckey h e x ∈ (v.region r).swap.stopped)) ∧
    (∀ row, row < 8 → e = 80 + row → d = 3 → s.regionAt h x = none →
      (hallBeside h 1 = none → ∃ v, exec .drainArrival s = .next v ∧ v.link k = rest) ∧
      (∀ g, hallBeside h 1 = some g → s.portClaimed h (40 + row) x = false → lkey g (8 * row) 3 ≠ k → ∃ v, exec .drainArrival s = .next v ∧ v.link k = rest ∧
        v.link (lkey g (8 * row) 3) = s.link (lkey g (8 * row) 3) ++ [t]))) ∧
  (∀ (s : State) (r : Nat), mustSave s r → r < s.regions.length →
    let h := s.focus.hall
    let e := s.focus.elem
    let c := s.focus.ctx
    ∃ v, exec .drainArrival s = .next v ∧ (∀ i, i ∈ (v.region r).swap.saved ↔ i = ckey h e c ∨ i ∈ (s.region r).swap.saved) ∧
      ∀ l ∈ s.elemLinks h e c, 4 * l + c ∉ (s.region r).swap.sent → v.link l = s.link l ++ [drainOf ((s.region r).swap.seq.getD (0, 0)) c] ∧ 4 * l + c ∈ (v.region r).swap.sent) ∧
  (∀ (s : State) (r p : Nat), ¬ mustSave s r → s.regionAt s.focus.hall s.focus.ctx = some r → r < s.regions.length → p < 64 → s.focus.idx = 4 + p → portElem p = s.focus.elem →
    let key := 4 * (64 * s.focus.hall + p) + s.focus.ctx
    let g := (s.region r).swap
    (key ∉ g.toPlace ∨ s.portSends s.focus.hall p s.focus.ctx = true → exec .drainArrival s = .next s) ∧
    (key ∈ g.toPlace → s.portSends s.focus.hall p s.focus.ctx = false → p < 16 → (s.stair s.focus.hall p).mrg = none → 0 < (s.stair s.focus.hall p).unacked ∨ 0 < (s.stair s.focus.hall p).rdfors → exec .drainArrival s = .next s) ∧
    (key ∈ g.toPlace → g.seq ≠ none → s.portSends s.focus.hall p s.focus.ctx = false → s.stairOwes s.focus.hall p = false → ∃ v, exec .drainArrival s = .next v ∧ key ∉ (v.region r).swap.toPlace ∧
      (inKey s.focus.hall s.focus.elem s.focus.ctx (4 + p) ∈ g.inputs → inKey s.focus.hall s.focus.elem s.focus.ctx (4 + p) ∈ (v.region r).swap.drained ∧
        ckey s.focus.hall s.focus.elem s.focus.ctx ∈ (v.region r).swap.stopped))) ∧
  (∀ (s : State) (r : Nat), s.focus.idx = r → r < s.regions.length →
    let g := s.region r
    (¬ saveEnds s r → exec .saveComplete s = .next s) ∧
    (saveEnds s r → ∃ v sv, exec .saveComplete s = .next v ∧ (v.region r).state = 3 ∧ (v.region r).swap.seq = none ∧ v.saved = s.saved ++ [sv] ∧ sv.region = r ∧ sv.halls = g.halls ∧ sv.slots = g.smap.take g.own.ns ∧
      sv.live = g.swap.ctxs ∧ sv.recorded = g.swap.recorded ∧ (∀ q ∈ g.swap.withdrawn, q ∈ sv.withdrawn) ∧
      (∀ b ∈ s.banks, ∀ q ∈ b.2.parked, (∃ k ∈ g.places, q.ofThread k.1 k.2 = true) → (b.1, q) ∈ sv.withdrawn) ∧
      (∀ h c, (h, c) ∈ g.places → Tab.find sv.threads (tkey h c) = Tab.find s.threads (tkey h c) ∧ Tab.find sv.slotSt (tkey h c) = Tab.find s.slots (tkey h c) ∧
        (v.slot h c).region = none ∧ (v.slot h c).st ≠ .live ∧ (v.slot h c).st ≠ .saving ∧ v.thr h c = {}) ∧
      (v.region r).gk = sv.maxima.1 ∧ (v.region r).gn = sv.maxima.2.1 ∧ (v.region r).gl = sv.maxima.2.2)) ∧
  (∀ (s : State) (r : Nat) (sv : Saved), s.queueHead = some r → r < s.regions.length → (s.region r).state = 3 → s.host.pwr = 0 → s.saved.find? (fun v => v.region == r) = some sv →
    let retired : Prop := ∃ h ∈ sv.halls, (Tab.get s.hallSt h {}).retired = true
    (s.restorePlace r sv true = none → ¬ retired → exec .restore s = .next s ∧ exec .revokingRestore s = .next s) ∧
    (s.restorePlace r sv true = none → retired → (s.region r).own.idem = true → exec .restore s = .next s) ∧
    (s.restorePlace r sv true = none → retired → (s.region r).own.idem = false → exec .revokingRestore s = .next s ∧ ∃ v, exec .restore s = .next v ∧ v.saved = s.saved ∧ (v.region r).state = 3) ∧
    (∀ p sdr sdc, s.restorePlace r sv true = some (p, sdr, sdc) → exec .revokingRestore s = .next s ∧
      let m := s.moveTo r sv p sdr sdc
      (s.restoreBusy m sv = true ∨ s.moveBusy r m = true → exec .restore s = .next (s.claimGals m sv)) ∧
      (∀ s2, s.restoreBusy m sv = false → s.moveBusy r m = false → (s.relocate r m).loadImages r p sv.table sdr sdc = (s2, .none) → sv.stairs = [] → (sv.threads.map Prod.fst).Nodup → (sv.slotSt.map Prod.fst).Nodup →
        ∃ v, exec .restore s = .next v ∧ (v.region r).state = 2 ∧ (v.region r).org = p.org ∧ (v.region r).smap = p.slots ∧ (∀ w ∈ v.saved, w.region ≠ r) ∧
          (m.halls = m.halls' → m.slots = m.slots' → ∀ h c, c < 4 →
            (∀ t, Tab.find sv.threads (tkey h c) = some t → v.thr h c = { t with m := (List.range 16).map fun i => (i, { t.watch i with armed := false, cause := 4 }) }) ∧
            (∀ x, Tab.find sv.slotSt (tkey h c) = some x → (v.slot h c).region = some r ∧ (v.slot h c).st = if x.st = .saving then .live else x.st)))) ∧
    (∀ p sdr sdc k t s2, s.restorePlace r sv true = none → retired → (s.region r).own.idem = true → s.restorePlace r sv false = some (p, sdr, sdc) →
      let w := sv.revoked s (s.region r)
      let m := s.moveTo r w p sdr sdc
      (s.restoreBusy m w = true ∨ s.moveBusy r m = true → exec .revokingRestore s = .next (s.claimGals m w)) ∧
      (s.restoreBusy m w = false → s.moveBusy r m = false → (s.relocate r m).loadImages r p sv.table sdr sdc = (s2, .none) → sv.stairs = [] → sv.threads = [(k, t)] → t.live = true → m.slot (k % 4) < 4 →
        ∃ v, exec .revokingRestore s = .next v ∧ (v.region r).state = 2 ∧ (∀ w ∈ v.saved, w.region ≠ r) ∧
          let n := v.thr (m.hall (k / 4)) (m.slot (k % 4))
          n.live = true ∧ n.pc = (s.region r).own.entry ∧ n.rx 5 = { v := 1 } ∧ ∀ q < 4, Tab.get n.sh q 0 = BitVec.ofNat 64 (2 ^ 60))))

namespace Sys2Proof.Claims

/-- R406: the snapshot token of a hall. -/
def snapOf (h seq ctx : Nat) : Token := { kind := .snapshot, ctx := BitVec.ofNat 2 ctx, payload := BitVec.ofNat 64 (h % 64 * 2 ^ 56 + seq) }

/-- R406: what the snapshot registers of an element hold. -/
def latches (s : State) (h e c seq : Nat) (w : BitVec 512) : Prop :=
  let cnt := Tab.get s.tokCnt (ckey h e c) [0, 0, 0, 0, 0, 0]
  w.extractLsb' 0 16 = BitVec.ofNat 16 seq ∧ w.extractLsb' 48 2 = BitVec.ofNat 2 (s.logCtx h c) ∧
  w.extractLsb' 50 4 = (if e < 64 then 0 else if e < 80 then 1 else if e = 80 then 2 else 3) ∧
  w.extractLsb' 54 10 = BitVec.ofNat 10 (if e < 64 then e else if e < 80 then e - 64 else 0) ∧
  (∀ i < 6, w.extractLsb' (64 * (i + 1)) 64 = BitVec.ofNat 64 (cnt.getD i 0)) ∧
  (e = 81 → w.extractLsb' 448 64 = (s.thr h c).instret) ∧ (e = 80 → w.extractLsb' 448 64 = BitVec.ofNat 64 ((s.gal h).ctx c).rows) ∧
  (∀ r, 64 ≤ e → e < 80 → (s.stair h (e - 64)).run = some r → r.ctx = c → w.extractLsb' 448 64 = BitVec.ofNat 64 r.idx.toNat) ∧
  (e < 64 → bayKind e = .a → w.extractLsb' 448 64 = BitVec.ofNat 64 (s.bayCtx h e c).tasks) ∧ (e < 64 → bayKind e = .m → w.extractLsb' 448 64 = 0)

/-- R406: a snapshot has reached an input of an element, which forwards it and has latched. -/
def snapReached (s v : State) (r h e c inp seq : Nat) (t : Token) : Prop :=
  let g := (s.region r).swap
  let g' := (v.region r).swap
  let k := ckey h e c
  let i := inKey h e c inp
  (i ∈ g.snapInputs → i ∉ g.snapIn → i ∈ g'.snapIn ∧ (∀ w, Tab.find g.snapRegs k = some w → Tab.find g'.snapRegs k = some w) ∧
    (Tab.find g.snapRegs k = none → ∃ w, Tab.find g'.snapRegs k = some w ∧ latches s h e c seq w) ∧
    (s.passesOnly h e c = false → s.translates h e c = false → ∀ l ∈ s.elemLinks h e c, l ≠ lkey h e inp → 4 * l + c ∉ g.snapSent → v.link l = s.link l ++ [t] ∧ 4 * l + c ∈ g'.snapSent))

/-- R403: a wait that a context holds, by its bit. -/
def waitBit (s : State) (h c : Nat) : Nat → Prop
  | 0 => ∃ p ∈ s.banks, ∃ r ∈ p.2.parked, r.owner = (h, c) ∧ r.ofThread h c = false
  | 1 => ∃ p ∈ s.banks, ∃ r ∈ p.2.parked, r.owner = (h, c) ∧ r.ofThread h c = true
  | 2 => ∃ p ∈ s.links, p.1 / 8 / 128 = h ∧ ∃ t rest, p.2 = t :: rest ∧ t.ctx.toNat = c
  | 3 => (s.thr h c).inWait = 3
  | 4 => (s.thr h c).inWait = 4
  | 5 => ∃ n < 16, (∃ r, (s.stair h n).run = some r ∧ r.ctx = c ∧ ∃ q ∈ (s.stair h n).spill, q.ok = none) ∨ s.stairHeld h c n = true
  | _ => (s.gal h).nextRow c = some false

/-- R405: a hall has reported a region's save. -/
def hallReported (s : State) (r h : Nat) : Prop :=
  let g := s.region r
  (∀ k ∈ g.swap.ctxs, k / 4 = h →
    (∀ e < 81, ckey h e (k % 4) ∈ g.swap.saved ∧ ∀ i ∈ g.swap.inputs, i / 128 = ckey h e (k % 4) → i ∈ g.swap.drained) ∧ s.threadQuiet r h (k % 4) = true) ∧
  (∀ c ∈ (s.disp h).cmds, c.region = some r → c.started = true → (opOf c).toNat ∈ [0x01, 0x04, 0x05, 0x0B, 0x0C, 0x0F, 0x12])

/-- R390: a stopped region is given a value of `fcmd`. -/
def ordered (s : State) (r n : Nat) : Prop :=
  let g := s.region r
  r < s.regions.length ∧ g.stopped = true ∧ ∃ s1 bs l, s.vaRead g.rroot (g.rcb + 0x98) 8 = (s1, bs, Cause.none, l) ∧ leNat bs % 4 = n

/-- R390: a region is another, or below it through regions that have not completed. -/
def below (s : State) : Nat → Nat → Nat → Prop
  | 0, r, k => k = r
  | n + 1, r, k => k = r ∨ ∃ c < s.regions.length, (s.region c).parent = some r ∧ (s.region c).state ≠ 4 ∧ below s n c k

/-- R390: what a resumed region's contexts hold. -/
def resumed (s u : State) (r : Nat) (skip : Bool) : Prop :=
  (u.region r).stopped = false ∧ (u.region r).fstate = 0 ∧ (u.region r).state = (s.region r).state ∧
  ((s.region r).state = 2 → ∀ h c, c < 4 → (h, c) ∈ (s.region r).places →
    u.thr h c = { s.thr h c with dead := false } ∧
    (∀ b < 64, let x := s.bayCtx h b c
      (x.trapped = false → u.bayCtx h b c = x) ∧
      (x.trapped = true → u.bayCtx h b c = ({ x with trapped := false, task := none } : BayCtx).refresh (s.cfg h b c).handlers)) ∧
    (let x := (s.gal h).ctx c
     (u.gal h).ctx c = if x.stopped then { x with stopped := false, steer := none } else x) ∧
    (∀ n < 16, ∀ k, (s.stair h n).run = some k → k.ctx = c → let x := s.stair h n
      (x.stop = none → u.stair h n = x) ∧
      (x.stop ≠ none → skip = false ∨ x.want = none → u.stair h n = { x with stop := none }) ∧
      (∀ e, x.stop ≠ none → x.want = some e → skip = true → e.aux = false → u.stair h n = { x with stop := none, want := none, out := x.out.filter (· != .hole e.ser) }) ∧
      (∀ e, x.stop ≠ none → x.want = some e → skip = true → e.aux = true → u.stair h n = { x with stop := none, want := none, run := some k.skipAux })))

end Sys2Proof.Claims

open Sys2Proof.Claims

/-- R18, R390, R403–R407, R409. -/
def Obligations.WatchingSparingAndResuming : Prop :=
  (∀ (s : State) (port : BitVec 6) (ctx : BitVec 2) (cls flags : BitVec 8) (imm : BitVec 32) (addr : BitVec 64) (c : DCmd), commandIs s (commandWord 0x10 port ctx cls flags imm addr) c → c.ctx < 4 →
    let h := s.focus.hall
    let p := port.toNat
    let seq := imm.toNat % 65536
    let res := exec (.snapshot port ctx cls flags imm addr) s
    (s.regionAt h c.ctx = none → res = .next (myCmd (closed .none 0) s)) ∧
    (∀ r, s.regionAt h c.ctx = some r → r < s.regions.length →
      let g := (s.region r).swap
      (∀ q, g.snapSeq = some q → q ≠ seq → res = .next s) ∧
      (g.snapSeq = none ∨ g.snapSeq = some seq → ∃ v k, res = .next v ∧ cmdNow v = some k ∧ k.done = true ∧ k.fault = c.fault ∧ (v.region r).swap.snapSeq = some seq ∧
        4 * (64 * h + p) + c.ctx ∈ (v.region r).swap.snapPorts ∧
        (g.snapSeq = none → ∀ i, i ∈ (v.region r).swap.snapInputs ↔ ∃ h' c', (h', c') ∈ (s.region r).places ∧ (s.slot h' c').st = .live ∧ i ∈ s.ctxInputs (s.region r).halls (tkey h' c' / 4) (tkey h' c' % 4)) ∧
        (g.snapSeq ≠ none → snapReached s v r h (portElem p) c.ctx (4 + p) seq (snapOf h seq c.ctx) ∧
          ((∀ q < 64, 4 * (64 * h + q) + c.ctx ∈ (v.region r).swap.snapPorts) → ∀ e < 82, (∀ i ∈ g.snapInputs, i / 128 ≠ ckey h e c.ctx) → Tab.find (v.region r).swap.snapRegs (ckey h e c.ctx) ≠ none))))) ∧
  (∀ (s : State) (t : Token) (rest : List Token),
    let h := s.focus.hall
    let e := s.focus.elem
    let d := s.focus.idx
    let x := t.ctx.toNat
    let k := lkey h e d
    let seq := (t.payload.extractLsb' 0 16).toNat
    d < 4 → s.link k = t :: rest → t.kind = .snapshot →
    (∀ r q, s.regionAt h x = some r → (s.region r).swap.snapSeq = some q → q ≠ seq → exec .snapshotArrival s = .next s) ∧
    (e < 80 → (∀ r, s.regionAt h x = some r → (s.region r).swap.snapSeq = none) → ∃ v, exec .snapshotArrival s = .next v ∧ v.link k = rest ∧ ∀ j, j ≠ k → v.link j = s.link j) ∧
    (∀ r, e < 80 → s.regionAt h x = some r → r < s.regions.length → (s.region r).swap.snapSeq = some seq → ∃ v, exec .snapshotArrival s = .next v ∧ snapReached s v r h e x d seq t) ∧
    (∀ row, row < 8 → e = 80 + row → d = 3 → s.regionAt h x = none →
      (hallBeside h 1 = none → ∃ v, exec .snapshotArrival s = .next v ∧ v.link k = rest) ∧
      (∀ g, hallBeside h 1 = some g → lkey g (8 * row) 3 ≠ k → ∃ v, exec .snapshotArrival s = .next v ∧ v.link k = rest ∧ v.link (lkey g (8 * row) 3) = s.link (lkey g (8 * row) 3) ++ [t]))) ∧
  (∀ (s : State) (r : Nat), s.focus.idx = r →
    let h := s.focus.hall
    let g := s.region r
    let live (k : Nat × Nat) : Prop := k ∈ g.places ∧ (s.slot k.1 k.2).st = .live ∧ tkey k.1 k.2 / 4 = h
    let latched : Prop := ∀ k, live k → (∀ e < 82, Tab.find g.swap.snapRegs (ckey h e (tkey k.1 k.2 % 4)) ≠ none) ∧
      ∀ e < 81, ∀ i ∈ g.swap.snapInputs, i / 128 = ckey h e (tkey k.1 k.2 % 4) → i ∈ g.swap.snapIn
    let size := g.own.snaplen / g.nh / 64 * 64
    let part := g.own.snapva + BitVec.ofNat 64 ((g.halls.findIdx? (· == h)).getD 0 * size)
    let r' := exec .snapshotComplete s
    (g.swap.snapSeq = none ∨ g.state ≠ 2 ∨ h ∉ g.halls → r' = .next s) ∧
    (∀ seq, g.swap.snapSeq = some seq → g.state = 2 → r < s.regions.length → h ∈ g.halls →
      (h ∉ g.swap.snapHalls → ¬ latched → r' = .next s) ∧
      (h ∉ g.swap.snapHalls → latched → ∃ v u : State, ∃ (n : Nat) (o : Bool), r' = .next v ∧ h ∈ (v.region r).swap.snapHalls ∧ (v.region r).swap.snapSeq = some seq ∧
        (g.own.snapva = 0 ∨ size < 64 → v.mem = s.mem) ∧
        (g.own.snapva ≠ 0 → 64 ≤ size → v.mem = (u.vaWrite g.rroot part (leBytes 8 (seq % 65536 + n % 2 ^ 32 * 2 ^ 16 + (if o then 2 ^ 62 else 0) + 2 ^ 63))).mem ∧ 64 * n ≤ size - 64)) ∧
      (h ∈ g.swap.snapHalls → (h ≠ g.hallOf 0 ∨ ∃ k ∈ g.halls, k ∉ g.swap.snapHalls) → r' = .next s) ∧
      (h = g.hallOf 0 → (∀ k ∈ g.halls, k ∈ g.swap.snapHalls) → ∃ v, r' = .next v ∧ v.mem = (s.rcbWrite r 0xB8 8 (seq + 65536)).mem ∧ (v.region r).swap.snapSeq = none))) ∧
  (∀ s : State, s.focus.ctx < 4 →
    let h := s.focus.hall
    let c := s.focus.ctx
    let cfg : W64 := Tab.get s.host.wdcfg h 0x80000C3500003200
    let k := tkey h c
    let due : Prop := cfg.getLsbD 63 = true ∧ cfg.extractLsb' 32 24 ≠ 0 ∧ (∃ n < 7, waitBit s h c n) ∧ (cfg.extractLsb' 32 24).toNat * 256 ≤ Tab.get s.stall k 0
    (¬ due → exec .watchdogStall s = .next s) ∧
    (due → ∃ (u : State) (rec : BitVec 512),
      exec .watchdogStall s = .next (if Tab.get s.stalled k false then u.reportUp h c rec else u.report h c rec) ∧ u.regions = s.regions ∧ u.threads = s.threads ∧ u.mem = s.mem ∧ u.slots = s.slots ∧
      Tab.get u.stall k 0 = 0 ∧ Tab.get u.stalled k false = true ∧ Tab.get u.host.nexp h 0 = min (Tab.get s.host.nexp h 0 + 1) (2 ^ 32 - 1) ∧ (Tab.get u.host.stl h 0).getLsbD c = true ∧
      rec.extractLsb' 504 8 = BitVec.ofNat 8 Cause.watchdog.code ∧ rec.extractLsb' 464 8 = 6 ∧ rec.extractLsb' 460 4 = (if Tab.get s.stalled k false then 2 else 1) ∧ ∀ n < 7, rec.getLsbD (416 + n) = true ↔ waitBit s h c n)) ∧
  (∀ (s : State) (r : Nat), s.focus.idx = r → r < s.regions.length →
    let h := s.focus.hall
    let g := s.region r
    let cfg : W64 := Tab.get s.host.wdcfg h 0x80000C3500003200
    let lines := ((g.swap.ctxs.filter fun k => k / 4 == h).map fun k => s.imageLines r h (k % 4)).sum
    let due : Prop := g.state = 2 ∧ cfg.getLsbD 63 = true ∧ ¬ hallReported s r h ∧ ∃ n, Tab.find g.swap.timer h = some n ∧ (cfg.extractLsb' 0 24).toNat + lines ≤ n
    (¬ due → exec .saveWatchdogExpiry s = .next s) ∧
    (due → ∃ v, exec .saveWatchdogExpiry s = .next v ∧ (v.region r).state = 4 ∧ (v.region r).lost = true ∧ (v.region r).flt = true ∧ (v.region r).fcause = .watchdog ∧ (v.region r).fstate = 2 ∧
      Tab.get v.host.nexp h 0 = min (Tab.get s.host.nexp h 0 + 1) (2 ^ 32 - 1) ∧ (∀ w ∈ v.saved, w.region ≠ r) ∧ ∀ k ∈ g.places, (v.slot k.1 k.2).region = none ∧ (v.slot k.1 k.2).st ≠ .live ∧ v.thr k.1 k.2 = {})) ∧
  (∀ s : State, s.focus.elem < 64 → s.focus.aux ≠ 1 → s.focus.aux ≠ 2 →
    let h := s.focus.hall
    let x := Tab.get s.hallSt h {}
    let w : Site := { hall := h, elem := s.focus.elem, eclass := 0, own := false }
    (x.retired = true → exec .bayFailure s = .next s) ∧
    (x.retired = false → ∃ v, exec .bayFailure s = .next v ∧
      (x.spare = true ∨ x.failed ≠ none → Tab.get v.hallSt h {} = { x with retired := true, failed := none, toPlace := [] }) ∧
      (x.spare = false → x.failed = none → ∃ l, Tab.get v.hallSt h {} = { x with failed := some s.focus.elem, toPlace := l, taken := [] } ∧
        ∀ k, k ∈ l ↔ k / 4 < 64 ∧ (s.slot h (k % 4)).st = .live ∧ k ∈ (s.disp h).ins) ∧
      ((∀ c < 4, (s.slot h c).st ≠ .live) → v = { s.logFault .ecc w with hallSt := v.hallSt }) ∧
      (∀ c < 4, (∀ d < 4, (s.slot h d).st = .live ↔ d = c) → ∃ rec : BitVec 512, rec.extractLsb' 504 8 = BitVec.ofNat 8 Cause.ecc.code ∧ rec.extractLsb' 454 10 = BitVec.ofNat 10 s.focus.elem ∧
        v = { (s.logFault .ecc w).report h c rec with hallSt := v.hallSt }))) ∧
  (∀ s : State, s.focus.elem < 64 → s.focus.aux = 2 → ∃ v, exec .bayFailure s = .next v ∧ v = { s with hallSt := v.hallSt } ∧
    Tab.get v.hallSt s.focus.hall {} = { Tab.get s.hallSt s.focus.hall {} with badWords := (Tab.get s.hallSt s.focus.hall {}).badWords ++ [(s.focus.elem, s.focus.ctx, BayWord.ofVal s.focus.val.toNat)] }) ∧
  (∀ s : State, s.focus.aux = 1 → s.focus.idx < 64 →
    let h := s.focus.hall
    let p := s.focus.idx
    let c := s.focus.ctx
    let x := Tab.get s.hallSt h {}
    let key := 4 * p + c
    let placed (u : State) : State := { u with hallSt := Tab.upd u.hallSt h {} fun x => { x with toPlace := x.toPlace.filter (· != key) } }
    (key ∉ x.toPlace ∨ s.portSends h p c = true → exec .bayFailure s = .next s) ∧
    (key ∈ x.toPlace → s.portSends h p c = false → p < 32 →
      (s.portSend h p 0 { kind := .marker, level := 4, ctx := BitVec.ofNat 2 c } = none → exec .bayFailure s = .next s) ∧
      ∀ u, s.portSend h p 0 { kind := .marker, level := 4, ctx := BitVec.ofNat 2 c } = some u → exec .bayFailure s = .next (placed u)) ∧
    (key ∈ x.toPlace → s.portSends h p c = false → 32 ≤ p → (∀ ch < 16, s.route66 h (portBay p) c ch = 0 ∨ s.linkFeeds h (portBay p) c ch = true) → exec .bayFailure s = .next (placed s))) ∧
  (∀ s : State,
    let h := s.focus.hall
    let x := Tab.get s.hallSt h {}
    let ready : Prop := x.failed ≠ none ∧ x.toPlace = [] ∧ ∀ c < 4, (s.slot h c).st = .live → ∀ e < 64, s.mustSpare h e c = true → 4 * e + c ∈ x.taken
    let moved (g : Nat) : Prop := ∃ q < 16, x.failed.getD 0 % 8 ≤ mbayOf q % 8 ∧ bankBase h q ≤ 16 * g ∧ 16 * g < bankBase h q + 65536
    (¬ ready → exec .spareSwitchIn s = .next s) ∧
    (ready → ∃ v, exec .spareSwitchIn s = .next v ∧ Tab.get v.hallSt h {} = { x with failed := none, spare := true, taken := [], badWords := [] } ∧ v.cfgs = s.cfgs ∧ v.links = s.links ∧
      (x.badWords = [] → v.bays = s.bays ∧ v.units = s.units ∧ v.banks = s.banks) ∧
      (∀ b c i, x.badWords = [(b, c, .reg i)] → b < 64 → c < 4 → bayKind b = .a → x.failed.getD 0 % 8 ≤ b % 8 → v.units = s.units ∧ v.banks = s.banks ∧
        Tab.get (v.bayCtx h b c).b i {} = { Tab.get (s.bayCtx h b c).b i {} with poison := true } ∧ ∀ j, j ≠ i → Tab.get (v.bayCtx h b c).b j {} = Tab.get (s.bayCtx h b c).b j {}) ∧
      v.mem.cells = s.mem.cells ∧ (∀ g, g ∈ v.mem.ecc ↔ g ∈ s.mem.ecc ∧ ¬ moved g) ∧ ∀ g, g ∈ v.mem.pois ↔ g ∈ s.mem.pois ∨ (g ∈ s.mem.ecc ∧ moved g))) ∧
  (∀ (s : State) (r : Nat), s.focus.idx = r →
    (¬ ordered s r 1 ∨ (s.region r).fstate = 3 → exec .fcmdResume s = .next s) ∧
    (ordered s r 1 → (s.region r).fstate ≠ 3 → ∃ u, exec .fcmdResume s = .next ((u.rcbWrite r 0xA0 1 0).rcbWrite r 0x98 8 0) ∧ resumed s u r false) ∧
    (¬ ordered s r 2 ∨ (s.region r).fstate = 3 → exec .fcmdResumeSkip s = .next s) ∧
    (ordered s r 2 → (s.region r).fstate ≠ 3 → ∃ u, exec .fcmdResumeSkip s = .next ((u.rcbWrite r 0xA0 1 0).rcbWrite r 0x98 8 0) ∧ resumed s u r true)) ∧
  (∀ (s : State) (r : Nat), s.focus.idx = r →
    let g := s.region r
    let asked : Prop := ordered s r 3 ∨ (r < s.regions.length ∧ g.stopped = true ∧ g.fstate = 3)
    (¬ asked → exec .fcmdAbort s = .next s) ∧
    (asked → (∃ k, below s 25 r k ∧ s.performed k = false) → (∀ p ∈ s.stairs, p.2.mrg = none) → ∃ v, exec .fcmdAbort s = .next v ∧
      ∀ k, below s 25 r k → (v.region k).stopped = true ∧ (v.region k).fstate = 3 ∧ (v.region k).state = (s.region k).state) ∧
    (asked → (∀ k, below s 25 r k → s.performed k = true) → ∃ v u : State, exec .fcmdAbort s = .next v ∧ v = u.rcbWrite r 0x98 8 0 ∧
      (∀ k, below s 25 r k → (u.region k).state = 4 ∧ (u.region k).flt = true ∧ (u.region k).fstate = 3 ∧ ∀ w ∈ u.saved, w.region ≠ k) ∧
      (g.state = 2 → (∀ k, below s 25 r k → k = r) → ∀ k ∈ g.places, (u.slot k.1 k.2).region = none ∧ (u.slot k.1 k.2).st ≠ .live ∧ u.thr k.1 k.2 = {})))

namespace Sys2Proof.Claims

/-- R435: the descriptor of a sink queue as the device has it, read where it is not cached. -/
def sinkDescriptor (s : State) (q : Nat) (u : State) (d : BitVec 256) : Prop :=
  let k := Tab.get s.host.sinkqs q {}
  (k.desc = some d ∧ u = s) ∨
  (k.desc = none ∧ let r := s.edgeRead ((s.host.sqtb.extractLsb' 5 43).toNat * 32 + 32 * q) 32 0
    r.cause = .none ∧ r.poison = false ∧ r.logs = [] ∧ d = BitVec.ofNat 256 (leNat r.bytes) ∧
    u = { r.s with host := { r.s.host with sinkqs := Tab.put r.s.host.sinkqs q { Tab.get r.s.host.sinkqs q {} with desc := some d } } })

/-- Where the device itself finds a fault. -/
def atDevice : Site := { hall := 0, eclass := 4, own := false }

/-- R94: the PA of a host bus address. -/
def busPa (a : Nat) : Nat := 0x800000000000 + a % 2 ^ 47

/-- Changes an ingress channel. -/
def withIngress (s : State) (n : Nat) (g : Ingress) : State := { s with host := { s.host with ingress := Tab.put s.host.ingress n g } }

/-- R412: what a resync word does. -/
def resynced (s : State) (w : W64) (res : Host.Outcome State Fault Refusal) : Prop :=
  let pages := (w.extractLsb' 0 12).toNat
  let bus := (w.extractLsb' 12 35).toNat * 4096
  let good : Prop := w.extractLsb' 60 4 = 1 ∧ pages ≠ 0
  (¬ good → res = .next (s.logFault .cfg atDevice)) ∧
  (good → ∃ v : State, ∃ (len : Nat) (cut : Bool), res = .next v ∧ v.host.rseq = s.host.rseq + 1 ∧ 256 ≤ len ∧ len ≤ 4096 * pages ∧
    (Memory.wf s.mem.cells = true → Memory.read v.mem.cells (busPa bus) 8 = leBytes 8 (2 ^ 63 + (if cut then 2 ^ 62 else 0) + 2 ^ 32 + len)) ∧ v.slots = s.slots ∧ v.regions = s.regions ∧
    v.host.msix = s.host.msix ++ (if s.host.rsvec.getLsbD 63 then [(s.host.rsvec.extractLsb' 0 12).toNat] else []))

end Sys2Proof.Claims

open Sys2Proof.Claims

/-- R124, R141, R145, R412, R413, R430–R438. -/
def Obligations.HostAndManagement : Prop :=
  (∀ s : State,
    let k := s.focus.idx % 4
    let cleared (p : Nat) : Prop := p / 64 = k ∧ s.focus.val.getLsbD (p % 64) = true
    ∃ d t r, exec .arcDeadWrite s = .next { s with arc := { s.arc with dead := d, txSeq := t, rxSeq := r } } ∧ (∀ x, x ∈ d ↔ x ∈ s.arc.dead ∧ ¬ cleared (x % 256)) ∧
      ∀ q, (cleared (q / 256 % 256) → Tab.find t q = none ∧ Tab.find r q = none) ∧ (¬ cleared (q / 256 % 256) → Tab.find t q = Tab.find s.arc.txSeq q ∧ Tab.find r q = Tab.find s.arc.rxSeq q)) ∧
  (∀ s : State, exec .arcIinv s = .next { s with arc := { s.arc with impCache := [], iinvBusy := true } }) ∧
  (∀ s : State, let v := s.focus.val
    let stack := (v.extractLsb' 8 4).toNat
    let ch := 32 * stack + (v.extractLsb' 0 5).toNat
    (v.getLsbD 63 = false ∨ 12 ≤ stack → exec .hbmret s = .next s) ∧
    (v.getLsbD 63 = true → stack < 12 → ∃ l, exec .hbmret s = .next { s with mem := { s.mem with retired := l } } ∧ ∀ x, x ∈ l ↔ x = ch ∨ x ∈ s.mem.retired)) ∧
  (∀ s : State, ∃ l, exec .sqinv s = .next { s with host := { s.host with sqinvBusy := true, sinkqs := l } } ∧ ∀ q, Tab.get l q {} = { Tab.get s.host.sinkqs q {} with desc := none }) ∧
  (∀ s : State,
    let va : W64 := s.host.rlPend.getD ((s.focus.val.extractLsb' 0 56).setWidth 64)
    let w : Launcher := { parent := none, ctx := none, rroot := s.host.rlroot, x1 := none }
    let refused (u : State) (c : Cause) : State := { u with host := { u.host with rlBusy := false, rlPend := none, rlCause := c } }
    let then_ (a : LaunchAns) : Prop := match a with
      | .ok v hdl => exec .rlaunch s = .next { v with host := { v.host with rlBusy := false, rlPend := none, rlHdl := BitVec.ofNat 32 hdl } }
      | .full => ∃ u, exec .rlaunch s = .next u ∧ u.host.rlBusy = true ∧ u.host.rlPend = some va ∧ u.regions = s.regions
      | .fault v c => exec .rlaunch s = .next (refused v c)
    (va.toNat % 256 ≠ 0 → exec .rlaunch s = .next (refused s .align)) ∧
    (∀ s1 c, va.toNat % 256 = 0 → s.walk s.host.rlroot va .read = (s1, .fault c, []) → exec .rlaunch s = .next (refused s1 c)) ∧
    (∀ s1 pte psz, va.toNat % 256 = 0 → s.walk s.host.rlroot va .read = (s1, .leaf pte psz, []) → then_ (s1.launchAt w va (.ok (leafXlat pte psz va))))) ∧
  (∀ s : State,
    let k := s.host.kslot
    let ide := s.focus.aux = 1 ∧ s.host.spdm.ide = true
    let res (n : Nat) : State := { s with host := { s.host with kres := n } }
    (s.host.kBusy ≠ none → exec .kcmdLoad s = .next s ∧ exec .kcmdClear s = .next s) ∧
    (s.host.kBusy = none → k = 0 → exec .kcmdLoad s = .next (res 3) ∧ exec .kcmdClear s = .next (res 3)) ∧
    (s.host.kBusy = none → k ≠ 0 → Tab.find s.keys k ≠ none → exec .kcmdLoad s = .next (res 1)) ∧
    (s.host.kBusy = none → k ≠ 0 → Tab.find s.keys k = none → ¬ ide ∨ s.host.kdataOut ≠ [] → exec .kcmdLoad s = .next (res 2)) ∧
    (s.host.kBusy = none → k ≠ 0 → Tab.find s.keys k = none → ide → s.host.kdataOut = [] → ∃ x, exec .kcmdLoad s = .next { s with keys := Tab.put s.keys k x, host := { s.host with kres := 0, kdata := [], kdataOut := [] } } ∧
      ∀ i < 8, x.pair.extractLsb' (64 * i) 64 = Tab.get s.host.kdata i 0) ∧
    (s.host.kBusy = none → k ≠ 0 → s.keyInUse k = true → exec .kcmdClear s = .next { s with host := { s.host with kBusy := some k } }) ∧
    (s.host.kBusy = none → k ≠ 0 → s.keyInUse k = false → exec .kcmdClear s = .next { s with keys := Tab.del s.keys k, host := { s.host with kBusy := none, kres := 0 } })) ∧
  (∀ s : State,
    let to_ (n : Nat) : State := { s with host := { s.host with pwr := n } }
    exec .pwrRun s = .next (to_ 0) ∧ exec .pwrIdle s = .next (to_ 1) ∧
    ((∃ g ∈ s.regions, g.state = 2) → exec .pwrD3hot s = .next s) ∧ ((∀ g ∈ s.regions, g.state ≠ 2) → exec .pwrD3hot s = .next (to_ 2))) ∧
  (∀ s : State, resynced s s.focus.val (exec .resyncRequest s)) ∧
  (∀ s : State,
    let n := s.focus.idx % 4096
    let v := s.focus.val
    let lc := v.getLsbD 62
    let bay := (v.extractLsb' 50 6).toNat
    let good : Prop := v.extractLsb' 0 44 = 0 ∧ (if lc then bay = 0 ∧ v.extractLsb' 44 4 = 0 else bay / 8 % 2 = 0 ∧ bay % 2 = 0 ∨ bay / 8 % 2 = 1 ∧ bay % 2 = 1)
    (n = 0 → exec .ingbWrite s = .next s) ∧
    (n ≠ 0 → ¬ good → exec .ingbWrite s = .next (s.logFault .cfg atDevice)) ∧
    (n ≠ 0 → good → ∃ r, exec .ingbWrite s = .next (withIngress s n { Tab.get s.host.ingress n {} with bind := v, region := r }))) ∧
  (∀ s : State,
    let n := s.focus.idx % 4096
    let g := Tab.get s.host.ingress n {}
    let w := s.focus.val
    let v := g.bind
    let h := (v.extractLsb' 56 6).toNat
    let c := (v.extractLsb' 48 2).toNat
    let b := (v.extractLsb' 50 6).toNat
    let tok (w : W64) : Token := { ctx := v.extractLsb' 48 2, chan := v.extractLsb' 44 4, payload := w }
    let live : Prop := v.getLsbD 63 = true ∧ (s.slot h c).st = .live
    let out : Prop := v.getLsbD 63 = true ∧ ((s.slot h c).st = .saving ∨ ∃ r, g.region = some r ∧ (s.region r).state = 3)
    let full : Prop := 16 ≤ s.queuedWords n + g.wait.length
    let r := exec .ingressWord s
    let behind (k : Nat) : Prop := v.getLsbD 62 = true ∧ ∃ p ∈ s.host.ingress, p.1 ≠ n ∧ p.2.bind.getLsbD 62 = true ∧ p.2.bind.extractLsb' 56 6 = v.extractLsb' 56 6 ∧
      p.2.bind.extractLsb' 48 2 = v.extractLsb' 48 2 ∧ ∃ q ∈ p.2.wait, q.1 < k
    let later : State := let u := withIngress s n { g with wait := g.wait ++ [(s.host.ingSeq, w)] }
      { u with host := { u.host with ingSeq := u.host.ingSeq + 1 } }
    let page : Prop := v.getLsbD 63 = true ∧ s.pageChannel n v = true
    let taken (w : W64) (u : State) : Prop :=
      (v.getLsbD 62 = true ∧ (s.thr h c).toks.length < 64 ∧ u = s.setThr h c { s.thr h c with toks := (s.thr h c).toks ++ [tok w], tokChans := (s.thr h c).tokChans ++ [n] }) ∨
      (v.getLsbD 62 = false ∧ s.swapStopped h b c = false ∧ ∃ s1, s.allow h b c = some s1 ∧ s1.deliver h b c (v.extractLsb' 44 4).toNat (tok w) n = some u)
    (s.focus.aux ≠ 1 → n = 0 → resynced s w r) ∧
    (s.focus.aux ≠ 1 → n ≠ 0 → page → r = .next (s.pageReady w)) ∧
    (s.focus.aux ≠ 1 → n ≠ 0 → ¬ page → (¬ live ∧ ¬ out) ∨ full →
      let u := withIngress s n { g with drop := min (g.drop + 1) 65535, dropLogged := true }
      (g.dropLogged = true → r = .next u) ∧ (g.dropLogged = false → r = .next (u.logFault .cfg { hall := h, eclass := 4, ctx := c }))) ∧
    (s.focus.aux ≠ 1 → n ≠ 0 → ¬ page → live ∨ out → ¬ full →
      (g.wait ≠ [] ∨ out ∨ behind s.host.ingSeq ∨ (∀ u, ¬ taken w u) → r = .next later) ∧
      ∀ u, g.wait = [] → ¬ out → ¬ behind s.host.ingSeq → taken w u → r = .next u) ∧
    (s.focus.aux = 1 → g.wait = [] → r = .next s) ∧
    (∀ k w' rest, s.focus.aux = 1 → g.wait = (k, w') :: rest → (¬ live ∨ out ∨ behind k ∨ (∀ u, ¬ taken w' u) → r = .next s) ∧
      ∀ u, live → ¬ out → ¬ behind k → taken w' u → r = .next (withIngress u n { g with wait := rest }))) ∧
  (∀ (s u : State) (d : BitVec 256),
    let q := s.focus.idx % 4096
    sinkDescriptor s q u d →
    let k := Tab.get u.host.sinkqs q {}
    let put (u : State) (k : SinkQ) : State := { u with host := { u.host with sinkqs := Tab.put u.host.sinkqs q k } }
    let lgn := (d.extractLsb' 64 5).toNat
    let ahead (c : Nat) : Nat := (k.prod + 2 ^ 32 - c) % 2 ^ 32
    let c := (s.focus.val.extractLsb' 0 32).toNat
    ((Tab.get s.host.sinkqs q {}).wait = [] → exec .sinkQueueDelivery s = .next s) ∧
    (∀ size e rest, (Tab.get s.host.sinkqs q {}).wait = (size, e) :: rest →
      let good : Prop := d.getLsbD 63 = true ∧ 1 ≤ lgn ∧ lgn ≤ 20 ∧ (d.getLsbD 62 = true ↔ size = 64)
      (¬ good → exec .sinkQueueDelivery s = .next ((put u { k with wait := rest }).logFault .cfg atDevice)) ∧
      (good → 2 ^ lgn ≤ ahead k.cons → exec .sinkQueueDelivery s = .next s) ∧
      (good → ahead k.cons < 2 ^ lgn →
        let s2 := (u.edgeWrite (busPa ((d.extractLsb' 4 43).toNat * 16 + k.prod % 2 ^ lgn * size)) (leBytes size e.toNat) 0).s
        let s3 := (s2.edgeWrite (busPa ((d.extractLsb' 131 44).toNat * 8)) (leBytes 8 ((k.prod + 1) % 2 ^ 32)) 0).s
        let s4 := put s3 { k with prod := (k.prod + 1) % 2 ^ 32, wait := rest }
        exec .sinkQueueDelivery s = .next { s4 with host := { s4.host with msix := s4.host.msix ++ (if d.getLsbD 127 then [(d.extractLsb' 96 11).toNat] else []) } })) ∧
    (2 ^ lgn < ahead c → exec .consumerIndexWrite s = .next (u.logFault .range atDevice)) ∧
    (ahead c ≤ 2 ^ lgn → exec .consumerIndexWrite s = .next (put u { k with cons := c }))) ∧
  (∀ s : State,
    let pa := (s.focus.val.extractLsb' 0 41).toNat
    let n := s.focus.aux % 128
    let write : Prop := s.focus.aux / 128 % 2 = 1
    let key := (Tab.get s.host.hapk (pa / 2 ^ 30 / 8) 0).toNat / 2 ^ (8 * (pa / 2 ^ 30 % 8)) % 256
    let good : Prop := 0 < n ∧ pa % 64 + n ≤ 64
    let r := s.edgeRead pa n key
    let back (u : State) (bs : List Byte) (st : Nat) : State := { u with host := { u.host with readback := some (bs, st) } }
    (¬ good → exec .bar4Access s = .next s) ∧
    (good → write → spaceOf pa = .reserved → exec .bar4Access s = .next (s.logFault .range atDevice pa true)) ∧
    (good → write → (s.edgeWrite pa (leBytes n s.focus.idx) key).cause = .none → (s.edgeWrite pa (leBytes n s.focus.idx) key).logs = [] →
      exec .bar4Access s = .next (s.edgeWrite pa (leBytes n s.focus.idx) key).s) ∧
    (good → ¬ write → spaceOf pa = .reserved → exec .bar4Access s = .next (back (s.logFault .range atDevice pa true) (List.replicate n 0) 1)) ∧
    (good → ¬ write → spaceOf pa ≠ .reserved → r.cause = .none → r.logs = [] → s.checkBad pa key = false → exec .bar4Access s = .next (back r.s r.bytes (if r.poison then 2 else 0))) ∧
    (good → ¬ write → spaceOf pa ≠ .reserved → r.cause = .none → r.logs = [] → s.checkBad pa key = true → exec .bar4Access s = .next (back (r.s.logFault .check atDevice pa true) r.bytes 2)))

namespace Sys2Proof.Claims

/-- The machine at reset; host memory is not the device's, and the model's own order and free values go on. -/
def powerOn (s v : State) : Prop :=
  v = { State.reset with agenda := s.agenda, focus := s.focus, fresh := s.fresh, mem := v.mem, host := v.host } ∧ v.mem = { State.reset.mem with cells := v.mem.cells, pois := v.mem.pois } ∧
  (∀ g, g ∈ v.mem.pois ↔ g ∈ s.mem.pois ∧ spaceOf (16 * g) = .host) ∧
  ∀ a, Memory.wf s.mem.cells = true → Memory.byte v.mem.cells a = if spaceOf a = .host then Memory.byte s.mem.cells a else 0

/-- R439: an attestation request: what it needs, its response, and what it changes. -/
def attests (s : State) (i : Instr) (need : Bool) (code : Nat) (after : Spdm) : Prop :=
  let p := s.host.spdm
  (need = true → exec i s = .next { s with host := { s.host with spdm := { after with outbox := p.outbox ++ [code] } } }) ∧
  (need = false → exec i s = .next { s with host := { s.host with spdm := { p with outbox := p.outbox ++ [0] } } })

end Sys2Proof.Claims

open Sys2Proof.Claims

/-- R439, R440. -/
def Obligations.PowerTemperatureAndAttestation : Prop :=
  (∀ s : State,
    (s.host.perst = false → exec .bringUp s = .next s) ∧
    (s.host.perst = true → ∃ v, exec .bringUp s = .next v ∧ powerOn s v ∧
      v.host = if s.focus.aux = 1 then { State.reset.host with recovery := true, meas := [] } else State.reset.host) ∧
    ∃ v, exec .perstAssertion s = .next v ∧ powerOn s v ∧ v.host = { State.reset.host with perst := true, meas := [] }) ∧
  (∀ s : State,
    let t := s.focus.idx
    let hot (n : Nat) : State := { s with host := { s.host with tj := t, tst := n } }
    (s.host.tst = 0 → 105 ≤ t → t < 115 → exec .thermalThrottle s = .next (hot 1)) ∧ (s.host.tst ≠ 0 ∨ t < 105 ∨ 115 ≤ t → exec .thermalThrottle s = .next s) ∧
    (s.host.tst = 1 → t < 100 → exec .thermalRecover s = .next (hot 0)) ∧ (s.host.tst ≠ 1 ∨ 100 ≤ t → exec .thermalRecover s = .next s) ∧
    (s.host.tst ≠ 2 → 115 ≤ t → t < 256 → exec .thermalShutdown s = .next (hot 2)) ∧ (s.host.tst = 2 ∨ t < 115 → exec .thermalShutdown s = .next s) ∧
    (s.host.tst ≠ 2 → exec .thermalReset s = .next s) ∧ (s.host.tst = 2 → ∃ v, exec .thermalReset s = .next v ∧ powerOn s v ∧ v.host = State.reset.host)) ∧
  (∀ s : State,
    let moved (b : Bool) (n : Nat) : State := { s with host := { s.host with d3hot := b, pwr := n } }
    (s.focus.aux = 1 → (∀ g ∈ s.regions, g.state ≠ 2) → exec .pciePowerStateChange s = .next (moved true 2)) ∧
    (s.focus.aux = 1 → (∃ g ∈ s.regions, g.state = 2) → exec .pciePowerStateChange s = .next (moved true s.host.pwr)) ∧
    (s.focus.aux ≠ 1 → exec .pciePowerStateChange s = .next (moved false 0))) ∧
  (∀ s : State,
    let p := s.host.spdm
    attests s .getVersion true 1 { p with version := true, caps := false, algs := false, session := false, secured := false } ∧
    attests s .getCapabilities p.version 2 { p with caps := true } ∧
    attests s .negotiateAlgorithms (p.caps && s.focus.aux == 1) 3 { p with algs := true } ∧
    attests s .getDigests p.algs 4 p ∧ attests s .getCertificate p.algs 5 p ∧ attests s .challenge p.algs 6 p ∧ attests s .getMeasurements p.algs 7 p ∧
    attests s .keyExchange p.algs 8 { p with session := true } ∧ attests s .finish p.session 9 { p with secured := true } ∧ attests s .ideKm p.secured 10 { p with ide := true })

/-- R58, R67, R73, R79, R202, R270: words from the spec's encodings. -/
def Obligations.WordsOfTheSpecDecode : Prop :=
  (decodeLanding 0x08A6FFFC).toOption = some (.addi 5 6 0xFFFC) ∧ (decodeLanding 0x08A67FFF).toOption = some (.addi 5 6 0x7FFF) ∧ (decodeLanding 0x08A68000).toOption = some (.addi 5 6 0x8000) ∧
  (decodeLanding 0xE00A0000).toOption = some (.watch 0 10) ∧ (decodeLanding 0xCC890000).toOption = some (.issue 1 9) ∧ (decodeLanding 0xD0090001).toOption = some (.cstat 9 1) ∧
  (decodeLanding 0xB4C00003).toOption = some (.bp 1 1 3) ∧ (decodeLanding 0xFC000400).toOption = some .eret ∧ (decodeLanding 0).isOk = false ∧
  (decodeBay 0x003B3128).toOption = some (.bayAddI32 7 25 0x1128) ∧ (decodeBay 0xAC20A000).toOption = some (.baySteer 4 5 0) ∧ (decodeBay 0xB9860600).toOption = some (.bayBr 0xC0) ∧
  (decodeBay 0xB5860020).toOption = some (.baySend 4) ∧
  (decodeCommand 0x14840000000000020000000000000000).toOption = some (.sink 33 0 0 0 2 0) ∧ (decodeCommand 0x060C05A2000000000000000000000000).toOption = some (.rdfor 3 0 5 0xA2 0 0) ∧
  (decodeCommand 0x0D010000000000030000000000000000).toOption = some (.drain 0 1 0 0 3 0) ∧
  (decodeGallery 0x0000000071000000).toOption = some (.gclaim 7 1) ∧ (decodeGallery 0x3140500000000000).toOption = some (.gshape 40 20) ∧ (decodeGallery 0x4FFC000000000000).toOption = some (.ganchor 0xFFC) ∧
  (decodeGallery 0x7000100008052800).toOption = some (.gdrain 0 2 1 0xA5) ∧
  (decodeTag 0x1D).toOption = some (.tlook 0x1D) ∧ (decodeTag 0x200000000000001D).toOption = some (.tfill 0x1D) ∧ (decodeTag 0xE000000000000000).isOk = false

/-- R92, R107, R127, R184, R336, R386, R403, R431, R440: the values that the spec gives at reset. -/
def Obligations.MachineAtReset : Prop :=
  let s := State.reset
  Memory.wf s.mem.cells = true ∧ (∀ a, Memory.byte s.mem.cells a = 0) ∧ (∀ g, g ∉ s.mem.pois ∧ g ∉ s.mem.ecc) ∧
  (∀ h c, (s.slot h c).st = .empty ∧ (s.slot h c).region = none ∧ (s.thr h c).live = false) ∧ s.regions = [] ∧ s.pool = [] ∧ s.saved = [] ∧
  (∀ k, (s.keyPair k).isSome = true ↔ k = 0) ∧
  s.mgmtRead 0 0x0000 = 3 ∧ s.mgmtRead 0 0x0008 = 16000 ∧ (∀ h, ∀ i < 8, s.mgmtRead h (0x40 + 8 * i) = 0) ∧ (∀ h, ∀ i < 4, s.mgmtRead h (0x80 + 8 * i) = 0) ∧
  (∀ h, ∀ k < 64, s.mgmtRead h (0x1000 + 16 * k) = 0x80000C3500003200 ∧ s.mgmtRead h (0x1008 + 16 * k) = 0) ∧ (∀ h, ∀ j < 96, s.mgmtRead h (0x400 + 8 * j) = 0) ∧
  (s.mgmtRead 0 0x0208).getLsbD 63 = false ∧ (∀ h, Tab.get s.cycle h 0 = 0) ∧ s.log = [] ∧ s.lseq = 0 ∧
  (∀ k, s.link k = [] ∧ Tab.get s.rlanes k [] = []) ∧ s.edge = [] ∧ s.arc.outst = [] ∧ s.arc.inbox = [] ∧ s.arc.outbox = [] ∧ ∀ h, (s.disp h).cmds = []

/-- R94–R96, R440: the canonical form of memory, which the model fixes so that equal memories are equal data, is kept by every step. -/
def Obligations.EveryStepKeepsMemoryCanonical : Prop :=
  ∀ s t : State, Memory.wf s.mem.cells = true → step s = .next t → Memory.wf t.mem.cells = true
end

