-- ==== Sys2Proof/Laws/Tab.lean ====
section
/-! SUPPORT. Reading a sparse table after writing it. -/

namespace Sys2Proof

theorem Tab.find_put_same {β : Type} (t : Tab β) (k : Nat) (v : β) : Tab.find (Tab.put t k v) k = some v := by
  induction t with
  | nil => simp [Tab.put, Tab.find]
  | cons p t ih =>
    obtain ⟨k', v'⟩ := p
    simp only [Tab.put]
    split
    · simp [Tab.find]
    · split
      · simp [Tab.find]
      · simp [Tab.find, *]

@[simp] theorem Tab.put_put {β : Type} (t : Tab β) (k : Nat) (v w : β) : Tab.put (Tab.put t k v) k w = Tab.put t k w := by
  induction t with
  | nil => simp [Tab.put]
  | cons p t ih =>
    obtain ⟨k', v'⟩ := p
    simp only [Tab.put]
    split
    · simp [Tab.put]
    · split
      · simp [Tab.put]
      · simp [Tab.put, *]

theorem Tab.find_put_other {β : Type} (t : Tab β) (k j : Nat) (v : β) (h : j ≠ k) : Tab.find (Tab.put t k v) j = Tab.find t j := by
  induction t with
  | nil => simp [Tab.put, Tab.find, h]
  | cons p t ih =>
    obtain ⟨k', v'⟩ := p
    simp only [Tab.put]
    split
    · simp [Tab.find, h]
    · split
      · subst_vars
        simp [Tab.find, h]
      · simp only [Tab.find, ih]

@[simp] theorem Tab.get_put_same {β : Type} (t : Tab β) (k : Nat) (v d : β) : Tab.get (Tab.put t k v) k d = v := by
  simp [Tab.get, Tab.find_put_same]

theorem Tab.get_put_other {β : Type} (t : Tab β) (k j : Nat) (v d : β) (h : j ≠ k) : Tab.get (Tab.put t k v) j d = Tab.get t j d := by
  simp [Tab.get, Tab.find_put_other t k j v h]

theorem Tab.find_del_same {β : Type} (t : Tab β) (k : Nat) : Tab.find (Tab.del t k) k = none := by
  induction t with
  | nil => rfl
  | cons p t ih =>
    obtain ⟨k', v'⟩ := p
    simp only [Tab.del]
    split
    · exact ih
    · simp [Tab.find, *]

theorem Tab.find_del_other {β : Type} (t : Tab β) (k j : Nat) (h : j ≠ k) : Tab.find (Tab.del t k) j = Tab.find t j := by
  induction t with
  | nil => rfl
  | cons p t ih =>
    obtain ⟨k', v'⟩ := p
    simp only [Tab.del]
    split
    · subst_vars
      simp [Tab.find, ih, h]
    · simp only [Tab.find, ih]

@[simp] theorem Tab.get_upd_same {β : Type} (t : Tab β) (k : Nat) (d : β) (f : β → β) : Tab.get (Tab.upd t k d f) k d = f (Tab.get t k d) := by
  simp [Tab.upd]

theorem Tab.get_upd_other {β : Type} (t : Tab β) (k j : Nat) (d : β) (f : β → β) (h : j ≠ k) : Tab.get (Tab.upd t k d f) j d = Tab.get t j d := by
  simp [Tab.upd, Tab.get_put_other, h]

@[simp] theorem Tab.get_nil {β : Type} (k : Nat) (d : β) : Tab.get ([] : Tab β) k d = d := rfl
@[simp] theorem Tab.find_nil {β : Type} (k : Nat) : Tab.find ([] : Tab β) k = none := rfl

end Sys2Proof
end

