-- ==== Sys2Proof/Laws/State.lean ====
section
/-! SUPPORT. One lemma for each field and each named update of the state: what an update leaves alone, and what reads back what it wrote. -/

namespace Sys2Proof.Machine

/-! ### `State.setThr` -/

@[simp] theorem State.setThr_agenda (s : State) (hall ctx : Nat) (t : Thread) : (s.setThr hall ctx t).agenda = s.agenda := rfl
@[simp] theorem State.setThr_focus (s : State) (hall ctx : Nat) (t : Thread) : (s.setThr hall ctx t).focus = s.focus := rfl
@[simp] theorem State.setThr_mem (s : State) (hall ctx : Nat) (t : Thread) : (s.setThr hall ctx t).mem = s.mem := rfl
@[simp] theorem State.setThr_keys (s : State) (hall ctx : Nat) (t : Thread) : (s.setThr hall ctx t).keys = s.keys := rfl
@[simp] theorem State.setThr_edge (s : State) (hall ctx : Nat) (t : Thread) : (s.setThr hall ctx t).edge = s.edge := rfl
@[simp] theorem State.setThr_lctlb (s : State) (hall ctx : Nat) (t : Thread) : (s.setThr hall ctx t).lctlb = s.lctlb := rfl
@[simp] theorem State.setThr_icache (s : State) (hall ctx : Nat) (t : Thread) : (s.setThr hall ctx t).icache = s.icache := rfl
@[simp] theorem State.setThr_dcache (s : State) (hall ctx : Nat) (t : Thread) : (s.setThr hall ctx t).dcache = s.dcache := rfl
@[simp] theorem State.setThr_cycle (s : State) (hall ctx : Nat) (t : Thread) : (s.setThr hall ctx t).cycle = s.cycle := rfl
@[simp] theorem State.setThr_bars (s : State) (hall ctx : Nat) (t : Thread) : (s.setThr hall ctx t).bars = s.bars := rfl
@[simp] theorem State.setThr_barArr (s : State) (hall ctx : Nat) (t : Thread) : (s.setThr hall ctx t).barArr = s.barArr := rfl
@[simp] theorem State.setThr_barPh (s : State) (hall ctx : Nat) (t : Thread) : (s.setThr hall ctx t).barPh = s.barPh := rfl
@[simp] theorem State.setThr_bays (s : State) (hall ctx : Nat) (t : Thread) : (s.setThr hall ctx t).bays = s.bays := rfl
@[simp] theorem State.setThr_units (s : State) (hall ctx : Nat) (t : Thread) : (s.setThr hall ctx t).units = s.units := rfl
@[simp] theorem State.setThr_stairs (s : State) (hall ctx : Nat) (t : Thread) : (s.setThr hall ctx t).stairs = s.stairs := rfl
@[simp] theorem State.setThr_banks (s : State) (hall ctx : Nat) (t : Thread) : (s.setThr hall ctx t).banks = s.banks := rfl
@[simp] theorem State.setThr_net (s : State) (hall ctx : Nat) (t : Thread) : (s.setThr hall ctx t).net = s.net := rfl
@[simp] theorem State.setThr_gals (s : State) (hall ctx : Nat) (t : Thread) : (s.setThr hall ctx t).gals = s.gals := rfl
@[simp] theorem State.setThr_links (s : State) (hall ctx : Nat) (t : Thread) : (s.setThr hall ctx t).links = s.links := rfl
@[simp] theorem State.setThr_rlanes (s : State) (hall ctx : Nat) (t : Thread) : (s.setThr hall ctx t).rlanes = s.rlanes := rfl
@[simp] theorem State.setThr_linkAge (s : State) (hall ctx : Nat) (t : Thread) : (s.setThr hall ctx t).linkAge = s.linkAge := rfl
@[simp] theorem State.setThr_linkSeq (s : State) (hall ctx : Nat) (t : Thread) : (s.setThr hall ctx t).linkSeq = s.linkSeq := rfl
@[simp] theorem State.setThr_vecOpen (s : State) (hall ctx : Nat) (t : Thread) : (s.setThr hall ctx t).vecOpen = s.vecOpen := rfl
@[simp] theorem State.setThr_feed (s : State) (hall ctx : Nat) (t : Thread) : (s.setThr hall ctx t).feed = s.feed := rfl
@[simp] theorem State.setThr_inFrom (s : State) (hall ctx : Nat) (t : Thread) : (s.setThr hall ctx t).inFrom = s.inFrom := rfl
@[simp] theorem State.setThr_tokCnt (s : State) (hall ctx : Nat) (t : Thread) : (s.setThr hall ctx t).tokCnt = s.tokCnt := rfl
@[simp] theorem State.setThr_cfgs (s : State) (hall ctx : Nat) (t : Thread) : (s.setThr hall ctx t).cfgs = s.cfgs := rfl
@[simp] theorem State.setThr_slots (s : State) (hall ctx : Nat) (t : Thread) : (s.setThr hall ctx t).slots = s.slots := rfl
@[simp] theorem State.setThr_disps (s : State) (hall ctx : Nat) (t : Thread) : (s.setThr hall ctx t).disps = s.disps := rfl
@[simp] theorem State.setThr_regions (s : State) (hall ctx : Nat) (t : Thread) : (s.setThr hall ctx t).regions = s.regions := rfl
@[simp] theorem State.setThr_pool (s : State) (hall ctx : Nat) (t : Thread) : (s.setThr hall ctx t).pool = s.pool := rfl
@[simp] theorem State.setThr_gens (s : State) (hall ctx : Nat) (t : Thread) : (s.setThr hall ctx t).gens = s.gens := rfl
@[simp] theorem State.setThr_ltoks (s : State) (hall ctx : Nat) (t : Thread) : (s.setThr hall ctx t).ltoks = s.ltoks := rfl
@[simp] theorem State.setThr_saved (s : State) (hall ctx : Nat) (t : Thread) : (s.setThr hall ctx t).saved = s.saved := rfl
@[simp] theorem State.setThr_swapCount (s : State) (hall ctx : Nat) (t : Thread) : (s.setThr hall ctx t).swapCount = s.swapCount := rfl
@[simp] theorem State.setThr_walks (s : State) (hall ctx : Nat) (t : Thread) : (s.setThr hall ctx t).walks = s.walks := rfl
@[simp] theorem State.setThr_shoots (s : State) (hall ctx : Nat) (t : Thread) : (s.setThr hall ctx t).shoots = s.shoots := rfl
@[simp] theorem State.setThr_hallSt (s : State) (hall ctx : Nat) (t : Thread) : (s.setThr hall ctx t).hallSt = s.hallSt := rfl
@[simp] theorem State.setThr_arc (s : State) (hall ctx : Nat) (t : Thread) : (s.setThr hall ctx t).arc = s.arc := rfl
@[simp] theorem State.setThr_host (s : State) (hall ctx : Nat) (t : Thread) : (s.setThr hall ctx t).host = s.host := rfl
@[simp] theorem State.setThr_log (s : State) (hall ctx : Nat) (t : Thread) : (s.setThr hall ctx t).log = s.log := rfl
@[simp] theorem State.setThr_lseq (s : State) (hall ctx : Nat) (t : Thread) : (s.setThr hall ctx t).lseq = s.lseq := rfl
@[simp] theorem State.setThr_stall (s : State) (hall ctx : Nat) (t : Thread) : (s.setThr hall ctx t).stall = s.stall := rfl
@[simp] theorem State.setThr_stalled (s : State) (hall ctx : Nat) (t : Thread) : (s.setThr hall ctx t).stalled = s.stalled := rfl
@[simp] theorem State.setThr_turn (s : State) (hall ctx : Nat) (t : Thread) : (s.setThr hall ctx t).turn = s.turn := rfl
@[simp] theorem State.setThr_fresh (s : State) (hall ctx : Nat) (t : Thread) : (s.setThr hall ctx t).fresh = s.fresh := rfl

/-! ### `State.updThr` -/

@[simp] theorem State.updThr_agenda (s : State) (hall ctx : Nat) (f : Thread → Thread) : (s.updThr hall ctx f).agenda = s.agenda := rfl
@[simp] theorem State.updThr_focus (s : State) (hall ctx : Nat) (f : Thread → Thread) : (s.updThr hall ctx f).focus = s.focus := rfl
@[simp] theorem State.updThr_mem (s : State) (hall ctx : Nat) (f : Thread → Thread) : (s.updThr hall ctx f).mem = s.mem := rfl
@[simp] theorem State.updThr_keys (s : State) (hall ctx : Nat) (f : Thread → Thread) : (s.updThr hall ctx f).keys = s.keys := rfl
@[simp] theorem State.updThr_edge (s : State) (hall ctx : Nat) (f : Thread → Thread) : (s.updThr hall ctx f).edge = s.edge := rfl
@[simp] theorem State.updThr_lctlb (s : State) (hall ctx : Nat) (f : Thread → Thread) : (s.updThr hall ctx f).lctlb = s.lctlb := rfl
@[simp] theorem State.updThr_icache (s : State) (hall ctx : Nat) (f : Thread → Thread) : (s.updThr hall ctx f).icache = s.icache := rfl
@[simp] theorem State.updThr_dcache (s : State) (hall ctx : Nat) (f : Thread → Thread) : (s.updThr hall ctx f).dcache = s.dcache := rfl
@[simp] theorem State.updThr_cycle (s : State) (hall ctx : Nat) (f : Thread → Thread) : (s.updThr hall ctx f).cycle = s.cycle := rfl
@[simp] theorem State.updThr_bars (s : State) (hall ctx : Nat) (f : Thread → Thread) : (s.updThr hall ctx f).bars = s.bars := rfl
@[simp] theorem State.updThr_barArr (s : State) (hall ctx : Nat) (f : Thread → Thread) : (s.updThr hall ctx f).barArr = s.barArr := rfl
@[simp] theorem State.updThr_barPh (s : State) (hall ctx : Nat) (f : Thread → Thread) : (s.updThr hall ctx f).barPh = s.barPh := rfl
@[simp] theorem State.updThr_bays (s : State) (hall ctx : Nat) (f : Thread → Thread) : (s.updThr hall ctx f).bays = s.bays := rfl
@[simp] theorem State.updThr_units (s : State) (hall ctx : Nat) (f : Thread → Thread) : (s.updThr hall ctx f).units = s.units := rfl
@[simp] theorem State.updThr_stairs (s : State) (hall ctx : Nat) (f : Thread → Thread) : (s.updThr hall ctx f).stairs = s.stairs := rfl
@[simp] theorem State.updThr_banks (s : State) (hall ctx : Nat) (f : Thread → Thread) : (s.updThr hall ctx f).banks = s.banks := rfl
@[simp] theorem State.updThr_net (s : State) (hall ctx : Nat) (f : Thread → Thread) : (s.updThr hall ctx f).net = s.net := rfl
@[simp] theorem State.updThr_gals (s : State) (hall ctx : Nat) (f : Thread → Thread) : (s.updThr hall ctx f).gals = s.gals := rfl
@[simp] theorem State.updThr_links (s : State) (hall ctx : Nat) (f : Thread → Thread) : (s.updThr hall ctx f).links = s.links := rfl
@[simp] theorem State.updThr_rlanes (s : State) (hall ctx : Nat) (f : Thread → Thread) : (s.updThr hall ctx f).rlanes = s.rlanes := rfl
@[simp] theorem State.updThr_linkAge (s : State) (hall ctx : Nat) (f : Thread → Thread) : (s.updThr hall ctx f).linkAge = s.linkAge := rfl
@[simp] theorem State.updThr_linkSeq (s : State) (hall ctx : Nat) (f : Thread → Thread) : (s.updThr hall ctx f).linkSeq = s.linkSeq := rfl
@[simp] theorem State.updThr_vecOpen (s : State) (hall ctx : Nat) (f : Thread → Thread) : (s.updThr hall ctx f).vecOpen = s.vecOpen := rfl
@[simp] theorem State.updThr_feed (s : State) (hall ctx : Nat) (f : Thread → Thread) : (s.updThr hall ctx f).feed = s.feed := rfl
@[simp] theorem State.updThr_inFrom (s : State) (hall ctx : Nat) (f : Thread → Thread) : (s.updThr hall ctx f).inFrom = s.inFrom := rfl
@[simp] theorem State.updThr_tokCnt (s : State) (hall ctx : Nat) (f : Thread → Thread) : (s.updThr hall ctx f).tokCnt = s.tokCnt := rfl
@[simp] theorem State.updThr_cfgs (s : State) (hall ctx : Nat) (f : Thread → Thread) : (s.updThr hall ctx f).cfgs = s.cfgs := rfl
@[simp] theorem State.updThr_slots (s : State) (hall ctx : Nat) (f : Thread → Thread) : (s.updThr hall ctx f).slots = s.slots := rfl
@[simp] theorem State.updThr_disps (s : State) (hall ctx : Nat) (f : Thread → Thread) : (s.updThr hall ctx f).disps = s.disps := rfl
@[simp] theorem State.updThr_regions (s : State) (hall ctx : Nat) (f : Thread → Thread) : (s.updThr hall ctx f).regions = s.regions := rfl
@[simp] theorem State.updThr_pool (s : State) (hall ctx : Nat) (f : Thread → Thread) : (s.updThr hall ctx f).pool = s.pool := rfl
@[simp] theorem State.updThr_gens (s : State) (hall ctx : Nat) (f : Thread → Thread) : (s.updThr hall ctx f).gens = s.gens := rfl
@[simp] theorem State.updThr_ltoks (s : State) (hall ctx : Nat) (f : Thread → Thread) : (s.updThr hall ctx f).ltoks = s.ltoks := rfl
@[simp] theorem State.updThr_saved (s : State) (hall ctx : Nat) (f : Thread → Thread) : (s.updThr hall ctx f).saved = s.saved := rfl
@[simp] theorem State.updThr_swapCount (s : State) (hall ctx : Nat) (f : Thread → Thread) : (s.updThr hall ctx f).swapCount = s.swapCount := rfl
@[simp] theorem State.updThr_walks (s : State) (hall ctx : Nat) (f : Thread → Thread) : (s.updThr hall ctx f).walks = s.walks := rfl
@[simp] theorem State.updThr_shoots (s : State) (hall ctx : Nat) (f : Thread → Thread) : (s.updThr hall ctx f).shoots = s.shoots := rfl
@[simp] theorem State.updThr_hallSt (s : State) (hall ctx : Nat) (f : Thread → Thread) : (s.updThr hall ctx f).hallSt = s.hallSt := rfl
@[simp] theorem State.updThr_arc (s : State) (hall ctx : Nat) (f : Thread → Thread) : (s.updThr hall ctx f).arc = s.arc := rfl
@[simp] theorem State.updThr_host (s : State) (hall ctx : Nat) (f : Thread → Thread) : (s.updThr hall ctx f).host = s.host := rfl
@[simp] theorem State.updThr_log (s : State) (hall ctx : Nat) (f : Thread → Thread) : (s.updThr hall ctx f).log = s.log := rfl
@[simp] theorem State.updThr_lseq (s : State) (hall ctx : Nat) (f : Thread → Thread) : (s.updThr hall ctx f).lseq = s.lseq := rfl
@[simp] theorem State.updThr_stall (s : State) (hall ctx : Nat) (f : Thread → Thread) : (s.updThr hall ctx f).stall = s.stall := rfl
@[simp] theorem State.updThr_stalled (s : State) (hall ctx : Nat) (f : Thread → Thread) : (s.updThr hall ctx f).stalled = s.stalled := rfl
@[simp] theorem State.updThr_turn (s : State) (hall ctx : Nat) (f : Thread → Thread) : (s.updThr hall ctx f).turn = s.turn := rfl
@[simp] theorem State.updThr_fresh (s : State) (hall ctx : Nat) (f : Thread → Thread) : (s.updThr hall ctx f).fresh = s.fresh := rfl

/-! ### `State.setMe` -/

@[simp] theorem State.setMe_agenda (s : State) (t : Thread) : (s.setMe t).agenda = s.agenda := rfl
@[simp] theorem State.setMe_focus (s : State) (t : Thread) : (s.setMe t).focus = s.focus := rfl
@[simp] theorem State.setMe_mem (s : State) (t : Thread) : (s.setMe t).mem = s.mem := rfl
@[simp] theorem State.setMe_keys (s : State) (t : Thread) : (s.setMe t).keys = s.keys := rfl
@[simp] theorem State.setMe_edge (s : State) (t : Thread) : (s.setMe t).edge = s.edge := rfl
@[simp] theorem State.setMe_lctlb (s : State) (t : Thread) : (s.setMe t).lctlb = s.lctlb := rfl
@[simp] theorem State.setMe_icache (s : State) (t : Thread) : (s.setMe t).icache = s.icache := rfl
@[simp] theorem State.setMe_dcache (s : State) (t : Thread) : (s.setMe t).dcache = s.dcache := rfl
@[simp] theorem State.setMe_cycle (s : State) (t : Thread) : (s.setMe t).cycle = s.cycle := rfl
@[simp] theorem State.setMe_bars (s : State) (t : Thread) : (s.setMe t).bars = s.bars := rfl
@[simp] theorem State.setMe_barArr (s : State) (t : Thread) : (s.setMe t).barArr = s.barArr := rfl
@[simp] theorem State.setMe_barPh (s : State) (t : Thread) : (s.setMe t).barPh = s.barPh := rfl
@[simp] theorem State.setMe_bays (s : State) (t : Thread) : (s.setMe t).bays = s.bays := rfl
@[simp] theorem State.setMe_units (s : State) (t : Thread) : (s.setMe t).units = s.units := rfl
@[simp] theorem State.setMe_stairs (s : State) (t : Thread) : (s.setMe t).stairs = s.stairs := rfl
@[simp] theorem State.setMe_banks (s : State) (t : Thread) : (s.setMe t).banks = s.banks := rfl
@[simp] theorem State.setMe_net (s : State) (t : Thread) : (s.setMe t).net = s.net := rfl
@[simp] theorem State.setMe_gals (s : State) (t : Thread) : (s.setMe t).gals = s.gals := rfl
@[simp] theorem State.setMe_links (s : State) (t : Thread) : (s.setMe t).links = s.links := rfl
@[simp] theorem State.setMe_rlanes (s : State) (t : Thread) : (s.setMe t).rlanes = s.rlanes := rfl
@[simp] theorem State.setMe_linkAge (s : State) (t : Thread) : (s.setMe t).linkAge = s.linkAge := rfl
@[simp] theorem State.setMe_linkSeq (s : State) (t : Thread) : (s.setMe t).linkSeq = s.linkSeq := rfl
@[simp] theorem State.setMe_vecOpen (s : State) (t : Thread) : (s.setMe t).vecOpen = s.vecOpen := rfl
@[simp] theorem State.setMe_feed (s : State) (t : Thread) : (s.setMe t).feed = s.feed := rfl
@[simp] theorem State.setMe_inFrom (s : State) (t : Thread) : (s.setMe t).inFrom = s.inFrom := rfl
@[simp] theorem State.setMe_tokCnt (s : State) (t : Thread) : (s.setMe t).tokCnt = s.tokCnt := rfl
@[simp] theorem State.setMe_cfgs (s : State) (t : Thread) : (s.setMe t).cfgs = s.cfgs := rfl
@[simp] theorem State.setMe_slots (s : State) (t : Thread) : (s.setMe t).slots = s.slots := rfl
@[simp] theorem State.setMe_disps (s : State) (t : Thread) : (s.setMe t).disps = s.disps := rfl
@[simp] theorem State.setMe_regions (s : State) (t : Thread) : (s.setMe t).regions = s.regions := rfl
@[simp] theorem State.setMe_pool (s : State) (t : Thread) : (s.setMe t).pool = s.pool := rfl
@[simp] theorem State.setMe_gens (s : State) (t : Thread) : (s.setMe t).gens = s.gens := rfl
@[simp] theorem State.setMe_ltoks (s : State) (t : Thread) : (s.setMe t).ltoks = s.ltoks := rfl
@[simp] theorem State.setMe_saved (s : State) (t : Thread) : (s.setMe t).saved = s.saved := rfl
@[simp] theorem State.setMe_swapCount (s : State) (t : Thread) : (s.setMe t).swapCount = s.swapCount := rfl
@[simp] theorem State.setMe_walks (s : State) (t : Thread) : (s.setMe t).walks = s.walks := rfl
@[simp] theorem State.setMe_shoots (s : State) (t : Thread) : (s.setMe t).shoots = s.shoots := rfl
@[simp] theorem State.setMe_hallSt (s : State) (t : Thread) : (s.setMe t).hallSt = s.hallSt := rfl
@[simp] theorem State.setMe_arc (s : State) (t : Thread) : (s.setMe t).arc = s.arc := rfl
@[simp] theorem State.setMe_host (s : State) (t : Thread) : (s.setMe t).host = s.host := rfl
@[simp] theorem State.setMe_log (s : State) (t : Thread) : (s.setMe t).log = s.log := rfl
@[simp] theorem State.setMe_lseq (s : State) (t : Thread) : (s.setMe t).lseq = s.lseq := rfl
@[simp] theorem State.setMe_stall (s : State) (t : Thread) : (s.setMe t).stall = s.stall := rfl
@[simp] theorem State.setMe_stalled (s : State) (t : Thread) : (s.setMe t).stalled = s.stalled := rfl
@[simp] theorem State.setMe_turn (s : State) (t : Thread) : (s.setMe t).turn = s.turn := rfl
@[simp] theorem State.setMe_fresh (s : State) (t : Thread) : (s.setMe t).fresh = s.fresh := rfl

/-! ### `State.setBank` -/

@[simp] theorem State.setBank_agenda (s : State) (hall quad : Nat) (b : Bank) : (s.setBank hall quad b).agenda = s.agenda := rfl
@[simp] theorem State.setBank_focus (s : State) (hall quad : Nat) (b : Bank) : (s.setBank hall quad b).focus = s.focus := rfl
@[simp] theorem State.setBank_mem (s : State) (hall quad : Nat) (b : Bank) : (s.setBank hall quad b).mem = s.mem := rfl
@[simp] theorem State.setBank_keys (s : State) (hall quad : Nat) (b : Bank) : (s.setBank hall quad b).keys = s.keys := rfl
@[simp] theorem State.setBank_edge (s : State) (hall quad : Nat) (b : Bank) : (s.setBank hall quad b).edge = s.edge := rfl
@[simp] theorem State.setBank_threads (s : State) (hall quad : Nat) (b : Bank) : (s.setBank hall quad b).threads = s.threads := rfl
@[simp] theorem State.setBank_lctlb (s : State) (hall quad : Nat) (b : Bank) : (s.setBank hall quad b).lctlb = s.lctlb := rfl
@[simp] theorem State.setBank_icache (s : State) (hall quad : Nat) (b : Bank) : (s.setBank hall quad b).icache = s.icache := rfl
@[simp] theorem State.setBank_dcache (s : State) (hall quad : Nat) (b : Bank) : (s.setBank hall quad b).dcache = s.dcache := rfl
@[simp] theorem State.setBank_cycle (s : State) (hall quad : Nat) (b : Bank) : (s.setBank hall quad b).cycle = s.cycle := rfl
@[simp] theorem State.setBank_bars (s : State) (hall quad : Nat) (b : Bank) : (s.setBank hall quad b).bars = s.bars := rfl
@[simp] theorem State.setBank_barArr (s : State) (hall quad : Nat) (b : Bank) : (s.setBank hall quad b).barArr = s.barArr := rfl
@[simp] theorem State.setBank_barPh (s : State) (hall quad : Nat) (b : Bank) : (s.setBank hall quad b).barPh = s.barPh := rfl
@[simp] theorem State.setBank_bays (s : State) (hall quad : Nat) (b : Bank) : (s.setBank hall quad b).bays = s.bays := rfl
@[simp] theorem State.setBank_units (s : State) (hall quad : Nat) (b : Bank) : (s.setBank hall quad b).units = s.units := rfl
@[simp] theorem State.setBank_stairs (s : State) (hall quad : Nat) (b : Bank) : (s.setBank hall quad b).stairs = s.stairs := rfl
@[simp] theorem State.setBank_net (s : State) (hall quad : Nat) (b : Bank) : (s.setBank hall quad b).net = s.net := rfl
@[simp] theorem State.setBank_gals (s : State) (hall quad : Nat) (b : Bank) : (s.setBank hall quad b).gals = s.gals := rfl
@[simp] theorem State.setBank_links (s : State) (hall quad : Nat) (b : Bank) : (s.setBank hall quad b).links = s.links := rfl
@[simp] theorem State.setBank_rlanes (s : State) (hall quad : Nat) (b : Bank) : (s.setBank hall quad b).rlanes = s.rlanes := rfl
@[simp] theorem State.setBank_linkAge (s : State) (hall quad : Nat) (b : Bank) : (s.setBank hall quad b).linkAge = s.linkAge := rfl
@[simp] theorem State.setBank_linkSeq (s : State) (hall quad : Nat) (b : Bank) : (s.setBank hall quad b).linkSeq = s.linkSeq := rfl
@[simp] theorem State.setBank_vecOpen (s : State) (hall quad : Nat) (b : Bank) : (s.setBank hall quad b).vecOpen = s.vecOpen := rfl
@[simp] theorem State.setBank_feed (s : State) (hall quad : Nat) (b : Bank) : (s.setBank hall quad b).feed = s.feed := rfl
@[simp] theorem State.setBank_inFrom (s : State) (hall quad : Nat) (b : Bank) : (s.setBank hall quad b).inFrom = s.inFrom := rfl
@[simp] theorem State.setBank_tokCnt (s : State) (hall quad : Nat) (b : Bank) : (s.setBank hall quad b).tokCnt = s.tokCnt := rfl
@[simp] theorem State.setBank_cfgs (s : State) (hall quad : Nat) (b : Bank) : (s.setBank hall quad b).cfgs = s.cfgs := rfl
@[simp] theorem State.setBank_slots (s : State) (hall quad : Nat) (b : Bank) : (s.setBank hall quad b).slots = s.slots := rfl
@[simp] theorem State.setBank_disps (s : State) (hall quad : Nat) (b : Bank) : (s.setBank hall quad b).disps = s.disps := rfl
@[simp] theorem State.setBank_regions (s : State) (hall quad : Nat) (b : Bank) : (s.setBank hall quad b).regions = s.regions := rfl
@[simp] theorem State.setBank_pool (s : State) (hall quad : Nat) (b : Bank) : (s.setBank hall quad b).pool = s.pool := rfl
@[simp] theorem State.setBank_gens (s : State) (hall quad : Nat) (b : Bank) : (s.setBank hall quad b).gens = s.gens := rfl
@[simp] theorem State.setBank_ltoks (s : State) (hall quad : Nat) (b : Bank) : (s.setBank hall quad b).ltoks = s.ltoks := rfl
@[simp] theorem State.setBank_saved (s : State) (hall quad : Nat) (b : Bank) : (s.setBank hall quad b).saved = s.saved := rfl
@[simp] theorem State.setBank_swapCount (s : State) (hall quad : Nat) (b : Bank) : (s.setBank hall quad b).swapCount = s.swapCount := rfl
@[simp] theorem State.setBank_walks (s : State) (hall quad : Nat) (b : Bank) : (s.setBank hall quad b).walks = s.walks := rfl
@[simp] theorem State.setBank_shoots (s : State) (hall quad : Nat) (b : Bank) : (s.setBank hall quad b).shoots = s.shoots := rfl
@[simp] theorem State.setBank_hallSt (s : State) (hall quad : Nat) (b : Bank) : (s.setBank hall quad b).hallSt = s.hallSt := rfl
@[simp] theorem State.setBank_arc (s : State) (hall quad : Nat) (b : Bank) : (s.setBank hall quad b).arc = s.arc := rfl
@[simp] theorem State.setBank_host (s : State) (hall quad : Nat) (b : Bank) : (s.setBank hall quad b).host = s.host := rfl
@[simp] theorem State.setBank_log (s : State) (hall quad : Nat) (b : Bank) : (s.setBank hall quad b).log = s.log := rfl
@[simp] theorem State.setBank_lseq (s : State) (hall quad : Nat) (b : Bank) : (s.setBank hall quad b).lseq = s.lseq := rfl
@[simp] theorem State.setBank_stall (s : State) (hall quad : Nat) (b : Bank) : (s.setBank hall quad b).stall = s.stall := rfl
@[simp] theorem State.setBank_stalled (s : State) (hall quad : Nat) (b : Bank) : (s.setBank hall quad b).stalled = s.stalled := rfl
@[simp] theorem State.setBank_turn (s : State) (hall quad : Nat) (b : Bank) : (s.setBank hall quad b).turn = s.turn := rfl
@[simp] theorem State.setBank_fresh (s : State) (hall quad : Nat) (b : Bank) : (s.setBank hall quad b).fresh = s.fresh := rfl

/-! ### `State.updBank` -/

@[simp] theorem State.updBank_agenda (s : State) (hall quad : Nat) (f : Bank → Bank) : (s.updBank hall quad f).agenda = s.agenda := rfl
@[simp] theorem State.updBank_focus (s : State) (hall quad : Nat) (f : Bank → Bank) : (s.updBank hall quad f).focus = s.focus := rfl
@[simp] theorem State.updBank_mem (s : State) (hall quad : Nat) (f : Bank → Bank) : (s.updBank hall quad f).mem = s.mem := rfl
@[simp] theorem State.updBank_keys (s : State) (hall quad : Nat) (f : Bank → Bank) : (s.updBank hall quad f).keys = s.keys := rfl
@[simp] theorem State.updBank_edge (s : State) (hall quad : Nat) (f : Bank → Bank) : (s.updBank hall quad f).edge = s.edge := rfl
@[simp] theorem State.updBank_threads (s : State) (hall quad : Nat) (f : Bank → Bank) : (s.updBank hall quad f).threads = s.threads := rfl
@[simp] theorem State.updBank_lctlb (s : State) (hall quad : Nat) (f : Bank → Bank) : (s.updBank hall quad f).lctlb = s.lctlb := rfl
@[simp] theorem State.updBank_icache (s : State) (hall quad : Nat) (f : Bank → Bank) : (s.updBank hall quad f).icache = s.icache := rfl
@[simp] theorem State.updBank_dcache (s : State) (hall quad : Nat) (f : Bank → Bank) : (s.updBank hall quad f).dcache = s.dcache := rfl
@[simp] theorem State.updBank_cycle (s : State) (hall quad : Nat) (f : Bank → Bank) : (s.updBank hall quad f).cycle = s.cycle := rfl
@[simp] theorem State.updBank_bars (s : State) (hall quad : Nat) (f : Bank → Bank) : (s.updBank hall quad f).bars = s.bars := rfl
@[simp] theorem State.updBank_barArr (s : State) (hall quad : Nat) (f : Bank → Bank) : (s.updBank hall quad f).barArr = s.barArr := rfl
@[simp] theorem State.updBank_barPh (s : State) (hall quad : Nat) (f : Bank → Bank) : (s.updBank hall quad f).barPh = s.barPh := rfl
@[simp] theorem State.updBank_bays (s : State) (hall quad : Nat) (f : Bank → Bank) : (s.updBank hall quad f).bays = s.bays := rfl
@[simp] theorem State.updBank_units (s : State) (hall quad : Nat) (f : Bank → Bank) : (s.updBank hall quad f).units = s.units := rfl
@[simp] theorem State.updBank_stairs (s : State) (hall quad : Nat) (f : Bank → Bank) : (s.updBank hall quad f).stairs = s.stairs := rfl
@[simp] theorem State.updBank_net (s : State) (hall quad : Nat) (f : Bank → Bank) : (s.updBank hall quad f).net = s.net := rfl
@[simp] theorem State.updBank_gals (s : State) (hall quad : Nat) (f : Bank → Bank) : (s.updBank hall quad f).gals = s.gals := rfl
@[simp] theorem State.updBank_links (s : State) (hall quad : Nat) (f : Bank → Bank) : (s.updBank hall quad f).links = s.links := rfl
@[simp] theorem State.updBank_rlanes (s : State) (hall quad : Nat) (f : Bank → Bank) : (s.updBank hall quad f).rlanes = s.rlanes := rfl
@[simp] theorem State.updBank_linkAge (s : State) (hall quad : Nat) (f : Bank → Bank) : (s.updBank hall quad f).linkAge = s.linkAge := rfl
@[simp] theorem State.updBank_linkSeq (s : State) (hall quad : Nat) (f : Bank → Bank) : (s.updBank hall quad f).linkSeq = s.linkSeq := rfl
@[simp] theorem State.updBank_vecOpen (s : State) (hall quad : Nat) (f : Bank → Bank) : (s.updBank hall quad f).vecOpen = s.vecOpen := rfl
@[simp] theorem State.updBank_feed (s : State) (hall quad : Nat) (f : Bank → Bank) : (s.updBank hall quad f).feed = s.feed := rfl
@[simp] theorem State.updBank_inFrom (s : State) (hall quad : Nat) (f : Bank → Bank) : (s.updBank hall quad f).inFrom = s.inFrom := rfl
@[simp] theorem State.updBank_tokCnt (s : State) (hall quad : Nat) (f : Bank → Bank) : (s.updBank hall quad f).tokCnt = s.tokCnt := rfl
@[simp] theorem State.updBank_cfgs (s : State) (hall quad : Nat) (f : Bank → Bank) : (s.updBank hall quad f).cfgs = s.cfgs := rfl
@[simp] theorem State.updBank_slots (s : State) (hall quad : Nat) (f : Bank → Bank) : (s.updBank hall quad f).slots = s.slots := rfl
@[simp] theorem State.updBank_disps (s : State) (hall quad : Nat) (f : Bank → Bank) : (s.updBank hall quad f).disps = s.disps := rfl
@[simp] theorem State.updBank_regions (s : State) (hall quad : Nat) (f : Bank → Bank) : (s.updBank hall quad f).regions = s.regions := rfl
@[simp] theorem State.updBank_pool (s : State) (hall quad : Nat) (f : Bank → Bank) : (s.updBank hall quad f).pool = s.pool := rfl
@[simp] theorem State.updBank_gens (s : State) (hall quad : Nat) (f : Bank → Bank) : (s.updBank hall quad f).gens = s.gens := rfl
@[simp] theorem State.updBank_ltoks (s : State) (hall quad : Nat) (f : Bank → Bank) : (s.updBank hall quad f).ltoks = s.ltoks := rfl
@[simp] theorem State.updBank_saved (s : State) (hall quad : Nat) (f : Bank → Bank) : (s.updBank hall quad f).saved = s.saved := rfl
@[simp] theorem State.updBank_swapCount (s : State) (hall quad : Nat) (f : Bank → Bank) : (s.updBank hall quad f).swapCount = s.swapCount := rfl
@[simp] theorem State.updBank_walks (s : State) (hall quad : Nat) (f : Bank → Bank) : (s.updBank hall quad f).walks = s.walks := rfl
@[simp] theorem State.updBank_shoots (s : State) (hall quad : Nat) (f : Bank → Bank) : (s.updBank hall quad f).shoots = s.shoots := rfl
@[simp] theorem State.updBank_hallSt (s : State) (hall quad : Nat) (f : Bank → Bank) : (s.updBank hall quad f).hallSt = s.hallSt := rfl
@[simp] theorem State.updBank_arc (s : State) (hall quad : Nat) (f : Bank → Bank) : (s.updBank hall quad f).arc = s.arc := rfl
@[simp] theorem State.updBank_host (s : State) (hall quad : Nat) (f : Bank → Bank) : (s.updBank hall quad f).host = s.host := rfl
@[simp] theorem State.updBank_log (s : State) (hall quad : Nat) (f : Bank → Bank) : (s.updBank hall quad f).log = s.log := rfl
@[simp] theorem State.updBank_lseq (s : State) (hall quad : Nat) (f : Bank → Bank) : (s.updBank hall quad f).lseq = s.lseq := rfl
@[simp] theorem State.updBank_stall (s : State) (hall quad : Nat) (f : Bank → Bank) : (s.updBank hall quad f).stall = s.stall := rfl
@[simp] theorem State.updBank_stalled (s : State) (hall quad : Nat) (f : Bank → Bank) : (s.updBank hall quad f).stalled = s.stalled := rfl
@[simp] theorem State.updBank_turn (s : State) (hall quad : Nat) (f : Bank → Bank) : (s.updBank hall quad f).turn = s.turn := rfl
@[simp] theorem State.updBank_fresh (s : State) (hall quad : Nat) (f : Bank → Bank) : (s.updBank hall quad f).fresh = s.fresh := rfl

/-! ### `State.setGal` -/

@[simp] theorem State.setGal_agenda (s : State) (hall : Nat) (g : Gal) : (s.setGal hall g).agenda = s.agenda := rfl
@[simp] theorem State.setGal_focus (s : State) (hall : Nat) (g : Gal) : (s.setGal hall g).focus = s.focus := rfl
@[simp] theorem State.setGal_mem (s : State) (hall : Nat) (g : Gal) : (s.setGal hall g).mem = s.mem := rfl
@[simp] theorem State.setGal_keys (s : State) (hall : Nat) (g : Gal) : (s.setGal hall g).keys = s.keys := rfl
@[simp] theorem State.setGal_edge (s : State) (hall : Nat) (g : Gal) : (s.setGal hall g).edge = s.edge := rfl
@[simp] theorem State.setGal_threads (s : State) (hall : Nat) (g : Gal) : (s.setGal hall g).threads = s.threads := rfl
@[simp] theorem State.setGal_lctlb (s : State) (hall : Nat) (g : Gal) : (s.setGal hall g).lctlb = s.lctlb := rfl
@[simp] theorem State.setGal_icache (s : State) (hall : Nat) (g : Gal) : (s.setGal hall g).icache = s.icache := rfl
@[simp] theorem State.setGal_dcache (s : State) (hall : Nat) (g : Gal) : (s.setGal hall g).dcache = s.dcache := rfl
@[simp] theorem State.setGal_cycle (s : State) (hall : Nat) (g : Gal) : (s.setGal hall g).cycle = s.cycle := rfl
@[simp] theorem State.setGal_bars (s : State) (hall : Nat) (g : Gal) : (s.setGal hall g).bars = s.bars := rfl
@[simp] theorem State.setGal_barArr (s : State) (hall : Nat) (g : Gal) : (s.setGal hall g).barArr = s.barArr := rfl
@[simp] theorem State.setGal_barPh (s : State) (hall : Nat) (g : Gal) : (s.setGal hall g).barPh = s.barPh := rfl
@[simp] theorem State.setGal_bays (s : State) (hall : Nat) (g : Gal) : (s.setGal hall g).bays = s.bays := rfl
@[simp] theorem State.setGal_units (s : State) (hall : Nat) (g : Gal) : (s.setGal hall g).units = s.units := rfl
@[simp] theorem State.setGal_stairs (s : State) (hall : Nat) (g : Gal) : (s.setGal hall g).stairs = s.stairs := rfl
@[simp] theorem State.setGal_banks (s : State) (hall : Nat) (g : Gal) : (s.setGal hall g).banks = s.banks := rfl
@[simp] theorem State.setGal_net (s : State) (hall : Nat) (g : Gal) : (s.setGal hall g).net = s.net := rfl
@[simp] theorem State.setGal_links (s : State) (hall : Nat) (g : Gal) : (s.setGal hall g).links = s.links := rfl
@[simp] theorem State.setGal_rlanes (s : State) (hall : Nat) (g : Gal) : (s.setGal hall g).rlanes = s.rlanes := rfl
@[simp] theorem State.setGal_linkAge (s : State) (hall : Nat) (g : Gal) : (s.setGal hall g).linkAge = s.linkAge := rfl
@[simp] theorem State.setGal_linkSeq (s : State) (hall : Nat) (g : Gal) : (s.setGal hall g).linkSeq = s.linkSeq := rfl
@[simp] theorem State.setGal_vecOpen (s : State) (hall : Nat) (g : Gal) : (s.setGal hall g).vecOpen = s.vecOpen := rfl
@[simp] theorem State.setGal_feed (s : State) (hall : Nat) (g : Gal) : (s.setGal hall g).feed = s.feed := rfl
@[simp] theorem State.setGal_inFrom (s : State) (hall : Nat) (g : Gal) : (s.setGal hall g).inFrom = s.inFrom := rfl
@[simp] theorem State.setGal_tokCnt (s : State) (hall : Nat) (g : Gal) : (s.setGal hall g).tokCnt = s.tokCnt := rfl
@[simp] theorem State.setGal_cfgs (s : State) (hall : Nat) (g : Gal) : (s.setGal hall g).cfgs = s.cfgs := rfl
@[simp] theorem State.setGal_slots (s : State) (hall : Nat) (g : Gal) : (s.setGal hall g).slots = s.slots := rfl
@[simp] theorem State.setGal_disps (s : State) (hall : Nat) (g : Gal) : (s.setGal hall g).disps = s.disps := rfl
@[simp] theorem State.setGal_regions (s : State) (hall : Nat) (g : Gal) : (s.setGal hall g).regions = s.regions := rfl
@[simp] theorem State.setGal_pool (s : State) (hall : Nat) (g : Gal) : (s.setGal hall g).pool = s.pool := rfl
@[simp] theorem State.setGal_gens (s : State) (hall : Nat) (g : Gal) : (s.setGal hall g).gens = s.gens := rfl
@[simp] theorem State.setGal_ltoks (s : State) (hall : Nat) (g : Gal) : (s.setGal hall g).ltoks = s.ltoks := rfl
@[simp] theorem State.setGal_saved (s : State) (hall : Nat) (g : Gal) : (s.setGal hall g).saved = s.saved := rfl
@[simp] theorem State.setGal_swapCount (s : State) (hall : Nat) (g : Gal) : (s.setGal hall g).swapCount = s.swapCount := rfl
@[simp] theorem State.setGal_walks (s : State) (hall : Nat) (g : Gal) : (s.setGal hall g).walks = s.walks := rfl
@[simp] theorem State.setGal_shoots (s : State) (hall : Nat) (g : Gal) : (s.setGal hall g).shoots = s.shoots := rfl
@[simp] theorem State.setGal_hallSt (s : State) (hall : Nat) (g : Gal) : (s.setGal hall g).hallSt = s.hallSt := rfl
@[simp] theorem State.setGal_arc (s : State) (hall : Nat) (g : Gal) : (s.setGal hall g).arc = s.arc := rfl
@[simp] theorem State.setGal_host (s : State) (hall : Nat) (g : Gal) : (s.setGal hall g).host = s.host := rfl
@[simp] theorem State.setGal_log (s : State) (hall : Nat) (g : Gal) : (s.setGal hall g).log = s.log := rfl
@[simp] theorem State.setGal_lseq (s : State) (hall : Nat) (g : Gal) : (s.setGal hall g).lseq = s.lseq := rfl
@[simp] theorem State.setGal_stall (s : State) (hall : Nat) (g : Gal) : (s.setGal hall g).stall = s.stall := rfl
@[simp] theorem State.setGal_stalled (s : State) (hall : Nat) (g : Gal) : (s.setGal hall g).stalled = s.stalled := rfl
@[simp] theorem State.setGal_turn (s : State) (hall : Nat) (g : Gal) : (s.setGal hall g).turn = s.turn := rfl
@[simp] theorem State.setGal_fresh (s : State) (hall : Nat) (g : Gal) : (s.setGal hall g).fresh = s.fresh := rfl

/-! ### `State.updGal` -/

@[simp] theorem State.updGal_agenda (s : State) (hall : Nat) (f : Gal → Gal) : (s.updGal hall f).agenda = s.agenda := rfl
@[simp] theorem State.updGal_focus (s : State) (hall : Nat) (f : Gal → Gal) : (s.updGal hall f).focus = s.focus := rfl
@[simp] theorem State.updGal_mem (s : State) (hall : Nat) (f : Gal → Gal) : (s.updGal hall f).mem = s.mem := rfl
@[simp] theorem State.updGal_keys (s : State) (hall : Nat) (f : Gal → Gal) : (s.updGal hall f).keys = s.keys := rfl
@[simp] theorem State.updGal_edge (s : State) (hall : Nat) (f : Gal → Gal) : (s.updGal hall f).edge = s.edge := rfl
@[simp] theorem State.updGal_threads (s : State) (hall : Nat) (f : Gal → Gal) : (s.updGal hall f).threads = s.threads := rfl
@[simp] theorem State.updGal_lctlb (s : State) (hall : Nat) (f : Gal → Gal) : (s.updGal hall f).lctlb = s.lctlb := rfl
@[simp] theorem State.updGal_icache (s : State) (hall : Nat) (f : Gal → Gal) : (s.updGal hall f).icache = s.icache := rfl
@[simp] theorem State.updGal_dcache (s : State) (hall : Nat) (f : Gal → Gal) : (s.updGal hall f).dcache = s.dcache := rfl
@[simp] theorem State.updGal_cycle (s : State) (hall : Nat) (f : Gal → Gal) : (s.updGal hall f).cycle = s.cycle := rfl
@[simp] theorem State.updGal_bars (s : State) (hall : Nat) (f : Gal → Gal) : (s.updGal hall f).bars = s.bars := rfl
@[simp] theorem State.updGal_barArr (s : State) (hall : Nat) (f : Gal → Gal) : (s.updGal hall f).barArr = s.barArr := rfl
@[simp] theorem State.updGal_barPh (s : State) (hall : Nat) (f : Gal → Gal) : (s.updGal hall f).barPh = s.barPh := rfl
@[simp] theorem State.updGal_bays (s : State) (hall : Nat) (f : Gal → Gal) : (s.updGal hall f).bays = s.bays := rfl
@[simp] theorem State.updGal_units (s : State) (hall : Nat) (f : Gal → Gal) : (s.updGal hall f).units = s.units := rfl
@[simp] theorem State.updGal_stairs (s : State) (hall : Nat) (f : Gal → Gal) : (s.updGal hall f).stairs = s.stairs := rfl
@[simp] theorem State.updGal_banks (s : State) (hall : Nat) (f : Gal → Gal) : (s.updGal hall f).banks = s.banks := rfl
@[simp] theorem State.updGal_net (s : State) (hall : Nat) (f : Gal → Gal) : (s.updGal hall f).net = s.net := rfl
@[simp] theorem State.updGal_links (s : State) (hall : Nat) (f : Gal → Gal) : (s.updGal hall f).links = s.links := rfl
@[simp] theorem State.updGal_rlanes (s : State) (hall : Nat) (f : Gal → Gal) : (s.updGal hall f).rlanes = s.rlanes := rfl
@[simp] theorem State.updGal_linkAge (s : State) (hall : Nat) (f : Gal → Gal) : (s.updGal hall f).linkAge = s.linkAge := rfl
@[simp] theorem State.updGal_linkSeq (s : State) (hall : Nat) (f : Gal → Gal) : (s.updGal hall f).linkSeq = s.linkSeq := rfl
@[simp] theorem State.updGal_vecOpen (s : State) (hall : Nat) (f : Gal → Gal) : (s.updGal hall f).vecOpen = s.vecOpen := rfl
@[simp] theorem State.updGal_feed (s : State) (hall : Nat) (f : Gal → Gal) : (s.updGal hall f).feed = s.feed := rfl
@[simp] theorem State.updGal_inFrom (s : State) (hall : Nat) (f : Gal → Gal) : (s.updGal hall f).inFrom = s.inFrom := rfl
@[simp] theorem State.updGal_tokCnt (s : State) (hall : Nat) (f : Gal → Gal) : (s.updGal hall f).tokCnt = s.tokCnt := rfl
@[simp] theorem State.updGal_cfgs (s : State) (hall : Nat) (f : Gal → Gal) : (s.updGal hall f).cfgs = s.cfgs := rfl
@[simp] theorem State.updGal_slots (s : State) (hall : Nat) (f : Gal → Gal) : (s.updGal hall f).slots = s.slots := rfl
@[simp] theorem State.updGal_disps (s : State) (hall : Nat) (f : Gal → Gal) : (s.updGal hall f).disps = s.disps := rfl
@[simp] theorem State.updGal_regions (s : State) (hall : Nat) (f : Gal → Gal) : (s.updGal hall f).regions = s.regions := rfl
@[simp] theorem State.updGal_pool (s : State) (hall : Nat) (f : Gal → Gal) : (s.updGal hall f).pool = s.pool := rfl
@[simp] theorem State.updGal_gens (s : State) (hall : Nat) (f : Gal → Gal) : (s.updGal hall f).gens = s.gens := rfl
@[simp] theorem State.updGal_ltoks (s : State) (hall : Nat) (f : Gal → Gal) : (s.updGal hall f).ltoks = s.ltoks := rfl
@[simp] theorem State.updGal_saved (s : State) (hall : Nat) (f : Gal → Gal) : (s.updGal hall f).saved = s.saved := rfl
@[simp] theorem State.updGal_swapCount (s : State) (hall : Nat) (f : Gal → Gal) : (s.updGal hall f).swapCount = s.swapCount := rfl
@[simp] theorem State.updGal_walks (s : State) (hall : Nat) (f : Gal → Gal) : (s.updGal hall f).walks = s.walks := rfl
@[simp] theorem State.updGal_shoots (s : State) (hall : Nat) (f : Gal → Gal) : (s.updGal hall f).shoots = s.shoots := rfl
@[simp] theorem State.updGal_hallSt (s : State) (hall : Nat) (f : Gal → Gal) : (s.updGal hall f).hallSt = s.hallSt := rfl
@[simp] theorem State.updGal_arc (s : State) (hall : Nat) (f : Gal → Gal) : (s.updGal hall f).arc = s.arc := rfl
@[simp] theorem State.updGal_host (s : State) (hall : Nat) (f : Gal → Gal) : (s.updGal hall f).host = s.host := rfl
@[simp] theorem State.updGal_log (s : State) (hall : Nat) (f : Gal → Gal) : (s.updGal hall f).log = s.log := rfl
@[simp] theorem State.updGal_lseq (s : State) (hall : Nat) (f : Gal → Gal) : (s.updGal hall f).lseq = s.lseq := rfl
@[simp] theorem State.updGal_stall (s : State) (hall : Nat) (f : Gal → Gal) : (s.updGal hall f).stall = s.stall := rfl
@[simp] theorem State.updGal_stalled (s : State) (hall : Nat) (f : Gal → Gal) : (s.updGal hall f).stalled = s.stalled := rfl
@[simp] theorem State.updGal_turn (s : State) (hall : Nat) (f : Gal → Gal) : (s.updGal hall f).turn = s.turn := rfl
@[simp] theorem State.updGal_fresh (s : State) (hall : Nat) (f : Gal → Gal) : (s.updGal hall f).fresh = s.fresh := rfl

/-! ### `State.updGctx` -/

@[simp] theorem State.updGctx_agenda (s : State) (hall ctx : Nat) (f : GCtx → GCtx) : (s.updGctx hall ctx f).agenda = s.agenda := rfl
@[simp] theorem State.updGctx_focus (s : State) (hall ctx : Nat) (f : GCtx → GCtx) : (s.updGctx hall ctx f).focus = s.focus := rfl
@[simp] theorem State.updGctx_mem (s : State) (hall ctx : Nat) (f : GCtx → GCtx) : (s.updGctx hall ctx f).mem = s.mem := rfl
@[simp] theorem State.updGctx_keys (s : State) (hall ctx : Nat) (f : GCtx → GCtx) : (s.updGctx hall ctx f).keys = s.keys := rfl
@[simp] theorem State.updGctx_edge (s : State) (hall ctx : Nat) (f : GCtx → GCtx) : (s.updGctx hall ctx f).edge = s.edge := rfl
@[simp] theorem State.updGctx_threads (s : State) (hall ctx : Nat) (f : GCtx → GCtx) : (s.updGctx hall ctx f).threads = s.threads := rfl
@[simp] theorem State.updGctx_lctlb (s : State) (hall ctx : Nat) (f : GCtx → GCtx) : (s.updGctx hall ctx f).lctlb = s.lctlb := rfl
@[simp] theorem State.updGctx_icache (s : State) (hall ctx : Nat) (f : GCtx → GCtx) : (s.updGctx hall ctx f).icache = s.icache := rfl
@[simp] theorem State.updGctx_dcache (s : State) (hall ctx : Nat) (f : GCtx → GCtx) : (s.updGctx hall ctx f).dcache = s.dcache := rfl
@[simp] theorem State.updGctx_cycle (s : State) (hall ctx : Nat) (f : GCtx → GCtx) : (s.updGctx hall ctx f).cycle = s.cycle := rfl
@[simp] theorem State.updGctx_bars (s : State) (hall ctx : Nat) (f : GCtx → GCtx) : (s.updGctx hall ctx f).bars = s.bars := rfl
@[simp] theorem State.updGctx_barArr (s : State) (hall ctx : Nat) (f : GCtx → GCtx) : (s.updGctx hall ctx f).barArr = s.barArr := rfl
@[simp] theorem State.updGctx_barPh (s : State) (hall ctx : Nat) (f : GCtx → GCtx) : (s.updGctx hall ctx f).barPh = s.barPh := rfl
@[simp] theorem State.updGctx_bays (s : State) (hall ctx : Nat) (f : GCtx → GCtx) : (s.updGctx hall ctx f).bays = s.bays := rfl
@[simp] theorem State.updGctx_units (s : State) (hall ctx : Nat) (f : GCtx → GCtx) : (s.updGctx hall ctx f).units = s.units := rfl
@[simp] theorem State.updGctx_stairs (s : State) (hall ctx : Nat) (f : GCtx → GCtx) : (s.updGctx hall ctx f).stairs = s.stairs := rfl
@[simp] theorem State.updGctx_banks (s : State) (hall ctx : Nat) (f : GCtx → GCtx) : (s.updGctx hall ctx f).banks = s.banks := rfl
@[simp] theorem State.updGctx_net (s : State) (hall ctx : Nat) (f : GCtx → GCtx) : (s.updGctx hall ctx f).net = s.net := rfl
@[simp] theorem State.updGctx_links (s : State) (hall ctx : Nat) (f : GCtx → GCtx) : (s.updGctx hall ctx f).links = s.links := rfl
@[simp] theorem State.updGctx_rlanes (s : State) (hall ctx : Nat) (f : GCtx → GCtx) : (s.updGctx hall ctx f).rlanes = s.rlanes := rfl
@[simp] theorem State.updGctx_linkAge (s : State) (hall ctx : Nat) (f : GCtx → GCtx) : (s.updGctx hall ctx f).linkAge = s.linkAge := rfl
@[simp] theorem State.updGctx_linkSeq (s : State) (hall ctx : Nat) (f : GCtx → GCtx) : (s.updGctx hall ctx f).linkSeq = s.linkSeq := rfl
@[simp] theorem State.updGctx_vecOpen (s : State) (hall ctx : Nat) (f : GCtx → GCtx) : (s.updGctx hall ctx f).vecOpen = s.vecOpen := rfl
@[simp] theorem State.updGctx_feed (s : State) (hall ctx : Nat) (f : GCtx → GCtx) : (s.updGctx hall ctx f).feed = s.feed := rfl
@[simp] theorem State.updGctx_inFrom (s : State) (hall ctx : Nat) (f : GCtx → GCtx) : (s.updGctx hall ctx f).inFrom = s.inFrom := rfl
@[simp] theorem State.updGctx_tokCnt (s : State) (hall ctx : Nat) (f : GCtx → GCtx) : (s.updGctx hall ctx f).tokCnt = s.tokCnt := rfl
@[simp] theorem State.updGctx_cfgs (s : State) (hall ctx : Nat) (f : GCtx → GCtx) : (s.updGctx hall ctx f).cfgs = s.cfgs := rfl
@[simp] theorem State.updGctx_slots (s : State) (hall ctx : Nat) (f : GCtx → GCtx) : (s.updGctx hall ctx f).slots = s.slots := rfl
@[simp] theorem State.updGctx_disps (s : State) (hall ctx : Nat) (f : GCtx → GCtx) : (s.updGctx hall ctx f).disps = s.disps := rfl
@[simp] theorem State.updGctx_regions (s : State) (hall ctx : Nat) (f : GCtx → GCtx) : (s.updGctx hall ctx f).regions = s.regions := rfl
@[simp] theorem State.updGctx_pool (s : State) (hall ctx : Nat) (f : GCtx → GCtx) : (s.updGctx hall ctx f).pool = s.pool := rfl
@[simp] theorem State.updGctx_gens (s : State) (hall ctx : Nat) (f : GCtx → GCtx) : (s.updGctx hall ctx f).gens = s.gens := rfl
@[simp] theorem State.updGctx_ltoks (s : State) (hall ctx : Nat) (f : GCtx → GCtx) : (s.updGctx hall ctx f).ltoks = s.ltoks := rfl
@[simp] theorem State.updGctx_saved (s : State) (hall ctx : Nat) (f : GCtx → GCtx) : (s.updGctx hall ctx f).saved = s.saved := rfl
@[simp] theorem State.updGctx_swapCount (s : State) (hall ctx : Nat) (f : GCtx → GCtx) : (s.updGctx hall ctx f).swapCount = s.swapCount := rfl
@[simp] theorem State.updGctx_walks (s : State) (hall ctx : Nat) (f : GCtx → GCtx) : (s.updGctx hall ctx f).walks = s.walks := rfl
@[simp] theorem State.updGctx_shoots (s : State) (hall ctx : Nat) (f : GCtx → GCtx) : (s.updGctx hall ctx f).shoots = s.shoots := rfl
@[simp] theorem State.updGctx_hallSt (s : State) (hall ctx : Nat) (f : GCtx → GCtx) : (s.updGctx hall ctx f).hallSt = s.hallSt := rfl
@[simp] theorem State.updGctx_arc (s : State) (hall ctx : Nat) (f : GCtx → GCtx) : (s.updGctx hall ctx f).arc = s.arc := rfl
@[simp] theorem State.updGctx_host (s : State) (hall ctx : Nat) (f : GCtx → GCtx) : (s.updGctx hall ctx f).host = s.host := rfl
@[simp] theorem State.updGctx_log (s : State) (hall ctx : Nat) (f : GCtx → GCtx) : (s.updGctx hall ctx f).log = s.log := rfl
@[simp] theorem State.updGctx_lseq (s : State) (hall ctx : Nat) (f : GCtx → GCtx) : (s.updGctx hall ctx f).lseq = s.lseq := rfl
@[simp] theorem State.updGctx_stall (s : State) (hall ctx : Nat) (f : GCtx → GCtx) : (s.updGctx hall ctx f).stall = s.stall := rfl
@[simp] theorem State.updGctx_stalled (s : State) (hall ctx : Nat) (f : GCtx → GCtx) : (s.updGctx hall ctx f).stalled = s.stalled := rfl
@[simp] theorem State.updGctx_turn (s : State) (hall ctx : Nat) (f : GCtx → GCtx) : (s.updGctx hall ctx f).turn = s.turn := rfl
@[simp] theorem State.updGctx_fresh (s : State) (hall ctx : Nat) (f : GCtx → GCtx) : (s.updGctx hall ctx f).fresh = s.fresh := rfl

/-! ### `State.setBayCtx` -/

@[simp] theorem State.setBayCtx_agenda (s : State) (hall bay ctx : Nat) (b : BayCtx) : (s.setBayCtx hall bay ctx b).agenda = s.agenda := rfl
@[simp] theorem State.setBayCtx_focus (s : State) (hall bay ctx : Nat) (b : BayCtx) : (s.setBayCtx hall bay ctx b).focus = s.focus := rfl
@[simp] theorem State.setBayCtx_mem (s : State) (hall bay ctx : Nat) (b : BayCtx) : (s.setBayCtx hall bay ctx b).mem = s.mem := rfl
@[simp] theorem State.setBayCtx_keys (s : State) (hall bay ctx : Nat) (b : BayCtx) : (s.setBayCtx hall bay ctx b).keys = s.keys := rfl
@[simp] theorem State.setBayCtx_edge (s : State) (hall bay ctx : Nat) (b : BayCtx) : (s.setBayCtx hall bay ctx b).edge = s.edge := rfl
@[simp] theorem State.setBayCtx_threads (s : State) (hall bay ctx : Nat) (b : BayCtx) : (s.setBayCtx hall bay ctx b).threads = s.threads := rfl
@[simp] theorem State.setBayCtx_lctlb (s : State) (hall bay ctx : Nat) (b : BayCtx) : (s.setBayCtx hall bay ctx b).lctlb = s.lctlb := rfl
@[simp] theorem State.setBayCtx_icache (s : State) (hall bay ctx : Nat) (b : BayCtx) : (s.setBayCtx hall bay ctx b).icache = s.icache := rfl
@[simp] theorem State.setBayCtx_dcache (s : State) (hall bay ctx : Nat) (b : BayCtx) : (s.setBayCtx hall bay ctx b).dcache = s.dcache := rfl
@[simp] theorem State.setBayCtx_cycle (s : State) (hall bay ctx : Nat) (b : BayCtx) : (s.setBayCtx hall bay ctx b).cycle = s.cycle := rfl
@[simp] theorem State.setBayCtx_bars (s : State) (hall bay ctx : Nat) (b : BayCtx) : (s.setBayCtx hall bay ctx b).bars = s.bars := rfl
@[simp] theorem State.setBayCtx_barArr (s : State) (hall bay ctx : Nat) (b : BayCtx) : (s.setBayCtx hall bay ctx b).barArr = s.barArr := rfl
@[simp] theorem State.setBayCtx_barPh (s : State) (hall bay ctx : Nat) (b : BayCtx) : (s.setBayCtx hall bay ctx b).barPh = s.barPh := rfl
@[simp] theorem State.setBayCtx_units (s : State) (hall bay ctx : Nat) (b : BayCtx) : (s.setBayCtx hall bay ctx b).units = s.units := rfl
@[simp] theorem State.setBayCtx_stairs (s : State) (hall bay ctx : Nat) (b : BayCtx) : (s.setBayCtx hall bay ctx b).stairs = s.stairs := rfl
@[simp] theorem State.setBayCtx_banks (s : State) (hall bay ctx : Nat) (b : BayCtx) : (s.setBayCtx hall bay ctx b).banks = s.banks := rfl
@[simp] theorem State.setBayCtx_net (s : State) (hall bay ctx : Nat) (b : BayCtx) : (s.setBayCtx hall bay ctx b).net = s.net := rfl
@[simp] theorem State.setBayCtx_gals (s : State) (hall bay ctx : Nat) (b : BayCtx) : (s.setBayCtx hall bay ctx b).gals = s.gals := rfl
@[simp] theorem State.setBayCtx_links (s : State) (hall bay ctx : Nat) (b : BayCtx) : (s.setBayCtx hall bay ctx b).links = s.links := rfl
@[simp] theorem State.setBayCtx_rlanes (s : State) (hall bay ctx : Nat) (b : BayCtx) : (s.setBayCtx hall bay ctx b).rlanes = s.rlanes := rfl
@[simp] theorem State.setBayCtx_linkAge (s : State) (hall bay ctx : Nat) (b : BayCtx) : (s.setBayCtx hall bay ctx b).linkAge = s.linkAge := rfl
@[simp] theorem State.setBayCtx_linkSeq (s : State) (hall bay ctx : Nat) (b : BayCtx) : (s.setBayCtx hall bay ctx b).linkSeq = s.linkSeq := rfl
@[simp] theorem State.setBayCtx_vecOpen (s : State) (hall bay ctx : Nat) (b : BayCtx) : (s.setBayCtx hall bay ctx b).vecOpen = s.vecOpen := rfl
@[simp] theorem State.setBayCtx_feed (s : State) (hall bay ctx : Nat) (b : BayCtx) : (s.setBayCtx hall bay ctx b).feed = s.feed := rfl
@[simp] theorem State.setBayCtx_inFrom (s : State) (hall bay ctx : Nat) (b : BayCtx) : (s.setBayCtx hall bay ctx b).inFrom = s.inFrom := rfl
@[simp] theorem State.setBayCtx_tokCnt (s : State) (hall bay ctx : Nat) (b : BayCtx) : (s.setBayCtx hall bay ctx b).tokCnt = s.tokCnt := rfl
@[simp] theorem State.setBayCtx_cfgs (s : State) (hall bay ctx : Nat) (b : BayCtx) : (s.setBayCtx hall bay ctx b).cfgs = s.cfgs := rfl
@[simp] theorem State.setBayCtx_slots (s : State) (hall bay ctx : Nat) (b : BayCtx) : (s.setBayCtx hall bay ctx b).slots = s.slots := rfl
@[simp] theorem State.setBayCtx_disps (s : State) (hall bay ctx : Nat) (b : BayCtx) : (s.setBayCtx hall bay ctx b).disps = s.disps := rfl
@[simp] theorem State.setBayCtx_regions (s : State) (hall bay ctx : Nat) (b : BayCtx) : (s.setBayCtx hall bay ctx b).regions = s.regions := rfl
@[simp] theorem State.setBayCtx_pool (s : State) (hall bay ctx : Nat) (b : BayCtx) : (s.setBayCtx hall bay ctx b).pool = s.pool := rfl
@[simp] theorem State.setBayCtx_gens (s : State) (hall bay ctx : Nat) (b : BayCtx) : (s.setBayCtx hall bay ctx b).gens = s.gens := rfl
@[simp] theorem State.setBayCtx_ltoks (s : State) (hall bay ctx : Nat) (b : BayCtx) : (s.setBayCtx hall bay ctx b).ltoks = s.ltoks := rfl
@[simp] theorem State.setBayCtx_saved (s : State) (hall bay ctx : Nat) (b : BayCtx) : (s.setBayCtx hall bay ctx b).saved = s.saved := rfl
@[simp] theorem State.setBayCtx_swapCount (s : State) (hall bay ctx : Nat) (b : BayCtx) : (s.setBayCtx hall bay ctx b).swapCount = s.swapCount := rfl
@[simp] theorem State.setBayCtx_walks (s : State) (hall bay ctx : Nat) (b : BayCtx) : (s.setBayCtx hall bay ctx b).walks = s.walks := rfl
@[simp] theorem State.setBayCtx_shoots (s : State) (hall bay ctx : Nat) (b : BayCtx) : (s.setBayCtx hall bay ctx b).shoots = s.shoots := rfl
@[simp] theorem State.setBayCtx_hallSt (s : State) (hall bay ctx : Nat) (b : BayCtx) : (s.setBayCtx hall bay ctx b).hallSt = s.hallSt := rfl
@[simp] theorem State.setBayCtx_arc (s : State) (hall bay ctx : Nat) (b : BayCtx) : (s.setBayCtx hall bay ctx b).arc = s.arc := rfl
@[simp] theorem State.setBayCtx_host (s : State) (hall bay ctx : Nat) (b : BayCtx) : (s.setBayCtx hall bay ctx b).host = s.host := rfl
@[simp] theorem State.setBayCtx_log (s : State) (hall bay ctx : Nat) (b : BayCtx) : (s.setBayCtx hall bay ctx b).log = s.log := rfl
@[simp] theorem State.setBayCtx_lseq (s : State) (hall bay ctx : Nat) (b : BayCtx) : (s.setBayCtx hall bay ctx b).lseq = s.lseq := rfl
@[simp] theorem State.setBayCtx_stall (s : State) (hall bay ctx : Nat) (b : BayCtx) : (s.setBayCtx hall bay ctx b).stall = s.stall := rfl
@[simp] theorem State.setBayCtx_stalled (s : State) (hall bay ctx : Nat) (b : BayCtx) : (s.setBayCtx hall bay ctx b).stalled = s.stalled := rfl
@[simp] theorem State.setBayCtx_turn (s : State) (hall bay ctx : Nat) (b : BayCtx) : (s.setBayCtx hall bay ctx b).turn = s.turn := rfl
@[simp] theorem State.setBayCtx_fresh (s : State) (hall bay ctx : Nat) (b : BayCtx) : (s.setBayCtx hall bay ctx b).fresh = s.fresh := rfl

/-! ### `State.setMyBay` -/

@[simp] theorem State.setMyBay_agenda (s : State) (b : BayCtx) : (s.setMyBay b).agenda = s.agenda := rfl
@[simp] theorem State.setMyBay_focus (s : State) (b : BayCtx) : (s.setMyBay b).focus = s.focus := rfl
@[simp] theorem State.setMyBay_mem (s : State) (b : BayCtx) : (s.setMyBay b).mem = s.mem := rfl
@[simp] theorem State.setMyBay_keys (s : State) (b : BayCtx) : (s.setMyBay b).keys = s.keys := rfl
@[simp] theorem State.setMyBay_edge (s : State) (b : BayCtx) : (s.setMyBay b).edge = s.edge := rfl
@[simp] theorem State.setMyBay_threads (s : State) (b : BayCtx) : (s.setMyBay b).threads = s.threads := rfl
@[simp] theorem State.setMyBay_lctlb (s : State) (b : BayCtx) : (s.setMyBay b).lctlb = s.lctlb := rfl
@[simp] theorem State.setMyBay_icache (s : State) (b : BayCtx) : (s.setMyBay b).icache = s.icache := rfl
@[simp] theorem State.setMyBay_dcache (s : State) (b : BayCtx) : (s.setMyBay b).dcache = s.dcache := rfl
@[simp] theorem State.setMyBay_cycle (s : State) (b : BayCtx) : (s.setMyBay b).cycle = s.cycle := rfl
@[simp] theorem State.setMyBay_bars (s : State) (b : BayCtx) : (s.setMyBay b).bars = s.bars := rfl
@[simp] theorem State.setMyBay_barArr (s : State) (b : BayCtx) : (s.setMyBay b).barArr = s.barArr := rfl
@[simp] theorem State.setMyBay_barPh (s : State) (b : BayCtx) : (s.setMyBay b).barPh = s.barPh := rfl
@[simp] theorem State.setMyBay_units (s : State) (b : BayCtx) : (s.setMyBay b).units = s.units := rfl
@[simp] theorem State.setMyBay_stairs (s : State) (b : BayCtx) : (s.setMyBay b).stairs = s.stairs := rfl
@[simp] theorem State.setMyBay_banks (s : State) (b : BayCtx) : (s.setMyBay b).banks = s.banks := rfl
@[simp] theorem State.setMyBay_net (s : State) (b : BayCtx) : (s.setMyBay b).net = s.net := rfl
@[simp] theorem State.setMyBay_gals (s : State) (b : BayCtx) : (s.setMyBay b).gals = s.gals := rfl
@[simp] theorem State.setMyBay_links (s : State) (b : BayCtx) : (s.setMyBay b).links = s.links := rfl
@[simp] theorem State.setMyBay_rlanes (s : State) (b : BayCtx) : (s.setMyBay b).rlanes = s.rlanes := rfl
@[simp] theorem State.setMyBay_linkAge (s : State) (b : BayCtx) : (s.setMyBay b).linkAge = s.linkAge := rfl
@[simp] theorem State.setMyBay_linkSeq (s : State) (b : BayCtx) : (s.setMyBay b).linkSeq = s.linkSeq := rfl
@[simp] theorem State.setMyBay_vecOpen (s : State) (b : BayCtx) : (s.setMyBay b).vecOpen = s.vecOpen := rfl
@[simp] theorem State.setMyBay_feed (s : State) (b : BayCtx) : (s.setMyBay b).feed = s.feed := rfl
@[simp] theorem State.setMyBay_inFrom (s : State) (b : BayCtx) : (s.setMyBay b).inFrom = s.inFrom := rfl
@[simp] theorem State.setMyBay_tokCnt (s : State) (b : BayCtx) : (s.setMyBay b).tokCnt = s.tokCnt := rfl
@[simp] theorem State.setMyBay_cfgs (s : State) (b : BayCtx) : (s.setMyBay b).cfgs = s.cfgs := rfl
@[simp] theorem State.setMyBay_slots (s : State) (b : BayCtx) : (s.setMyBay b).slots = s.slots := rfl
@[simp] theorem State.setMyBay_disps (s : State) (b : BayCtx) : (s.setMyBay b).disps = s.disps := rfl
@[simp] theorem State.setMyBay_regions (s : State) (b : BayCtx) : (s.setMyBay b).regions = s.regions := rfl
@[simp] theorem State.setMyBay_pool (s : State) (b : BayCtx) : (s.setMyBay b).pool = s.pool := rfl
@[simp] theorem State.setMyBay_gens (s : State) (b : BayCtx) : (s.setMyBay b).gens = s.gens := rfl
@[simp] theorem State.setMyBay_ltoks (s : State) (b : BayCtx) : (s.setMyBay b).ltoks = s.ltoks := rfl
@[simp] theorem State.setMyBay_saved (s : State) (b : BayCtx) : (s.setMyBay b).saved = s.saved := rfl
@[simp] theorem State.setMyBay_swapCount (s : State) (b : BayCtx) : (s.setMyBay b).swapCount = s.swapCount := rfl
@[simp] theorem State.setMyBay_walks (s : State) (b : BayCtx) : (s.setMyBay b).walks = s.walks := rfl
@[simp] theorem State.setMyBay_shoots (s : State) (b : BayCtx) : (s.setMyBay b).shoots = s.shoots := rfl
@[simp] theorem State.setMyBay_hallSt (s : State) (b : BayCtx) : (s.setMyBay b).hallSt = s.hallSt := rfl
@[simp] theorem State.setMyBay_arc (s : State) (b : BayCtx) : (s.setMyBay b).arc = s.arc := rfl
@[simp] theorem State.setMyBay_host (s : State) (b : BayCtx) : (s.setMyBay b).host = s.host := rfl
@[simp] theorem State.setMyBay_log (s : State) (b : BayCtx) : (s.setMyBay b).log = s.log := rfl
@[simp] theorem State.setMyBay_lseq (s : State) (b : BayCtx) : (s.setMyBay b).lseq = s.lseq := rfl
@[simp] theorem State.setMyBay_stall (s : State) (b : BayCtx) : (s.setMyBay b).stall = s.stall := rfl
@[simp] theorem State.setMyBay_stalled (s : State) (b : BayCtx) : (s.setMyBay b).stalled = s.stalled := rfl
@[simp] theorem State.setMyBay_turn (s : State) (b : BayCtx) : (s.setMyBay b).turn = s.turn := rfl
@[simp] theorem State.setMyBay_fresh (s : State) (b : BayCtx) : (s.setMyBay b).fresh = s.fresh := rfl

/-! ### `State.updMyBay` -/

@[simp] theorem State.updMyBay_agenda (s : State) (f : BayCtx → BayCtx) : (s.updMyBay f).agenda = s.agenda := rfl
@[simp] theorem State.updMyBay_focus (s : State) (f : BayCtx → BayCtx) : (s.updMyBay f).focus = s.focus := rfl
@[simp] theorem State.updMyBay_mem (s : State) (f : BayCtx → BayCtx) : (s.updMyBay f).mem = s.mem := rfl
@[simp] theorem State.updMyBay_keys (s : State) (f : BayCtx → BayCtx) : (s.updMyBay f).keys = s.keys := rfl
@[simp] theorem State.updMyBay_edge (s : State) (f : BayCtx → BayCtx) : (s.updMyBay f).edge = s.edge := rfl
@[simp] theorem State.updMyBay_threads (s : State) (f : BayCtx → BayCtx) : (s.updMyBay f).threads = s.threads := rfl
@[simp] theorem State.updMyBay_lctlb (s : State) (f : BayCtx → BayCtx) : (s.updMyBay f).lctlb = s.lctlb := rfl
@[simp] theorem State.updMyBay_icache (s : State) (f : BayCtx → BayCtx) : (s.updMyBay f).icache = s.icache := rfl
@[simp] theorem State.updMyBay_dcache (s : State) (f : BayCtx → BayCtx) : (s.updMyBay f).dcache = s.dcache := rfl
@[simp] theorem State.updMyBay_cycle (s : State) (f : BayCtx → BayCtx) : (s.updMyBay f).cycle = s.cycle := rfl
@[simp] theorem State.updMyBay_bars (s : State) (f : BayCtx → BayCtx) : (s.updMyBay f).bars = s.bars := rfl
@[simp] theorem State.updMyBay_barArr (s : State) (f : BayCtx → BayCtx) : (s.updMyBay f).barArr = s.barArr := rfl
@[simp] theorem State.updMyBay_barPh (s : State) (f : BayCtx → BayCtx) : (s.updMyBay f).barPh = s.barPh := rfl
@[simp] theorem State.updMyBay_units (s : State) (f : BayCtx → BayCtx) : (s.updMyBay f).units = s.units := rfl
@[simp] theorem State.updMyBay_stairs (s : State) (f : BayCtx → BayCtx) : (s.updMyBay f).stairs = s.stairs := rfl
@[simp] theorem State.updMyBay_banks (s : State) (f : BayCtx → BayCtx) : (s.updMyBay f).banks = s.banks := rfl
@[simp] theorem State.updMyBay_net (s : State) (f : BayCtx → BayCtx) : (s.updMyBay f).net = s.net := rfl
@[simp] theorem State.updMyBay_gals (s : State) (f : BayCtx → BayCtx) : (s.updMyBay f).gals = s.gals := rfl
@[simp] theorem State.updMyBay_links (s : State) (f : BayCtx → BayCtx) : (s.updMyBay f).links = s.links := rfl
@[simp] theorem State.updMyBay_rlanes (s : State) (f : BayCtx → BayCtx) : (s.updMyBay f).rlanes = s.rlanes := rfl
@[simp] theorem State.updMyBay_linkAge (s : State) (f : BayCtx → BayCtx) : (s.updMyBay f).linkAge = s.linkAge := rfl
@[simp] theorem State.updMyBay_linkSeq (s : State) (f : BayCtx → BayCtx) : (s.updMyBay f).linkSeq = s.linkSeq := rfl
@[simp] theorem State.updMyBay_vecOpen (s : State) (f : BayCtx → BayCtx) : (s.updMyBay f).vecOpen = s.vecOpen := rfl
@[simp] theorem State.updMyBay_feed (s : State) (f : BayCtx → BayCtx) : (s.updMyBay f).feed = s.feed := rfl
@[simp] theorem State.updMyBay_inFrom (s : State) (f : BayCtx → BayCtx) : (s.updMyBay f).inFrom = s.inFrom := rfl
@[simp] theorem State.updMyBay_tokCnt (s : State) (f : BayCtx → BayCtx) : (s.updMyBay f).tokCnt = s.tokCnt := rfl
@[simp] theorem State.updMyBay_cfgs (s : State) (f : BayCtx → BayCtx) : (s.updMyBay f).cfgs = s.cfgs := rfl
@[simp] theorem State.updMyBay_slots (s : State) (f : BayCtx → BayCtx) : (s.updMyBay f).slots = s.slots := rfl
@[simp] theorem State.updMyBay_disps (s : State) (f : BayCtx → BayCtx) : (s.updMyBay f).disps = s.disps := rfl
@[simp] theorem State.updMyBay_regions (s : State) (f : BayCtx → BayCtx) : (s.updMyBay f).regions = s.regions := rfl
@[simp] theorem State.updMyBay_pool (s : State) (f : BayCtx → BayCtx) : (s.updMyBay f).pool = s.pool := rfl
@[simp] theorem State.updMyBay_gens (s : State) (f : BayCtx → BayCtx) : (s.updMyBay f).gens = s.gens := rfl
@[simp] theorem State.updMyBay_ltoks (s : State) (f : BayCtx → BayCtx) : (s.updMyBay f).ltoks = s.ltoks := rfl
@[simp] theorem State.updMyBay_saved (s : State) (f : BayCtx → BayCtx) : (s.updMyBay f).saved = s.saved := rfl
@[simp] theorem State.updMyBay_swapCount (s : State) (f : BayCtx → BayCtx) : (s.updMyBay f).swapCount = s.swapCount := rfl
@[simp] theorem State.updMyBay_walks (s : State) (f : BayCtx → BayCtx) : (s.updMyBay f).walks = s.walks := rfl
@[simp] theorem State.updMyBay_shoots (s : State) (f : BayCtx → BayCtx) : (s.updMyBay f).shoots = s.shoots := rfl
@[simp] theorem State.updMyBay_hallSt (s : State) (f : BayCtx → BayCtx) : (s.updMyBay f).hallSt = s.hallSt := rfl
@[simp] theorem State.updMyBay_arc (s : State) (f : BayCtx → BayCtx) : (s.updMyBay f).arc = s.arc := rfl
@[simp] theorem State.updMyBay_host (s : State) (f : BayCtx → BayCtx) : (s.updMyBay f).host = s.host := rfl
@[simp] theorem State.updMyBay_log (s : State) (f : BayCtx → BayCtx) : (s.updMyBay f).log = s.log := rfl
@[simp] theorem State.updMyBay_lseq (s : State) (f : BayCtx → BayCtx) : (s.updMyBay f).lseq = s.lseq := rfl
@[simp] theorem State.updMyBay_stall (s : State) (f : BayCtx → BayCtx) : (s.updMyBay f).stall = s.stall := rfl
@[simp] theorem State.updMyBay_stalled (s : State) (f : BayCtx → BayCtx) : (s.updMyBay f).stalled = s.stalled := rfl
@[simp] theorem State.updMyBay_turn (s : State) (f : BayCtx → BayCtx) : (s.updMyBay f).turn = s.turn := rfl
@[simp] theorem State.updMyBay_fresh (s : State) (f : BayCtx → BayCtx) : (s.updMyBay f).fresh = s.fresh := rfl

/-! ### `State.setUnit` -/

@[simp] theorem State.setUnit_agenda (s : State) (hall bay ctx : Nat) (u : SCtx) : (s.setUnit hall bay ctx u).agenda = s.agenda := rfl
@[simp] theorem State.setUnit_focus (s : State) (hall bay ctx : Nat) (u : SCtx) : (s.setUnit hall bay ctx u).focus = s.focus := rfl
@[simp] theorem State.setUnit_mem (s : State) (hall bay ctx : Nat) (u : SCtx) : (s.setUnit hall bay ctx u).mem = s.mem := rfl
@[simp] theorem State.setUnit_keys (s : State) (hall bay ctx : Nat) (u : SCtx) : (s.setUnit hall bay ctx u).keys = s.keys := rfl
@[simp] theorem State.setUnit_edge (s : State) (hall bay ctx : Nat) (u : SCtx) : (s.setUnit hall bay ctx u).edge = s.edge := rfl
@[simp] theorem State.setUnit_threads (s : State) (hall bay ctx : Nat) (u : SCtx) : (s.setUnit hall bay ctx u).threads = s.threads := rfl
@[simp] theorem State.setUnit_lctlb (s : State) (hall bay ctx : Nat) (u : SCtx) : (s.setUnit hall bay ctx u).lctlb = s.lctlb := rfl
@[simp] theorem State.setUnit_icache (s : State) (hall bay ctx : Nat) (u : SCtx) : (s.setUnit hall bay ctx u).icache = s.icache := rfl
@[simp] theorem State.setUnit_dcache (s : State) (hall bay ctx : Nat) (u : SCtx) : (s.setUnit hall bay ctx u).dcache = s.dcache := rfl
@[simp] theorem State.setUnit_cycle (s : State) (hall bay ctx : Nat) (u : SCtx) : (s.setUnit hall bay ctx u).cycle = s.cycle := rfl
@[simp] theorem State.setUnit_bars (s : State) (hall bay ctx : Nat) (u : SCtx) : (s.setUnit hall bay ctx u).bars = s.bars := rfl
@[simp] theorem State.setUnit_barArr (s : State) (hall bay ctx : Nat) (u : SCtx) : (s.setUnit hall bay ctx u).barArr = s.barArr := rfl
@[simp] theorem State.setUnit_barPh (s : State) (hall bay ctx : Nat) (u : SCtx) : (s.setUnit hall bay ctx u).barPh = s.barPh := rfl
@[simp] theorem State.setUnit_bays (s : State) (hall bay ctx : Nat) (u : SCtx) : (s.setUnit hall bay ctx u).bays = s.bays := rfl
@[simp] theorem State.setUnit_stairs (s : State) (hall bay ctx : Nat) (u : SCtx) : (s.setUnit hall bay ctx u).stairs = s.stairs := rfl
@[simp] theorem State.setUnit_banks (s : State) (hall bay ctx : Nat) (u : SCtx) : (s.setUnit hall bay ctx u).banks = s.banks := rfl
@[simp] theorem State.setUnit_net (s : State) (hall bay ctx : Nat) (u : SCtx) : (s.setUnit hall bay ctx u).net = s.net := rfl
@[simp] theorem State.setUnit_gals (s : State) (hall bay ctx : Nat) (u : SCtx) : (s.setUnit hall bay ctx u).gals = s.gals := rfl
@[simp] theorem State.setUnit_links (s : State) (hall bay ctx : Nat) (u : SCtx) : (s.setUnit hall bay ctx u).links = s.links := rfl
@[simp] theorem State.setUnit_rlanes (s : State) (hall bay ctx : Nat) (u : SCtx) : (s.setUnit hall bay ctx u).rlanes = s.rlanes := rfl
@[simp] theorem State.setUnit_linkAge (s : State) (hall bay ctx : Nat) (u : SCtx) : (s.setUnit hall bay ctx u).linkAge = s.linkAge := rfl
@[simp] theorem State.setUnit_linkSeq (s : State) (hall bay ctx : Nat) (u : SCtx) : (s.setUnit hall bay ctx u).linkSeq = s.linkSeq := rfl
@[simp] theorem State.setUnit_vecOpen (s : State) (hall bay ctx : Nat) (u : SCtx) : (s.setUnit hall bay ctx u).vecOpen = s.vecOpen := rfl
@[simp] theorem State.setUnit_feed (s : State) (hall bay ctx : Nat) (u : SCtx) : (s.setUnit hall bay ctx u).feed = s.feed := rfl
@[simp] theorem State.setUnit_inFrom (s : State) (hall bay ctx : Nat) (u : SCtx) : (s.setUnit hall bay ctx u).inFrom = s.inFrom := rfl
@[simp] theorem State.setUnit_tokCnt (s : State) (hall bay ctx : Nat) (u : SCtx) : (s.setUnit hall bay ctx u).tokCnt = s.tokCnt := rfl
@[simp] theorem State.setUnit_cfgs (s : State) (hall bay ctx : Nat) (u : SCtx) : (s.setUnit hall bay ctx u).cfgs = s.cfgs := rfl
@[simp] theorem State.setUnit_slots (s : State) (hall bay ctx : Nat) (u : SCtx) : (s.setUnit hall bay ctx u).slots = s.slots := rfl
@[simp] theorem State.setUnit_disps (s : State) (hall bay ctx : Nat) (u : SCtx) : (s.setUnit hall bay ctx u).disps = s.disps := rfl
@[simp] theorem State.setUnit_regions (s : State) (hall bay ctx : Nat) (u : SCtx) : (s.setUnit hall bay ctx u).regions = s.regions := rfl
@[simp] theorem State.setUnit_pool (s : State) (hall bay ctx : Nat) (u : SCtx) : (s.setUnit hall bay ctx u).pool = s.pool := rfl
@[simp] theorem State.setUnit_gens (s : State) (hall bay ctx : Nat) (u : SCtx) : (s.setUnit hall bay ctx u).gens = s.gens := rfl
@[simp] theorem State.setUnit_ltoks (s : State) (hall bay ctx : Nat) (u : SCtx) : (s.setUnit hall bay ctx u).ltoks = s.ltoks := rfl
@[simp] theorem State.setUnit_saved (s : State) (hall bay ctx : Nat) (u : SCtx) : (s.setUnit hall bay ctx u).saved = s.saved := rfl
@[simp] theorem State.setUnit_swapCount (s : State) (hall bay ctx : Nat) (u : SCtx) : (s.setUnit hall bay ctx u).swapCount = s.swapCount := rfl
@[simp] theorem State.setUnit_walks (s : State) (hall bay ctx : Nat) (u : SCtx) : (s.setUnit hall bay ctx u).walks = s.walks := rfl
@[simp] theorem State.setUnit_shoots (s : State) (hall bay ctx : Nat) (u : SCtx) : (s.setUnit hall bay ctx u).shoots = s.shoots := rfl
@[simp] theorem State.setUnit_hallSt (s : State) (hall bay ctx : Nat) (u : SCtx) : (s.setUnit hall bay ctx u).hallSt = s.hallSt := rfl
@[simp] theorem State.setUnit_arc (s : State) (hall bay ctx : Nat) (u : SCtx) : (s.setUnit hall bay ctx u).arc = s.arc := rfl
@[simp] theorem State.setUnit_host (s : State) (hall bay ctx : Nat) (u : SCtx) : (s.setUnit hall bay ctx u).host = s.host := rfl
@[simp] theorem State.setUnit_log (s : State) (hall bay ctx : Nat) (u : SCtx) : (s.setUnit hall bay ctx u).log = s.log := rfl
@[simp] theorem State.setUnit_lseq (s : State) (hall bay ctx : Nat) (u : SCtx) : (s.setUnit hall bay ctx u).lseq = s.lseq := rfl
@[simp] theorem State.setUnit_stall (s : State) (hall bay ctx : Nat) (u : SCtx) : (s.setUnit hall bay ctx u).stall = s.stall := rfl
@[simp] theorem State.setUnit_stalled (s : State) (hall bay ctx : Nat) (u : SCtx) : (s.setUnit hall bay ctx u).stalled = s.stalled := rfl
@[simp] theorem State.setUnit_turn (s : State) (hall bay ctx : Nat) (u : SCtx) : (s.setUnit hall bay ctx u).turn = s.turn := rfl
@[simp] theorem State.setUnit_fresh (s : State) (hall bay ctx : Nat) (u : SCtx) : (s.setUnit hall bay ctx u).fresh = s.fresh := rfl

/-! ### `State.setMyUnit` -/

@[simp] theorem State.setMyUnit_agenda (s : State) (u : SCtx) : (s.setMyUnit u).agenda = s.agenda := rfl
@[simp] theorem State.setMyUnit_focus (s : State) (u : SCtx) : (s.setMyUnit u).focus = s.focus := rfl
@[simp] theorem State.setMyUnit_mem (s : State) (u : SCtx) : (s.setMyUnit u).mem = s.mem := rfl
@[simp] theorem State.setMyUnit_keys (s : State) (u : SCtx) : (s.setMyUnit u).keys = s.keys := rfl
@[simp] theorem State.setMyUnit_edge (s : State) (u : SCtx) : (s.setMyUnit u).edge = s.edge := rfl
@[simp] theorem State.setMyUnit_threads (s : State) (u : SCtx) : (s.setMyUnit u).threads = s.threads := rfl
@[simp] theorem State.setMyUnit_lctlb (s : State) (u : SCtx) : (s.setMyUnit u).lctlb = s.lctlb := rfl
@[simp] theorem State.setMyUnit_icache (s : State) (u : SCtx) : (s.setMyUnit u).icache = s.icache := rfl
@[simp] theorem State.setMyUnit_dcache (s : State) (u : SCtx) : (s.setMyUnit u).dcache = s.dcache := rfl
@[simp] theorem State.setMyUnit_cycle (s : State) (u : SCtx) : (s.setMyUnit u).cycle = s.cycle := rfl
@[simp] theorem State.setMyUnit_bars (s : State) (u : SCtx) : (s.setMyUnit u).bars = s.bars := rfl
@[simp] theorem State.setMyUnit_barArr (s : State) (u : SCtx) : (s.setMyUnit u).barArr = s.barArr := rfl
@[simp] theorem State.setMyUnit_barPh (s : State) (u : SCtx) : (s.setMyUnit u).barPh = s.barPh := rfl
@[simp] theorem State.setMyUnit_bays (s : State) (u : SCtx) : (s.setMyUnit u).bays = s.bays := rfl
@[simp] theorem State.setMyUnit_stairs (s : State) (u : SCtx) : (s.setMyUnit u).stairs = s.stairs := rfl
@[simp] theorem State.setMyUnit_banks (s : State) (u : SCtx) : (s.setMyUnit u).banks = s.banks := rfl
@[simp] theorem State.setMyUnit_net (s : State) (u : SCtx) : (s.setMyUnit u).net = s.net := rfl
@[simp] theorem State.setMyUnit_gals (s : State) (u : SCtx) : (s.setMyUnit u).gals = s.gals := rfl
@[simp] theorem State.setMyUnit_links (s : State) (u : SCtx) : (s.setMyUnit u).links = s.links := rfl
@[simp] theorem State.setMyUnit_rlanes (s : State) (u : SCtx) : (s.setMyUnit u).rlanes = s.rlanes := rfl
@[simp] theorem State.setMyUnit_linkAge (s : State) (u : SCtx) : (s.setMyUnit u).linkAge = s.linkAge := rfl
@[simp] theorem State.setMyUnit_linkSeq (s : State) (u : SCtx) : (s.setMyUnit u).linkSeq = s.linkSeq := rfl
@[simp] theorem State.setMyUnit_vecOpen (s : State) (u : SCtx) : (s.setMyUnit u).vecOpen = s.vecOpen := rfl
@[simp] theorem State.setMyUnit_feed (s : State) (u : SCtx) : (s.setMyUnit u).feed = s.feed := rfl
@[simp] theorem State.setMyUnit_inFrom (s : State) (u : SCtx) : (s.setMyUnit u).inFrom = s.inFrom := rfl
@[simp] theorem State.setMyUnit_tokCnt (s : State) (u : SCtx) : (s.setMyUnit u).tokCnt = s.tokCnt := rfl
@[simp] theorem State.setMyUnit_cfgs (s : State) (u : SCtx) : (s.setMyUnit u).cfgs = s.cfgs := rfl
@[simp] theorem State.setMyUnit_slots (s : State) (u : SCtx) : (s.setMyUnit u).slots = s.slots := rfl
@[simp] theorem State.setMyUnit_disps (s : State) (u : SCtx) : (s.setMyUnit u).disps = s.disps := rfl
@[simp] theorem State.setMyUnit_regions (s : State) (u : SCtx) : (s.setMyUnit u).regions = s.regions := rfl
@[simp] theorem State.setMyUnit_pool (s : State) (u : SCtx) : (s.setMyUnit u).pool = s.pool := rfl
@[simp] theorem State.setMyUnit_gens (s : State) (u : SCtx) : (s.setMyUnit u).gens = s.gens := rfl
@[simp] theorem State.setMyUnit_ltoks (s : State) (u : SCtx) : (s.setMyUnit u).ltoks = s.ltoks := rfl
@[simp] theorem State.setMyUnit_saved (s : State) (u : SCtx) : (s.setMyUnit u).saved = s.saved := rfl
@[simp] theorem State.setMyUnit_swapCount (s : State) (u : SCtx) : (s.setMyUnit u).swapCount = s.swapCount := rfl
@[simp] theorem State.setMyUnit_walks (s : State) (u : SCtx) : (s.setMyUnit u).walks = s.walks := rfl
@[simp] theorem State.setMyUnit_shoots (s : State) (u : SCtx) : (s.setMyUnit u).shoots = s.shoots := rfl
@[simp] theorem State.setMyUnit_hallSt (s : State) (u : SCtx) : (s.setMyUnit u).hallSt = s.hallSt := rfl
@[simp] theorem State.setMyUnit_arc (s : State) (u : SCtx) : (s.setMyUnit u).arc = s.arc := rfl
@[simp] theorem State.setMyUnit_host (s : State) (u : SCtx) : (s.setMyUnit u).host = s.host := rfl
@[simp] theorem State.setMyUnit_log (s : State) (u : SCtx) : (s.setMyUnit u).log = s.log := rfl
@[simp] theorem State.setMyUnit_lseq (s : State) (u : SCtx) : (s.setMyUnit u).lseq = s.lseq := rfl
@[simp] theorem State.setMyUnit_stall (s : State) (u : SCtx) : (s.setMyUnit u).stall = s.stall := rfl
@[simp] theorem State.setMyUnit_stalled (s : State) (u : SCtx) : (s.setMyUnit u).stalled = s.stalled := rfl
@[simp] theorem State.setMyUnit_turn (s : State) (u : SCtx) : (s.setMyUnit u).turn = s.turn := rfl
@[simp] theorem State.setMyUnit_fresh (s : State) (u : SCtx) : (s.setMyUnit u).fresh = s.fresh := rfl

/-! ### `State.updMyUnit` -/

@[simp] theorem State.updMyUnit_agenda (s : State) (f : SCtx → SCtx) : (s.updMyUnit f).agenda = s.agenda := rfl
@[simp] theorem State.updMyUnit_focus (s : State) (f : SCtx → SCtx) : (s.updMyUnit f).focus = s.focus := rfl
@[simp] theorem State.updMyUnit_mem (s : State) (f : SCtx → SCtx) : (s.updMyUnit f).mem = s.mem := rfl
@[simp] theorem State.updMyUnit_keys (s : State) (f : SCtx → SCtx) : (s.updMyUnit f).keys = s.keys := rfl
@[simp] theorem State.updMyUnit_edge (s : State) (f : SCtx → SCtx) : (s.updMyUnit f).edge = s.edge := rfl
@[simp] theorem State.updMyUnit_threads (s : State) (f : SCtx → SCtx) : (s.updMyUnit f).threads = s.threads := rfl
@[simp] theorem State.updMyUnit_lctlb (s : State) (f : SCtx → SCtx) : (s.updMyUnit f).lctlb = s.lctlb := rfl
@[simp] theorem State.updMyUnit_icache (s : State) (f : SCtx → SCtx) : (s.updMyUnit f).icache = s.icache := rfl
@[simp] theorem State.updMyUnit_dcache (s : State) (f : SCtx → SCtx) : (s.updMyUnit f).dcache = s.dcache := rfl
@[simp] theorem State.updMyUnit_cycle (s : State) (f : SCtx → SCtx) : (s.updMyUnit f).cycle = s.cycle := rfl
@[simp] theorem State.updMyUnit_bars (s : State) (f : SCtx → SCtx) : (s.updMyUnit f).bars = s.bars := rfl
@[simp] theorem State.updMyUnit_barArr (s : State) (f : SCtx → SCtx) : (s.updMyUnit f).barArr = s.barArr := rfl
@[simp] theorem State.updMyUnit_barPh (s : State) (f : SCtx → SCtx) : (s.updMyUnit f).barPh = s.barPh := rfl
@[simp] theorem State.updMyUnit_bays (s : State) (f : SCtx → SCtx) : (s.updMyUnit f).bays = s.bays := rfl
@[simp] theorem State.updMyUnit_stairs (s : State) (f : SCtx → SCtx) : (s.updMyUnit f).stairs = s.stairs := rfl
@[simp] theorem State.updMyUnit_banks (s : State) (f : SCtx → SCtx) : (s.updMyUnit f).banks = s.banks := rfl
@[simp] theorem State.updMyUnit_net (s : State) (f : SCtx → SCtx) : (s.updMyUnit f).net = s.net := rfl
@[simp] theorem State.updMyUnit_gals (s : State) (f : SCtx → SCtx) : (s.updMyUnit f).gals = s.gals := rfl
@[simp] theorem State.updMyUnit_links (s : State) (f : SCtx → SCtx) : (s.updMyUnit f).links = s.links := rfl
@[simp] theorem State.updMyUnit_rlanes (s : State) (f : SCtx → SCtx) : (s.updMyUnit f).rlanes = s.rlanes := rfl
@[simp] theorem State.updMyUnit_linkAge (s : State) (f : SCtx → SCtx) : (s.updMyUnit f).linkAge = s.linkAge := rfl
@[simp] theorem State.updMyUnit_linkSeq (s : State) (f : SCtx → SCtx) : (s.updMyUnit f).linkSeq = s.linkSeq := rfl
@[simp] theorem State.updMyUnit_vecOpen (s : State) (f : SCtx → SCtx) : (s.updMyUnit f).vecOpen = s.vecOpen := rfl
@[simp] theorem State.updMyUnit_feed (s : State) (f : SCtx → SCtx) : (s.updMyUnit f).feed = s.feed := rfl
@[simp] theorem State.updMyUnit_inFrom (s : State) (f : SCtx → SCtx) : (s.updMyUnit f).inFrom = s.inFrom := rfl
@[simp] theorem State.updMyUnit_tokCnt (s : State) (f : SCtx → SCtx) : (s.updMyUnit f).tokCnt = s.tokCnt := rfl
@[simp] theorem State.updMyUnit_cfgs (s : State) (f : SCtx → SCtx) : (s.updMyUnit f).cfgs = s.cfgs := rfl
@[simp] theorem State.updMyUnit_slots (s : State) (f : SCtx → SCtx) : (s.updMyUnit f).slots = s.slots := rfl
@[simp] theorem State.updMyUnit_disps (s : State) (f : SCtx → SCtx) : (s.updMyUnit f).disps = s.disps := rfl
@[simp] theorem State.updMyUnit_regions (s : State) (f : SCtx → SCtx) : (s.updMyUnit f).regions = s.regions := rfl
@[simp] theorem State.updMyUnit_pool (s : State) (f : SCtx → SCtx) : (s.updMyUnit f).pool = s.pool := rfl
@[simp] theorem State.updMyUnit_gens (s : State) (f : SCtx → SCtx) : (s.updMyUnit f).gens = s.gens := rfl
@[simp] theorem State.updMyUnit_ltoks (s : State) (f : SCtx → SCtx) : (s.updMyUnit f).ltoks = s.ltoks := rfl
@[simp] theorem State.updMyUnit_saved (s : State) (f : SCtx → SCtx) : (s.updMyUnit f).saved = s.saved := rfl
@[simp] theorem State.updMyUnit_swapCount (s : State) (f : SCtx → SCtx) : (s.updMyUnit f).swapCount = s.swapCount := rfl
@[simp] theorem State.updMyUnit_walks (s : State) (f : SCtx → SCtx) : (s.updMyUnit f).walks = s.walks := rfl
@[simp] theorem State.updMyUnit_shoots (s : State) (f : SCtx → SCtx) : (s.updMyUnit f).shoots = s.shoots := rfl
@[simp] theorem State.updMyUnit_hallSt (s : State) (f : SCtx → SCtx) : (s.updMyUnit f).hallSt = s.hallSt := rfl
@[simp] theorem State.updMyUnit_arc (s : State) (f : SCtx → SCtx) : (s.updMyUnit f).arc = s.arc := rfl
@[simp] theorem State.updMyUnit_host (s : State) (f : SCtx → SCtx) : (s.updMyUnit f).host = s.host := rfl
@[simp] theorem State.updMyUnit_log (s : State) (f : SCtx → SCtx) : (s.updMyUnit f).log = s.log := rfl
@[simp] theorem State.updMyUnit_lseq (s : State) (f : SCtx → SCtx) : (s.updMyUnit f).lseq = s.lseq := rfl
@[simp] theorem State.updMyUnit_stall (s : State) (f : SCtx → SCtx) : (s.updMyUnit f).stall = s.stall := rfl
@[simp] theorem State.updMyUnit_stalled (s : State) (f : SCtx → SCtx) : (s.updMyUnit f).stalled = s.stalled := rfl
@[simp] theorem State.updMyUnit_turn (s : State) (f : SCtx → SCtx) : (s.updMyUnit f).turn = s.turn := rfl
@[simp] theorem State.updMyUnit_fresh (s : State) (f : SCtx → SCtx) : (s.updMyUnit f).fresh = s.fresh := rfl

/-! ### `State.setStair` -/

@[simp] theorem State.setStair_agenda (s : State) (hall n : Nat) (x : Stair) : (s.setStair hall n x).agenda = s.agenda := rfl
@[simp] theorem State.setStair_focus (s : State) (hall n : Nat) (x : Stair) : (s.setStair hall n x).focus = s.focus := rfl
@[simp] theorem State.setStair_mem (s : State) (hall n : Nat) (x : Stair) : (s.setStair hall n x).mem = s.mem := rfl
@[simp] theorem State.setStair_keys (s : State) (hall n : Nat) (x : Stair) : (s.setStair hall n x).keys = s.keys := rfl
@[simp] theorem State.setStair_edge (s : State) (hall n : Nat) (x : Stair) : (s.setStair hall n x).edge = s.edge := rfl
@[simp] theorem State.setStair_threads (s : State) (hall n : Nat) (x : Stair) : (s.setStair hall n x).threads = s.threads := rfl
@[simp] theorem State.setStair_lctlb (s : State) (hall n : Nat) (x : Stair) : (s.setStair hall n x).lctlb = s.lctlb := rfl
@[simp] theorem State.setStair_icache (s : State) (hall n : Nat) (x : Stair) : (s.setStair hall n x).icache = s.icache := rfl
@[simp] theorem State.setStair_dcache (s : State) (hall n : Nat) (x : Stair) : (s.setStair hall n x).dcache = s.dcache := rfl
@[simp] theorem State.setStair_cycle (s : State) (hall n : Nat) (x : Stair) : (s.setStair hall n x).cycle = s.cycle := rfl
@[simp] theorem State.setStair_bars (s : State) (hall n : Nat) (x : Stair) : (s.setStair hall n x).bars = s.bars := rfl
@[simp] theorem State.setStair_barArr (s : State) (hall n : Nat) (x : Stair) : (s.setStair hall n x).barArr = s.barArr := rfl
@[simp] theorem State.setStair_barPh (s : State) (hall n : Nat) (x : Stair) : (s.setStair hall n x).barPh = s.barPh := rfl
@[simp] theorem State.setStair_bays (s : State) (hall n : Nat) (x : Stair) : (s.setStair hall n x).bays = s.bays := rfl
@[simp] theorem State.setStair_units (s : State) (hall n : Nat) (x : Stair) : (s.setStair hall n x).units = s.units := rfl
@[simp] theorem State.setStair_banks (s : State) (hall n : Nat) (x : Stair) : (s.setStair hall n x).banks = s.banks := rfl
@[simp] theorem State.setStair_net (s : State) (hall n : Nat) (x : Stair) : (s.setStair hall n x).net = s.net := rfl
@[simp] theorem State.setStair_gals (s : State) (hall n : Nat) (x : Stair) : (s.setStair hall n x).gals = s.gals := rfl
@[simp] theorem State.setStair_links (s : State) (hall n : Nat) (x : Stair) : (s.setStair hall n x).links = s.links := rfl
@[simp] theorem State.setStair_rlanes (s : State) (hall n : Nat) (x : Stair) : (s.setStair hall n x).rlanes = s.rlanes := rfl
@[simp] theorem State.setStair_linkAge (s : State) (hall n : Nat) (x : Stair) : (s.setStair hall n x).linkAge = s.linkAge := rfl
@[simp] theorem State.setStair_linkSeq (s : State) (hall n : Nat) (x : Stair) : (s.setStair hall n x).linkSeq = s.linkSeq := rfl
@[simp] theorem State.setStair_vecOpen (s : State) (hall n : Nat) (x : Stair) : (s.setStair hall n x).vecOpen = s.vecOpen := rfl
@[simp] theorem State.setStair_feed (s : State) (hall n : Nat) (x : Stair) : (s.setStair hall n x).feed = s.feed := rfl
@[simp] theorem State.setStair_inFrom (s : State) (hall n : Nat) (x : Stair) : (s.setStair hall n x).inFrom = s.inFrom := rfl
@[simp] theorem State.setStair_tokCnt (s : State) (hall n : Nat) (x : Stair) : (s.setStair hall n x).tokCnt = s.tokCnt := rfl
@[simp] theorem State.setStair_cfgs (s : State) (hall n : Nat) (x : Stair) : (s.setStair hall n x).cfgs = s.cfgs := rfl
@[simp] theorem State.setStair_slots (s : State) (hall n : Nat) (x : Stair) : (s.setStair hall n x).slots = s.slots := rfl
@[simp] theorem State.setStair_disps (s : State) (hall n : Nat) (x : Stair) : (s.setStair hall n x).disps = s.disps := rfl
@[simp] theorem State.setStair_regions (s : State) (hall n : Nat) (x : Stair) : (s.setStair hall n x).regions = s.regions := rfl
@[simp] theorem State.setStair_pool (s : State) (hall n : Nat) (x : Stair) : (s.setStair hall n x).pool = s.pool := rfl
@[simp] theorem State.setStair_gens (s : State) (hall n : Nat) (x : Stair) : (s.setStair hall n x).gens = s.gens := rfl
@[simp] theorem State.setStair_ltoks (s : State) (hall n : Nat) (x : Stair) : (s.setStair hall n x).ltoks = s.ltoks := rfl
@[simp] theorem State.setStair_saved (s : State) (hall n : Nat) (x : Stair) : (s.setStair hall n x).saved = s.saved := rfl
@[simp] theorem State.setStair_swapCount (s : State) (hall n : Nat) (x : Stair) : (s.setStair hall n x).swapCount = s.swapCount := rfl
@[simp] theorem State.setStair_walks (s : State) (hall n : Nat) (x : Stair) : (s.setStair hall n x).walks = s.walks := rfl
@[simp] theorem State.setStair_shoots (s : State) (hall n : Nat) (x : Stair) : (s.setStair hall n x).shoots = s.shoots := rfl
@[simp] theorem State.setStair_hallSt (s : State) (hall n : Nat) (x : Stair) : (s.setStair hall n x).hallSt = s.hallSt := rfl
@[simp] theorem State.setStair_arc (s : State) (hall n : Nat) (x : Stair) : (s.setStair hall n x).arc = s.arc := rfl
@[simp] theorem State.setStair_host (s : State) (hall n : Nat) (x : Stair) : (s.setStair hall n x).host = s.host := rfl
@[simp] theorem State.setStair_log (s : State) (hall n : Nat) (x : Stair) : (s.setStair hall n x).log = s.log := rfl
@[simp] theorem State.setStair_lseq (s : State) (hall n : Nat) (x : Stair) : (s.setStair hall n x).lseq = s.lseq := rfl
@[simp] theorem State.setStair_stall (s : State) (hall n : Nat) (x : Stair) : (s.setStair hall n x).stall = s.stall := rfl
@[simp] theorem State.setStair_stalled (s : State) (hall n : Nat) (x : Stair) : (s.setStair hall n x).stalled = s.stalled := rfl
@[simp] theorem State.setStair_turn (s : State) (hall n : Nat) (x : Stair) : (s.setStair hall n x).turn = s.turn := rfl
@[simp] theorem State.setStair_fresh (s : State) (hall n : Nat) (x : Stair) : (s.setStair hall n x).fresh = s.fresh := rfl

/-! ### `State.updStair` -/

@[simp] theorem State.updStair_agenda (s : State) (hall n : Nat) (f : Stair → Stair) : (s.updStair hall n f).agenda = s.agenda := rfl
@[simp] theorem State.updStair_focus (s : State) (hall n : Nat) (f : Stair → Stair) : (s.updStair hall n f).focus = s.focus := rfl
@[simp] theorem State.updStair_mem (s : State) (hall n : Nat) (f : Stair → Stair) : (s.updStair hall n f).mem = s.mem := rfl
@[simp] theorem State.updStair_keys (s : State) (hall n : Nat) (f : Stair → Stair) : (s.updStair hall n f).keys = s.keys := rfl
@[simp] theorem State.updStair_edge (s : State) (hall n : Nat) (f : Stair → Stair) : (s.updStair hall n f).edge = s.edge := rfl
@[simp] theorem State.updStair_threads (s : State) (hall n : Nat) (f : Stair → Stair) : (s.updStair hall n f).threads = s.threads := rfl
@[simp] theorem State.updStair_lctlb (s : State) (hall n : Nat) (f : Stair → Stair) : (s.updStair hall n f).lctlb = s.lctlb := rfl
@[simp] theorem State.updStair_icache (s : State) (hall n : Nat) (f : Stair → Stair) : (s.updStair hall n f).icache = s.icache := rfl
@[simp] theorem State.updStair_dcache (s : State) (hall n : Nat) (f : Stair → Stair) : (s.updStair hall n f).dcache = s.dcache := rfl
@[simp] theorem State.updStair_cycle (s : State) (hall n : Nat) (f : Stair → Stair) : (s.updStair hall n f).cycle = s.cycle := rfl
@[simp] theorem State.updStair_bars (s : State) (hall n : Nat) (f : Stair → Stair) : (s.updStair hall n f).bars = s.bars := rfl
@[simp] theorem State.updStair_barArr (s : State) (hall n : Nat) (f : Stair → Stair) : (s.updStair hall n f).barArr = s.barArr := rfl
@[simp] theorem State.updStair_barPh (s : State) (hall n : Nat) (f : Stair → Stair) : (s.updStair hall n f).barPh = s.barPh := rfl
@[simp] theorem State.updStair_bays (s : State) (hall n : Nat) (f : Stair → Stair) : (s.updStair hall n f).bays = s.bays := rfl
@[simp] theorem State.updStair_units (s : State) (hall n : Nat) (f : Stair → Stair) : (s.updStair hall n f).units = s.units := rfl
@[simp] theorem State.updStair_banks (s : State) (hall n : Nat) (f : Stair → Stair) : (s.updStair hall n f).banks = s.banks := rfl
@[simp] theorem State.updStair_net (s : State) (hall n : Nat) (f : Stair → Stair) : (s.updStair hall n f).net = s.net := rfl
@[simp] theorem State.updStair_gals (s : State) (hall n : Nat) (f : Stair → Stair) : (s.updStair hall n f).gals = s.gals := rfl
@[simp] theorem State.updStair_links (s : State) (hall n : Nat) (f : Stair → Stair) : (s.updStair hall n f).links = s.links := rfl
@[simp] theorem State.updStair_rlanes (s : State) (hall n : Nat) (f : Stair → Stair) : (s.updStair hall n f).rlanes = s.rlanes := rfl
@[simp] theorem State.updStair_linkAge (s : State) (hall n : Nat) (f : Stair → Stair) : (s.updStair hall n f).linkAge = s.linkAge := rfl
@[simp] theorem State.updStair_linkSeq (s : State) (hall n : Nat) (f : Stair → Stair) : (s.updStair hall n f).linkSeq = s.linkSeq := rfl
@[simp] theorem State.updStair_vecOpen (s : State) (hall n : Nat) (f : Stair → Stair) : (s.updStair hall n f).vecOpen = s.vecOpen := rfl
@[simp] theorem State.updStair_feed (s : State) (hall n : Nat) (f : Stair → Stair) : (s.updStair hall n f).feed = s.feed := rfl
@[simp] theorem State.updStair_inFrom (s : State) (hall n : Nat) (f : Stair → Stair) : (s.updStair hall n f).inFrom = s.inFrom := rfl
@[simp] theorem State.updStair_tokCnt (s : State) (hall n : Nat) (f : Stair → Stair) : (s.updStair hall n f).tokCnt = s.tokCnt := rfl
@[simp] theorem State.updStair_cfgs (s : State) (hall n : Nat) (f : Stair → Stair) : (s.updStair hall n f).cfgs = s.cfgs := rfl
@[simp] theorem State.updStair_slots (s : State) (hall n : Nat) (f : Stair → Stair) : (s.updStair hall n f).slots = s.slots := rfl
@[simp] theorem State.updStair_disps (s : State) (hall n : Nat) (f : Stair → Stair) : (s.updStair hall n f).disps = s.disps := rfl
@[simp] theorem State.updStair_regions (s : State) (hall n : Nat) (f : Stair → Stair) : (s.updStair hall n f).regions = s.regions := rfl
@[simp] theorem State.updStair_pool (s : State) (hall n : Nat) (f : Stair → Stair) : (s.updStair hall n f).pool = s.pool := rfl
@[simp] theorem State.updStair_gens (s : State) (hall n : Nat) (f : Stair → Stair) : (s.updStair hall n f).gens = s.gens := rfl
@[simp] theorem State.updStair_ltoks (s : State) (hall n : Nat) (f : Stair → Stair) : (s.updStair hall n f).ltoks = s.ltoks := rfl
@[simp] theorem State.updStair_saved (s : State) (hall n : Nat) (f : Stair → Stair) : (s.updStair hall n f).saved = s.saved := rfl
@[simp] theorem State.updStair_swapCount (s : State) (hall n : Nat) (f : Stair → Stair) : (s.updStair hall n f).swapCount = s.swapCount := rfl
@[simp] theorem State.updStair_walks (s : State) (hall n : Nat) (f : Stair → Stair) : (s.updStair hall n f).walks = s.walks := rfl
@[simp] theorem State.updStair_shoots (s : State) (hall n : Nat) (f : Stair → Stair) : (s.updStair hall n f).shoots = s.shoots := rfl
@[simp] theorem State.updStair_hallSt (s : State) (hall n : Nat) (f : Stair → Stair) : (s.updStair hall n f).hallSt = s.hallSt := rfl
@[simp] theorem State.updStair_arc (s : State) (hall n : Nat) (f : Stair → Stair) : (s.updStair hall n f).arc = s.arc := rfl
@[simp] theorem State.updStair_host (s : State) (hall n : Nat) (f : Stair → Stair) : (s.updStair hall n f).host = s.host := rfl
@[simp] theorem State.updStair_log (s : State) (hall n : Nat) (f : Stair → Stair) : (s.updStair hall n f).log = s.log := rfl
@[simp] theorem State.updStair_lseq (s : State) (hall n : Nat) (f : Stair → Stair) : (s.updStair hall n f).lseq = s.lseq := rfl
@[simp] theorem State.updStair_stall (s : State) (hall n : Nat) (f : Stair → Stair) : (s.updStair hall n f).stall = s.stall := rfl
@[simp] theorem State.updStair_stalled (s : State) (hall n : Nat) (f : Stair → Stair) : (s.updStair hall n f).stalled = s.stalled := rfl
@[simp] theorem State.updStair_turn (s : State) (hall n : Nat) (f : Stair → Stair) : (s.updStair hall n f).turn = s.turn := rfl
@[simp] theorem State.updStair_fresh (s : State) (hall n : Nat) (f : Stair → Stair) : (s.updStair hall n f).fresh = s.fresh := rfl

/-! ### `State.setSlot` -/

@[simp] theorem State.setSlot_agenda (s : State) (hall ctx : Nat) (x : HSlot) : (s.setSlot hall ctx x).agenda = s.agenda := rfl
@[simp] theorem State.setSlot_focus (s : State) (hall ctx : Nat) (x : HSlot) : (s.setSlot hall ctx x).focus = s.focus := rfl
@[simp] theorem State.setSlot_mem (s : State) (hall ctx : Nat) (x : HSlot) : (s.setSlot hall ctx x).mem = s.mem := rfl
@[simp] theorem State.setSlot_keys (s : State) (hall ctx : Nat) (x : HSlot) : (s.setSlot hall ctx x).keys = s.keys := rfl
@[simp] theorem State.setSlot_edge (s : State) (hall ctx : Nat) (x : HSlot) : (s.setSlot hall ctx x).edge = s.edge := rfl
@[simp] theorem State.setSlot_threads (s : State) (hall ctx : Nat) (x : HSlot) : (s.setSlot hall ctx x).threads = s.threads := rfl
@[simp] theorem State.setSlot_lctlb (s : State) (hall ctx : Nat) (x : HSlot) : (s.setSlot hall ctx x).lctlb = s.lctlb := rfl
@[simp] theorem State.setSlot_icache (s : State) (hall ctx : Nat) (x : HSlot) : (s.setSlot hall ctx x).icache = s.icache := rfl
@[simp] theorem State.setSlot_dcache (s : State) (hall ctx : Nat) (x : HSlot) : (s.setSlot hall ctx x).dcache = s.dcache := rfl
@[simp] theorem State.setSlot_cycle (s : State) (hall ctx : Nat) (x : HSlot) : (s.setSlot hall ctx x).cycle = s.cycle := rfl
@[simp] theorem State.setSlot_bars (s : State) (hall ctx : Nat) (x : HSlot) : (s.setSlot hall ctx x).bars = s.bars := rfl
@[simp] theorem State.setSlot_barArr (s : State) (hall ctx : Nat) (x : HSlot) : (s.setSlot hall ctx x).barArr = s.barArr := rfl
@[simp] theorem State.setSlot_barPh (s : State) (hall ctx : Nat) (x : HSlot) : (s.setSlot hall ctx x).barPh = s.barPh := rfl
@[simp] theorem State.setSlot_bays (s : State) (hall ctx : Nat) (x : HSlot) : (s.setSlot hall ctx x).bays = s.bays := rfl
@[simp] theorem State.setSlot_units (s : State) (hall ctx : Nat) (x : HSlot) : (s.setSlot hall ctx x).units = s.units := rfl
@[simp] theorem State.setSlot_stairs (s : State) (hall ctx : Nat) (x : HSlot) : (s.setSlot hall ctx x).stairs = s.stairs := rfl
@[simp] theorem State.setSlot_banks (s : State) (hall ctx : Nat) (x : HSlot) : (s.setSlot hall ctx x).banks = s.banks := rfl
@[simp] theorem State.setSlot_net (s : State) (hall ctx : Nat) (x : HSlot) : (s.setSlot hall ctx x).net = s.net := rfl
@[simp] theorem State.setSlot_gals (s : State) (hall ctx : Nat) (x : HSlot) : (s.setSlot hall ctx x).gals = s.gals := rfl
@[simp] theorem State.setSlot_links (s : State) (hall ctx : Nat) (x : HSlot) : (s.setSlot hall ctx x).links = s.links := rfl
@[simp] theorem State.setSlot_rlanes (s : State) (hall ctx : Nat) (x : HSlot) : (s.setSlot hall ctx x).rlanes = s.rlanes := rfl
@[simp] theorem State.setSlot_linkAge (s : State) (hall ctx : Nat) (x : HSlot) : (s.setSlot hall ctx x).linkAge = s.linkAge := rfl
@[simp] theorem State.setSlot_linkSeq (s : State) (hall ctx : Nat) (x : HSlot) : (s.setSlot hall ctx x).linkSeq = s.linkSeq := rfl
@[simp] theorem State.setSlot_vecOpen (s : State) (hall ctx : Nat) (x : HSlot) : (s.setSlot hall ctx x).vecOpen = s.vecOpen := rfl
@[simp] theorem State.setSlot_feed (s : State) (hall ctx : Nat) (x : HSlot) : (s.setSlot hall ctx x).feed = s.feed := rfl
@[simp] theorem State.setSlot_inFrom (s : State) (hall ctx : Nat) (x : HSlot) : (s.setSlot hall ctx x).inFrom = s.inFrom := rfl
@[simp] theorem State.setSlot_tokCnt (s : State) (hall ctx : Nat) (x : HSlot) : (s.setSlot hall ctx x).tokCnt = s.tokCnt := rfl
@[simp] theorem State.setSlot_cfgs (s : State) (hall ctx : Nat) (x : HSlot) : (s.setSlot hall ctx x).cfgs = s.cfgs := rfl
@[simp] theorem State.setSlot_disps (s : State) (hall ctx : Nat) (x : HSlot) : (s.setSlot hall ctx x).disps = s.disps := rfl
@[simp] theorem State.setSlot_regions (s : State) (hall ctx : Nat) (x : HSlot) : (s.setSlot hall ctx x).regions = s.regions := rfl
@[simp] theorem State.setSlot_pool (s : State) (hall ctx : Nat) (x : HSlot) : (s.setSlot hall ctx x).pool = s.pool := rfl
@[simp] theorem State.setSlot_gens (s : State) (hall ctx : Nat) (x : HSlot) : (s.setSlot hall ctx x).gens = s.gens := rfl
@[simp] theorem State.setSlot_ltoks (s : State) (hall ctx : Nat) (x : HSlot) : (s.setSlot hall ctx x).ltoks = s.ltoks := rfl
@[simp] theorem State.setSlot_saved (s : State) (hall ctx : Nat) (x : HSlot) : (s.setSlot hall ctx x).saved = s.saved := rfl
@[simp] theorem State.setSlot_swapCount (s : State) (hall ctx : Nat) (x : HSlot) : (s.setSlot hall ctx x).swapCount = s.swapCount := rfl
@[simp] theorem State.setSlot_walks (s : State) (hall ctx : Nat) (x : HSlot) : (s.setSlot hall ctx x).walks = s.walks := rfl
@[simp] theorem State.setSlot_shoots (s : State) (hall ctx : Nat) (x : HSlot) : (s.setSlot hall ctx x).shoots = s.shoots := rfl
@[simp] theorem State.setSlot_hallSt (s : State) (hall ctx : Nat) (x : HSlot) : (s.setSlot hall ctx x).hallSt = s.hallSt := rfl
@[simp] theorem State.setSlot_arc (s : State) (hall ctx : Nat) (x : HSlot) : (s.setSlot hall ctx x).arc = s.arc := rfl
@[simp] theorem State.setSlot_host (s : State) (hall ctx : Nat) (x : HSlot) : (s.setSlot hall ctx x).host = s.host := rfl
@[simp] theorem State.setSlot_log (s : State) (hall ctx : Nat) (x : HSlot) : (s.setSlot hall ctx x).log = s.log := rfl
@[simp] theorem State.setSlot_lseq (s : State) (hall ctx : Nat) (x : HSlot) : (s.setSlot hall ctx x).lseq = s.lseq := rfl
@[simp] theorem State.setSlot_stall (s : State) (hall ctx : Nat) (x : HSlot) : (s.setSlot hall ctx x).stall = s.stall := rfl
@[simp] theorem State.setSlot_stalled (s : State) (hall ctx : Nat) (x : HSlot) : (s.setSlot hall ctx x).stalled = s.stalled := rfl
@[simp] theorem State.setSlot_turn (s : State) (hall ctx : Nat) (x : HSlot) : (s.setSlot hall ctx x).turn = s.turn := rfl
@[simp] theorem State.setSlot_fresh (s : State) (hall ctx : Nat) (x : HSlot) : (s.setSlot hall ctx x).fresh = s.fresh := rfl

/-! ### `State.setDisp` -/

@[simp] theorem State.setDisp_agenda (s : State) (hall : Nat) (d : Disp) : (s.setDisp hall d).agenda = s.agenda := rfl
@[simp] theorem State.setDisp_focus (s : State) (hall : Nat) (d : Disp) : (s.setDisp hall d).focus = s.focus := rfl
@[simp] theorem State.setDisp_mem (s : State) (hall : Nat) (d : Disp) : (s.setDisp hall d).mem = s.mem := rfl
@[simp] theorem State.setDisp_keys (s : State) (hall : Nat) (d : Disp) : (s.setDisp hall d).keys = s.keys := rfl
@[simp] theorem State.setDisp_edge (s : State) (hall : Nat) (d : Disp) : (s.setDisp hall d).edge = s.edge := rfl
@[simp] theorem State.setDisp_threads (s : State) (hall : Nat) (d : Disp) : (s.setDisp hall d).threads = s.threads := rfl
@[simp] theorem State.setDisp_lctlb (s : State) (hall : Nat) (d : Disp) : (s.setDisp hall d).lctlb = s.lctlb := rfl
@[simp] theorem State.setDisp_icache (s : State) (hall : Nat) (d : Disp) : (s.setDisp hall d).icache = s.icache := rfl
@[simp] theorem State.setDisp_dcache (s : State) (hall : Nat) (d : Disp) : (s.setDisp hall d).dcache = s.dcache := rfl
@[simp] theorem State.setDisp_cycle (s : State) (hall : Nat) (d : Disp) : (s.setDisp hall d).cycle = s.cycle := rfl
@[simp] theorem State.setDisp_bars (s : State) (hall : Nat) (d : Disp) : (s.setDisp hall d).bars = s.bars := rfl
@[simp] theorem State.setDisp_barArr (s : State) (hall : Nat) (d : Disp) : (s.setDisp hall d).barArr = s.barArr := rfl
@[simp] theorem State.setDisp_barPh (s : State) (hall : Nat) (d : Disp) : (s.setDisp hall d).barPh = s.barPh := rfl
@[simp] theorem State.setDisp_bays (s : State) (hall : Nat) (d : Disp) : (s.setDisp hall d).bays = s.bays := rfl
@[simp] theorem State.setDisp_units (s : State) (hall : Nat) (d : Disp) : (s.setDisp hall d).units = s.units := rfl
@[simp] theorem State.setDisp_stairs (s : State) (hall : Nat) (d : Disp) : (s.setDisp hall d).stairs = s.stairs := rfl
@[simp] theorem State.setDisp_banks (s : State) (hall : Nat) (d : Disp) : (s.setDisp hall d).banks = s.banks := rfl
@[simp] theorem State.setDisp_net (s : State) (hall : Nat) (d : Disp) : (s.setDisp hall d).net = s.net := rfl
@[simp] theorem State.setDisp_gals (s : State) (hall : Nat) (d : Disp) : (s.setDisp hall d).gals = s.gals := rfl
@[simp] theorem State.setDisp_links (s : State) (hall : Nat) (d : Disp) : (s.setDisp hall d).links = s.links := rfl
@[simp] theorem State.setDisp_rlanes (s : State) (hall : Nat) (d : Disp) : (s.setDisp hall d).rlanes = s.rlanes := rfl
@[simp] theorem State.setDisp_linkAge (s : State) (hall : Nat) (d : Disp) : (s.setDisp hall d).linkAge = s.linkAge := rfl
@[simp] theorem State.setDisp_linkSeq (s : State) (hall : Nat) (d : Disp) : (s.setDisp hall d).linkSeq = s.linkSeq := rfl
@[simp] theorem State.setDisp_vecOpen (s : State) (hall : Nat) (d : Disp) : (s.setDisp hall d).vecOpen = s.vecOpen := rfl
@[simp] theorem State.setDisp_feed (s : State) (hall : Nat) (d : Disp) : (s.setDisp hall d).feed = s.feed := rfl
@[simp] theorem State.setDisp_inFrom (s : State) (hall : Nat) (d : Disp) : (s.setDisp hall d).inFrom = s.inFrom := rfl
@[simp] theorem State.setDisp_tokCnt (s : State) (hall : Nat) (d : Disp) : (s.setDisp hall d).tokCnt = s.tokCnt := rfl
@[simp] theorem State.setDisp_cfgs (s : State) (hall : Nat) (d : Disp) : (s.setDisp hall d).cfgs = s.cfgs := rfl
@[simp] theorem State.setDisp_slots (s : State) (hall : Nat) (d : Disp) : (s.setDisp hall d).slots = s.slots := rfl
@[simp] theorem State.setDisp_regions (s : State) (hall : Nat) (d : Disp) : (s.setDisp hall d).regions = s.regions := rfl
@[simp] theorem State.setDisp_pool (s : State) (hall : Nat) (d : Disp) : (s.setDisp hall d).pool = s.pool := rfl
@[simp] theorem State.setDisp_gens (s : State) (hall : Nat) (d : Disp) : (s.setDisp hall d).gens = s.gens := rfl
@[simp] theorem State.setDisp_ltoks (s : State) (hall : Nat) (d : Disp) : (s.setDisp hall d).ltoks = s.ltoks := rfl
@[simp] theorem State.setDisp_saved (s : State) (hall : Nat) (d : Disp) : (s.setDisp hall d).saved = s.saved := rfl
@[simp] theorem State.setDisp_swapCount (s : State) (hall : Nat) (d : Disp) : (s.setDisp hall d).swapCount = s.swapCount := rfl
@[simp] theorem State.setDisp_walks (s : State) (hall : Nat) (d : Disp) : (s.setDisp hall d).walks = s.walks := rfl
@[simp] theorem State.setDisp_shoots (s : State) (hall : Nat) (d : Disp) : (s.setDisp hall d).shoots = s.shoots := rfl
@[simp] theorem State.setDisp_hallSt (s : State) (hall : Nat) (d : Disp) : (s.setDisp hall d).hallSt = s.hallSt := rfl
@[simp] theorem State.setDisp_arc (s : State) (hall : Nat) (d : Disp) : (s.setDisp hall d).arc = s.arc := rfl
@[simp] theorem State.setDisp_host (s : State) (hall : Nat) (d : Disp) : (s.setDisp hall d).host = s.host := rfl
@[simp] theorem State.setDisp_log (s : State) (hall : Nat) (d : Disp) : (s.setDisp hall d).log = s.log := rfl
@[simp] theorem State.setDisp_lseq (s : State) (hall : Nat) (d : Disp) : (s.setDisp hall d).lseq = s.lseq := rfl
@[simp] theorem State.setDisp_stall (s : State) (hall : Nat) (d : Disp) : (s.setDisp hall d).stall = s.stall := rfl
@[simp] theorem State.setDisp_stalled (s : State) (hall : Nat) (d : Disp) : (s.setDisp hall d).stalled = s.stalled := rfl
@[simp] theorem State.setDisp_turn (s : State) (hall : Nat) (d : Disp) : (s.setDisp hall d).turn = s.turn := rfl
@[simp] theorem State.setDisp_fresh (s : State) (hall : Nat) (d : Disp) : (s.setDisp hall d).fresh = s.fresh := rfl

/-! ### `State.updCmd` -/

@[simp] theorem State.updCmd_agenda (s : State) (hall ticket : Nat) (f : DCmd → DCmd) : (s.updCmd hall ticket f).agenda = s.agenda := rfl
@[simp] theorem State.updCmd_focus (s : State) (hall ticket : Nat) (f : DCmd → DCmd) : (s.updCmd hall ticket f).focus = s.focus := rfl
@[simp] theorem State.updCmd_mem (s : State) (hall ticket : Nat) (f : DCmd → DCmd) : (s.updCmd hall ticket f).mem = s.mem := rfl
@[simp] theorem State.updCmd_keys (s : State) (hall ticket : Nat) (f : DCmd → DCmd) : (s.updCmd hall ticket f).keys = s.keys := rfl
@[simp] theorem State.updCmd_edge (s : State) (hall ticket : Nat) (f : DCmd → DCmd) : (s.updCmd hall ticket f).edge = s.edge := rfl
@[simp] theorem State.updCmd_threads (s : State) (hall ticket : Nat) (f : DCmd → DCmd) : (s.updCmd hall ticket f).threads = s.threads := rfl
@[simp] theorem State.updCmd_lctlb (s : State) (hall ticket : Nat) (f : DCmd → DCmd) : (s.updCmd hall ticket f).lctlb = s.lctlb := rfl
@[simp] theorem State.updCmd_icache (s : State) (hall ticket : Nat) (f : DCmd → DCmd) : (s.updCmd hall ticket f).icache = s.icache := rfl
@[simp] theorem State.updCmd_dcache (s : State) (hall ticket : Nat) (f : DCmd → DCmd) : (s.updCmd hall ticket f).dcache = s.dcache := rfl
@[simp] theorem State.updCmd_cycle (s : State) (hall ticket : Nat) (f : DCmd → DCmd) : (s.updCmd hall ticket f).cycle = s.cycle := rfl
@[simp] theorem State.updCmd_bars (s : State) (hall ticket : Nat) (f : DCmd → DCmd) : (s.updCmd hall ticket f).bars = s.bars := rfl
@[simp] theorem State.updCmd_barArr (s : State) (hall ticket : Nat) (f : DCmd → DCmd) : (s.updCmd hall ticket f).barArr = s.barArr := rfl
@[simp] theorem State.updCmd_barPh (s : State) (hall ticket : Nat) (f : DCmd → DCmd) : (s.updCmd hall ticket f).barPh = s.barPh := rfl
@[simp] theorem State.updCmd_bays (s : State) (hall ticket : Nat) (f : DCmd → DCmd) : (s.updCmd hall ticket f).bays = s.bays := rfl
@[simp] theorem State.updCmd_units (s : State) (hall ticket : Nat) (f : DCmd → DCmd) : (s.updCmd hall ticket f).units = s.units := rfl
@[simp] theorem State.updCmd_stairs (s : State) (hall ticket : Nat) (f : DCmd → DCmd) : (s.updCmd hall ticket f).stairs = s.stairs := rfl
@[simp] theorem State.updCmd_banks (s : State) (hall ticket : Nat) (f : DCmd → DCmd) : (s.updCmd hall ticket f).banks = s.banks := rfl
@[simp] theorem State.updCmd_net (s : State) (hall ticket : Nat) (f : DCmd → DCmd) : (s.updCmd hall ticket f).net = s.net := rfl
@[simp] theorem State.updCmd_gals (s : State) (hall ticket : Nat) (f : DCmd → DCmd) : (s.updCmd hall ticket f).gals = s.gals := rfl
@[simp] theorem State.updCmd_links (s : State) (hall ticket : Nat) (f : DCmd → DCmd) : (s.updCmd hall ticket f).links = s.links := rfl
@[simp] theorem State.updCmd_rlanes (s : State) (hall ticket : Nat) (f : DCmd → DCmd) : (s.updCmd hall ticket f).rlanes = s.rlanes := rfl
@[simp] theorem State.updCmd_linkAge (s : State) (hall ticket : Nat) (f : DCmd → DCmd) : (s.updCmd hall ticket f).linkAge = s.linkAge := rfl
@[simp] theorem State.updCmd_linkSeq (s : State) (hall ticket : Nat) (f : DCmd → DCmd) : (s.updCmd hall ticket f).linkSeq = s.linkSeq := rfl
@[simp] theorem State.updCmd_vecOpen (s : State) (hall ticket : Nat) (f : DCmd → DCmd) : (s.updCmd hall ticket f).vecOpen = s.vecOpen := rfl
@[simp] theorem State.updCmd_feed (s : State) (hall ticket : Nat) (f : DCmd → DCmd) : (s.updCmd hall ticket f).feed = s.feed := rfl
@[simp] theorem State.updCmd_inFrom (s : State) (hall ticket : Nat) (f : DCmd → DCmd) : (s.updCmd hall ticket f).inFrom = s.inFrom := rfl
@[simp] theorem State.updCmd_tokCnt (s : State) (hall ticket : Nat) (f : DCmd → DCmd) : (s.updCmd hall ticket f).tokCnt = s.tokCnt := rfl
@[simp] theorem State.updCmd_cfgs (s : State) (hall ticket : Nat) (f : DCmd → DCmd) : (s.updCmd hall ticket f).cfgs = s.cfgs := rfl
@[simp] theorem State.updCmd_slots (s : State) (hall ticket : Nat) (f : DCmd → DCmd) : (s.updCmd hall ticket f).slots = s.slots := rfl
@[simp] theorem State.updCmd_regions (s : State) (hall ticket : Nat) (f : DCmd → DCmd) : (s.updCmd hall ticket f).regions = s.regions := rfl
@[simp] theorem State.updCmd_pool (s : State) (hall ticket : Nat) (f : DCmd → DCmd) : (s.updCmd hall ticket f).pool = s.pool := rfl
@[simp] theorem State.updCmd_gens (s : State) (hall ticket : Nat) (f : DCmd → DCmd) : (s.updCmd hall ticket f).gens = s.gens := rfl
@[simp] theorem State.updCmd_ltoks (s : State) (hall ticket : Nat) (f : DCmd → DCmd) : (s.updCmd hall ticket f).ltoks = s.ltoks := rfl
@[simp] theorem State.updCmd_saved (s : State) (hall ticket : Nat) (f : DCmd → DCmd) : (s.updCmd hall ticket f).saved = s.saved := rfl
@[simp] theorem State.updCmd_swapCount (s : State) (hall ticket : Nat) (f : DCmd → DCmd) : (s.updCmd hall ticket f).swapCount = s.swapCount := rfl
@[simp] theorem State.updCmd_walks (s : State) (hall ticket : Nat) (f : DCmd → DCmd) : (s.updCmd hall ticket f).walks = s.walks := rfl
@[simp] theorem State.updCmd_shoots (s : State) (hall ticket : Nat) (f : DCmd → DCmd) : (s.updCmd hall ticket f).shoots = s.shoots := rfl
@[simp] theorem State.updCmd_hallSt (s : State) (hall ticket : Nat) (f : DCmd → DCmd) : (s.updCmd hall ticket f).hallSt = s.hallSt := rfl
@[simp] theorem State.updCmd_arc (s : State) (hall ticket : Nat) (f : DCmd → DCmd) : (s.updCmd hall ticket f).arc = s.arc := rfl
@[simp] theorem State.updCmd_host (s : State) (hall ticket : Nat) (f : DCmd → DCmd) : (s.updCmd hall ticket f).host = s.host := rfl
@[simp] theorem State.updCmd_log (s : State) (hall ticket : Nat) (f : DCmd → DCmd) : (s.updCmd hall ticket f).log = s.log := rfl
@[simp] theorem State.updCmd_lseq (s : State) (hall ticket : Nat) (f : DCmd → DCmd) : (s.updCmd hall ticket f).lseq = s.lseq := rfl
@[simp] theorem State.updCmd_stall (s : State) (hall ticket : Nat) (f : DCmd → DCmd) : (s.updCmd hall ticket f).stall = s.stall := rfl
@[simp] theorem State.updCmd_stalled (s : State) (hall ticket : Nat) (f : DCmd → DCmd) : (s.updCmd hall ticket f).stalled = s.stalled := rfl
@[simp] theorem State.updCmd_turn (s : State) (hall ticket : Nat) (f : DCmd → DCmd) : (s.updCmd hall ticket f).turn = s.turn := rfl
@[simp] theorem State.updCmd_fresh (s : State) (hall ticket : Nat) (f : DCmd → DCmd) : (s.updCmd hall ticket f).fresh = s.fresh := rfl

/-! ### `State.updMyCmd` -/

@[simp] theorem State.updMyCmd_agenda (s : State) (f : DCmd → DCmd) : (s.updMyCmd f).agenda = s.agenda := rfl
@[simp] theorem State.updMyCmd_focus (s : State) (f : DCmd → DCmd) : (s.updMyCmd f).focus = s.focus := rfl
@[simp] theorem State.updMyCmd_mem (s : State) (f : DCmd → DCmd) : (s.updMyCmd f).mem = s.mem := rfl
@[simp] theorem State.updMyCmd_keys (s : State) (f : DCmd → DCmd) : (s.updMyCmd f).keys = s.keys := rfl
@[simp] theorem State.updMyCmd_edge (s : State) (f : DCmd → DCmd) : (s.updMyCmd f).edge = s.edge := rfl
@[simp] theorem State.updMyCmd_threads (s : State) (f : DCmd → DCmd) : (s.updMyCmd f).threads = s.threads := rfl
@[simp] theorem State.updMyCmd_lctlb (s : State) (f : DCmd → DCmd) : (s.updMyCmd f).lctlb = s.lctlb := rfl
@[simp] theorem State.updMyCmd_icache (s : State) (f : DCmd → DCmd) : (s.updMyCmd f).icache = s.icache := rfl
@[simp] theorem State.updMyCmd_dcache (s : State) (f : DCmd → DCmd) : (s.updMyCmd f).dcache = s.dcache := rfl
@[simp] theorem State.updMyCmd_cycle (s : State) (f : DCmd → DCmd) : (s.updMyCmd f).cycle = s.cycle := rfl
@[simp] theorem State.updMyCmd_bars (s : State) (f : DCmd → DCmd) : (s.updMyCmd f).bars = s.bars := rfl
@[simp] theorem State.updMyCmd_barArr (s : State) (f : DCmd → DCmd) : (s.updMyCmd f).barArr = s.barArr := rfl
@[simp] theorem State.updMyCmd_barPh (s : State) (f : DCmd → DCmd) : (s.updMyCmd f).barPh = s.barPh := rfl
@[simp] theorem State.updMyCmd_bays (s : State) (f : DCmd → DCmd) : (s.updMyCmd f).bays = s.bays := rfl
@[simp] theorem State.updMyCmd_units (s : State) (f : DCmd → DCmd) : (s.updMyCmd f).units = s.units := rfl
@[simp] theorem State.updMyCmd_stairs (s : State) (f : DCmd → DCmd) : (s.updMyCmd f).stairs = s.stairs := rfl
@[simp] theorem State.updMyCmd_banks (s : State) (f : DCmd → DCmd) : (s.updMyCmd f).banks = s.banks := rfl
@[simp] theorem State.updMyCmd_net (s : State) (f : DCmd → DCmd) : (s.updMyCmd f).net = s.net := rfl
@[simp] theorem State.updMyCmd_gals (s : State) (f : DCmd → DCmd) : (s.updMyCmd f).gals = s.gals := rfl
@[simp] theorem State.updMyCmd_links (s : State) (f : DCmd → DCmd) : (s.updMyCmd f).links = s.links := rfl
@[simp] theorem State.updMyCmd_rlanes (s : State) (f : DCmd → DCmd) : (s.updMyCmd f).rlanes = s.rlanes := rfl
@[simp] theorem State.updMyCmd_linkAge (s : State) (f : DCmd → DCmd) : (s.updMyCmd f).linkAge = s.linkAge := rfl
@[simp] theorem State.updMyCmd_linkSeq (s : State) (f : DCmd → DCmd) : (s.updMyCmd f).linkSeq = s.linkSeq := rfl
@[simp] theorem State.updMyCmd_vecOpen (s : State) (f : DCmd → DCmd) : (s.updMyCmd f).vecOpen = s.vecOpen := rfl
@[simp] theorem State.updMyCmd_feed (s : State) (f : DCmd → DCmd) : (s.updMyCmd f).feed = s.feed := rfl
@[simp] theorem State.updMyCmd_inFrom (s : State) (f : DCmd → DCmd) : (s.updMyCmd f).inFrom = s.inFrom := rfl
@[simp] theorem State.updMyCmd_tokCnt (s : State) (f : DCmd → DCmd) : (s.updMyCmd f).tokCnt = s.tokCnt := rfl
@[simp] theorem State.updMyCmd_cfgs (s : State) (f : DCmd → DCmd) : (s.updMyCmd f).cfgs = s.cfgs := rfl
@[simp] theorem State.updMyCmd_slots (s : State) (f : DCmd → DCmd) : (s.updMyCmd f).slots = s.slots := rfl
@[simp] theorem State.updMyCmd_regions (s : State) (f : DCmd → DCmd) : (s.updMyCmd f).regions = s.regions := rfl
@[simp] theorem State.updMyCmd_pool (s : State) (f : DCmd → DCmd) : (s.updMyCmd f).pool = s.pool := rfl
@[simp] theorem State.updMyCmd_gens (s : State) (f : DCmd → DCmd) : (s.updMyCmd f).gens = s.gens := rfl
@[simp] theorem State.updMyCmd_ltoks (s : State) (f : DCmd → DCmd) : (s.updMyCmd f).ltoks = s.ltoks := rfl
@[simp] theorem State.updMyCmd_saved (s : State) (f : DCmd → DCmd) : (s.updMyCmd f).saved = s.saved := rfl
@[simp] theorem State.updMyCmd_swapCount (s : State) (f : DCmd → DCmd) : (s.updMyCmd f).swapCount = s.swapCount := rfl
@[simp] theorem State.updMyCmd_walks (s : State) (f : DCmd → DCmd) : (s.updMyCmd f).walks = s.walks := rfl
@[simp] theorem State.updMyCmd_shoots (s : State) (f : DCmd → DCmd) : (s.updMyCmd f).shoots = s.shoots := rfl
@[simp] theorem State.updMyCmd_hallSt (s : State) (f : DCmd → DCmd) : (s.updMyCmd f).hallSt = s.hallSt := rfl
@[simp] theorem State.updMyCmd_arc (s : State) (f : DCmd → DCmd) : (s.updMyCmd f).arc = s.arc := rfl
@[simp] theorem State.updMyCmd_host (s : State) (f : DCmd → DCmd) : (s.updMyCmd f).host = s.host := rfl
@[simp] theorem State.updMyCmd_log (s : State) (f : DCmd → DCmd) : (s.updMyCmd f).log = s.log := rfl
@[simp] theorem State.updMyCmd_lseq (s : State) (f : DCmd → DCmd) : (s.updMyCmd f).lseq = s.lseq := rfl
@[simp] theorem State.updMyCmd_stall (s : State) (f : DCmd → DCmd) : (s.updMyCmd f).stall = s.stall := rfl
@[simp] theorem State.updMyCmd_stalled (s : State) (f : DCmd → DCmd) : (s.updMyCmd f).stalled = s.stalled := rfl
@[simp] theorem State.updMyCmd_turn (s : State) (f : DCmd → DCmd) : (s.updMyCmd f).turn = s.turn := rfl
@[simp] theorem State.updMyCmd_fresh (s : State) (f : DCmd → DCmd) : (s.updMyCmd f).fresh = s.fresh := rfl

/-! ### `State.setBar` -/

@[simp] theorem State.setBar_agenda (s : State) (hall n : Nat) (b : Barrier) : (s.setBar hall n b).agenda = s.agenda := rfl
@[simp] theorem State.setBar_focus (s : State) (hall n : Nat) (b : Barrier) : (s.setBar hall n b).focus = s.focus := rfl
@[simp] theorem State.setBar_mem (s : State) (hall n : Nat) (b : Barrier) : (s.setBar hall n b).mem = s.mem := rfl
@[simp] theorem State.setBar_keys (s : State) (hall n : Nat) (b : Barrier) : (s.setBar hall n b).keys = s.keys := rfl
@[simp] theorem State.setBar_edge (s : State) (hall n : Nat) (b : Barrier) : (s.setBar hall n b).edge = s.edge := rfl
@[simp] theorem State.setBar_threads (s : State) (hall n : Nat) (b : Barrier) : (s.setBar hall n b).threads = s.threads := rfl
@[simp] theorem State.setBar_lctlb (s : State) (hall n : Nat) (b : Barrier) : (s.setBar hall n b).lctlb = s.lctlb := rfl
@[simp] theorem State.setBar_icache (s : State) (hall n : Nat) (b : Barrier) : (s.setBar hall n b).icache = s.icache := rfl
@[simp] theorem State.setBar_dcache (s : State) (hall n : Nat) (b : Barrier) : (s.setBar hall n b).dcache = s.dcache := rfl
@[simp] theorem State.setBar_cycle (s : State) (hall n : Nat) (b : Barrier) : (s.setBar hall n b).cycle = s.cycle := rfl
@[simp] theorem State.setBar_barArr (s : State) (hall n : Nat) (b : Barrier) : (s.setBar hall n b).barArr = s.barArr := rfl
@[simp] theorem State.setBar_barPh (s : State) (hall n : Nat) (b : Barrier) : (s.setBar hall n b).barPh = s.barPh := rfl
@[simp] theorem State.setBar_bays (s : State) (hall n : Nat) (b : Barrier) : (s.setBar hall n b).bays = s.bays := rfl
@[simp] theorem State.setBar_units (s : State) (hall n : Nat) (b : Barrier) : (s.setBar hall n b).units = s.units := rfl
@[simp] theorem State.setBar_stairs (s : State) (hall n : Nat) (b : Barrier) : (s.setBar hall n b).stairs = s.stairs := rfl
@[simp] theorem State.setBar_banks (s : State) (hall n : Nat) (b : Barrier) : (s.setBar hall n b).banks = s.banks := rfl
@[simp] theorem State.setBar_net (s : State) (hall n : Nat) (b : Barrier) : (s.setBar hall n b).net = s.net := rfl
@[simp] theorem State.setBar_gals (s : State) (hall n : Nat) (b : Barrier) : (s.setBar hall n b).gals = s.gals := rfl
@[simp] theorem State.setBar_links (s : State) (hall n : Nat) (b : Barrier) : (s.setBar hall n b).links = s.links := rfl
@[simp] theorem State.setBar_rlanes (s : State) (hall n : Nat) (b : Barrier) : (s.setBar hall n b).rlanes = s.rlanes := rfl
@[simp] theorem State.setBar_linkAge (s : State) (hall n : Nat) (b : Barrier) : (s.setBar hall n b).linkAge = s.linkAge := rfl
@[simp] theorem State.setBar_linkSeq (s : State) (hall n : Nat) (b : Barrier) : (s.setBar hall n b).linkSeq = s.linkSeq := rfl
@[simp] theorem State.setBar_vecOpen (s : State) (hall n : Nat) (b : Barrier) : (s.setBar hall n b).vecOpen = s.vecOpen := rfl
@[simp] theorem State.setBar_feed (s : State) (hall n : Nat) (b : Barrier) : (s.setBar hall n b).feed = s.feed := rfl
@[simp] theorem State.setBar_inFrom (s : State) (hall n : Nat) (b : Barrier) : (s.setBar hall n b).inFrom = s.inFrom := rfl
@[simp] theorem State.setBar_tokCnt (s : State) (hall n : Nat) (b : Barrier) : (s.setBar hall n b).tokCnt = s.tokCnt := rfl
@[simp] theorem State.setBar_cfgs (s : State) (hall n : Nat) (b : Barrier) : (s.setBar hall n b).cfgs = s.cfgs := rfl
@[simp] theorem State.setBar_slots (s : State) (hall n : Nat) (b : Barrier) : (s.setBar hall n b).slots = s.slots := rfl
@[simp] theorem State.setBar_disps (s : State) (hall n : Nat) (b : Barrier) : (s.setBar hall n b).disps = s.disps := rfl
@[simp] theorem State.setBar_regions (s : State) (hall n : Nat) (b : Barrier) : (s.setBar hall n b).regions = s.regions := rfl
@[simp] theorem State.setBar_pool (s : State) (hall n : Nat) (b : Barrier) : (s.setBar hall n b).pool = s.pool := rfl
@[simp] theorem State.setBar_gens (s : State) (hall n : Nat) (b : Barrier) : (s.setBar hall n b).gens = s.gens := rfl
@[simp] theorem State.setBar_ltoks (s : State) (hall n : Nat) (b : Barrier) : (s.setBar hall n b).ltoks = s.ltoks := rfl
@[simp] theorem State.setBar_saved (s : State) (hall n : Nat) (b : Barrier) : (s.setBar hall n b).saved = s.saved := rfl
@[simp] theorem State.setBar_swapCount (s : State) (hall n : Nat) (b : Barrier) : (s.setBar hall n b).swapCount = s.swapCount := rfl
@[simp] theorem State.setBar_walks (s : State) (hall n : Nat) (b : Barrier) : (s.setBar hall n b).walks = s.walks := rfl
@[simp] theorem State.setBar_shoots (s : State) (hall n : Nat) (b : Barrier) : (s.setBar hall n b).shoots = s.shoots := rfl
@[simp] theorem State.setBar_hallSt (s : State) (hall n : Nat) (b : Barrier) : (s.setBar hall n b).hallSt = s.hallSt := rfl
@[simp] theorem State.setBar_arc (s : State) (hall n : Nat) (b : Barrier) : (s.setBar hall n b).arc = s.arc := rfl
@[simp] theorem State.setBar_host (s : State) (hall n : Nat) (b : Barrier) : (s.setBar hall n b).host = s.host := rfl
@[simp] theorem State.setBar_log (s : State) (hall n : Nat) (b : Barrier) : (s.setBar hall n b).log = s.log := rfl
@[simp] theorem State.setBar_lseq (s : State) (hall n : Nat) (b : Barrier) : (s.setBar hall n b).lseq = s.lseq := rfl
@[simp] theorem State.setBar_stall (s : State) (hall n : Nat) (b : Barrier) : (s.setBar hall n b).stall = s.stall := rfl
@[simp] theorem State.setBar_stalled (s : State) (hall n : Nat) (b : Barrier) : (s.setBar hall n b).stalled = s.stalled := rfl
@[simp] theorem State.setBar_turn (s : State) (hall n : Nat) (b : Barrier) : (s.setBar hall n b).turn = s.turn := rfl
@[simp] theorem State.setBar_fresh (s : State) (hall n : Nat) (b : Barrier) : (s.setBar hall n b).fresh = s.fresh := rfl

/-! ### `State.updRegion` -/

@[simp] theorem State.updRegion_agenda (s : State) (r : Nat) (f : Region → Region) : (s.updRegion r f).agenda = s.agenda := rfl
@[simp] theorem State.updRegion_focus (s : State) (r : Nat) (f : Region → Region) : (s.updRegion r f).focus = s.focus := rfl
@[simp] theorem State.updRegion_mem (s : State) (r : Nat) (f : Region → Region) : (s.updRegion r f).mem = s.mem := rfl
@[simp] theorem State.updRegion_keys (s : State) (r : Nat) (f : Region → Region) : (s.updRegion r f).keys = s.keys := rfl
@[simp] theorem State.updRegion_edge (s : State) (r : Nat) (f : Region → Region) : (s.updRegion r f).edge = s.edge := rfl
@[simp] theorem State.updRegion_threads (s : State) (r : Nat) (f : Region → Region) : (s.updRegion r f).threads = s.threads := rfl
@[simp] theorem State.updRegion_lctlb (s : State) (r : Nat) (f : Region → Region) : (s.updRegion r f).lctlb = s.lctlb := rfl
@[simp] theorem State.updRegion_icache (s : State) (r : Nat) (f : Region → Region) : (s.updRegion r f).icache = s.icache := rfl
@[simp] theorem State.updRegion_dcache (s : State) (r : Nat) (f : Region → Region) : (s.updRegion r f).dcache = s.dcache := rfl
@[simp] theorem State.updRegion_cycle (s : State) (r : Nat) (f : Region → Region) : (s.updRegion r f).cycle = s.cycle := rfl
@[simp] theorem State.updRegion_bars (s : State) (r : Nat) (f : Region → Region) : (s.updRegion r f).bars = s.bars := rfl
@[simp] theorem State.updRegion_barArr (s : State) (r : Nat) (f : Region → Region) : (s.updRegion r f).barArr = s.barArr := rfl
@[simp] theorem State.updRegion_barPh (s : State) (r : Nat) (f : Region → Region) : (s.updRegion r f).barPh = s.barPh := rfl
@[simp] theorem State.updRegion_bays (s : State) (r : Nat) (f : Region → Region) : (s.updRegion r f).bays = s.bays := rfl
@[simp] theorem State.updRegion_units (s : State) (r : Nat) (f : Region → Region) : (s.updRegion r f).units = s.units := rfl
@[simp] theorem State.updRegion_stairs (s : State) (r : Nat) (f : Region → Region) : (s.updRegion r f).stairs = s.stairs := rfl
@[simp] theorem State.updRegion_banks (s : State) (r : Nat) (f : Region → Region) : (s.updRegion r f).banks = s.banks := rfl
@[simp] theorem State.updRegion_net (s : State) (r : Nat) (f : Region → Region) : (s.updRegion r f).net = s.net := rfl
@[simp] theorem State.updRegion_gals (s : State) (r : Nat) (f : Region → Region) : (s.updRegion r f).gals = s.gals := rfl
@[simp] theorem State.updRegion_links (s : State) (r : Nat) (f : Region → Region) : (s.updRegion r f).links = s.links := rfl
@[simp] theorem State.updRegion_rlanes (s : State) (r : Nat) (f : Region → Region) : (s.updRegion r f).rlanes = s.rlanes := rfl
@[simp] theorem State.updRegion_linkAge (s : State) (r : Nat) (f : Region → Region) : (s.updRegion r f).linkAge = s.linkAge := rfl
@[simp] theorem State.updRegion_linkSeq (s : State) (r : Nat) (f : Region → Region) : (s.updRegion r f).linkSeq = s.linkSeq := rfl
@[simp] theorem State.updRegion_vecOpen (s : State) (r : Nat) (f : Region → Region) : (s.updRegion r f).vecOpen = s.vecOpen := rfl
@[simp] theorem State.updRegion_feed (s : State) (r : Nat) (f : Region → Region) : (s.updRegion r f).feed = s.feed := rfl
@[simp] theorem State.updRegion_inFrom (s : State) (r : Nat) (f : Region → Region) : (s.updRegion r f).inFrom = s.inFrom := rfl
@[simp] theorem State.updRegion_tokCnt (s : State) (r : Nat) (f : Region → Region) : (s.updRegion r f).tokCnt = s.tokCnt := rfl
@[simp] theorem State.updRegion_cfgs (s : State) (r : Nat) (f : Region → Region) : (s.updRegion r f).cfgs = s.cfgs := rfl
@[simp] theorem State.updRegion_slots (s : State) (r : Nat) (f : Region → Region) : (s.updRegion r f).slots = s.slots := rfl
@[simp] theorem State.updRegion_disps (s : State) (r : Nat) (f : Region → Region) : (s.updRegion r f).disps = s.disps := rfl
@[simp] theorem State.updRegion_pool (s : State) (r : Nat) (f : Region → Region) : (s.updRegion r f).pool = s.pool := rfl
@[simp] theorem State.updRegion_gens (s : State) (r : Nat) (f : Region → Region) : (s.updRegion r f).gens = s.gens := rfl
@[simp] theorem State.updRegion_ltoks (s : State) (r : Nat) (f : Region → Region) : (s.updRegion r f).ltoks = s.ltoks := rfl
@[simp] theorem State.updRegion_saved (s : State) (r : Nat) (f : Region → Region) : (s.updRegion r f).saved = s.saved := rfl
@[simp] theorem State.updRegion_swapCount (s : State) (r : Nat) (f : Region → Region) : (s.updRegion r f).swapCount = s.swapCount := rfl
@[simp] theorem State.updRegion_walks (s : State) (r : Nat) (f : Region → Region) : (s.updRegion r f).walks = s.walks := rfl
@[simp] theorem State.updRegion_shoots (s : State) (r : Nat) (f : Region → Region) : (s.updRegion r f).shoots = s.shoots := rfl
@[simp] theorem State.updRegion_hallSt (s : State) (r : Nat) (f : Region → Region) : (s.updRegion r f).hallSt = s.hallSt := rfl
@[simp] theorem State.updRegion_arc (s : State) (r : Nat) (f : Region → Region) : (s.updRegion r f).arc = s.arc := rfl
@[simp] theorem State.updRegion_host (s : State) (r : Nat) (f : Region → Region) : (s.updRegion r f).host = s.host := rfl
@[simp] theorem State.updRegion_log (s : State) (r : Nat) (f : Region → Region) : (s.updRegion r f).log = s.log := rfl
@[simp] theorem State.updRegion_lseq (s : State) (r : Nat) (f : Region → Region) : (s.updRegion r f).lseq = s.lseq := rfl
@[simp] theorem State.updRegion_stall (s : State) (r : Nat) (f : Region → Region) : (s.updRegion r f).stall = s.stall := rfl
@[simp] theorem State.updRegion_stalled (s : State) (r : Nat) (f : Region → Region) : (s.updRegion r f).stalled = s.stalled := rfl
@[simp] theorem State.updRegion_turn (s : State) (r : Nat) (f : Region → Region) : (s.updRegion r f).turn = s.turn := rfl
@[simp] theorem State.updRegion_fresh (s : State) (r : Nat) (f : Region → Region) : (s.updRegion r f).fresh = s.fresh := rfl

/-! ### `State.updHost` -/

@[simp] theorem State.updHost_agenda (s : State) (f : HostSide → HostSide) : (s.updHost f).agenda = s.agenda := rfl
@[simp] theorem State.updHost_focus (s : State) (f : HostSide → HostSide) : (s.updHost f).focus = s.focus := rfl
@[simp] theorem State.updHost_mem (s : State) (f : HostSide → HostSide) : (s.updHost f).mem = s.mem := rfl
@[simp] theorem State.updHost_keys (s : State) (f : HostSide → HostSide) : (s.updHost f).keys = s.keys := rfl
@[simp] theorem State.updHost_edge (s : State) (f : HostSide → HostSide) : (s.updHost f).edge = s.edge := rfl
@[simp] theorem State.updHost_threads (s : State) (f : HostSide → HostSide) : (s.updHost f).threads = s.threads := rfl
@[simp] theorem State.updHost_lctlb (s : State) (f : HostSide → HostSide) : (s.updHost f).lctlb = s.lctlb := rfl
@[simp] theorem State.updHost_icache (s : State) (f : HostSide → HostSide) : (s.updHost f).icache = s.icache := rfl
@[simp] theorem State.updHost_dcache (s : State) (f : HostSide → HostSide) : (s.updHost f).dcache = s.dcache := rfl
@[simp] theorem State.updHost_cycle (s : State) (f : HostSide → HostSide) : (s.updHost f).cycle = s.cycle := rfl
@[simp] theorem State.updHost_bars (s : State) (f : HostSide → HostSide) : (s.updHost f).bars = s.bars := rfl
@[simp] theorem State.updHost_barArr (s : State) (f : HostSide → HostSide) : (s.updHost f).barArr = s.barArr := rfl
@[simp] theorem State.updHost_barPh (s : State) (f : HostSide → HostSide) : (s.updHost f).barPh = s.barPh := rfl
@[simp] theorem State.updHost_bays (s : State) (f : HostSide → HostSide) : (s.updHost f).bays = s.bays := rfl
@[simp] theorem State.updHost_units (s : State) (f : HostSide → HostSide) : (s.updHost f).units = s.units := rfl
@[simp] theorem State.updHost_stairs (s : State) (f : HostSide → HostSide) : (s.updHost f).stairs = s.stairs := rfl
@[simp] theorem State.updHost_banks (s : State) (f : HostSide → HostSide) : (s.updHost f).banks = s.banks := rfl
@[simp] theorem State.updHost_net (s : State) (f : HostSide → HostSide) : (s.updHost f).net = s.net := rfl
@[simp] theorem State.updHost_gals (s : State) (f : HostSide → HostSide) : (s.updHost f).gals = s.gals := rfl
@[simp] theorem State.updHost_links (s : State) (f : HostSide → HostSide) : (s.updHost f).links = s.links := rfl
@[simp] theorem State.updHost_rlanes (s : State) (f : HostSide → HostSide) : (s.updHost f).rlanes = s.rlanes := rfl
@[simp] theorem State.updHost_linkAge (s : State) (f : HostSide → HostSide) : (s.updHost f).linkAge = s.linkAge := rfl
@[simp] theorem State.updHost_linkSeq (s : State) (f : HostSide → HostSide) : (s.updHost f).linkSeq = s.linkSeq := rfl
@[simp] theorem State.updHost_vecOpen (s : State) (f : HostSide → HostSide) : (s.updHost f).vecOpen = s.vecOpen := rfl
@[simp] theorem State.updHost_feed (s : State) (f : HostSide → HostSide) : (s.updHost f).feed = s.feed := rfl
@[simp] theorem State.updHost_inFrom (s : State) (f : HostSide → HostSide) : (s.updHost f).inFrom = s.inFrom := rfl
@[simp] theorem State.updHost_tokCnt (s : State) (f : HostSide → HostSide) : (s.updHost f).tokCnt = s.tokCnt := rfl
@[simp] theorem State.updHost_cfgs (s : State) (f : HostSide → HostSide) : (s.updHost f).cfgs = s.cfgs := rfl
@[simp] theorem State.updHost_slots (s : State) (f : HostSide → HostSide) : (s.updHost f).slots = s.slots := rfl
@[simp] theorem State.updHost_disps (s : State) (f : HostSide → HostSide) : (s.updHost f).disps = s.disps := rfl
@[simp] theorem State.updHost_regions (s : State) (f : HostSide → HostSide) : (s.updHost f).regions = s.regions := rfl
@[simp] theorem State.updHost_pool (s : State) (f : HostSide → HostSide) : (s.updHost f).pool = s.pool := rfl
@[simp] theorem State.updHost_gens (s : State) (f : HostSide → HostSide) : (s.updHost f).gens = s.gens := rfl
@[simp] theorem State.updHost_ltoks (s : State) (f : HostSide → HostSide) : (s.updHost f).ltoks = s.ltoks := rfl
@[simp] theorem State.updHost_saved (s : State) (f : HostSide → HostSide) : (s.updHost f).saved = s.saved := rfl
@[simp] theorem State.updHost_swapCount (s : State) (f : HostSide → HostSide) : (s.updHost f).swapCount = s.swapCount := rfl
@[simp] theorem State.updHost_walks (s : State) (f : HostSide → HostSide) : (s.updHost f).walks = s.walks := rfl
@[simp] theorem State.updHost_shoots (s : State) (f : HostSide → HostSide) : (s.updHost f).shoots = s.shoots := rfl
@[simp] theorem State.updHost_hallSt (s : State) (f : HostSide → HostSide) : (s.updHost f).hallSt = s.hallSt := rfl
@[simp] theorem State.updHost_arc (s : State) (f : HostSide → HostSide) : (s.updHost f).arc = s.arc := rfl
@[simp] theorem State.updHost_log (s : State) (f : HostSide → HostSide) : (s.updHost f).log = s.log := rfl
@[simp] theorem State.updHost_lseq (s : State) (f : HostSide → HostSide) : (s.updHost f).lseq = s.lseq := rfl
@[simp] theorem State.updHost_stall (s : State) (f : HostSide → HostSide) : (s.updHost f).stall = s.stall := rfl
@[simp] theorem State.updHost_stalled (s : State) (f : HostSide → HostSide) : (s.updHost f).stalled = s.stalled := rfl
@[simp] theorem State.updHost_turn (s : State) (f : HostSide → HostSide) : (s.updHost f).turn = s.turn := rfl
@[simp] theorem State.updHost_fresh (s : State) (f : HostSide → HostSide) : (s.updHost f).fresh = s.fresh := rfl

/-! ### `State.setAport` -/

@[simp] theorem State.setAport_agenda (s : State) (p : Nat) (x : APort) : (s.setAport p x).agenda = s.agenda := rfl
@[simp] theorem State.setAport_focus (s : State) (p : Nat) (x : APort) : (s.setAport p x).focus = s.focus := rfl
@[simp] theorem State.setAport_mem (s : State) (p : Nat) (x : APort) : (s.setAport p x).mem = s.mem := rfl
@[simp] theorem State.setAport_keys (s : State) (p : Nat) (x : APort) : (s.setAport p x).keys = s.keys := rfl
@[simp] theorem State.setAport_edge (s : State) (p : Nat) (x : APort) : (s.setAport p x).edge = s.edge := rfl
@[simp] theorem State.setAport_threads (s : State) (p : Nat) (x : APort) : (s.setAport p x).threads = s.threads := rfl
@[simp] theorem State.setAport_lctlb (s : State) (p : Nat) (x : APort) : (s.setAport p x).lctlb = s.lctlb := rfl
@[simp] theorem State.setAport_icache (s : State) (p : Nat) (x : APort) : (s.setAport p x).icache = s.icache := rfl
@[simp] theorem State.setAport_dcache (s : State) (p : Nat) (x : APort) : (s.setAport p x).dcache = s.dcache := rfl
@[simp] theorem State.setAport_cycle (s : State) (p : Nat) (x : APort) : (s.setAport p x).cycle = s.cycle := rfl
@[simp] theorem State.setAport_bars (s : State) (p : Nat) (x : APort) : (s.setAport p x).bars = s.bars := rfl
@[simp] theorem State.setAport_barArr (s : State) (p : Nat) (x : APort) : (s.setAport p x).barArr = s.barArr := rfl
@[simp] theorem State.setAport_barPh (s : State) (p : Nat) (x : APort) : (s.setAport p x).barPh = s.barPh := rfl
@[simp] theorem State.setAport_bays (s : State) (p : Nat) (x : APort) : (s.setAport p x).bays = s.bays := rfl
@[simp] theorem State.setAport_units (s : State) (p : Nat) (x : APort) : (s.setAport p x).units = s.units := rfl
@[simp] theorem State.setAport_stairs (s : State) (p : Nat) (x : APort) : (s.setAport p x).stairs = s.stairs := rfl
@[simp] theorem State.setAport_banks (s : State) (p : Nat) (x : APort) : (s.setAport p x).banks = s.banks := rfl
@[simp] theorem State.setAport_net (s : State) (p : Nat) (x : APort) : (s.setAport p x).net = s.net := rfl
@[simp] theorem State.setAport_gals (s : State) (p : Nat) (x : APort) : (s.setAport p x).gals = s.gals := rfl
@[simp] theorem State.setAport_links (s : State) (p : Nat) (x : APort) : (s.setAport p x).links = s.links := rfl
@[simp] theorem State.setAport_rlanes (s : State) (p : Nat) (x : APort) : (s.setAport p x).rlanes = s.rlanes := rfl
@[simp] theorem State.setAport_linkAge (s : State) (p : Nat) (x : APort) : (s.setAport p x).linkAge = s.linkAge := rfl
@[simp] theorem State.setAport_linkSeq (s : State) (p : Nat) (x : APort) : (s.setAport p x).linkSeq = s.linkSeq := rfl
@[simp] theorem State.setAport_vecOpen (s : State) (p : Nat) (x : APort) : (s.setAport p x).vecOpen = s.vecOpen := rfl
@[simp] theorem State.setAport_feed (s : State) (p : Nat) (x : APort) : (s.setAport p x).feed = s.feed := rfl
@[simp] theorem State.setAport_inFrom (s : State) (p : Nat) (x : APort) : (s.setAport p x).inFrom = s.inFrom := rfl
@[simp] theorem State.setAport_tokCnt (s : State) (p : Nat) (x : APort) : (s.setAport p x).tokCnt = s.tokCnt := rfl
@[simp] theorem State.setAport_cfgs (s : State) (p : Nat) (x : APort) : (s.setAport p x).cfgs = s.cfgs := rfl
@[simp] theorem State.setAport_slots (s : State) (p : Nat) (x : APort) : (s.setAport p x).slots = s.slots := rfl
@[simp] theorem State.setAport_disps (s : State) (p : Nat) (x : APort) : (s.setAport p x).disps = s.disps := rfl
@[simp] theorem State.setAport_regions (s : State) (p : Nat) (x : APort) : (s.setAport p x).regions = s.regions := rfl
@[simp] theorem State.setAport_pool (s : State) (p : Nat) (x : APort) : (s.setAport p x).pool = s.pool := rfl
@[simp] theorem State.setAport_gens (s : State) (p : Nat) (x : APort) : (s.setAport p x).gens = s.gens := rfl
@[simp] theorem State.setAport_ltoks (s : State) (p : Nat) (x : APort) : (s.setAport p x).ltoks = s.ltoks := rfl
@[simp] theorem State.setAport_saved (s : State) (p : Nat) (x : APort) : (s.setAport p x).saved = s.saved := rfl
@[simp] theorem State.setAport_swapCount (s : State) (p : Nat) (x : APort) : (s.setAport p x).swapCount = s.swapCount := rfl
@[simp] theorem State.setAport_walks (s : State) (p : Nat) (x : APort) : (s.setAport p x).walks = s.walks := rfl
@[simp] theorem State.setAport_shoots (s : State) (p : Nat) (x : APort) : (s.setAport p x).shoots = s.shoots := rfl
@[simp] theorem State.setAport_hallSt (s : State) (p : Nat) (x : APort) : (s.setAport p x).hallSt = s.hallSt := rfl
@[simp] theorem State.setAport_host (s : State) (p : Nat) (x : APort) : (s.setAport p x).host = s.host := rfl
@[simp] theorem State.setAport_log (s : State) (p : Nat) (x : APort) : (s.setAport p x).log = s.log := rfl
@[simp] theorem State.setAport_lseq (s : State) (p : Nat) (x : APort) : (s.setAport p x).lseq = s.lseq := rfl
@[simp] theorem State.setAport_stall (s : State) (p : Nat) (x : APort) : (s.setAport p x).stall = s.stall := rfl
@[simp] theorem State.setAport_stalled (s : State) (p : Nat) (x : APort) : (s.setAport p x).stalled = s.stalled := rfl
@[simp] theorem State.setAport_turn (s : State) (p : Nat) (x : APort) : (s.setAport p x).turn = s.turn := rfl
@[simp] theorem State.setAport_fresh (s : State) (p : Nat) (x : APort) : (s.setAport p x).fresh = s.fresh := rfl

/-! ### `State.updHallSt` -/

@[simp] theorem State.updHallSt_agenda (s : State) (h : Nat) (f : HallSt → HallSt) : (s.updHallSt h f).agenda = s.agenda := rfl
@[simp] theorem State.updHallSt_focus (s : State) (h : Nat) (f : HallSt → HallSt) : (s.updHallSt h f).focus = s.focus := rfl
@[simp] theorem State.updHallSt_mem (s : State) (h : Nat) (f : HallSt → HallSt) : (s.updHallSt h f).mem = s.mem := rfl
@[simp] theorem State.updHallSt_keys (s : State) (h : Nat) (f : HallSt → HallSt) : (s.updHallSt h f).keys = s.keys := rfl
@[simp] theorem State.updHallSt_edge (s : State) (h : Nat) (f : HallSt → HallSt) : (s.updHallSt h f).edge = s.edge := rfl
@[simp] theorem State.updHallSt_threads (s : State) (h : Nat) (f : HallSt → HallSt) : (s.updHallSt h f).threads = s.threads := rfl
@[simp] theorem State.updHallSt_lctlb (s : State) (h : Nat) (f : HallSt → HallSt) : (s.updHallSt h f).lctlb = s.lctlb := rfl
@[simp] theorem State.updHallSt_icache (s : State) (h : Nat) (f : HallSt → HallSt) : (s.updHallSt h f).icache = s.icache := rfl
@[simp] theorem State.updHallSt_dcache (s : State) (h : Nat) (f : HallSt → HallSt) : (s.updHallSt h f).dcache = s.dcache := rfl
@[simp] theorem State.updHallSt_cycle (s : State) (h : Nat) (f : HallSt → HallSt) : (s.updHallSt h f).cycle = s.cycle := rfl
@[simp] theorem State.updHallSt_bars (s : State) (h : Nat) (f : HallSt → HallSt) : (s.updHallSt h f).bars = s.bars := rfl
@[simp] theorem State.updHallSt_barArr (s : State) (h : Nat) (f : HallSt → HallSt) : (s.updHallSt h f).barArr = s.barArr := rfl
@[simp] theorem State.updHallSt_barPh (s : State) (h : Nat) (f : HallSt → HallSt) : (s.updHallSt h f).barPh = s.barPh := rfl
@[simp] theorem State.updHallSt_bays (s : State) (h : Nat) (f : HallSt → HallSt) : (s.updHallSt h f).bays = s.bays := rfl
@[simp] theorem State.updHallSt_units (s : State) (h : Nat) (f : HallSt → HallSt) : (s.updHallSt h f).units = s.units := rfl
@[simp] theorem State.updHallSt_stairs (s : State) (h : Nat) (f : HallSt → HallSt) : (s.updHallSt h f).stairs = s.stairs := rfl
@[simp] theorem State.updHallSt_banks (s : State) (h : Nat) (f : HallSt → HallSt) : (s.updHallSt h f).banks = s.banks := rfl
@[simp] theorem State.updHallSt_net (s : State) (h : Nat) (f : HallSt → HallSt) : (s.updHallSt h f).net = s.net := rfl
@[simp] theorem State.updHallSt_gals (s : State) (h : Nat) (f : HallSt → HallSt) : (s.updHallSt h f).gals = s.gals := rfl
@[simp] theorem State.updHallSt_links (s : State) (h : Nat) (f : HallSt → HallSt) : (s.updHallSt h f).links = s.links := rfl
@[simp] theorem State.updHallSt_rlanes (s : State) (h : Nat) (f : HallSt → HallSt) : (s.updHallSt h f).rlanes = s.rlanes := rfl
@[simp] theorem State.updHallSt_linkAge (s : State) (h : Nat) (f : HallSt → HallSt) : (s.updHallSt h f).linkAge = s.linkAge := rfl
@[simp] theorem State.updHallSt_linkSeq (s : State) (h : Nat) (f : HallSt → HallSt) : (s.updHallSt h f).linkSeq = s.linkSeq := rfl
@[simp] theorem State.updHallSt_vecOpen (s : State) (h : Nat) (f : HallSt → HallSt) : (s.updHallSt h f).vecOpen = s.vecOpen := rfl
@[simp] theorem State.updHallSt_feed (s : State) (h : Nat) (f : HallSt → HallSt) : (s.updHallSt h f).feed = s.feed := rfl
@[simp] theorem State.updHallSt_inFrom (s : State) (h : Nat) (f : HallSt → HallSt) : (s.updHallSt h f).inFrom = s.inFrom := rfl
@[simp] theorem State.updHallSt_tokCnt (s : State) (h : Nat) (f : HallSt → HallSt) : (s.updHallSt h f).tokCnt = s.tokCnt := rfl
@[simp] theorem State.updHallSt_cfgs (s : State) (h : Nat) (f : HallSt → HallSt) : (s.updHallSt h f).cfgs = s.cfgs := rfl
@[simp] theorem State.updHallSt_slots (s : State) (h : Nat) (f : HallSt → HallSt) : (s.updHallSt h f).slots = s.slots := rfl
@[simp] theorem State.updHallSt_disps (s : State) (h : Nat) (f : HallSt → HallSt) : (s.updHallSt h f).disps = s.disps := rfl
@[simp] theorem State.updHallSt_regions (s : State) (h : Nat) (f : HallSt → HallSt) : (s.updHallSt h f).regions = s.regions := rfl
@[simp] theorem State.updHallSt_pool (s : State) (h : Nat) (f : HallSt → HallSt) : (s.updHallSt h f).pool = s.pool := rfl
@[simp] theorem State.updHallSt_gens (s : State) (h : Nat) (f : HallSt → HallSt) : (s.updHallSt h f).gens = s.gens := rfl
@[simp] theorem State.updHallSt_ltoks (s : State) (h : Nat) (f : HallSt → HallSt) : (s.updHallSt h f).ltoks = s.ltoks := rfl
@[simp] theorem State.updHallSt_saved (s : State) (h : Nat) (f : HallSt → HallSt) : (s.updHallSt h f).saved = s.saved := rfl
@[simp] theorem State.updHallSt_swapCount (s : State) (h : Nat) (f : HallSt → HallSt) : (s.updHallSt h f).swapCount = s.swapCount := rfl
@[simp] theorem State.updHallSt_walks (s : State) (h : Nat) (f : HallSt → HallSt) : (s.updHallSt h f).walks = s.walks := rfl
@[simp] theorem State.updHallSt_shoots (s : State) (h : Nat) (f : HallSt → HallSt) : (s.updHallSt h f).shoots = s.shoots := rfl
@[simp] theorem State.updHallSt_arc (s : State) (h : Nat) (f : HallSt → HallSt) : (s.updHallSt h f).arc = s.arc := rfl
@[simp] theorem State.updHallSt_host (s : State) (h : Nat) (f : HallSt → HallSt) : (s.updHallSt h f).host = s.host := rfl
@[simp] theorem State.updHallSt_log (s : State) (h : Nat) (f : HallSt → HallSt) : (s.updHallSt h f).log = s.log := rfl
@[simp] theorem State.updHallSt_lseq (s : State) (h : Nat) (f : HallSt → HallSt) : (s.updHallSt h f).lseq = s.lseq := rfl
@[simp] theorem State.updHallSt_stall (s : State) (h : Nat) (f : HallSt → HallSt) : (s.updHallSt h f).stall = s.stall := rfl
@[simp] theorem State.updHallSt_stalled (s : State) (h : Nat) (f : HallSt → HallSt) : (s.updHallSt h f).stalled = s.stalled := rfl
@[simp] theorem State.updHallSt_turn (s : State) (h : Nat) (f : HallSt → HallSt) : (s.updHallSt h f).turn = s.turn := rfl
@[simp] theorem State.updHallSt_fresh (s : State) (h : Nat) (f : HallSt → HallSt) : (s.updHallSt h f).fresh = s.fresh := rfl

/-! ### `State.drawn` -/

@[simp] theorem State.drawn_agenda (s : State) : s.drawn.agenda = s.agenda := rfl
@[simp] theorem State.drawn_focus (s : State) : s.drawn.focus = s.focus := rfl
@[simp] theorem State.drawn_mem (s : State) : s.drawn.mem = s.mem := rfl
@[simp] theorem State.drawn_keys (s : State) : s.drawn.keys = s.keys := rfl
@[simp] theorem State.drawn_edge (s : State) : s.drawn.edge = s.edge := rfl
@[simp] theorem State.drawn_threads (s : State) : s.drawn.threads = s.threads := rfl
@[simp] theorem State.drawn_lctlb (s : State) : s.drawn.lctlb = s.lctlb := rfl
@[simp] theorem State.drawn_icache (s : State) : s.drawn.icache = s.icache := rfl
@[simp] theorem State.drawn_dcache (s : State) : s.drawn.dcache = s.dcache := rfl
@[simp] theorem State.drawn_cycle (s : State) : s.drawn.cycle = s.cycle := rfl
@[simp] theorem State.drawn_bars (s : State) : s.drawn.bars = s.bars := rfl
@[simp] theorem State.drawn_barArr (s : State) : s.drawn.barArr = s.barArr := rfl
@[simp] theorem State.drawn_barPh (s : State) : s.drawn.barPh = s.barPh := rfl
@[simp] theorem State.drawn_bays (s : State) : s.drawn.bays = s.bays := rfl
@[simp] theorem State.drawn_units (s : State) : s.drawn.units = s.units := rfl
@[simp] theorem State.drawn_stairs (s : State) : s.drawn.stairs = s.stairs := rfl
@[simp] theorem State.drawn_banks (s : State) : s.drawn.banks = s.banks := rfl
@[simp] theorem State.drawn_net (s : State) : s.drawn.net = s.net := rfl
@[simp] theorem State.drawn_gals (s : State) : s.drawn.gals = s.gals := rfl
@[simp] theorem State.drawn_links (s : State) : s.drawn.links = s.links := rfl
@[simp] theorem State.drawn_rlanes (s : State) : s.drawn.rlanes = s.rlanes := rfl
@[simp] theorem State.drawn_linkAge (s : State) : s.drawn.linkAge = s.linkAge := rfl
@[simp] theorem State.drawn_linkSeq (s : State) : s.drawn.linkSeq = s.linkSeq := rfl
@[simp] theorem State.drawn_vecOpen (s : State) : s.drawn.vecOpen = s.vecOpen := rfl
@[simp] theorem State.drawn_feed (s : State) : s.drawn.feed = s.feed := rfl
@[simp] theorem State.drawn_inFrom (s : State) : s.drawn.inFrom = s.inFrom := rfl
@[simp] theorem State.drawn_tokCnt (s : State) : s.drawn.tokCnt = s.tokCnt := rfl
@[simp] theorem State.drawn_cfgs (s : State) : s.drawn.cfgs = s.cfgs := rfl
@[simp] theorem State.drawn_slots (s : State) : s.drawn.slots = s.slots := rfl
@[simp] theorem State.drawn_disps (s : State) : s.drawn.disps = s.disps := rfl
@[simp] theorem State.drawn_regions (s : State) : s.drawn.regions = s.regions := rfl
@[simp] theorem State.drawn_pool (s : State) : s.drawn.pool = s.pool := rfl
@[simp] theorem State.drawn_gens (s : State) : s.drawn.gens = s.gens := rfl
@[simp] theorem State.drawn_ltoks (s : State) : s.drawn.ltoks = s.ltoks := rfl
@[simp] theorem State.drawn_saved (s : State) : s.drawn.saved = s.saved := rfl
@[simp] theorem State.drawn_swapCount (s : State) : s.drawn.swapCount = s.swapCount := rfl
@[simp] theorem State.drawn_walks (s : State) : s.drawn.walks = s.walks := rfl
@[simp] theorem State.drawn_shoots (s : State) : s.drawn.shoots = s.shoots := rfl
@[simp] theorem State.drawn_hallSt (s : State) : s.drawn.hallSt = s.hallSt := rfl
@[simp] theorem State.drawn_arc (s : State) : s.drawn.arc = s.arc := rfl
@[simp] theorem State.drawn_host (s : State) : s.drawn.host = s.host := rfl
@[simp] theorem State.drawn_log (s : State) : s.drawn.log = s.log := rfl
@[simp] theorem State.drawn_lseq (s : State) : s.drawn.lseq = s.lseq := rfl
@[simp] theorem State.drawn_stall (s : State) : s.drawn.stall = s.stall := rfl
@[simp] theorem State.drawn_stalled (s : State) : s.drawn.stalled = s.stalled := rfl
@[simp] theorem State.drawn_turn (s : State) : s.drawn.turn = s.turn := rfl

/-! ### Reading back -/

@[simp] theorem State.thr_setThr (s : State) (hall ctx : Nat) (t : Thread) : (s.setThr hall ctx t).thr hall ctx = t := by
  simp [State.thr, State.setThr]
theorem State.thr_setThr_other (s : State) (hall ctx h c : Nat) (t : Thread) (ne : tkey h c ≠ tkey hall ctx) :
    (s.setThr hall ctx t).thr h c = s.thr h c := by
  simp [State.thr, State.setThr, Tab.get_put_other, ne]
@[simp] theorem State.me_setMe (s : State) (t : Thread) : (s.setMe t).me = t := by
  simp [State.me, State.setMe]
@[simp] theorem State.bank_setBank (s : State) (hall quad : Nat) (b : Bank) : (s.setBank hall quad b).bank hall quad = b := by
  simp [State.bank, State.setBank]
@[simp] theorem State.gal_setGal (s : State) (hall : Nat) (g : Gal) : (s.setGal hall g).gal hall = g := by
  simp [State.gal, State.setGal]
@[simp] theorem State.bayCtx_setBayCtx (s : State) (hall bay ctx : Nat) (b : BayCtx) : (s.setBayCtx hall bay ctx b).bayCtx hall bay ctx = b := by
  simp [State.bayCtx, State.setBayCtx]
@[simp] theorem State.unit_setUnit (s : State) (hall bay ctx : Nat) (u : SCtx) : (s.setUnit hall bay ctx u).unit hall bay ctx = u := by
  simp [State.unit, State.setUnit]
@[simp] theorem State.stair_setStair (s : State) (hall n : Nat) (x : Stair) : (s.setStair hall n x).stair hall n = x := by
  simp [State.stair, State.setStair]
@[simp] theorem State.slot_setSlot (s : State) (hall ctx : Nat) (x : HSlot) : (s.setSlot hall ctx x).slot hall ctx = x := by
  simp [State.slot, State.setSlot]
@[simp] theorem State.disp_setDisp (s : State) (hall : Nat) (d : Disp) : (s.setDisp hall d).disp hall = d := by
  simp [State.disp, State.setDisp]
@[simp] theorem State.bar_setBar (s : State) (hall n : Nat) (b : Barrier) : (s.setBar hall n b).bar hall n = b := by
  simp [State.bar, State.setBar]

end Sys2Proof.Machine
end

