-- ==== Sys2Proof/Laws/Bay.lean ====
section
/-! SUPPORT. What firing a bay instruction can do (R210–R216), once for all of them. -/

namespace Sys2Proof.Machine

@[simp] theorem State.myBay_setMyBay (s : State) (c : BayCtx) : (s.setMyBay c).myBay = c := by
  simp [State.myBay, State.setMyBay, State.bayCtx, State.setBayCtx]

@[simp] theorem State.setMyBay_setMyBay (s : State) (c d : BayCtx) : (s.setMyBay c).setMyBay d = s.setMyBay d := by
  simp [State.setMyBay, State.setBayCtx]

theorem State.updMyBay_eq (s : State) (f : BayCtx → BayCtx) : s.updMyBay f = s.setMyBay (f s.myBay) := rfl

theorem State.setMyBay_other (s : State) (c : BayCtx) (k : Nat) (h : k ≠ bkey s.focus.hall s.focus.elem s.focus.ctx) :
    Tab.find (s.setMyBay c).bays k = Tab.find s.bays k := by
  simp [State.setMyBay, State.setBayCtx, Tab.find_put_other _ _ _ _ h]

/-- No task, or one that may not run: the instruction waits. -/
theorem bayFire_stopped (s : State) (op : Nat) (t u : BitVec 6) (f : BitVec 13) (body : State → PW32 → PW32 → Option PW32 → BOut)
    (h : s.myBay.task = none ∨ s.myBay.trapped = true ∨ s.halted s.focus.hall s.focus.elem s.focus.ctx = true) :
    bayFire s op t u f body = .next s := by
  unfold bayFire
  dsimp only
  split
  · rfl
  · rename_i k hk
    obtain h | h | h := h
    · simp [h] at hk
    · simp [h, waits]
    · simp [h, waits]

/-- What a running instruction answers, by its readiness and by its own description. -/
theorem bayFire_runs (s : State) (op : Nat) (t u : BitVec 6) (f : BitVec 13) (body : State → PW32 → PW32 → Option PW32 → BOut) (k : Task)
    (hk : s.myBay.task = some k) (ht : s.myBay.trapped = false) (hh : s.halted s.focus.hall s.focus.elem s.focus.ctx = false) :
    bayFire s op t u f body =
      match s.bayReady s.focus.hall s.focus.elem s.focus.ctx s.myBay k.blk s.focus.idx op f with
      | .wait => .next s
      | .null => .next (s.updMyBay fun c => c.updBlk fun b => b.done s.focus.idx t u .null .null)
      | .go a b p =>
        match body s a b p with
        | .out v x y => .next (v.updMyBay fun c => c.updBlk fun b => b.done s.focus.idx t u (x.taint p op) (y.taint p op))
        | .later v => .next (v.updMyBay fun c => c.updBlk fun b => { b with fired := b.fired ++ [s.focus.idx], inflight := b.inflight ++ [s.focus.idx] })
        | .wait => .next s
        | .hold v => .next v
        | .trap v c cls addr data =>
          .next (v.bayTrap s.focus.hall s.focus.elem s.focus.ctx s.focus.idx
            (v.bayWord s.focus.hall s.focus.elem s.focus.ctx k.blk.frame s.focus.idx) c cls addr data) := by
  unfold bayFire
  simp only [hk, ht, hh, Bool.or_self, Bool.false_eq_true, if_false, waits]
  all_goals
    cases s.bayReady s.focus.hall s.focus.elem s.focus.ctx s.myBay k.blk s.focus.idx op f with
    | wait => rfl
    | null => rfl
    | go a b p => cases body s a b p <;> rfl

/-- One value for both targets. -/
theorem bayFire_val (s v : State) (op : Nat) (t u : BitVec 6) (f : BitVec 13) (body : State → PW32 → PW32 → Option PW32 → BOut) (k : Task)
    (a b : PW32) (q : Option PW32) (x : W32) (p : Bool)
    (hk : s.myBay.task = some k) (ht : s.myBay.trapped = false) (hh : s.halted s.focus.hall s.focus.elem s.focus.ctx = false)
    (hr : s.bayReady s.focus.hall s.focus.elem s.focus.ctx s.myBay k.blk s.focus.idx op f = .go a b q)
    (hb : body s a b q = .val v x p) :
    bayFire s op t u f body = .next (v.setMyBay (v.myBay.updBlk fun y =>
      y.done s.focus.idx t u (SlotVal.taint q op (.val { v := x, poison := p })) (SlotVal.taint q op (.val { v := x, poison := p })))) := by
  rw [bayFire_runs s op t u f body k hk ht hh, hr]
  simp only [hb, BOut.val, State.updMyBay_eq]

end Sys2Proof.Machine
end

