-- ==== Sys2Proof/Laws/Mem.lean ====
section
/-! SUPPORT. The laws of memory: what was written is read, other bytes are left alone, and every operation keeps the canonical form. -/

namespace Sys2Proof.Machine

theorem Memory.byte_cons (a a' : Nat) (b' : Byte) (t : List Host.Cell) :
    Memory.byte ((a', b') :: t) a = if a = a' then b' else Memory.byte t a := by
  simp only [Memory.byte, Tab.get, Tab.find]
  by_cases h : a = a' <;> simp [h]

theorem Memory.wfFrom_mono (lo lo' : Nat) (h : lo' ≤ lo) (m : List Host.Cell) (w : Memory.wfFrom lo m = true) : Memory.wfFrom lo' m = true := by
  cases m with
  | nil => rfl
  | cons p t =>
    obtain ⟨a, b⟩ := p
    simp only [Memory.wfFrom, Bool.and_eq_true, decide_eq_true_eq] at w ⊢
    exact ⟨⟨by omega, w.1.2⟩, w.2⟩

/-- Below its first address a well-formed memory lists nothing. -/
theorem Memory.byte_below (lo a : Nat) (m : List Host.Cell) (w : Memory.wfFrom lo m = true) (h : a < lo) : Memory.byte m a = Memory.unlisted := by
  induction m generalizing lo with
  | nil => rfl
  | cons p t ih =>
    obtain ⟨a', b'⟩ := p
    simp only [Memory.wfFrom, Bool.and_eq_true, decide_eq_true_eq] at w
    rw [Memory.byte_cons, if_neg (by omega)]
    exact ih (a' + 1) w.2 (by omega)

theorem Memory.set_wfFrom (lo a : Nat) (b : Byte) (m : List Host.Cell) (w : Memory.wfFrom lo m = true) (h : lo ≤ a) :
    Memory.wfFrom lo (Memory.set m a b) = true := by
  induction m generalizing lo with
  | nil =>
    simp only [Memory.set]
    split
    · rfl
    · simp [Memory.wfFrom, *]
  | cons p t ih =>
    obtain ⟨a', b'⟩ := p
    simp only [Memory.wfFrom, Bool.and_eq_true, decide_eq_true_eq] at w
    simp only [Memory.set]
    split
    · split
      · simp [Memory.wfFrom, w]
      · have w2 : Memory.wfFrom (a + 1) ((a', b') :: t) = true := by
          simp only [Memory.wfFrom, Bool.and_eq_true, decide_eq_true_eq]
          exact ⟨⟨by omega, w.1.2⟩, w.2⟩
        rw [Memory.wfFrom, w2]
        simp [*]
    · split
      · subst_vars
        split
        · exact Memory.wfFrom_mono _ _ (by omega) t w.2
        · simp [Memory.wfFrom, *]
      · have := ih (a' + 1) w.2 (by omega)
        simp [Memory.wfFrom, w, this]

/-- Writing a byte keeps the canonical form. -/
theorem Memory.set_wf (m : List Host.Cell) (a : Nat) (b : Byte) (w : Memory.wf m = true) : Memory.wf (Memory.set m a b) = true :=
  Memory.set_wfFrom 0 a b m w (Nat.zero_le a)

/-- Writing bytes keeps the canonical form. -/
theorem Memory.write_wf (bs : List Byte) (m : List Host.Cell) (a : Nat) (w : Memory.wf m = true) : Memory.wf (Memory.write m a bs) = true := by
  induction bs generalizing m a with
  | nil => exact w
  | cons b t ih => exact ih _ _ (Memory.set_wf m a b w)

theorem Memory.filter_wfFrom (f : Host.Cell → Bool) (lo : Nat) (m : List Host.Cell) (w : Memory.wfFrom lo m = true) :
    Memory.wfFrom lo (m.filter f) = true := by
  induction m generalizing lo with
  | nil => rfl
  | cons p t ih =>
    obtain ⟨a, b⟩ := p
    simp only [Memory.wfFrom, Bool.and_eq_true, decide_eq_true_eq] at w
    simp only [List.filter]
    split
    · simp [Memory.wfFrom, w, ih _ w.2]
    · exact Memory.wfFrom_mono _ _ (by omega) _ (ih _ w.2)

/-- Keeping some addresses only keeps the canonical form. -/
theorem Memory.filter_wf (f : Host.Cell → Bool) (m : List Host.Cell) (w : Memory.wf m = true) : Memory.wf (m.filter f) = true :=
  Memory.filter_wfFrom f 0 m w

theorem Memory.byte_setFrom (lo a x : Nat) (b : Byte) (m : List Host.Cell) (w : Memory.wfFrom lo m = true) (h : lo ≤ a) :
    Memory.byte (Memory.set m a b) x = if x = a then b else Memory.byte m x := by
  induction m generalizing lo with
  | nil =>
    simp only [Memory.set]
    split
    · split
      · subst_vars
        rfl
      · rfl
    · rw [Memory.byte_cons]
  | cons p t ih =>
    obtain ⟨a', b'⟩ := p
    simp only [Memory.wfFrom, Bool.and_eq_true, decide_eq_true_eq] at w
    simp only [Memory.set]
    split
    · split
      · split
        · subst_vars
          rw [Memory.byte_cons, if_neg (by omega)]
          exact Memory.byte_below _ _ _ w.2 (by omega)
        · rfl
      · rw [Memory.byte_cons]
    · split
      · subst_vars
        split
        · split
          · subst_vars
            exact Memory.byte_below _ _ _ w.2 (by omega)
          · rw [Memory.byte_cons, if_neg (by assumption)]
        · rw [Memory.byte_cons, Memory.byte_cons]
          split <;> rfl
      · rw [Memory.byte_cons, Memory.byte_cons, ih (a' + 1) w.2 (by omega)]
        split
        · split
          · omega
          · rfl
        · rfl

/-- A byte is read as it was last written. -/
theorem Memory.byte_set (m : List Host.Cell) (a x : Nat) (b : Byte) (w : Memory.wf m = true) :
    Memory.byte (Memory.set m a b) x = if x = a then b else Memory.byte m x :=
  Memory.byte_setFrom 0 a x b m w (Nat.zero_le a)

/-- Outside the bytes written, memory is as it was. -/
theorem Memory.byte_write_outside (bs : List Byte) (m : List Host.Cell) (a x : Nat) (w : Memory.wf m = true)
    (h : x < a ∨ a + bs.length ≤ x) : Memory.byte (Memory.write m a bs) x = Memory.byte m x := by
  induction bs generalizing m a with
  | nil => rfl
  | cons b t ih =>
    simp only [List.length_cons] at h
    rw [Memory.write, ih _ _ (Memory.set_wf m a b w) (by omega), Memory.byte_set _ _ _ _ w, if_neg (by omega)]

/-- The bytes written are read back. -/
theorem Memory.byte_write_inside (bs : List Byte) (m : List Host.Cell) (a i : Nat) (w : Memory.wf m = true) (h : i < bs.length) :
    Memory.byte (Memory.write m a bs) (a + i) = bs[i] := by
  induction bs generalizing m a i with
  | nil => simp at h
  | cons b t ih =>
    cases i with
    | zero =>
      rw [Memory.write, Memory.byte_write_outside t _ _ _ (Memory.set_wf m a b w) (by omega), Memory.byte_set _ _ _ _ w]
      simp
    | succ i =>
      simp only [List.length_cons] at h
      have := ih (Memory.set m a b) (a + 1) i (Memory.set_wf m a b w) (by omega)
      rw [Memory.write, show a + (i + 1) = a + 1 + i by omega, this]
      simp

/-- A read after a write to the same place gives the value written. -/
theorem Memory.read_write (bs : List Byte) (m : List Host.Cell) (a : Nat) (w : Memory.wf m = true) :
    Memory.read (Memory.write m a bs) a bs.length = bs := by
  have key : ∀ (n i : Nat), i + n = bs.length → Memory.read (Memory.write m a bs) (a + i) n = bs.drop i := by
    intro n
    induction n with
    | zero =>
      intro i hi
      rw [Memory.read, List.drop_of_length_le (by omega)]
    | succ n ih =>
      intro i hi
      rw [Memory.read, Memory.byte_write_inside bs m a i w (by omega), show a + i + 1 = a + (i + 1) by omega, ih (i + 1) (by omega)]
      rw [List.drop_eq_getElem_cons (show i < bs.length by omega)]
  simpa using key bs.length 0 (by omega)

/-- Reset memory has the canonical form. -/
theorem Memory.reset_wf : Memory.wf State.reset.mem.cells = true := rfl

end Sys2Proof.Machine
end

