-- ==== Sys2Proof/Laws/Edge.lean ====
section
/-! SUPPORT. What the shared operations at a memory edge can do, said once (R94, R100, R106–R112, R353, R386): the operations of `Edge`, `Ops` and `LcOps` that read, write, walk and log keep everything in the relation `Touches`. -/

namespace Sys2Proof.Machine

/-- A thread without its watch table, in which a performed write latches causes. -/
def Thread.unwatched (t : Thread) : Thread := { t with m := [] }

/-- What reading and writing at edges, walking page tables and logging may change: memory, which stays canonical; the watch tables of
threads; registrations and invalidations of the arcade; the translation buffers and the data caches; the fault log; and what a region is known to hold.
Everything else stays. -/
structure Touches (s t : State) : Prop where
  wf : Memory.wf s.mem.cells = true → Memory.wf t.mem.cells = true
  thr : ∀ h c, (t.thr h c).unwatched = (s.thr h c).unwatched
  rest : t = { s with mem := t.mem, threads := t.threads, arc := t.arc, lctlb := t.lctlb, dcache := t.dcache, log := t.log, lseq := t.lseq, regions := t.regions }

theorem Touches.refl (s : State) : Touches s s := ⟨id, fun _ _ => rfl, rfl⟩

theorem Touches.trans {s t u : State} (a : Touches s t) (b : Touches t u) : Touches s u :=
  ⟨fun h => b.wf (a.wf h), fun h c => (b.thr h c).trans (a.thr h c), by
    have hb := b.rest
    rw [a.rest] at hb
    exact hb⟩

theorem Touches.focus {s t : State} (a : Touches s t) : t.focus = s.focus := by rw [a.rest]
theorem Touches.edge {s t : State} (a : Touches s t) : t.edge = s.edge := by rw [a.rest]
theorem Touches.fresh {s t : State} (a : Touches s t) : t.fresh = s.fresh := by rw [a.rest]
theorem Touches.slots {s t : State} (a : Touches s t) : t.slots = s.slots := by rw [a.rest]
theorem Touches.disps {s t : State} (a : Touches s t) : t.disps = s.disps := by rw [a.rest]

/-- A change of the memory system alone that keeps memory canonical. -/
theorem Touches.ofMem (s : State) (m : MemSys) (h : Memory.wf s.mem.cells = true → Memory.wf m.cells = true) : Touches s { s with mem := m } :=
  ⟨h, fun _ _ => rfl, rfl⟩

/-- Changes of the fields that do not matter here. -/
theorem Touches.ofRest (s : State) (a : Arcade) (b : Tab (List TlbEnt)) (d : Tab (List DLine)) (l : List (BitVec 128)) (n : Nat)
    (r : List Region) : Touches s { s with arc := a, lctlb := b, dcache := d, log := l, lseq := n, regions := r } := ⟨id, fun _ _ => rfl, rfl⟩

theorem takeEcc_touches (s : State) (place pa n : Nat) : Touches s (s.takeEcc place pa n).1 := by
  unfold State.takeEcc
  dsimp only
  split
  · exact Touches.refl s
  · exact Touches.ofMem s _ id

/-- A change of the values of a table that one test of the value does not see. -/
theorem get_map {β γ : Type} (f : β → β) (g : β → γ) (h : ∀ x, g (f x) = g x) (t : Tab β) (k : Nat) (d : β) :
    g (Tab.get (t.map fun p => (p.1, f p.2)) k d) = g (Tab.get t k d) := by
  induction t with
  | nil => rfl
  | cons p t ih =>
    obtain ⟨k', v⟩ := p
    simp only [List.map_cons, Tab.get, Tab.find] at ih ⊢
    by_cases e : k = k'
    · simp [e, h]
    · simp only [e, if_false]
      exact ih

theorem unregister_touches (s : State) (c line : Nat) : Touches s (s.unregister c line) := by
  refine ⟨id, fun h k => ?_, rfl⟩
  unfold State.thr State.unregister
  exact get_map (fun t : Thread => { t with m := t.m.map fun q =>
    (q.1, if q.2.armed && q.2.peer.isNone && q.2.pa == line then { q.2 with armed := false, cause := c } else q.2) })
    Thread.unwatched (fun _ => rfl) s.threads _ _

theorem notifyWrite_touches (s : State) (line : Nat) : Touches s (s.notifyWrite line) := unregister_touches s 1 line

theorem rekey_touches (s : State) (pair : KeyRef) (line : Nat) : Touches s (s.rekey pair line) := by
  unfold State.rekey
  simp only
  split
  · exact Touches.refl s
  · apply Touches.ofMem
    intro h
    simp only [MemSys.setCv]
    exact Memory.write_wf _ _ _ h

theorem storeAt_touches (s : State) (place : Nat) (bs : List Byte) (o : WMode) : Touches s (s.storeAt place bs o).1 := by
  unfold State.storeAt
  refine (Touches.ofMem s _ ?_).trans (notifyWrite_touches _ _)
  intro h
  dsimp only
  split
  · split <;> exact Memory.write_wf _ _ _ h
  · exact Memory.write_wf _ _ _ h

theorem hostStore_touches (s : State) (pa : Nat) (bs : List Byte) (o : WMode) : Touches s (s.hostStore pa bs o).s :=
  (Touches.ofMem s _ fun h => Memory.write_wf _ _ _ h).trans (notifyWrite_touches _ _)

theorem edgeRead_touches (s : State) (pa n key : Nat) : Touches s (s.edgeRead pa n key).s := by
  unfold State.edgeRead
  split
  · exact Touches.refl s
  · exact Touches.refl s
  · exact takeEcc_touches s _ _ _
  · split
    · exact Touches.refl s
    · split
      · exact Touches.refl s
      · exact takeEcc_touches s _ _ _

theorem edgeWrite_touches (s : State) (pa : Nat) (bs : List Byte) (key : Nat) (o : WMode) : Touches s (s.edgeWrite pa bs key o).s := by
  unfold State.edgeWrite
  split
  · exact Touches.refl s
  · exact hostStore_touches s _ _ _
  · exact storeAt_touches s _ _ _
  · split
    · exact Touches.refl s
    · split
      · exact Touches.refl s
      · exact (rekey_touches s _ _).trans (storeAt_touches _ _ _ _)

theorem walkFrom_touches (s : State) (va : W64) (k : AccKind) (ok : Nat → Bool) (lv t : Nat) : Touches s (s.walkFrom va k ok lv t).1 := by
  induction lv generalizing s t with
  | zero =>
    rw [State.walkFrom]
    dsimp only
    repeat' split
    all_goals first
      | exact edgeRead_touches s _ _ _
      | exact (edgeRead_touches s _ _ _).trans (edgeWrite_touches _ _ _ _ _)
  | succ lv ih =>
    rw [State.walkFrom]
    dsimp only
    repeat' split
    all_goals first
      | exact edgeRead_touches s _ _ _
      | exact (edgeRead_touches s _ _ _).trans (edgeWrite_touches _ _ _ _ _)
      | exact (edgeRead_touches s _ _ _).trans (ih _ _)

theorem walk_touches (s : State) (root : BitVec 37) (va : W64) (k : AccKind) (ok : Nat → Bool) : Touches s (s.walk root va k ok).1 :=
  walkFrom_touches s va k ok 4 _

theorem updRegion_touches (s : State) (r : Nat) (f : Region → Region) : Touches s (s.updRegion r f) :=
  ⟨id, fun _ _ => rfl, rfl⟩

theorem logEntryAdd_touches (s : State) (c : Cause) (w : Site) (addr : Nat) (isPa : Bool) : Touches s (s.logEntryAdd c w addr isPa) :=
  Touches.ofRest s s.arc s.lctlb s.dcache _ _ s.regions

theorem logEdge_touches (s : State) (hall : Nat) (l : List (Cause × Nat)) : Touches s (s.logEdge hall l) := by
  unfold State.logEdge
  induction l generalizing s with
  | nil => exact Touches.refl s
  | cons p t ih =>
    rw [List.foldl_cons]
    exact (logEntryAdd_touches s p.1 (edgeSite hall) p.2 true).trans (ih _)

theorem vaWrite_touches (s : State) (root : BitVec 37) (va : W64) (bs : List Byte) (o : WMode) : Touches s (s.vaWrite root va bs o) := by
  unfold State.vaWrite
  split
  · exact Touches.refl s
  · have h := walk_touches s root va .write (fun _ => true)
    split
    · rename_i e
      rw [e] at h
      exact h.trans (logEdge_touches _ _ _)
    · rename_i e
      rw [e] at h
      dsimp only
      split
      · exact h.trans (logEdge_touches _ _ _)
      · exact ((h.trans (logEdge_touches _ _ _)).trans (edgeWrite_touches _ _ _ _ _)).trans (logEdge_touches _ _ _)

theorem rcbWrite_touches (s : State) (r off n v : Nat) : Touches s (s.rcbWrite r off n v) := vaWrite_touches s _ _ _ _

theorem bumpFcnt_touches (s : State) (r : Option Nat) : Touches s (s.bumpFcnt r) := by
  unfold State.bumpFcnt
  split
  · exact Touches.refl s
  · exact (updRegion_touches s _ _).trans (rcbWrite_touches _ _ _ _ _)

theorem logFault_touches (s : State) (c : Cause) (w : Site) (addr : Nat) (isPa : Bool) : Touches s (s.logFault c w addr isPa) := by
  unfold State.logFault
  exact (logEntryAdd_touches s _ _ _ _).trans (bumpFcnt_touches _ _)

theorem logAll_touches (s : State) (w : Site) (l : List (Cause × Nat)) : Touches s (s.logAll w l) := by
  unfold State.logAll
  induction l generalizing s with
  | nil => exact Touches.refl s
  | cons p t ih => exact (logFault_touches s _ _ _ _).trans (ih _)

theorem lcXlate_touches (s : State) (hall : Nat) (root : BitVec 37) (va : W64) (k : AccKind) : Touches s (s.lcXlate hall root va k).1 := by
  unfold State.lcXlate
  split
  · exact Touches.refl s
  · dsimp only
    split
    · exact ⟨id, fun _ _ => rfl, rfl⟩
    · have h := walk_touches s root va k (fun _ => true)
      split
      · rename_i e
        rw [e] at h
        exact h
      · rename_i e
        rw [e] at h
        exact h.trans ⟨id, fun _ _ => rfl, rfl⟩

/-- R337: a translation leaves every register, the program counter and every access as they were. -/
theorem xlate_touches (s : State) (va : W64) (k : AccKind) : Touches s (s.xlate va k).1 := by
  unfold State.xlate
  exact (lcXlate_touches s _ _ _ _).trans (logAll_touches _ _ _)

theorem xlate_focus {s u : State} {va : W64} {k : AccKind} {r : Except Cause Xlat} (h : s.xlate va k = (u, r)) : u.focus = s.focus := by
  have := (xlate_touches s va k).focus
  rw [h] at this
  exact this

/-- The focused thread of a state that only edges have touched: all but its watch table. -/
theorem Touches.me {s t : State} (a : Touches s t) : t.me.unwatched = s.me.unwatched := by
  unfold State.me
  rw [a.focus]
  exact a.thr _ _

theorem performRun_touches (p : Pend) (s : State) (r : Nat × List Byte) : Touches s (State.performRun p s r) := by
  have h : ∀ (w : EWrite) (site : Site), Touches s w.s →
      Touches s (if w.cause = .none then w.s.logAll site w.logs else (w.s.logAll site w.logs).logFault w.cause site (p.pa + r.1) true) := by
    intro w site h
    split
    · exact h.trans (logAll_touches _ _ _)
    · exact (h.trans (logAll_touches _ _ _)).trans (logFault_touches _ _ _ _ _)
  exact h _ _ (edgeWrite_touches s _ _ _ _)

theorem performPend_touches (s : State) (p : Pend) : Touches s (s.performPend p) := by
  unfold State.performPend
  split
  · exact performRun_touches p s _
  · generalize byteRuns p.skip 0 p.data = l
    induction l generalizing s with
    | nil => exact Touches.refl s
    | cons r t ih =>
      rw [List.foldl_cons]
      exact (performRun_touches p s r).trans (ih _)

theorem cachedRead_touches (s : State) (hall pa n key : Nat) : Touches s (s.cachedRead hall pa n key).s := by
  unfold State.cachedRead
  split
  · dsimp only
    split
    · exact ⟨id, fun _ _ => rfl, rfl⟩
    · split
      · exact edgeRead_touches s _ _ _
      · exact (edgeRead_touches s _ _ _).trans ⟨id, fun _ _ => rfl, rfl⟩
  · exact edgeRead_touches s _ _ _

end Sys2Proof.Machine
end

