-- ==== Sys2Proof/Laws/LcMem.lean ====
section
/-! SUPPORT. What the landing core's shared memory operations do (R315, R337, R340): one lemma for each way they end. -/

namespace Sys2Proof.Machine

/-- A test that no listed access passes performs nothing. -/
theorem performAll_of_none (f : Pend → Bool) (s : State) (l : List Pend) (h : ∀ p ∈ l, f p = false) : State.performAll f s l = (s, l) := by
  induction l generalizing s with
  | nil => rfl
  | cons p t ih =>
    have hp : f p = false := h p (by simp)
    simp [State.performAll, hp, ih s fun q hq => h q (by simp [hq])]

/-- R315: with no access of the context waiting, there is nothing to perform first. -/
theorem flushLine_of_none (s : State) (hall ctx line : Nat) (h : ∀ p ∈ s.edge, p.mine hall ctx = false) : s.flushLine hall ctx line = s := by
  unfold State.flushLine
  rw [performAll_of_none]
  intro p hp
  simp [h p hp]

/-- R315: with no access of the context waiting, nothing is forwarded. -/
theorem forwarded_of_none (s : State) (hall ctx pa n : Nat) (hn : 0 < n) (h : ∀ p ∈ s.edge, p.mine hall ctx = false) :
    s.forwarded hall ctx pa n = none := by
  have : (s.edge.filter fun p => p.mine hall ctx && p.rem.isNone) = [] := by
    rw [List.filter_eq_nil_iff]
    intro p hp
    simp [h p hp]
  unfold State.forwarded
  rw [this]
  obtain ⟨m, rfl⟩ : ∃ m, n = m + 1 := ⟨n - 1, by omega⟩
  simp [List.replicate_succ]

/-- What is forwarded has as many bytes as were asked for. -/
theorem overlay_length (a : Nat) (bs : List (Option Byte)) (p : Pend) : (overlay a bs p).length = bs.length := by
  simp [overlay]

theorem foldl_overlay_length (a : Nat) (l : List Pend) (bs : List (Option Byte)) : (l.foldl (overlay a) bs).length = bs.length := by
  induction l generalizing bs with
  | nil => rfl
  | cons p t ih => rw [List.foldl_cons, ih, overlay_length]

theorem joined_length (l : List (Option Byte)) (bs : List Byte)
    (h : l.foldr (fun b acc => match b, acc with
      | some b, some l => some (b :: l)
      | _, _ => none) (some []) = some bs) : bs.length = l.length := by
  induction l generalizing bs with
  | nil => simp_all
  | cons b t ih =>
    rw [List.foldr_cons] at h
    split at h
    · rename_i v acc e
      cases h
      simp [ih acc e]
    · cases h

theorem forwarded_length (s : State) (hall ctx pa n : Nat) (bs : List Byte) (h : s.forwarded hall ctx pa n = some bs) : bs.length = n := by
  rw [joined_length _ _ h, foldl_overlay_length, List.length_replicate]

/-- The bytes that a read of memory lists. -/
theorem read_length (m : List Host.Cell) (a n : Nat) : (Memory.read m a n).length = n := by
  induction n generalizing a with
  | zero => rfl
  | succ n ih => simp [Memory.read, ih]

/-- R315: with no access of the context waiting, nothing is forwarded. -/
theorem forwards_of_none (s : State) (x : Xlat) (n : Nat) (hn : 0 < n) (h : ∀ p ∈ s.edge, p.mine s.focus.hall s.focus.ctx = false) :
    s.forwards x n = none := by
  unfold State.forwards
  split
  · rfl
  · exact forwarded_of_none s _ _ _ n hn h

/-- R338, R340: a read of this package's memory that the edge, or the data cache, serves. -/
theorem lcLocal_served (s : State) (x : Xlat) (va : W64) (n : Nat) (r : ERead) (hn : 0 < n) (ho : s.lcOpen x.pa = true)
    (hno : ∀ p ∈ s.edge, p.mine s.focus.hall s.focus.ctx = false) (hr : s.cachedRead s.focus.hall x.pa n x.key = r) (hc : r.cause = .none) :
    s.lcLocal x va n = .val (r.s.logAll s.lcSite r.logs) { v := w64 (leNat r.bytes), poison := r.poison } := by
  simp [State.lcLocal, forwards_of_none s x n hn hno, ho, flushLine_of_none s _ _ _ hno, hr, hc]

/-- R315: a read that the thread's own waiting stores serve. -/
theorem lcLocal_forwarded (s : State) (x : Xlat) (va : W64) (n : Nat) (bs : List Byte) (hf : s.forwards x n = some bs) :
    s.lcLocal x va n = .val s { v := w64 (leNat bs) } := by
  simp [State.lcLocal, hf]

/-- R340: a load, that has not been sent, of a local address. -/
theorem lcLoad_local (s u : State) (a : Reg64) (va : W64) (n : Nat) (k : AccKind) (x : Xlat) (hp : a.poison = false)
    (hal : va.toNat % n = 0) (hs : s.sent = false) (hx : s.xlate va k = (u, .ok x)) (hr : x.rem = none) :
    s.lcLoad a va n k = u.lcLocal x va n := by
  simp only [State.sent, Bool.or_eq_false_iff] at hs
  simp [State.lcLoad, hp, hal, hx, State.lcRead, hr, hs.1, hs.2]

/-- R337: a store whose checks succeed. -/
theorem lcStoreAt_local (s u : State) (va : W64) (n : Nat) (k : AccKind) (x : Xlat) (hal : va.toNat % n = 0) (hx : s.xlate va k = (u, .ok x))
    (hr : x.rem = none) (he : u.edgeRefuses x.pa n x.key = .none) : s.lcStoreAt false va n k = .ok u x := by
  simp [State.lcStoreAt, hal, hx, hr, he]

end Sys2Proof.Machine
end

