-- ==== Sys2Proof/Tests/Slice0.lean ====
section
/-! SUPPORT. Tests: words written out from the spec's encodings, the spec's worked examples, the well-formedness checks, and for every statement of Certificates/Slice0/Obligations.lean states and operands that meet its hypotheses. -/

set_option Elab.async false

namespace Sys2Proof.Tests
open Sys2Proof Sys2Proof.Machine Sys2Proof.Claims

/-! ### Well-formedness: an ill-formed term for each check, which the check refuses -/

theorem test_illFormed_scopes :
    wellFormed (.ldAcq 1 2 3 6 0) = false ∧ wellFormed (.ldAcq 1 2 3 5 0) = true ∧ wellFormed (.stRel 1 2 3 6) = false ∧ wellFormed (.ldSyncAcq 1 2 3 7 0 0) = false ∧
    wellFormed (.fence 6) = false ∧ wellFormed (.amo 1 2 3 0 6 1 0) = false ∧ wellFormed (.cas 1 2 3 0 6 1) = false := by decide

theorem test_illFormed_landing :
    wellFormed (.ldm 20 1 12) = false ∧ wellFormed (.ldm 20 1 11) = true ∧ wellFormed (.stm 31 1 1) = false ∧ wellFormed (.amo 1 2 3 0 0 0 9) = false ∧ wellFormed (.amo 1 2 3 0 1 0 0) = false ∧
    wellFormed (.cas 1 2 3 0 1 0) = false ∧ wellFormed (.setp 0 6 1 2) = false ∧ wellFormed (.setpi 0 7 1 2) = false ∧ wellFormed (.shape 0 1 2 1) = false ∧
    wellFormed (.shrd 1 4 0 0) = false ∧ wellFormed (.shrd 1 0 0 3) = false ∧ wellFormed (.watch 16 1) = false ∧ wellFormed (.unwatch 16) = false := by decide

theorem test_illFormed_commands :
    wellFormed (.bind 0 0 0 1 0 0) = false ∧ wellFormed (.bind 0 0 0 0 0x80000000 0) = false ∧ wellFormed (.bindResume 0 0 0 0 0 0) = false ∧ wellFormed (.bindResume 0 0 0 0 0xA0000000 0) = false ∧
    wellFormed (.bindResumeSkip 0 0 0 0 0x80000000 0) = false ∧ wellFormed (.bindAbandon 0 0 0 0 0x80000000 0) = false ∧
    ([Instr.copy 0 0 0 1 0 0, .fill 0 0 0 1 0 0, .gather 0 0 0 1 0 0, .scatter 0 0 0 1 0 0, .rdfor 0 0 0 1 0 0, .rwin 0 0 0 1 0 0, .rwclose 0 0 0 1 0 0, .ramo 0 0 0 1 0 0, .rred 0 0 0 1 0 0,
      .rredReadout 0 0 0 1 0 0, .marker 0 0 0 1 0 0, .round 0 0 0 1 0 0, .drain 0 0 0 1 0 0, .cfgload 0 0 0 1 0 0, .cfgswitch 0 0 0 1 0 0, .snapshot 0 0 0 1 0 0, .sfence 0 0 0 1 0 0,
      .inject 0 0 0 1 0 0, .collect 0 0 0 1 0 0, .sink 0 0 0 1 0 0, .shoot 0 0 0 1 0 0, .tload 0 0 0 1 0 0, .prefetch 0 0 0 1 0 0, .nop 0 0 0 1 0 0, .portwait 0 0 0 1 0 0].all fun i => !wellFormed i) = true := by decide

theorem test_illFormed_gallery :
    wellFormed (.gbslotA 0 0 0 0) = false ∧ wellFormed (.gbslotA 0 257 0 0) = false ∧ wellFormed (.gclear 0 0) = false ∧ wellFormed (.gclear 1 256) = false ∧ wellFormed (.gclear 0 256) = true ∧
    wellFormed (.grdfmt 5 0 0) = false ∧ wellFormed (.grdfmt 0 5 0) = false ∧ wellFormed (.gdrain 0 0 0 0) = false ∧ wellFormed (.gdrain 1 256 0 0) = false ∧
    wellFormed (.groute 0 1 0 0 0 1 0 0) = false ∧ wellFormed (.groute 0 2 0 0 0 0 16 0) = false ∧ wellFormed (.groute 0 3 0 0 0 0 8 1) = false ∧ wellFormed (.groute 0 3 0 0 0 0 16 0) = false ∧
    wellFormed (.gfmt 10 0) = false ∧ wellFormed (.gfmt 0 10) = false ∧ wellFormed (.gfmt 6 7) = false ∧ wellFormed (.gfmt 6 6) = true := by decide

/-! ### Decoding: words written out from the spec's encodings -/

/-- The landing core: the words of the spec's programs and of its encoding tables. -/
theorem test_decode_landing :
    (decodeLanding 0x08A6FFFC).toOption = some (.addi 5 6 0xFFFC) ∧ (decodeLanding 0xE00A0000).toOption = some (.watch 0 10) ∧ (decodeLanding 0x70AA04D0).toOption = some (.ldAcq 5 10 2 3 0) ∧
    (decodeLanding 0xB0928000).toOption = some (.setpi 1 1 5 0) ∧ (decodeLanding 0xB4C00003).toOption = some (.bp 1 1 3) ∧ (decodeLanding 0xCC890000).toOption = some (.issue 1 9) ∧
    (decodeLanding 0xD0090001).toOption = some (.cstat 9 1) ∧ (decodeLanding 0xFC000400).toOption = some .eret := by decide +kernel

/-- Words that no landing-core instruction has: an unassigned major, a nonzero field that must be zero, a reserved condition. -/
theorem test_decode_landing_refuses :
    (decodeLanding 0).isOk = false ∧ (decodeLanding 0xFC000401).isOk = false ∧ (decodeLanding 0xFFFFFFFF).isOk = false ∧ (decodeLanding 0x04000017).isOk = false := by decide +kernel

/-- A-bays: the words of the example blocks of 08_bays.md and of the programs. -/
theorem test_decode_bay :
    (decodeBay 0x003B3128).toOption = some (.bayAddI32 7 25 0x1128) ∧ (decodeBay 0x271E0903).toOption = some (.bayCmpI32 0x23 0x30 0x903) ∧ (decodeBay 0xAC20A000).toOption = some (.baySteer 4 5 0) ∧
    (decodeBay 0xB5860020).toOption = some (.baySend 4) ∧ (decodeBay 0xB9860600).toOption = some (.bayBr 0xC0) ∧ (decodeBay 0xBB860000).toOption = some (.bayLaunch 0x30 0x30 0) ∧
    (decodeBay 0xB68E0010).toOption = some (.bayRecv 0x11 0x30 0x10) ∧ (decodeBay 0x98906020).toOption = some (.bayLd 0x12 3 0x20) ∧ (decodeBay 0xFFFFFFFF).isOk = false := by decide +kernel

/-- Stream commands, from the descriptors that the spec writes out; the address in the low half. -/
theorem test_decode_commands :
    (decodeCommand 0x14840000000000020000000000000000).toOption = some (.sink 33 0 0 0 2 0) ∧ (decodeCommand 0x01100204000000000000000000001000).toOption = some (.bind 4 0 2 4 0 0x1000) ∧
    (decodeCommand 0x02180106000000610000000000000000).toOption = some (.copy 6 0 1 6 0x61 0) ∧ (decodeCommand 0x060C05A2000000000000000000000000).toOption = some (.rdfor 3 0 5 0xA2 0 0) ∧
    (decodeCommand 0x07A10004070003FF0000000000000000).toOption = some (.rwin 40 1 0 4 0x70003FF 0) ∧ (decodeCommand 0x12C40000000000090000000000000000).toOption = some (.inject 49 0 0 0 9 0) ∧
    (decodeCommand 0x16100000000000000000000000000000).toOption = some (.tload 4 0 0 0 0 0) ∧ (decodeCommand 0x0D010000000000030000000000000000).toOption = some (.drain 0 1 0 0 3 0) ∧
    (decodeCommand 0x1A000000000000000000000000000000).isOk = false := by decide +kernel

/-- Gallery control words and tag operations. -/
theorem test_decode_gallery :
    (decodeGallery 0x0000000071000000).toOption = some (.gclaim 7 1) ∧ (decodeGallery 0x3140500000000000).toOption = some (.gshape 40 20) ∧ (decodeGallery 0x4FFC000000000000).toOption = some (.ganchor 0xFFC) ∧
    (decodeGallery 0xB100000000000000).toOption = some (.gscale 2 0) ∧ (decodeGallery 0x2040000000000000).toOption = some (.gbslotB 1) ∧ (decodeGallery 0x2800400000000000).toOption = some (.gbslotA 0 2 0 0) ∧
    (decodeGallery 0x6020000000000000).toOption = some (.grdfmt 0 0 1) ∧ (decodeGallery 0x905B400000000000).toOption = some (.groute 0 1 3 6 1 0 0 0) ∧
    (decodeGallery 0x7000100008052800).toOption = some (.gdrain 0 2 1 0xA5) ∧
    (decodeTag 0x1D).toOption = some (.tlook 0x1D) ∧ (decodeTag 0x200000000000001D).toOption = some (.tfill 0x1D) ∧ (decodeTag 0xE000000000000000).isOk = false := by decide +kernel

/-- The words of the table, laid out as the host lays them. -/
theorem test_decodeTableWord :
    decodeTableWord 32 0x08A6FFFC = some (.addi 5 6 0xFFFC) ∧ decodeTableWord 128 0x14840000000000020000000000000000 = some (.sink 33 0 0 0 2 0) := by decide +kernel

/-! ### The spec's worked examples -/

/-- R47: 300.0 converts to 288 in e4m3 under nearest even and to 320 under round up; 500.0 to 448 in every mode. -/
theorem test_round_to_e4m3 :
    roundQ e4m3 0 false 300 1 = (0x79, flInexact) ∧ roundQ e4m3 3 false 300 1 = (0x7A, flInexact) ∧ ∀ m < 5, roundQ e4m3 m false 500 1 = (0x7E, flOver ||| flInexact) := by decide +kernel

/-- R54: the four contributions under anchor −8, in two orders, and the read-out. -/
theorem test_cell_example :
    let v : List Nat := [0x4B800000, 0x3F000000, 0xCB800000, 0x3B000000]
    let sum (l : List Nat) : BitVec 128 := l.foldl (fun c x => enterCell c 0xFF8 (contrOf (decodeF fp32 x)) false) 0
    sum v = 0x1F800000000000000000000000000080 ∧ sum v.reverse = sum v ∧ readCell (sum v) 0xFF8 (.flt fp32) 0 = some (0x3F000000, flInexact) := by decide +kernel

/-- R93: feature words 1 and 2; word 4 and later ones read zero. -/
theorem test_feature_words : featWord 1 = 0x030000FF ∧ featWord 2 = 0x0000404802040100 ∧ featWord 4 = 0 := by decide +kernel

/-- R105: the leaf of the example translates to 0x1234656789 under key slot 3, in stack 1, channel 2. -/
theorem test_translation_example :
    (leafXlat 0x000300123460004F 21 0x4123456789).pa = 0x1234656789 ∧ (leafXlat 0x000300123460004F 21 0x4123456789).key = 3 ∧
    (hbmPlace 0x1234656789).1 = 1 ∧ (hbmPlace 0x1234656789).2.1 = 2 := by decide +kernel

/-- R440: the token of the example's ingress word has header 0x010180. -/
theorem test_token_header : ({ ctx := 1, chan := 3, payload := 7 } : Token).header = 0x010180 := by decide

/-! ### The states the witnesses use -/

/-- A live thread: x1 an address in a page of HBM, x2 seven, x3 poisoned, x4 an address in a page of scratchpad, p1 true, p3 poisoned, c1
poisoned. -/
def tThread : Thread :=
  { live := true, pc := 0x10000,
    x := [(1, { v := 0x10040 }), (2, { v := 7 }), (3, { v := 1, poison := true }), (4, { v := 0x20000 })],
    p := [(1, { v := true }), (3, { v := false, poison := true })], c := [(1, { v := 0, poison := true })] }

/-- A powered module whose hall 0 runs a thread in slot 0; its translation buffer maps 0x10000 to HBM and 0x20000 to scratchpad, with
every permission. -/
def tState (t : Thread) : State :=
  { threads := [(0, t)], slots := [(0, { st := .live })], host := { perst := false },
    lctlb := [(0, [{ root := 0, va := 0x10000, psz := 16, pte := 0x100FF }, { root := 0, va := 0x20000, psz := 16, pte := 0x100000000FF }])] }

/-- The same, with a store of the thread waiting for its edge. -/
def tStored : State :=
  { tState tThread with edge := [{ who := .thread 0 0, pa := 0x10040, key := 0, size := 8, data := leBytes 8 7, va := 0x10040 }] }

/-- The same, with sixteen. -/
def tFull : State :=
  { tState tThread with edge := List.replicate 16 { who := .thread 0 0, pa := 0x10040, key := 0, size := 1, data := [0] } }

/-- A translation answers a local address; and the state it leaves. -/
def tOk (s : State) (va : W64) (k : AccKind) : Bool := match s.xlate va k with
  | (_, .ok x) => x.rem.isNone
  | _ => false
def tU (s : State) (va : W64) (k : AccKind) : State := (s.xlate va k).1

/-- A thread with a word in c0, in a hall whose dispatcher keeps the status of three tickets; memory holds a descriptor of `shoot`. -/
def tCommands (w : BitVec 128) : State :=
  { tState { tThread with c := [(0, { v := w }), (1, { v := 0, poison := true })] } with
    mem := { cells := [(0x1004A, 1)] }
    slots := [(0, { st := .live, region := some 0 })]
    disps := [(0, { stats := [{ ticket := 0x40, ctx := 0, region := 0, ret := true }, { ticket := 7, ctx := 0, region := 0, ret := false }, { ticket := 9, ctx := 0, region := 0, ret := true, cause := .range }] })] }

/-- A hall whose dispatcher is full. -/
def tBusy : State :=
  { tState tThread with disps := [(0, { cmds := List.replicate 64 { ticket := 1, ctx := 0, ictx := 0, region := none, word := 0 } })] }

/-- Barrier 1 of hall 0 waits for two arrivals of that hall, barrier 3 has all of its own; an arrival and a phase are on their way; x5 is an
arrival of the present phase of barrier 1, x6 of the one before it. -/
def tBarrier : State :=
  { tState { tThread with x := [(5, { v := 0x8000000 }), (6, { v := 0xFFFFFFF })] } with
    bars := [(1, { en := true, scope := 1, home := 0, cnt := 2, mask := 1 }), (3, { en := true, scope := 1, home := 0, cnt := 2, mask := 3, count := [(0, 2)] }),
      (34, { en := true, scope := 2, home := 0, cnt := 2, mask := 3 })]
    barArr := [{ hall := 0, n := 1, phase := 0, src := 0 }], barPh := [{ hall := 1, n := 2, phase := 5, src := 0 }] }

/-- A thread whose x1 is an address in a page of peer 1, which the package reaches. -/
def tFar : State :=
  { tState tThread with
    lctlb := [(0, [{ root := 0, va := 0x10000, psz := 16, pte := 0x01000001000101FF }])]
    arc := { en := true, lvl := [(0, 0x20)] } }

/-- The bytes of page tables at 0x20000 under which VA 0x10000 is PA 0x10000, with every permission. -/
def tTables : List Host.Cell :=
  [(0x20000, 0x01), (0x20001, 0x10), (0x20002, 0x02), (0x21000, 0x01), (0x21001, 0x20), (0x21002, 0x02), (0x22000, 0x01), (0x22001, 0x30), (0x22002, 0x02),
    (0x23000, 0x01), (0x23001, 0x40), (0x23002, 0x02), (0x24008, 0xFF), (0x2400A, 0x01)]

/-- A thread whose x1 is the address of a good RCB; x5 and x6 are the handles of a completed and of a running child. -/
def tLaunch : State :=
  { tState { tThread with x := [(1, { v := 0x10000 }), (2, { v := 7 }), (5, { v := 0x1000 }), (6, { v := 0x1001 })] } with
    mem := { cells := [(0x10006, 1), (0x10030, 1), (0x10032, 1), (0x10042, 1), (0x10043, 0x10)] ++ tTables }
    regions := [{ rcb := 0x10000, rroot := 64, pctx := some (0, 0), hdl := 0x1000, state := 4 }, { rcb := 0x10000, rroot := 64, pctx := some (0, 0), hdl := 0x1001, state := 2 }]
    pool := [(0, 0), (1, 1)] }

/-- A bay word: opcode, two targets, operand field. -/
def tWord (op : Nat) (t u : BitVec 6) (f : BitVec 13) : W32 := BitVec.ofNat 32 (op * 2 ^ 25 + t.toNat * 2 ^ 19 + u.toNat * 2 ^ 13 + f.toNat)

/-- A powered module whose bay (0, 0) of hall 0 runs a task of slot 0 in a block of this word and a `br.end`, with 5, 3 and 1 in the slots of
its first instruction. -/
def tBay (w : W32) : State :=
  { host := { perst := false }
    slots := [(0, { st := .live, liveAt := [0] })]
    cfgs := [(0, { store := [(0, w), (1, tWord 0x5C 0x30 0x30 0x600)] })]
    bays := [(0, { task := some { hent := 0, last := {}, blk := { frame := 0, slots := [(0, .val { v := 5 }), (1, .val { v := 3 }), (2, .val { v := 1 })] } } })] }

/-- The first instruction of a state's focused block fires. -/
def firesB (s : State) (op : Nat) (f : BitVec 13) : Bool :=
  match s.myBay.task with
  | some k => !s.myBay.trapped && !s.halted s.focus.hall s.focus.elem s.focus.ctx &&
      (match s.bayReady s.focus.hall s.focus.elem s.focus.ctx s.myBay k.blk s.focus.idx op f with
       | .go _ _ _ => true
       | _ => false)
  | none => false

/-- A bay in which handler 0, bound to channel 1, priority 15, frame 0, forwarding on route class 1, has this token at its head. -/
def tHandler (t : Token) : State :=
  { host := { perst := false }
    slots := [(0, { st := .live, liveAt := [0] })]
    cfgs := [(0, { store := [(0, tWord 0x5C 0x30 0x30 0x600)], routes := [(1, 0x40000000)], handlers := [(0, 0x83E0040000000000)] })]
    bays := [(0, { chans := [(1, [t])], ingr := [(1, [0])] })] }

/-- A powered module whose stream bay `e` of hall 0 holds these words and this state in slot 0, every route class leading to one link. -/
def tUnit (e : Nat) (ws : List W64) (u : SCtx) : State :=
  { host := { perst := false }
    slots := [(0, { st := .live, liveAt := [e] })]
    focus := { hall := 0, elem := e }
    cfgs := [(ckey 0 e 0, { words := ws, routes := [(0, 0x40000000), (1, 0x20000000), (2, 0x80000000)] })]
    units := [(bkey 0 e 0, u)] }

/-- An instruction answers a next state other than the one it started from. -/
def moves (i : Instr) (s : State) : Bool := match exec i s with
  | .next v => decide (v ≠ s)
  | _ => false

/-! ### States and operands that meet the statements' hypotheses -/


/-- A well-formed instruction with an encoding. -/
theorem wit_EncodedInstructionsReadBack : wellFormed (.addi 5 6 0xFFFC) = true ∧ (encode (.addi 5 6 0xFFFC)).isSome = true := by decide

/-- Words that each layer accepts. -/
theorem wit_DecodedWordsWriteBack : (decodeLanding 0x08A6FFFC).isOk = true ∧ (decodeBay 0x003B3128).isOk = true ∧
    (decodeCommand 0x14840000000000020000000000000000).isOk = true ∧ (decodeGallery 0x0000000071000000).isOk = true ∧
    (decodeTag 0x2000000000000005).isOk = true := by decide

/-- A condition code of each value. -/
theorem wit_PredicateResults : (0#3).toNat ≤ 5 ∧ (5#3).toNat ≤ 5 := by decide

/-- Registers with and without poison, predicates that are and are not their sense, and a thread whose `pc` is not aligned. -/
theorem wit_BranchTargets :
    (tThread.rx 1).poison = false ∧ (tThread.rx 3).poison = true ∧ (tThread.rp 3).poison = true ∧ (tThread.rp 1).poison = false ∧
    (tThread.rp 1).v = ((1#1) == 1) ∧ (tThread.rp 1).v ≠ ((0#1) == 1) ∧
    (let s := tState { tThread with pc := 2 }
     partOk 0 0 0 = true ∧ s.powered = true ∧ s.threadRuns 0 0 = true ∧ s.outranked (.thread 0 0) = false ∧ (s.thr 0 0).takesReport = false ∧
       (match ({ s with focus := { hall := 0, elem := 0, ctx := 0 } } : State).fetch with | .trap _ .align => true | _ => false) = true) := by
  decide +kernel

/-- A load of a page that the translation buffer holds, with no own store waiting; and one that a waiting store serves. -/
theorem wit_PlainLoadResults :
    (let s := tState tThread
     (s.me.rx 1).poison = false ∧
     (match s.xlate (s.me.ea 1 0) .read with
      | (u, .ok x) => decide ((s.me.ea 1 0).toNat % 8 = 0 ∧ x.rem = none ∧ (u.edge.all fun p => !p.mine 0 0) = true ∧ u.lcOpen x.pa = true ∧
          (u.cachedRead 0 x.pa 8 x.key).cause = .none)
      | _ => false) = true) ∧
    (let s := tStored
     (match s.xlate (s.me.ea 1 0) .read with
      | (u, .ok x) => decide (x.rem = none ∧ (granules (u.placeOf x.pa) 8).any u.mem.pois.contains = false ∧ u.forwarded 0 0 x.pa 8 = some (leBytes 8 7))
      | _ => false) = true) := by
  decide +kernel

/-- A poisoned base, a misaligned address, a page that is not present, and an address above VA<55:0>. -/
theorem wit_LoadFaults :
    (let s := tState tThread
     (s.me.rx 3).poison = true ∧ (s.me.rx 2).poison = false ∧ (s.me.ea 2 0).toNat % 8 ≠ 0 ∧ (s.me.ea 2 0).toNat % 16 ≠ 0 ∧
     (match s.xlate 0x90000 .read with | (_, .error .nopage) => true | _ => false) = true ∧
     (match s.xlate 0x0100000000000000 .read with | (_, .error .range) => true | _ => false) = true) := by
  decide +kernel

/-- Room and none, poisoned and unpoisoned registers, a misaligned address, a failed and a good translation. -/
theorem wit_PlainStoreResults :
    (let s := tState tThread
     s.sent = false ∧ s.storeRoom 0 0 = true ∧ (s.me.rx 3).poison = true ∧ (s.me.rx 1).poison = false ∧ (s.me.rx 2).poison = false ∧
     (s.me.ea 2 0).toNat % 8 ≠ 0 ∧ (match s.xlate 0x90000 .write with | (_, .error .nopage) => true | _ => false) = true ∧
     (match s.xlate (s.me.ea 1 0) .write with
      | (u, .ok x) => decide ((s.me.ea 1 0).toNat % 8 = 0 ∧ x.rem = none ∧ u.edgeRefuses x.pa 8 x.key = .none)
      | _ => false) = true) ∧
    tFull.sent = false ∧ tFull.storeRoom 0 0 = false := by
  decide +kernel

/-- A waiting store to HBM, one to scratchpad, one to host memory. -/
theorem wit_PerformedStoreChangesItsBytesOnly :
    ([0x10040, 0x10000000040, 0x800000000040].all fun pa =>
      let p : Pend := { who := .thread 0 0, pa := pa, key := 0, size := 8, data := leBytes 8 7 }
      let s : State := { tState tThread with edge := [p] }
      Memory.wf s.mem.cells && (s.edge[s.focus.idx]? == some p) && !((s.edge.take s.focus.idx).any fun q => q.before p) && p.skip == [] && s.pendOpen p &&
      (spaceOf pa == .host || (spaceOf pa == .hbm && Tab.find s.mem.lkey (pa / 64) == none && !s.retiredAt pa && !s.mem.cvBad (pa / 64)) ||
        (spaceOf pa == .spad && !s.mem.cvBad (s.placeOf pa / 64)))) = true := by
  decide +kernel

/-- A quiet context and one that is not; a page of HBM, and one of scratchpad whose bank takes the read; a served thread. -/
theorem wit_OrderedAndSynchronisingAccesses :
    (let s := tState tThread
     (s.me.rx 1).poison = false ∧ (s.me.rx 2).poison = false ∧ s.sent = false ∧ tStored.sent = false ∧ s.quiet 0 0 = true ∧ tStored.quiet 0 0 = false ∧
     (match s.xlate (s.me.rx 1).v .read with
      | (u, .ok x) => decide ((s.me.rx 1).v.toNat % 8 = 0 ∧ x.rem = none ∧ (u.edge.all fun p => !p.mine 0 0) = true ∧ u.lcOpen x.pa = true ∧
          (u.cachedRead 0 x.pa 8 x.key).cause = .none ∧ spaceOf x.pa ≠ .spad)
      | _ => false) = true ∧
     (match s.xlate (s.me.rx 1).v .write with
      | (u, .ok x) => decide (x.rem = none ∧ u.edgeRefuses x.pa 8 x.key = .none)
      | _ => false) = true ∧
     (match s.xlate (s.me.rx 4).v .read with
      | (u, .ok x) => decide ((s.me.rx 4).v.toNat % 8 = 0 ∧ x.rem = none ∧ spaceOf x.pa = .spad ∧ (u.edge.all fun p => !p.mine 0 0) = true ∧
          u.lcOpen x.pa = true ∧ u.netRoom u.coreSrc (u.spadPlace x.pa).1 (u.spadPlace x.pa).2.1 = true)
      | _ => false) = true) ∧
    (let s := tState { tThread with served := some { v := 5 }, parked := true }
     s.me.served = some { v := 5 }) := by
  decide +kernel

/-- Two double words at x1 of a page that the translation buffer holds; poisoned sources; a command register with and without poison. -/
theorem wit_SeveralRegistersAtOnce :
    (let s := tState tThread
     (5#5).toNat + (1#4).toNat ≤ 31 ∧ (s.me.rx 1).poison = false ∧ s.me.got = [] ∧ s.sent = false ∧ (tU s (s.me.rx 1).v .read).me.got = [] ∧ (s.me.rx 1).v.toNat % 16 = 0 ∧ s.storeRoom 0 0 2 = true ∧
     (let va := (s.me.rx 1).v
      let u := tU s va .read
      let w := tU (tU s va .write) (va + 8) .write
      tOk s va .read = true ∧ tOk u (va + 8) .read = true ∧ tU u (va + 8) .read = u ∧ (u.edge.all fun p => !p.mine 0 0) = true ∧
        u.lcOpen 0x10040 = true ∧ (u.cachedRead 0 0x10040 8 0).cause = .none ∧ (u.cachedRead 0 0x10040 8 0).s.lcOpen 0x10048 = true ∧
        ((u.cachedRead 0 0x10040 8 0).s.cachedRead 0 0x10048 8 0).cause = .none ∧
        tOk s va .write = true ∧ tOk (tU s va .write) (va + 8) .write = true ∧
        w.edgeRefuses 0x10040 8 0 = .none ∧ w.edgeRefuses 0x10048 8 0 = .none) ∧
     (s.me.rx 3).poison = true ∧ (s.me.rx 5).poison = false ∧ (s.me.rx 6).poison = false ∧ (s.me.rc 0).poison = false ∧ (s.me.rc 1).poison = true) := by
  decide +kernel

/-- A word that can be updated, one in a poisoned granule, poisoned registers, a misaligned address, and a context that is not quiet. -/
theorem wit_AtomicResults :
    (let s := tState tThread
     (8#4).toNat ≤ 8 ∧ (s.me.rx 3).poison = true ∧ (s.me.rx 1).poison = false ∧ (s.me.rx 2).poison = false ∧ (s.me.rx 2).v.toNat % 8 ≠ 0 ∧
     (2#2).getLsbD 1 = true ∧ tStored.quiet 0 0 = false ∧ tStored.sent = false ∧ s.sent = false ∧ s.quiet 0 0 = true ∧
     (match s.xlate (s.me.rx 1).v .atomic with
      | (u, .ok x) => decide ((s.me.rx 1).v.toNat % 8 = 0 ∧ x.rem = none ∧ (u.edge.all fun p => !p.mine 0 0) = true ∧ u.lcOpen x.pa = true ∧
          (u.edgeRead x.pa 8 x.key).cause = .none ∧ (u.edgeRead x.pa 8 x.key).poison = false ∧ leNat (u.edgeRead x.pa 8 x.key).bytes = 0 ∧
          (u.edgeWrite x.pa (leBytes 8 7) x.key).cause = .none ∧ (u.edgeWrite x.pa (leBytes 8 7) x.key).logs = [])
      | _ => false) = true ∧ (s.me.rx 7).v = 0 ∧ (s.me.rx 7).poison = false ∧ (s.me.rx 2).v ≠ 0) ∧
    (let s : State := { tState tThread with mem := { pois := [0x1004] } }
     (match s.xlate (s.me.rx 1).v .atomic with
      | (u, .ok x) => decide ((u.edgeRead x.pa 8 x.key).poison = true ∧ (u.edgeRead x.pa 8 x.key).cause = .none)
      | _ => false) = true) := by
  decide +kernel

/-- Command registers with and without poison, a ticket that is kept and one that is not, a full dispatcher, a word R85 refuses, a `nop`
that is accepted and a `shoot` at pl0. -/
theorem wit_CommandRegistersAndStatus :
    (let s := tCommands 0x18000000000000000000000000000000
     (s.me.rx 3).poison = true ∧ (s.me.rx 1).poison = false ∧ (s.me.rc 1).poison = true ∧ (s.me.rc 0).poison = false ∧
     s.regionAt 0 0 = some 0 ∧
     (s.disp 0).stats.find? (fun e => e.ticket % 65536 == 0x40 && e.ctx == 0 && some e.region == s.regionAt 0 0) = some { ticket := 0x40, ctx := 0, region := 0, ret := true } ∧
     (s.disp 0).stats.find? (fun e => e.ticket % 65536 == 7 && e.ctx == 0 && some e.region == s.regionAt 0 0) = some { ticket := 7, ctx := 0, region := 0, ret := false } ∧
     (s.disp 0).stats.find? (fun e => e.ticket % 65536 == 9 && e.ctx == 0 && some e.region == s.regionAt 0 0) = some { ticket := 9, ctx := 0, region := 0, ret := true, cause := .range } ∧
     (s.disp 0).stats.find? (fun e => e.ticket % 65536 == 5 && e.ctx == 0 && some e.region == s.regionAt 0 0) = none ∧ (s.disp 0).cmds.length < 64 ∧
     cmdLegal (cmdW (s.me.rc 0).v) = true ∧ (let w := cmdW (s.shifted 0 0 (s.me.rc 0).v)
       w.cls < s.nclassOf 0 0 ∧ w.ctx < s.nsOf 0 0 ∧ (writingCmd w.op && w.eot) = false ∧ w.hasDesc = false ∧ w.op ≠ 0x15 ∧
         (issueCheck s 0 0 w 0).cause = .none)) ∧
    cmdLegal (cmdW ((tCommands 0).me.rc 0).v) = false ∧
    (let s := tCommands 0x1500000A000000000000000000010040
     let w := cmdW (s.shifted 0 0 (s.me.rc 0).v)
     cmdLegal (cmdW (s.me.rc 0).v) = true ∧ w.cls < s.nclassOf 0 0 ∧ w.ctx < s.nsOf 0 0 ∧ w.hasDesc = true ∧ w.op = 0x15 ∧ s.me.pl = false ∧
       (match readDesc s (s.rootOf 0 0) (BitVec.ofNat 64 w.addr) with
        | .ok v d => decide ((issueCheck v 0 0 w d).cause = .none)
        | _ => false) = true) ∧
    64 ≤ (tBusy.disp 0).cmds.length := by
  decide +kernel

/-- Poisoned and unpoisoned requests. -/
theorem wit_ShapeGrants : ((tState tThread).me.rx 3).poison = true ∧ ((tState tThread).me.rx 2).poison = false := by decide +kernel

/-- Threads with a latched entry, with an armed one, with none, and in an `mwait` that is latched and that has run out. -/
theorem wit_WatchingMemory :
    (let s := tState tThread
     (s.me.rx 3).poison = true ∧ (s.me.rx 0).poison = false ∧ (s.me.rx 0).v = 0 ∧ (s.me.rx 2).v ≠ 0 ∧ s.me.mwLeft = [] ∧ s.sent = false ∧ s.me.mwSaved ≠ some s.me.pc ∧
     (tState { tThread with served := some { v := 0 }, parked := true }).me.served = some { v := 0 } ∧
     (tState { tThread with mwSaved := some 0x10000 }).me.mwSaved = some 0x10000 ∧
     (let f : State := { tFar with arc := { tFar.arc with en := true, lvl := [(0, 12)] } }
      match f.xlate (f.me.rx 1).v .read with
      | (u, .ok x) => decide (x.rem = some 1 ∧ u.peerFault u.focus.hall 1 false = .none)
      | _ => false) = true ∧
     ((List.range 16).all fun k => (s.me.watch k).cause == 0 && !(s.me.watch k).armed) = true ∧
     tOk s 0x10040 .read = true ∧ spaceOf 0x10040 ≠ .reserved ∧ (match s.xlate 0x90000 .read with | (_, .error .nopage) => true | _ => false) = true) ∧
    (let t := { tThread with m := [(3, { cause := 1 }), (5, { armed := true })], mwD := some 6 }
     firstLatched t 3 ∧ t.mwD = some 6) ∧
    (let t := { tThread with m := [(5, { armed := true })], mwD := some 6, mwLeft := [(0x10000, 0)] }
     Tab.find t.mwLeft t.pc.toNat = some 0 ∧ (t.watch 5).armed = true ∧ ((List.range 16).all fun k => (t.watch k).cause == 0) = true) := by
  unfold firstLatched
  decide +kernel

/-- A barrier that is off; one of hall 0 at phase 0 with one arrival due; an arrival, a full count, a phase on its way; good and bad words. -/
theorem wit_BarrierPhases :
    ((tState tThread).bar 0 1).en = false ∧
    (let s := tBarrier
     (s.bar 0 1).en = true ∧ (s.bar 0 1).mask.getLsbD 0 = true ∧ (Tab.get s.me.own 1 (s.bar 0 1).phase + 2 ^ 27 - (s.bar 0 1).phase) % 2 ^ 27 < 4 ∧
     s.quiet 0 0 = true ∧ s.barArr[s.focus.idx]? = some { hall := 0, n := 1, phase := 0, src := 0 } ∧ (s.bar 0 1).home = 0 ∧ (s.bar 0 1).joins 0 0 = true ∧
     s.barPh[s.focus.idx]? = some { hall := 1, n := 2, phase := 5, src := 0 } ∧ (s.barPh.take s.focus.idx).isEmpty = true ∧
     (s.bar 1 2).en = true ∧ (s.bar 1 2).home = 0 ∧ (s.bar 1 2).mask.getLsbD 1 = true ∧
     (s.me.rx 5).poison = false ∧ (s.me.rx 5).v.toNat / 2 ^ 27 % 32 = 1 ∧ ((s.bar 0 1).phase + 2 ^ 27 - (s.me.rx 5).v.toNat % 2 ^ 27) % 2 ^ 27 = 0 ∧
     (s.me.rx 6).v.toNat / 2 ^ 27 % 32 = 1 ∧ ((s.bar 0 1).phase + 2 ^ 27 - (s.me.rx 6).v.toNat % 2 ^ 27) % 2 ^ 27 = 1) ∧
    (let s := { tBarrier with focus := { idx := 3 } }
     (s.bar 0 3).en = true ∧ (s.bar 0 3).home = 0 ∧ 0 < (s.bar 0 3).cnt ∧ Tab.get (s.bar 0 3).count ((s.bar 0 3).phase % 4) 0 = (s.bar 0 3).cnt) ∧
    barcfgBad 0 0x8100000100000000 (tBarrier.bar 0 1).mask = false ∧ barcfgBad 0 0x8000000100000000 (tBarrier.bar 0 1).mask = true := by
  decide +kernel

/-- Threads at pl0, at pl1 with an aligned and an unaligned `epc`, and one that takes a report. -/
theorem wit_TrapsAndReturns :
    (tState tThread).me.pl = false ∧ (tState { tThread with pl := true }).me.pl = true ∧ (tState { tThread with pl := true }).me.epc.toNat % 4 = 0 ∧
    (tState { tThread with pl := true, epc := 2 }).me.epc.toNat % 4 ≠ 0 ∧
    (let t := (tState { tThread with ie := true, reps := [5] }).me
     t.reps = [5] ∧ t.live = true ∧ t.dead = false ∧ t.ie = true ∧ t.pl = false ∧ t.parked = false ∧ t.served = none ∧ t.got = []) := by
  decide +kernel

/-- A number R336 does not list, a pl1 register at pl0, threads at pl0 and pl1, with a token and without. -/
theorem wit_ControlRegisterReads :
    csrListed (0x70#8).toNat = false ∧ csrListed (0x11#8).toNat = true ∧ csrReadPl1 (0x11#8).toNat = true ∧ (tState tThread).me.pl = false ∧
    (tState tThread).me.toks = [] ∧ (tState { tThread with toks := [{ width := 0, payload := 5 }] }).me.toks = [{ width := 0, payload := 5 }] ∧
    (tState { tThread with pl := true }).me.pl = true := by
  decide +kernel

/-- Threads at pl0 and pl1; registers with and without poison; bays of both kinds; a queued report, mask and token. -/
theorem wit_ControlRegisterWrites :
    (let t := (tState { tThread with pl := true, reps := [5], hmOut := [(3, 1)], sfsel := 1, toks := [{ width := 0, payload := 5 }] }).me
     t.pl = true ∧ (t.rx 1).poison = false ∧ (t.rx 3).poison = true ∧ t.reps = [5] ∧ (5#512).extractLsb' 464 8 ≠ 1 ∧ t.hmOut = [(3, 1)] ∧
     bayKind t.sfsel.toNat = .s ∧ t.toks = [{ width := 0, payload := 5 }] ∧ bayKind ((t.rx 1).v.toNat % 64) = .a ∧ bayKind (1 % 64) ≠ .a) ∧
    (tState tThread).me.pl = false ∧ csrListed 0x11 = true ∧ csrWritePl1 0x11 = true ∧ csrListed 0x70 = false := by
  decide +kernel

/-- Token queues with a token and without, and an address that translates for execution. -/
theorem wit_FeaturesWaitsAndInvalidation :
    (tState { tThread with toks := [{ width := 0, payload := 5 }] }).me.toks ≠ [] ∧ (tState tThread).me.toks = [] ∧
    (tState tThread).me.takesReport = false ∧ tOk (tState tThread) 0x10040 .exec = true := by
  decide +kernel

/-- A thread that launches: its RCB is read, and refused; a child that runs, and one that has completed. -/
theorem wit_LaunchAndWaitForChild :
    (let s := tState { tThread with x := [(1, { v := 0x10000 }), (2, { v := 7 }), (3, { v := 1, poison := true })] }
     (s.me.rx 1).poison = false ∧ (s.me.rx 2).poison = false ∧ (s.me.rx 3).poison = true ∧ s.quiet 0 0 = true ∧ (s.me.rx 1).v.toNat % 256 = 0 ∧
     (s.me.rx 2).v.toNat % 256 ≠ 0 ∧ tOk s 0x10000 .read = true ∧
     (match s.xlate 0x10000 .read with
      | (u, .ok x) => (match u.readRcb x with
        | (v, .ok bs) => (match v.launchBytes { parent := none, ctx := some (0, 0), rroot := 0, x1 := some 7 } 0x10000 bs with | .fault _ .range => true | _ => false)
        | _ => false)
      | _ => false) = true) ∧
    (let s := tLaunch
     (s.me.rx 1).poison = false ∧ (s.me.rx 2).poison = false ∧
     (match s.xlate 0x10000 .read with
      | (u, .ok x) => (match u.readRcb x with
        | (v, .ok bs) => (match v.launchBytes { parent := none, ctx := some (0, 0), rroot := 0, x1 := some 7 } 0x10000 bs with | .ok _ _ => true | _ => false)
        | _ => false)
      | _ => false) = true ∧
     s.childOf 0 0 (s.me.rx 5).v = some 0 ∧ (s.region 0).state = 4 ∧ s.childOf 0 0 (s.me.rx 6).v = some 1 ∧ (s.region 1).state ≠ 4 ∧
     s.childOf 0 0 (s.me.rx 2).v = none ∧ (s.vaRead 64 (0x10000 + 0xC0) 8).2.2.1 = .none) := by
  decide +kernel

/-- A thread with a word in hand and one whose word is in memory; a block, a command and an event that come next. -/
theorem wit_StepRunsDecodedInstruction :
    (let s : State := { tState { tThread with ir := some 0x08A6FFFC } with agenda := [.thread 0 0] }
     s.agenda = [.thread 0 0] ∧ partOk 0 0 0 = true ∧ s.powered = true ∧ s.threadRuns 0 0 = true ∧ s.me.ir = some 0x08A6FFFC ∧
     (match decodeLanding 0x08A6FFFC with | .ok i => i == .addi 5 6 0xFFFC | _ => false) = true ∧ (decodeLanding 0).isOk = false ∧
     (match ({ s with agenda := [] } : State).fetch with | .word u w => w == 0x08A6FFFC && !u.me.holds w | _ => false) = true ∧
     ({ s with agenda := [] } : State).outranked (.thread 0 0) = false ∧ s.me.takesReport = false) ∧
    (let s := tState tThread
     s.me.ir = none ∧ s.me.pc.toNat % 4 = 0 ∧ tOk s s.me.pc .exec = true ∧ Tab.find (Tab.get (tU s s.me.pc .exec).icache 0 []) (0x10000 / 64) = none ∧
       (tU s s.me.pc .exec).lcOpen 0x10000 = true ∧ (s.edgeRead 0x10000 64 0).cause = .none ∧ (s.edgeRead 0x10000 64 0).poison = false) ∧
    (let s : State := { (State.reset.withFetchWord 32 0) with agenda := [.event .bringUp {}] }
     s.agenda = [.event .bringUp {}] ∧ ({} : Focus).ok = true ∧ s.takesEvent .bringUp = true ∧ s.outranked (.event .bringUp {}) = false) ∧
    (let s := State.reset.withFetchWord 32 0x003B3128
     s.agenda = [.fire 0 0 0 0] ∧ s.powered = true ∧ (s.bayCtx 0 0 0).task.isSome = true ∧ (decodeBay (s.bayWord 0 0 0 0 0)).isOk = true ∧
       ({ s with agenda := [] } : State).outranked (.fire 0 0 0 0) = false) ∧
    (let s := State.reset.withFetchWord 128 0x18000000000000000000000000000000
     s.agenda = [.command 0 1 0] ∧ s.powered = true ∧ (s.cmd 0 1).isSome = true ∧ (decodeCommand 0x18000000000000000000000000000000).isOk = true) := by
  decide +kernel

/-- An instruction that answers a next state. -/
theorem wit_IntegerInstructionsChangeOnlyXd :
    Instr.add 5 1 2 ∈ integerInstrs 5 1 2 0 0 ∧ (match exec (.add 5 1 2) (tState tThread) with | .next _ => true | _ => false) = true ∧
    (match exec (.setp 2 0 1 2) (tState tThread) with | .next _ => true | _ => false) = true := by
  decide +kernel

/-- Every row fires in the small bay, and so does sel, whose predicate slot holds 1. -/
theorem wit_BayIntegerResults :
    (bayIntRows.all fun r => firesB (tBay (tWord r.2.1 0x30 0x30 0)) r.2.1 0) = true ∧
    firesB (tBay (tWord 0x17 0x30 0x30 0)) 0x17 0 = true ∧ (match (tBay (tWord 0x17 0x30 0x30 0)).myBay.task with
      | some k => (tBay (tWord 0x17 0x30 0x30 0)).bayReady 0 0 0 (tBay (tWord 0x17 0x30 0x30 0)).myBay k.blk 0 0x17 0 == .go { v := 5 } { v := 3 } (some { v := 1 })
      | none => false) = true := by
  decide +kernel

/-- Every row fires in the small bay. -/
theorem wit_BayFloatResults : (bayFpRows.all fun r => firesB (tBay (tWord r.2.1 0x30 0x30 0)) r.2.1 0) = true := by decide +kernel

/-- A value that rounds up to even, one that overflows, and one that is exact. -/
theorem wit_RoundGivesTheNeighbourTheModeSelects :
    fp32 ∈ roundFormats ∧ (roundQ fp32 0 false 1 3).2.getLsbD 2 = false ∧ (roundQ fp32 0 false (2 ^ 128) 1).2.getLsbD 2 = true ∧
    (roundQ fp32 0 false (2 ^ 128) 1).1 = 0x7F800000 ∧ (roundQ fp32 1 false (2 ^ 128) 1).1 = 0x7F7FFFFF ∧ (roundQ fp32 0 true 1 2).1 = 0xBF000000 := by
  decide +kernel

/-- A finite operand, and powers of two, the smallest subnormal among them. -/
theorem wit_SpecialOperandsAndExactCases :
    bf16 ∈ scalarFormats ∧ 0 < (1 : Nat) ∧ (1 : Int) - (fp16.bias : Int) - fp16.mb ≤ -24 ∧ (-24 : Int) ≤ fp16.bias ∧ powerPattern fp16 (-24) = 1 ∧
    powerPattern fp32 0 = 0x3F800000 ∧ exp2F fp32 0 (decodeF fp32 0xC0400000) = (0x3E000000, 0) := by
  decide +kernel

/-- Blocks whose instruction waits, is nullified and fires, with and without a predicate; a `merge`; operands of each form. -/
theorem wit_WhenABayInstructionFires :
    (let s := tBay (tWord 0x00 0x30 0x30 0)
     let b : Block := { frame := 0, slots := [(0, .val { v := 5 }), (1, .null)] }
     (decide (0 < (s.blockWords 0 0 0 0).length) && !predicated s 0 0 0 0 0 && rawOperands {} b 0 0 0 == some (.val { v := 5 }, .null)) = true ∧
     s.bayReady 0 0 0 {} b 0 0 0 = .null ∧ rawOperands {} {} 0 0 0 = none ∧ s.bayReady 0 0 0 {} {} 0 0 0 = .wait ∧
     (match s.myBay.task with | some k => !s.myBay.trapped && !s.halted 0 0 0 && s.bayReady 0 0 0 s.myBay { k.blk with slots := b.slots } 0 0 0 == .null | none => false) = true ∧
     firesB s 0 0 = true) ∧
    (let s : State := { tBay (tWord 0x00 0x21 0x30 0) with cfgs := [(0, { store := [(0, tWord 0x00 0x21 0x30 0), (1, tWord 0x00 0x30 0x30 0), (2, tWord 0x5C 0x30 0x30 0x600)] })] }
     let b (q : SlotVal) : Block := { frame := 0, slots := [(3, .val { v := 5 }), (4, .val { v := 6 }), (5, q)] }
     predicated s 0 0 0 0 1 = true ∧ s.bayReady 0 0 0 {} (b .null) 1 0 0 = .null ∧ s.bayReady 0 0 0 {} (b (.val { v := 2 })) 1 0 0 = .null ∧
     s.bayReady 0 0 0 {} (b (.val { v := 1 })) 1 0 0 = .go { v := 5 } { v := 6 } (some { v := 1 }) ∧
     s.bayReady 0 0 0 {} (b (.val { v := 2 })) 1 0x57 0 = .go { v := 6 } { v := 6 } (some { v := 2 }) ∧
     s.bayReady 0 0 0 {} (b (.val { v := 2, poison := true })) 1 0x57 0 = .go {} {} (some { v := 2, poison := true }) ∧
     s.bayReady 0 0 0 {} { slots := [(0, .null), (1, .val { v := 6 })] } 0 0x57 0 = .go { v := 6 } { v := 6 } (some { v := 1 })) ∧
    slotReads 0x00 0 = .two ∧ slotReads 0x15 0 = .one ∧ slotReads 0x2E 0 = .none ∧ (0x1800 : BitVec 13).extractLsb' 11 2 = 3 ∧ isOrdered 0x2E = true := by
  decide +kernel

/-- Every instruction fires in the small bay, with an empty shape and, once a shape is set, with one; lane indices within and beyond it. -/
theorem wit_BayVectorResults :
    (bayLaneRows.all fun r => firesB (tBay (tWord r.2.1 0x30 0x30 0x1008)) r.2.1 0x1008) = true ∧
    ([0x3B, 0x3C, 0x40].all fun o => firesB (tBay (tWord o 0x30 0x30 0x1008)) o 0x1008) = true ∧
    ([0x3D, 0x3E].all fun o => firesB (tBay (tWord o 0x30 0x30 0x880)) o 0x880) = true ∧
    ([0x3F, 0x41, 0x2C, 0x2D].all fun o => firesB (tBay (tWord o 0x30 0x30 0x10)) o 0x10) = true ∧
    (tBay 0).myBay.vsN = 0 ∧ lanesOf { vsN := 18 } 32 = 18 ∧ lanesOf { vsN := 40, vsW := 0 } 8 = 40 ∧ shapeWidth {} = 32 := by
  decide +kernel

/-- Every instruction fires in the small bay; a poisoned and a readable cell; a legal entry, and one that wires a LUT to itself. -/
theorem wit_BayAccumulatorAndLutResults :
    ([0x44, 0x45, 0x46, 0x47, 0x48, 0x49, 0x4A, 0x4B, 0x53, 0x54, 0x55].all fun o => firesB (tBay (tWord o 0x30 0x30 0)) o 0) = true ∧
    (tBay 0).myBay.vsW < 3 ∧ readCell (1#128 <<< 127) 0 (.flt fp32) 0 = none ∧ readCell 0 0 (.flt fp32) 0 = some (0, 0) ∧
    lutBad 48 0 = false ∧ lutBad 48 64 = true ∧ lutBad 49 64 = false ∧ lutBad 102 0x10000 = true ∧ lutBad 103 0 = true ∧
    storeBits 9 = 8 ∧ (0 : BitVec 13).extractLsb' 3 4 = 0 := by
  decide +kernel

/-- Values that saturate either way, at the bound itself, and one that does not. -/
theorem wit_AContributionEntersACell :
    reaches 1 99 99 ∧ reaches (-(-1)) 99 99 ∧ ¬ reaches 1 98 99 ∧ ¬ reaches (-1) 98 99 ∧
    enterCell 0 0 (.fin 300 0) false = 0x0800000000000000000000000000012C := by
  unfold reaches
  decide +kernel

/-- Two orders of three contributions. -/
theorem wit_ContributionsEnterInAnyOrder :
    enterAll 0 3 [(.fin 5 0, false), (.nan, true), (.inf true, false)] = enterAll 0 3 [(.inf true, false), (.fin 5 0, false), (.nan, true)] := by
  decide +kernel

/-- An address that may be accessed, one beyond the group, a bank that takes the request, an empty and a set shape, and a bay in which each
instruction fires; a vector whose lanes have all come. -/
theorem wit_BayMemoryAccess :
    ([0x4C, 0x4D, 0x4E, 0x52].all fun o => firesB (tBay (tWord o 0x30 0x30 0)) o 0) = true ∧
    ([0x4F, 0x50, 0x51].all fun o => firesB (tBay (tWord o 0x30 0x30 0x880)) o 0x880) = true ∧
    (let s := tBay (tWord 0x4C 0x30 0x30 0)
     s.regionAt 0 0 = none ∧ (s.bank 0 0).groupSize 0 = 65536 ∧ s.bayCheck 8 4 4 = .none ∧ s.bayCheck 6 4 4 = .align ∧ s.bayCheck 0x10000 4 4 = .range ∧
     s.bayCheck 0x100000 4 4 = .range ∧ bankFor s 8 = (0, 8) ∧ queueFor s 0 = 0 ∧ s.classBusy 0 0 = false ∧ (s.bank 0 0).takes 0 0 = true ∧ s.netRoom (0, 0) 0 1 = true ∧ s.bayOwed 0 0 < 32 ∧ queueFor s 1 = 3 ∧ s.bayEcc 8 4 = false ∧
     s.myBay.vsW < 3 ∧ lanesOf s.myBay (shapeWidth s.myBay) = 0 ∧ taskGot s = [] ∧ taskPos s = 0) ∧
    linePieces 56 16 = [(0, 8), (8, 8)] ∧ lanesOf { vsN := 2 } 32 = 2 := by
  decide +kernel

/-- Every instruction fires in the small bay; a route that takes a token, channels with a data and with a control token at the head. -/
theorem wit_BayFlowAndTokens :
    ([0x56, 0x57, 0x5E, 0x58, 0x59, 0x5B, 0x42, 0x43, 0x5D].all fun o => firesB (tBay (tWord o 0x30 0x30 0)) o 0) = true ∧
    ([0x5A, 0x5C].all fun o => firesB (tBay (tWord o 0x30 0x30 0x100)) o 0x100) = true ∧
    (let s := tBay (tWord 0x5A 0x30 0x30 0)
     let s : State := { s with cfgs := [(0, { store := [(0, tWord 0x5A 0x30 0x30 0), (1, tWord 0x5C 0x30 0x30 0x600)], routes := [(0, 0x40000000)] })] }
     (match s.sendToken 0 0 0 (sentToken s 0 5 3 false) with | some v => v.focus == s.focus | none => false) = true ∧ (s.reportElem .cfg 0 0 0 {}).focus = s.focus ∧ firesB s 0x5A 0 = true ∧ (Tab.get s.ltoks 0 []).length < 16 ∧ s.bayPerformed 0 0 0 = true ∧ taskPos s < 16 ∧
       Tab.get s.myBay.chans 0 [] = []) ∧
    (let b : Block := { frame := 0, slots := [(0, .null)] }
     (tBay (tWord 0x5C 0x30 0x30 0x200)).bayReady 0 0 0 {} b 0 0x5C 0x200 = .go {} {} none) := by
  decide +kernel

/-- A bay with an eligible handler and one with none; a block that is done and goes to a frame with a block, to one without, or ends; a
channel with a stop, an invocation marker or a marker of subtype 5 at its head. -/
theorem wit_HandlersBlocksAndControlTokens :
    (let s := tHandler { kind := .data, payload := 7 }
     bayKind s.focus.elem = .a ∧ s.myBay.trapped = false ∧ s.halted 0 0 0 = false ∧ s.myBay.task = none ∧
     (Tab.get (s.cfg 0 0 0).handlers 0 0).getLsbD 63 = true ∧ handlerChan (Tab.get (s.cfg 0 0 0).handlers 0 0) = 1 ∧
     Tab.get s.myBay.chans 1 [] = [{ kind := .data, payload := 7 }] ∧
     (match exec .handlerSelect s with | .next v => v.myBay.task.isSome | _ => false) = true) ∧
    (tBay 0).myBay.trapped = false ∧ Tab.get (tHandler {}).myBay.waits 0 0 = 0 ∧
    ([{ kind := .stop }, { kind := .marker, level := 0 }] : List Token).all (fun t =>
      (match exec .controlTokenTake { tHandler t with focus := { idx := 1 } } with | .next v => decide (v.myBay.chans ≠ (tHandler t).myBay.chans) | _ => false)) = true ∧
    (match exec .controlTokenTake { tHandler { kind := .marker, level := 5 } with focus := { idx := 1 } } with | .next v => decide (v.myBay.chans ≠ (tHandler {}).myBay.chans) | _ => false) = true ∧
    (let s := tBay (tWord 0 0x31 0x30 0)
     let b : Block := { frame := 0, fired := [0, 1], regw := [(1, 0, { v := 8 })], next := .endTask }
     (List.range (s.blockWords 0 0 0 0).length).all b.fired.contains = true ∧ b.inflight = [] ∧ s.blockWords 0 0 0 1 = [] ∧ s.blockWords 0 0 0 0 ≠ []) := by
  decide +kernel

/-- A route with one output, one without any, a local one; a bay whose slot is live with a token on its west link; a lane with a token. -/
theorem wit_TokensTakeRouteClasses :
    (let s : State := { tBay 0 with cfgs := [(0, { routes := [(0, 0x40000000), (2, 0x08080000)] })], links := [(lkey 0 0 3, [{ chan := 0 }])],
                                    rlanes := [(lkey 0 0 1, [{ ctx := 0, level := 0, coord := 5 }])] }
     routeOuts (s.route66 0 0 0 0) = [1] ∧ routeOuts (s.route66 0 0 0 1) = [] ∧ (s.route66 0 0 0 2).getLsbD 27 = true ∧
     s.link (bayOut 0 0 1) = [] ∧ Tab.find s.vecOpen (4 * bayOut 0 0 1) = none ∧ s.outBid 0 0 [1] 0 3 = false ∧ s.outBid 0 0 [1] 0 5 = true ∧
     s.swapStopped 0 0 0 = false ∧ ((s.popLink (lkey 0 0 3)).passRoute 0 0 0 3 { chan := 0 } false).isSome = true ∧ s.link (lkey 0 0 3) = [{ chan := 0 }] ∧ 0 ∈ (s.slot 0 0).liveAt ∧
     s.regionAt 0 0 = none ∧ ((s.popLink (lkey 0 0 3)).takeRoute 0 0 0 3 { chan := 0 } false).isSome = true ∧
     Tab.get s.rlanes (lkey 0 0 1) [] = [{ ctx := 0, level := 0, coord := 5 }] ∧ Tab.find s.feed (4 * bayOut 0 0 1) = none) ∧
    bayKind 0 = .a ∧ bayKind 1 = .s ∧ upstreamLane 0 1 3 = some (lkey 0 0 1) := by
  decide +kernel

/-- Units of each mode with what their clauses ask for at their heads. -/
theorem wit_ScannersMergersAndRepeaters :
    (let s := tUnit 1 [0x0400000000000000, 0x2C00000010000000] { q := [(0, [{ kind := .data, width := 1, payload := 3 }])] }
     s.unitRuns = true ∧ s.myMode = 0x01 ∧ headOf s.myUnit 0 = some { kind := .data, width := 1, payload := 3 } ∧ moves .scanReference s = true) ∧
    (let s := tUnit 1 [0x0400000000000000, 0x2C00000010000000] { fib := some { p := 3, j := 0, hi := 4 } }
     s.myMode = 0x01 ∧ (s.sendOuts [(0, pairOn s 0 0 0 0 12 false)]).isSome = true ∧ moves .scanReference s = true) ∧
    (let s := tUnit 1 [0x0500000000000000, 0x0800000000000000] { fib := some { p := 0, j := 0, hi := 64 }, skipT := some 9, pre := [(0, 0, false), (1, 0, false)] }
     s.myModeWord.extractLsb' 56 2 = 1 ∧ moves .gallopProbeReturn s = true ∧ s.unitHas 16 16 = true ∧ s.unitHas 32 16 = false) ∧
    (moves .scanReference (tUnit 1 [0x0500000000000000] { fib := some { p := 0, j := 0, hi := 64 } }) = true) ∧
    (let d (c : Nat) : Token := { kind := .data, width := 1, payload := BitVec.ofNat 64 c }
     let s := tUnit 1 [0x0D00000000000000] { q := [(0, [d 3]), (1, [d 3])] }
     s.unitRuns = true ∧ s.myMode = 0x03 ∧ moves .isectStep s = true ∧ moves .isectStep (tUnit 1 [0x0D00000000000000] { q := [(0, [d 3]), (1, [d 5])] }) = true ∧
     moves .unionStep (tUnit 1 [0x1100000000000000] { q := [(0, [d 3]), (1, [{ kind := .stop }])] }) = true ∧
     moves .unionStep (tUnit 1 [0x1100000000000000] { q := [(0, [{ kind := .stop }]), (1, [{ kind := .stop }])] }) = true ∧
     moves .repeatToken (tUnit 1 [0x1400000000000000] { q := [(0, [d 3])], held := some { v := 7 } }) = true ∧
     moves .repeatToken (tUnit 1 [0x1400000000000000] { q := [(0, [d 3]), (1, [d 4])] }) = true) ∧
    (let s := tUnit 1 [0x1C00000000000000] { q := [(0, [{ kind := .done }])] }
     unitInputs s.myWords = 1 ∧ (barrierPending s { kind := .done }).isNone = true ∧ moves .sbayBarrier s = true) := by
  decide +kernel

/-- Units of each mode with a token at the head that moves them. -/
theorem wit_ReducersSelectorsPartitionsAndWriters :
    (let d (c : Nat) : Token := { kind := .data, width := 1, payload := BitVec.ofNat 64 c }
     let s := tUnit 1 [0x1800000000000000] { q := [(0, [d 3])] }
     s.unitRuns = true ∧ s.myMode = 0x06 ∧ headOf s.myUnit 0 = some (d 3) ∧ moves .reduceToken s = true ∧
     moves .reduceToken (tUnit 1 [0x1800000000000000] { q := [(0, [{ kind := .stop }])], runC := some (4, 0), acc := { v := 7, n := 1 } }) = true ∧
     moves .reduceToken (tUnit 1 [0x1900000000000000] { q := [(0, [{ kind := .stop }])] }) = true ∧
     moves .reduceToken (tUnit 1 [0x1A00000007000000] { q := [(0, [d 3])] }) = true ∧
     moves .reduceToken (tUnit 1 [0x1A00000007000000] { q := [(0, [{ kind := .stop }])], tab := [(2, { v := 1, n := 1 })] }) = true ∧
     (tUnit 1 [0x1C10000000000000] {}).myMode = 0x07 ∧ moves .selectToken (tUnit 1 [0x1C10000000000000] { q := [(0, [d 3])] }) = true ∧
     moves .selectToken (tUnit 1 [0x1C10000000000000] { q := [(0, [{ kind := .stop }])], kept := [(0, 5)] }) = true ∧
     moves .partToken (tUnit 1 [0x2040000002800000] { q := [(0, [d 3])] }) = true ∧
     moves .partToken (tUnit 1 [0x2040000002800000] { q := [(0, [d 0])] }) = true ∧
     moves .lwriteToken (tUnit 1 [0x2500000000080001] { q := [(0, [d 3])] }) = true ∧
     (tUnit 1 [0x2500000000080001] {}).myUnit.lwStop = false ∧
     moves .lwriteHeadEntry (tUnit 1 [0x2600000000000080] { heads := [(0, 16, 2)] }) = true ∧
     moves .bumpRequest (tUnit 1 [0x1800000000000000, 0x2800040040000000] { rq := [d 32] }) = true) := by
  decide +kernel

/-- A walk through the small tables, which ends in a leaf; an entry that is not present; one that is malformed. -/
theorem wit_PageTableWalks :
    (let s : State := { mem := { cells := tTables } }
     (match s.walk 64 0x10000 .read with | (_, .leaf _ p, _) => p == 16 | _ => false) = true ∧
     (match s.walk 64 0x20000 .read with | (_, .fault .nopage, _) => true | _ => false) = true ∧
     (s.edgeRead 0x24008 8 0).poison = false ∧ (s.edgeRead 0x24008 8 0).cause = .none ∧ (s.edgeRead 0x8000000000000 8 0).cause = .range) ∧
    malformed 0x3 3 = true ∧ malformed 0x3 0 = false ∧ malformed 0x1 0 = true := by
  decide +kernel

/-- A unit with an answered result that its route takes, one with an address at the head that hits, one that misses, a walk that answers
it, and a shootdown at the unit. -/
theorem wit_TranslateUnitsAndShootdowns :
    (let t : Token := { kind := .data, width := 4, payload := 0x10000 }
     let ws : List W64 := [0x7443F40000000000, 0x8000000000000040]
     let s := tUnit 1 ws { q := [(0, [t])], arr := [0] }
     let s : State := { s with mem := { cells := tTables } }
     bayKind 1 = .s ∧ s.myMode = 0x1D ∧ s.ctxStopped 0 0 = false ∧ s.swapSaved 0 1 0 = false ∧ s.unitRuns = true ∧ headOf s.myUnit 0 = some t ∧
     inputKind 0x7443F40000000000 0 = some .read ∧ inputKind 0x7443F40000000000 2 = none ∧ rootOfSlot ws = 64 ∧ moves .translateRequest s = true ∧
     (match exec .translateRequest s with
      | .next v => v.walks.length == 1 && (match exec .pageTableWalk v with
        | .next w => w.walks.length == 0 && w.myUnit.tlb.length == 1 && (match exec .translateRequest w with
          | .next x => x.myUnit.xq.length == 0
          | _ => false)
        | _ => false)
      | _ => false) = true ∧
     moves .shootdownDrainArrival { s with shoots := [{ hall := 0, ticket := 1, part := (0, 1), root := 64, va := 0x10000, len := 4096 }] } = true) := by
  decide +kernel

/-- A stair in each mode whose next step makes an element; an element whose window is held, one whose window is asked for, one that is issued,
and the answers. -/
theorem wit_StairElementsAndWindows :
    let run : StairRun := { ticket := 1, ctx := 0, cls := 0, base := 0x10000, bound := 100, bnd := [(0, 4)] }
    let word (d m : Nat) : W64 := BitVec.ofNat 64 (0x15 * 2 ^ 58 + d * 2 ^ 56 + m * 2 ^ 54 + 2 ^ 52)
    let fl (k b st : Nat) : W64 := BitVec.ofNat 64 (0x13 * 2 ^ 58 + k * 2 ^ 55 + b * 2 ^ 30 + st)
    let win : W64 := BitVec.ofNat 64 (0x1B * 2 ^ 58 + 3 * 2 ^ 39)
    let pay : W64 := BitVec.ofNat 64 (0x10 * 2 ^ 12 + 16 * 2 ^ 7 + 0x30)
    let e : Elem := { ser := 0, ctx := 0, va := 0x10040, n := 4, idx := 0, coord := 0, kind := .read }
    let st (ws : List W64) (x : Stair) : State := { host := { perst := false }, focus := { elem := 64 }, stairs := [(0, x)], cfgs := [(ckey 0 64 0, { words := ws, routes := [(0, 0x20000000)] })] }
    let a := [word 0 0, fl 0 4 4, fl 1 2 64, win]
    stairField a 0x15 55 54 = 0 ∧ flightCount a = 2 ∧ elemSize a = 4 ∧ (st a { run := some run }).halted 0 64 0 = false ∧
    moves .stairElementIssue (st a { run := some run }) = true ∧
    moves .stairElementIssue (st a { run := some { run with bnd := [(1, 2)] } }) = true ∧
    moves .stairElementIssue (st a { run := some { run with bnd := [(0, 4), (1, 2)], f := [4, 0, 0, 0, 0, 0] } }) = true ∧
    moves .stairElementIssue (st [word 0 1, fl 0 0 4, fl 1 2 0, win] { run := some { run with bnd := [(1, 2)], row := some (0, 3) } }) = true ∧
    moves .stairElementIssue (st [word 0 2, win] { run := some run, chans := [(1, [{ kind := .data, width := 1, payload := 5 }])] }) = true ∧
    moves .stairElementIssue (st [word 1 0, win] { run := some run, want := some { e with kind := .write }, chans := [(2, [{ kind := .data, width := 1, payload := 5 }])] }) = true ∧
    moves .stairElementIssue (st [word 1 0, win] { run := some run, want := some { e with kind := .write, data := [1], bad := .range } }) = true ∧
    moves .stairElementIssue (st [word 1 0, win] { run := some run, want := some { e with kind := .write, data := [1], dpois := true } }) = true ∧
    moves .stairElementIssue (st a { run := some run, want := some e, wins := [{ va := 0x10000, pay := pay }] }) = true ∧
    ((st a { run := some run, want := some e }).stairSend 0 0 (requestClass a .read) { kind := .data, width := 4, payload := 0x10040 }).isSome = true ∧
    moves .stairElementIssue (st a { run := some run, want := some e }) = true ∧
    (let e := { e with ps := [{ pa := 0x10040, key := 0, len := 4 }], data := [1] }
     (st a {}).edgeRefuses 0x10040 4 0 = .none ∧
     moves .stairElementIssue (st a { run := some run, want := some e }) = true ∧
     moves .stairElementIssue (st [word 1 0, win] { run := some run, want := some { e with kind := .write } }) = true ∧
     moves .stairElementIssue (st [word 1 0, win] { run := some run, want := some { e with kind := .write }, mrg := some { who := .stair 0 0 0, pa := 0x1003C, key := 0, size := 4, data := [0, 0, 0, 0] } }) = true ∧
     moves .stairElementIssue (st [word 2 0, win] { run := some run, want := some { e with kind := .atomic } }) = true) ∧
    (let x : Stair := { run := some run, want := some e, asks := [(0x10040, true, [])], chans := [(3, [{ kind := .data, width := 5, payload := pay }])] }
     moves .stairWindowAnswer (st a x) = true ∧
     moves .stairWindowAnswer (st a { x with reqs := [(9, 1)], chans := [(3, [{ kind := .data, width := 5, payload := 0x2000000000000000 }])] }) = true ∧
     moves .stairWindowAnswer (st a { x with want := some { e with kind := .write }, chans := [(3, [{ kind := .data, width := 5, payload := 0x4000000000000000 }])] }) = true ∧
     moves .stairWindowAnswer (st a { x with chans := [(3, [{ kind := .data, width := 1 }])] }) = true) := by
  decide +kernel

/-- A stair with each thing at its head that these steps take, in a slot that is live. -/
theorem wit_StairLinesPortAndTokens :
    let word (d m : Nat) : W64 := BitVec.ofNat 64 (0x15 * 2 ^ 58 + d * 2 ^ 56 + m * 2 ^ 54)
    let win : W64 := BitVec.ofNat 64 (0x1B * 2 ^ 58 + 3 * 2 ^ 39)
    let e : Elem := { ser := 0, ctx := 0, va := 0x10040, n := 4, idx := 0, coord := 0, kind := .read, ps := [{ pa := 0x10040, key := 0, len := 4 }] }
    let tok (k : TokKind) (l : Nat) : Token := { kind := k, level := BitVec.ofNat 3 l }
    let run : StairRun := { ticket := 1, ctx := 0, cls := 0, doneMade := true }
    let st (ws : List W64) (x : Stair) : State := { host := { perst := false }, focus := { elem := 64 }, stairs := [(0, x)], slots := [(0, { st := .live, liveAt := [64] })], cfgs := [(ckey 0 64 0, { words := ws, routes := [(0, 0x20000000), (5, 0x08180000)] })] }
    let a := [word 0 0, win]
    let wr := [word 1 0, win]
    moves .stairLineReturn (st a { out := [.el e] }) = true ∧
    moves .stairLineReturn (st a { out := [.el { e with ps := [{ pa := 0x10040, key := 0, len := 4, got := some ([1, 0, 0, 0], false) }] }] }) = true ∧
    moves .stairLineReturn (st a { out := [.tok (tok .data 0) none] }) = true ∧
    ((st a {}).stairSend 0 0 (stairField a 0x15 47 43) (tok .data 0)).isSome = true ∧
    moves .stairWriteAck (st a { ackDue := 1, unacked := 1 }) = true ∧
    moves .fenceRelease (st wr { held := [(tok .marker 3, none)] }) = true ∧
    moves .fenceRelease (st wr { held := [(tok .roundEnd 0, some 7)] }) = true ∧
    moves .fenceRelease (st wr { held := [(tok .roundEnd 0, none)], spill := [{ e := e, page := 1, seq := 0 }] }) = false ∧
    moves .fenceRelease (st wr { held := [(tok .marker 3, none)], unacked := 1 }) = false ∧
    moves .memoryPortDone (st wr { run := some { run with eot := true }, held := [(tok .done 0, none)] }) = true ∧
    moves .memoryPortDone (st wr { run := some run, held := [(tok .done 0, none)] }) = true ∧
    moves .memoryPortDone (st wr { run := some run, held := [(tok .done 0, none)], unacked := 1 }) = false ∧
    (let t : Token := { kind := .data, width := 5, chan := 5 }
     let s := { st a {} with links := [(lkey 0 64 0, [t])] }
     (s.route66 0 64 0 5).extractLsb' 19 4 = 3 ∧ stairField a 0x1B 42 39 = 3 ∧ s.swapStopped 0 64 0 = false ∧ moves .stairTokenArrival s = true ∧
     moves .stairTokenArrival { st a { chans := [(3, [t, t, t, t])] } with links := [(lkey 0 64 0, [t])] } = false) ∧
    (let s := { st [BitVec.ofNat 64 (0x1C * 2 ^ 58 + 2 ^ 57)] {} with focus := { hall := 8, elem := 64 }, links := [(lkey 8 64 0, [{ kind := .data, width := 5 }])], slots := [(tkey 8 0, { st := .live, liveAt := [64] })] }
     (facingStair 8 0).isSome = true ∧ moves .stairTokenArrival { s with cfgs := [(ckey 8 64 0, { words := [BitVec.ofNat 64 (0x1C * 2 ^ 58 + 2 ^ 57)] })] } = true) ∧
    (let s (ws : List W64) (x : Stair) (t : Token) : State := { st ws { x with chans := [(2, [t])] } with focus := { elem := 64, aux := 1, idx := 2 } }
     ([tok .marker 0, tok .marker 1, tok .marker 3, tok .roundEnd 0, tok .marker 2, tok .stop 0, tok .marker 5, tok .marker 6].all fun t => moves .stairTokenArrival (s wr {} t)) = true ∧
     ([tok .marker 2, tok .marker 3, tok .roundEnd 0, tok .marker 7].all fun t => moves .stairTokenArrival (s a {} t)) = true ∧
     moves .stairTokenArrival (s [word 0 0 ||| 0x20000000000000, win] { spill := [{ e := e, page := 1, seq := 0 }] } (tok .marker 3)) = false ∧
     moves .stairTokenArrival (s wr { run := some run } (tok .done 0)) = true) ∧
    (let s := { st a { reqs := [(5, 1)], spill := [{ e := e, page := 1, seq := 5 }] } with focus := { val := 0x10005 } }
     moves .pageReady s = true ∧ moves .pageReady { s with focus := { val := 0x10006 } } = false) := by
  decide +kernel

/-- Each command started in a dispatcher, at a port that takes what it does. -/
theorem wit_DispatcherAndPortCommands :
    let w (op p f i a : Nat) : BitVec 128 := BitVec.ofNat 128 (op * 2 ^ 120 + p * 2 ^ 114 + f * 2 ^ 96 + i * 2 ^ 64 + a)
    let st (c : DCmd) : State := { host := { perst := false }, focus := { idx := 5 }, slots := [(0, { st := .live, liveAt := [64] })], disps := [(0, { cmds := [c], stats := [{ ticket := 5, ctx := 0, region := 0 }] })] }
    let cmd (op p f i a : Nat) : DCmd := { ticket := 5, ctx := 0, ictx := 0, region := none, word := w op p f i a, started := true }
    let go (i : BitVec 6 → BitVec 2 → BitVec 8 → BitVec 8 → BitVec 32 → BitVec 64 → Instr) (p f im a : Nat) (s : State) : Bool := moves (i (BitVec.ofNat 6 p) 0 0 (BitVec.ofNat 8 f) (BitVec.ofNat 32 im) (BitVec.ofNat 64 a)) s
    let word (d m : Nat) : W64 := BitVec.ofNat 64 (0x15 * 2 ^ 58 + d * 2 ^ 56 + m * 2 ^ 54)
    let win : W64 := BitVec.ofNat 64 (0x1B * 2 ^ 58 + 3 * 2 ^ 39)
    let ws (l : List W64) (s : State) : State := { s with cfgs := [(ckey 0 64 0, { words := l, routes := [(0, 0x20000000)] })] }
    let e : Elem := { ser := 0, ctx := 0, va := 0x10040, n := 4, idx := 0, coord := 0, kind := .write }
    let stopped (s : State) : State := { s with stairs := [(0, { run := some { ticket := 4, ctx := 0, cls := 0 }, stop := some { cause := .prot, record := 0 }, want := some e })] }
    moves .commandStart (st { cmd 0x18 0 0 0 0 with started := false }) = true ∧
    moves .commandRetire (st { cmd 0x18 0 0 0 0 with done := true }) = true ∧
    moves .commandRetire (st { cmd 0x18 0 0 0 0 with done := true, fault := some .range }) = true ∧
    (st (cmd 0x0B 0 0 2 7)).portCut 0 0 0 = false ∧
    go .marker 0 0 2 7 (st (cmd 0x0B 0 0 2 7)) = true ∧ go .round 0 0 2 0 (st (cmd 0x0C 0 0 2 0)) = true ∧ go .cfgswitch 0 0 1 0 (st (cmd 0x0F 0 0 1 0)) = true ∧
    go .nop 0 0 0 0 (st (cmd 0x18 0 0 0 0)) = true ∧ go .sink 0 0 2 0 (st (cmd 0x14 0 0 2 0)) = true ∧ go .portwait 0 0 0 1 (st (cmd 0x19 0 0 0 1)) = true ∧
    go .sfence 0 0 0 0 (st (cmd 0x11 0 0 0 0)) = true ∧
    go .bind 0 4 3 0 (ws [word 0 0] (st (cmd 0x01 0 4 3 0))) = true ∧ go .bind 0 4 3 0 (st (cmd 0x01 0 4 3 0)) = true ∧
    go .gather 0 4 3 0 (ws [word 0 2] (st (cmd 0x04 0 4 3 0))) = true ∧ go .scatter 0 4 3 0 (ws [word 1 2] (st (cmd 0x05 0 4 3 0))) = true ∧
    go .gather 0 4 3 0 (ws [word 1 2] (st (cmd 0x04 0 4 3 0))) = true ∧ go .scatter 0 4 3 0 (ws [word 0 2] (st (cmd 0x05 0 4 3 0))) = true ∧
    (let s := { st (cmd 0x01 16 0 0 0) with cfgs := [(ckey 0 (mbayOf 0) 0, { words := [0x2000000000000004] })] }
     go .bind 16 0 0 0 (st (cmd 0x01 16 0 0 0)) = true ∧ (s.mportOf 0 0 0).isSome = true ∧ go .bind 16 0 0 0 s = true) ∧
    go .bindResume 0 0 0x80000000 0 (stopped (st (cmd 0x01 0 0 0x80000000 0))) = true ∧
    go .bindResumeSkip 0 0 0xC0000000 0 (stopped (st (cmd 0x01 0 0 0xC0000000 0))) = true ∧
    go .bindAbandon 0 0 0xA0000000 0 (stopped (st (cmd 0x01 0 0 0xA0000000 0))) = true ∧
    go .bindResume 0 0 0x80000000 0 (st (cmd 0x01 0 0 0x80000000 0)) = true ∧
    go .shoot 0 10 0 0 (st (cmd 0x15 0 10 0 0)) = true ∧ go .shoot 0 10 0 0 (st { cmd 0x15 0 10 0 0 with acted := true }) = true ∧
    go .prefetch 0 0 128 0x10000 (ws [win] (st (cmd 0x17 0 0 128 0x10000))) = true ∧
    go .prefetch 0 0 128 0x10000 (ws [win] (st { cmd 0x17 0 0 128 0x10000 with acted := true })) = true ∧
    go .prefetch 0 0 128 0x10000 (ws [win] (st { cmd 0x17 0 0 128 0x10000 with prog := 128 })) = true ∧
    go .prefetch 0 0 128 0x10000 { ws [win] (st { cmd 0x17 0 0 128 0x10000 with acted := true }) with stairs := [(0, { wins := [{ va := 0x10000, pay := 0x820 }] })] } = true ∧
    moves .sinkCountZero { focus := { idx := 3 }, disps := [(0, { sinks := [(12, { left := 0, hit := true })] })] } = true ∧
    moves .sinkCountZero { focus := { elem := 1, aux := 1 }, units := [(bkey 0 1 0, { sink := some 0, sinkHit := true })] } = true := by
  decide +kernel

/-- Each engine command started, in a hall whose region's tables map its ranges, with a part to read, to write and none left. -/
theorem wit_EngineCommands :
    let w (op p f i a : Nat) : BitVec 128 := BitVec.ofNat 128 (op * 2 ^ 120 + p * 2 ^ 114 + f * 2 ^ 96 + i * 2 ^ 64 + a)
    let st (c : DCmd) : State := { host := { perst := false }, focus := { idx := 5 }, mem := { cells := tTables }, slots := [(0, { st := .live, region := some 0 })], regions := [{ rcb := 0, rroot := 64, eff := { root := 64 } }], disps := [(0, { cmds := [c] })] }
    let cmd (op p f i a : Nat) (d : BitVec 512) : DCmd := { ticket := 5, ctx := 0, ictx := 0, region := none, word := w op p f i a, desc := d, started := true }
    let go (i : BitVec 6 → BitVec 2 → BitVec 8 → BitVec 8 → BitVec 32 → BitVec 64 → Instr) (p f im a : Nat) (s : State) : Bool := moves (i (BitVec.ofNat 6 p) 0 0 (BitVec.ofNat 8 f) (BitVec.ofNat 32 im) (BitVec.ofNat 64 a)) s
    let copyD : BitVec 512 := BitVec.ofNat 512 (0x10000 + 0x10800 * 2 ^ 64 + (2 ^ 32 + 128) * 2 ^ 128)
    let fillD : BitVec 512 := BitVec.ofNat 512 (0x10000 + 0xABCD * 2 ^ 64 + 64 * 2 ^ 128)
    let ramoD : BitVec 512 := BitVec.ofNat 512 (0x10000 + 0x10100 * 2 ^ 64 + 0x10200 * 2 ^ 128 + 0x10300 * 2 ^ 192 + (2 * 2 ^ 58 + 4) * 2 ^ 256)
    let rredD (b : Nat) : BitVec 512 := BitVec.ofNat 512 (0x10100 + 0x10000 * 2 ^ 64 + (4 + b) * 2 ^ 192)
    let pc (n : Nat) : Piece := { pa := 0x10000, key := 0, len := n, got := some (List.replicate n 1, false) }
    let ok (s : State) (c : DCmd) (va : Nat) (k : AccKind) : Bool := match s.cmdXlate c va k with
      | .ok _ x _ => x.rem.isNone
      | _ => false
    (let c := cmd 0x02 0 2 0 0 copyD
     ok (st c) c 0x10000 .read = true ∧ (((st c).edgeRead 0x10000 64 0).cause = .none ∧ ((st c).edgeRead 0x10000 64 0).logs.length = 0) ∧
     go .copy 0 2 0 0 (st c) = true ∧ go .copy 0 2 0 0 (st { c with buf := [{ ix := 0, ps := [pc 64], cv := some 0 }] }) = true ∧
     ((st c).edgeWrite 0x10800 (List.replicate 64 1) 0 { fill := true }).cause = .none ∧ go .copy 0 2 0 0 (st { c with prog := 2 }) = true ∧
     (let c := cmd 0x02 0 6 32 0 copyD
      go .copy 0 6 32 0 { st { c with prog := 2 } with slots := [(0, { st := .live, region := some 0, liveAt := [0] })] } = true)) ∧
    (let c := cmd 0x03 0 2 0 0 fillD
     go .fill 0 2 0 0 (st c) = true ∧ go .fill 0 2 0 0 (st { c with prog := 6 }) = true) ∧
    (let c := cmd 0x12 0 0 2 0x10000 0
     go .inject 0 0 2 0x10000 (st c) = true ∧ go .inject 0 0 2 0x10000 (st { c with buf := [{ ix := 0, ps := [{ pc 16 with got := some (List.replicate 16 0, false) }] }] }) = true ∧
     go .inject 0 0 2 0x10000 (st { c with buf := [{ ix := 0, ps := [{ pc 16 with got := some (List.replicate 16 0, true) }] }] }) = true ∧
     go .inject 0 0 2 0x10000 (st { c with buf := [{ ix := 0, ps := [pc 16] }] }) = true) ∧
    (let c := cmd 0x13 32 0 2 0x10000 0
     go .collect 32 0 2 0x10000 { st c with disps := [(0, { cmds := [c], ports := [(128, [{ kind := .done }])] })] } = true ∧
     go .collect 32 0 2 0x10000 (st { c with acted := true }) = true) ∧
    (let c := cmd 0x16 0 0 3 0x10000 0
     go .tload 0 0 3 0x10000 (st c) = true ∧ (st c).checkBad 0x10000 0 = false ∧ go .tload 0 0 3 0x10000 (st { c with buf := [{ ix := 0, ps := [pc 64], cv := some 0 }] }) = true ∧
     go .tload 0 0 3 0x10000 (st { c with prog := 1024 }) = true) ∧
    (let c := cmd 0x09 0 2 0 0 ramoD
     go .ramo 0 2 0 0 (st c) = true ∧ go .ramo 0 2 0 0 (st { c with buf := [{ ix := 0, ps := [{ pc 4 with got := some ([1, 0, 0, 0], false) }, pc 4] }] }) = true ∧
     (match (st c).walk ((st c).rootOf 0 0) 0x10004 .atomic with | (_, .leaf pte p, l) => decide (pte.getLsbD 8 = false ∧ p = 16 ∧ l.length = 0) | _ => false) = true ∧
     go .ramo 0 2 0 0 (st { c with buf := [{ ix := 0, ps := [pc 4] }], prog := 1 }) = true ∧ go .ramo 0 2 0 0 (st { c with prog := 4 }) = true) ∧
    (let c := cmd 0x0A 0 2 0 0 (rredD 0)
     go .rred 0 2 0 0 (st { c with buf := [{ ix := 0, ps := [pc 4] }] }) = true ∧ ((st c).edgeUpdate 0x10000 16 0 9 1 0 0 false).cause = .none ∧ go .rred 0 2 0 0 (st { c with prog := 4 }) = true ∧
     go .rred 0 2 0 0 (st { c with prog := 4, acted := true }) = true) ∧
    (let c := cmd 0x0A 0 2 0 0 (rredD (2 ^ 42 + 2 ^ 41))
     (readCell (cellOf (List.replicate 16 0) false) 0 (.flt fp32) 0).isSome = true ∧
     go .rredReadout 0 2 0 0 (st c) = true ∧ go .rredReadout 0 2 0 0 (st { c with prog := 4 }) = true) := by
  decide +kernel

/-- The bank of the manual's example: each operation on slot 4 of its table, with its result as the manual gives it. -/
theorem wit_TagOperations :
    let mt : W64 := 0x30F8A00000000000
    let w : W64 := BitVec.ofNat 64 (2 * 2 ^ 60 + 2 * 2 ^ 58 + 9 * 2 ^ 49 + 3 * 2 ^ 45)
    let st (e : TagEnt) (t : Token) : State := { host := { perst := false }, focus := { elem := 6 }, slots := [(0, { st := .live, liveAt := [mbayOf 6] })], cfgs := [(ckey 0 (mbayOf 6) 0, { words := [mt, w], routes := [(9, 0x40000000)] })], banks := [(6, { gsz := 2, gbase := 4, ilv := 1, owner := some 0, strm := some { ticket := 1, ctx := 0 }, chans := [(3, [t])], tags := [(4, e)] })] }
    let t (p : W64) : Token := { kind := .data, width := 0, payload := p }
    let sent (i : Instr) (s : State) : Nat := match exec i s with
      | .next v => ((v.link (bayOut 0 (mbayOf 6) 1)).map fun t => t.payload.toNat).headD 0
      | _ => 0
    (st {} (t 0)).halted 0 (mbayOf 6) 0 = false ∧
    sent (.tlook 0x1D) (st {} (t (keyed 0 0x1D))) = 0x40421200 ∧
    sent (.tlook 0x1D) (st { key := 0x1D, pend := true } (t (keyed 0 0x1D))) = 0x80421200 ∧
    sent (.tfill 0x1D) (st { key := 0x1D, pend := true } (t (keyed 1 0x1D))) = 0x00421200 ∧
    sent (.tlook 0x1D) (st { key := 0x1D, v := true } (t (keyed 0 0x1D))) = 0x00421200 ∧
    sent (.tfill 0x1D) (st {} (t (keyed 1 0x1D))) = 0xC0000000 ∧
    sent (.tevict 4) (st { key := 0x1D, v := true, dty := true } (t (keyed 2 0 ||| slotted 0 4))) = 0x30421200 ∧
    sent (.tpin 4) (st { key := 0x1D, v := true } (t (slotted 3 4))) = 0x00421200 ∧
    sent (.tunpin 4) (st { key := 0x1D } (t (slotted 4 4))) = 0xC0421200 ∧
    sent (.tdirty 4) (st { key := 0x1D, v := true } (t (slotted 5 4))) = 0x00421200 ∧
    sent (.tread 4) (st { key := 0x1D, v := true } (t (slotted 6 4))) = 0x800004000000001D ∧
    moves (.tlook 0x1D) (st {} { t (keyed 0 0x1D) with poison := true }) = true ∧
    moves .mportTokenArrival (st {} { t (keyed 7 0) with poison := true }) = true := by
  decide +kernel

/-- A bank with a request, with a parked read whose granule is full, with a word to apply; a stream in each mode; a window with an entry. -/
theorem wit_BanksStreamsAndUpdates :
    let st (ws : List W64) (b : Bank) : State := { host := { perst := false }, slots := [(0, { st := .live, liveAt := [mbayOf 0] })], cfgs := [(ckey 0 (mbayOf 0) 0, { words := ws, routes := [(0, 0x40000000)] })], banks := [(0, b)] }
    let req (op : BankOp) : BankReq := { op := op, boff := 64, size := 4, data := [1, 2, 3, 4], reply := .drop, ctx := 0 }
    let emp (s : State) : State := { s with mem := { empties := [(bankBase 0 0 + 64) / 16] } }
    let mp (mode k : Nat) : W64 := BitVec.ofNat 64 (2 * 2 ^ 60 + mode * 2 ^ 58 + 2 * 2 ^ 56 + k * 2 ^ 54 + 128 * 2 ^ 25 + 2 ^ 12)
    let m : MStream := { ticket := 1, ctx := 0, count := 4 }
    let tk (wd : BitVec 3) (p : W64) : Token := { kind := .data, width := wd, payload := p }
    ([BankOp.read, .write, .fillWrite, .empty, .syncKeep, .syncClr, .amo 0].all fun o => moves .bankRequestServe (st [] { q := [(1, [req o])] })) = true ∧
    moves .bankRequestServe (emp (st [] { q := [(1, [req .syncKeep])] })) = true ∧
    moves .parkedReadServe (st [] { parked := [req .syncKeep] }) = true ∧
    (let w := BitVec.ofNat 64 (2 ^ 60 + 2 ^ 57)
     moves .mbankApply (st [w] { mbPend := [(0, 0)], owner := some 0 }) = true ∧ moves .mbankApply (st [w ||| 0x1000000000000] { mbPend := [(0, 0)], owner := some 0 }) = true ∧
     moves .mbankApply { st [w] { mbPend := [(0, 0)], owner := some 3 } with slots := [(1, { st := .live, region := some 3, liveAt := [mbayOf 0] })] } = true) ∧
    (st [mp 0 0] { strm := some m }).halted 0 (mbayOf 0) 0 = false ∧
    moves .mportTokenArrival (st [mp 0 0] { strm := some m }) = true ∧ moves .mportTokenArrival (st [mp 0 0] { strm := some { m with k := 3, count := 40000000 }, gsz := 0 }) = true ∧
    moves .mportTokenArrival (st [mp 0 0] { strm := some { m with rob := [(0, some (7, false))] } }) = true ∧
    moves .mportTokenArrival (st [mp 1 0] { strm := some { m with rob := [(0, some (7, false))] } }) = true ∧
    moves .mportTokenArrival (st [mp 1 1] { strm := some m, chans := [(0, [tk 1 5])] }) = true ∧
    moves .mportTokenArrival (st [mp 1 1] { strm := some m, chans := [(0, [{ tk 1 5 with poison := true }])] }) = true ∧
    moves .mportTokenArrival (st [mp 0 0] { strm := some { m with ended := true } }) = true ∧
    moves .updateToken (st [mp 3 0] { strm := some m, chans := [(0, [tk 2 0x100000007])] }) = true ∧
    moves .updateToken (st [mp 3 0] { strm := some m, win := [{ boff := 132, ctx := 0, op := 0, w := 3 }], chans := [(0, [tk 2 0x100000007])] }) = true ∧
    moves .updateToken (st [mp 3 1] { strm := some m, chans := [(0, [tk 2 0x100000007])] }) = true ∧
    moves .updateToken (st [mp 3 0] { strm := some m, chans := [(0, [tk 2 0xFFFFFFFF00000007])] }) = true ∧
    moves .updateToken (st [mp 3 0] { strm := some m, chans := [(0, [tk 1 7])] }) = true ∧
    moves .updateToken (st [mp 3 0] { strm := some m, chans := [(0, [{ tk 2 0x100000007 with poison := true }])] }) = true ∧
    moves .updateWindowExpiry (st [] { win := [{ boff := 128, ctx := 0, op := 0, w := 7 }] }) = true ∧
    moves .updateWindowExpiry (st [] { win := [{ boff := 128, ctx := 0, op := 9, sum := 7 }] }) = true := by
  decide +kernel

/-- The words of the manual at the head of a control channel, in a context that holds slots and a quarter, and in one that holds nothing. -/
theorem wit_GalleryControlWords :
    let st (c : GCtx) (w : W64) : State := { host := { perst := false }, gals := [(0, { slots := [(2, { held := some 0 }), (3, { held := some 0 }), (4, { held := some 0 })], quarters := [(0, 0)], ctxs := [(0, { c with words := [{ kind := .data, payload := w }] })] })] }
    let ran (i : Instr) (s : State) : Bool := match exec i s with
      | .next v => (v.galCtx 0 0).words.length == 0 && !(v.galCtx 0 0).stopped
      | _ => false
    let stopped (i : Instr) (s : State) : Bool := match exec i s with
      | .next v => (v.galCtx 0 0).words.length == 0 && (v.galCtx 0 0).stopped
      | _ => false
    (st {} 0).halted 0 80 0 = false ∧
    ran (.gclaim 7 1) (st {} 0x0000000071000000) = true ∧ ran (.grelease 7 1) (st {} 0x1000000071000000) = true ∧
    moves (.grelease 7 1) (st { queue := List.replicate 32 (.clear 0 1) } 0x1000000071000000) = false ∧
    ran (.gshape 40 20) (st {} 0x3140500000000000) = true ∧ ran (.ganchor 0xFFC) (st {} 0x4FFC000000000000) = true ∧ ran (.gscale 2 0) (st {} 0xB100000000000000) = true ∧
    ran (.gbslotB 2) (st {} 0x2080000000000000) = true ∧ stopped (.gbslotB 1) (st {} 0x2040000000000000) = true ∧ stopped (.gbslotB 3) (st { bfmt := 6 } 0x20C0000000000000) = true ∧
    ran (.gbslotA 2 2 0 0) (st { bslot := some 3, scale := some (4, 0) } 0x2880400000000000) = true ∧ stopped (.gbslotA 0 2 0 0) (st { bslot := some 3, scale := some (4, 0) } 0x2800400000000000) = true ∧
    stopped (.gbslotA 2 2 0 0) (st { scale := some (4, 0) } 0x2880400000000000) = true ∧
    ran (.gclear 0 2) (st {} 0x5000100000000000) = true ∧ stopped (.gclear 0x80 2) (st {} 0x5800100000000000) = true ∧
    ran (.grdfmt 0 0 1) (st {} 0x6020000000000000) = true ∧
    ran (.groute 0 1 3 6 1 0 0 0) (st {} 0x905B400000000000) = true ∧
    ran (.gdrain 0 2 1 0xA5) (st { routes := [(0, 0x905B400000000000)] } 0x7000100008052800) = true ∧ stopped (.gdrain 0 2 1 0xA5) (st {} 0x7000100008052800) = true ∧
    ran (.gsteer 1) (st {} 0x8000100000000000) = true ∧ ran (.gfmt 6 6) (st {} 0xA660000000000000) = true ∧
    ran (.gfence 1 0xAB) (st {} 0xC100AB0000000000) = true ∧ ran (.gstatus 0 1 0) (st {} 0xD080000000000000) = true ∧
    hallBeside 63 1 = none ∧
    (match exec (.groute 0 2 3 6 1 0 0 0) { st {} 0 with focus := { hall := 63 }, gals := [(63, { ctxs := [(0, { words := [{ kind := .data, payload := 0x909B400000000000 }] })] })] } with
     | .next v => (v.galCtx 63 0).stopped
     | _ => false) = true := by
  decide +kernel

/-- Tokens at both sides of a gallery, each kind of control token, a claim in front, each kind of entry at the head of a queue, a line at the
load port, and a row that is ready. -/
theorem wit_GalleryWork :
    let gs (c : GCtx) : Gal := { slots := [(2, { held := some 0 })], quarters := [(0, 0)], ctxs := [(0, c)] }
    let st (c : GCtx) : State := { host := { perst := false }, slots := [(0, { st := .live, liveAt := [80] })], gals := [(0, gs c)] }
    let tk (ch : Nat) : Token := { kind := .data, chan := BitVec.ofNat 4 ch }
    let edge (e d : Nat) (t : Token) : State := { st {} with links := [(lkey 0 e d, [t])], focus := { elem := e, idx := d } }
    let claims (p : Nat) (s : State) : State := { s with disps := [(0, { cmds := [{ ticket := 1, ctx := 0, ictx := 0, region := none, word := BitVec.ofNat 128 (p * 2 ^ 114) }] })] }
    let ctl (c : GCtx) (t : Token) : State := st { c with words := [t] }
    let mk (l : Nat) : Token := { kind := .marker, level := BitVec.ofNat 3 l }
    (hallBeside 0 1).isSome = true ∧ hallBeside 63 1 = none ∧
    moves .galleryCrossing (edge 80 3 (tk 2)) = true ∧ moves .galleryCrossing (edge 80 3 (tk 15)) = true ∧ moves .galleryCrossing (claims 40 (edge 80 3 (tk 2))) = true ∧
    moves .galleryCrossing (edge 80 1 (tk 2)) = true ∧ moves .galleryCrossing (edge 88 3 (tk 2)) = true ∧ moves .galleryCrossing (claims 32 (edge 88 3 (tk 2))) = true ∧
    ([mk 0, mk 2, mk 3, tk 15, { kind := .stop }, { kind := .data, width := 1 }, { kind := .data, poison := true }, { kind := .data, payload := 0xF000000000000000 }].all fun t =>
      moves .galleryMarker (ctl { steer := some 1 } { t with payload := t.payload ||| 0xF000000000000000 })) = true ∧
    moves .galleryMarker (ctl { stopped := true } (tk 15)) = true ∧ moves .galleryMarker (ctl { queue := [.clear 0 1] } (mk 0)) = false := by
  decide +kernel
/-- The queue, the load port and the rows. -/
theorem wit_GalleryWork_queue :
    let gs (c : GCtx) : Gal := { slots := [(2, { held := some 0 })], quarters := [(0, 0)], ctxs := [(0, c)] }
    let st (c : GCtx) : State := { host := { perst := false }, slots := [(0, { st := .live, liveAt := [80] })], gals := [(0, gs c)] }
    let tk (ch : Nat) : Token := { kind := .data, chan := BitVec.ofNat 4 ch }
    let claims (p : Nat) (s : State) : State := { s with disps := [(0, { cmds := [{ ticket := 1, ctx := 0, ictx := 0, region := none, word := BitVec.ofNat 128 (p * 2 ^ 114) }] })] }
    let q (e : GEnt) (run : Option GRun) : State := st { queue := [e], run := run, routes := [(0, 0x905B400000000000)] }
    let dr : GEnt := .drain 0 2 1 0xA5 4 0 0 true [(0, 0x905B400000000000)] {}
    moves .gclaimGrant (st { claim := some (3, 2, 0) }) = true ∧
    moves .greleaseExecute (q (.release 4 1) none) = true ∧ moves .gclearExecute (q (.clear 0 1) none) = true ∧ moves .gfenceExecute (q (.fence none 0 {}) none) = true ∧
    moves .gfenceExecute (q (.fence (some 0) 5 {}) none) = true ∧ moves .gfenceExecute (q (.fence (some 1) 0 {}) none) = true ∧ moves .gstatusExecute (q (.status 0 false true {}) none) = true ∧
    moves .gdrainExecute (q dr none) = true ∧ moves .gdrainExecute (q dr (some {})) = true ∧ moves .gdrainExecute (q dr (some { next := 2 })) = true ∧
    moves .gdrainExecute (q dr (some { next := 2, marked := true })) = true ∧ moves .gdrainExecute (q dr (some { outs := [(0, tk 0)] })) = true ∧
    moves .operandLineWrite { st {} with gals := [(0, { gs {} with port := [{ ticket := 1, ctx := 0, slot := 2, line := 3, bytes := List.replicate 64 7, marks := 5 }] })] } = true ∧
    moves .operandLineWrite (claims 0 { st {} with gals := [(0, { gs {} with port := [{ ticket := 1, ctx := 0, slot := 9, line := 3, bytes := [], marks := 5 }] })] }) = true ∧
    moves .galleryRowFire (q (.a 2 2 0 false 0 4 6 6 0 4 none 0) none) = false := by
  decide +kernel
/-- A gallery with an entry whose row is ready where the lines of its B slots are all present. -/
def tGal (p : List Nat) : Gal :=
  { slots := [(2, { held := some 0, present := [0] }), (4, { held := some 0, present := p }), (5, { held := some 0, present := p })]
    quarters := [(0, 0)], ctxs := [(0, { queue := [.a 2 1 0 false 4 1 6 6 0 4 none 0] })] }
theorem wit_GalleryWork_row (p : List Nat) (h : (List.range 1024).all p.contains = true) :
    (tGal p).rowReady 2 0 4 6 6 4 none = true ∧ (tGal p).faulty = [] := by
  have v : GSlot.valid { held := some 0, present := p } = true := h
  have s2 : (tGal p).slot 2 = { held := some 0, present := [0] } := rfl
  have s4 : (tGal p).slot 4 = { held := some 0, present := p } := rfl
  have s5 : (tGal p).slot (4 + 1) = { held := some 0, present := p } := rfl
  refine ⟨?_, rfl⟩
  unfold Gal.rowReady
  simp only [s2, s4, s5, v]
  decide +kernel
theorem wit_GalleryWork_rowReady : (tGal (List.range 1024)).rowReady 2 0 4 6 6 4 none = true :=
  (wit_GalleryWork_row _ (by simp [List.all_eq_true])).1

/-- The page 5 of this package's export space: its own HBM at 0x10000, with every permission, under key slot 0. -/
def tPeer (p : Packet) : State :=
  { host := { perst := false }, arc := { en := true, pid := 1, impn := 16, impCache := [(5, 0x1009D)], inbox := [p] } }
/-- A request of peer 2. -/
def tAsk (ty : Nat) (b : Nat) : Packet := { ptype := ty, dst := 1, src := 2, shall := 3, sport := 4, tag := 9, addr := 0x50040, body := BitVec.ofNat 480 b }
/-- A line of zeros with its check value. -/
def tLine : Nat × BitVec 4 × W32 × List Byte := (0, 0, crc32c (zeros 64), zeros 64)

/-- Requests of each type: in turn, admitted and refused, out of turn, from a dead peer, and of another type. -/
theorem wit_ArcadeOwner :
    let dead (s : State) : State := { s with arc := { s.arc with dead := [2] } }
    let admits (s : State) (n : Nat) (k : AccKind) : Bool := match (s.admitRange 2 0 0x50040 n k).2 with
      | .ok x => x == (0x10040, 0)
      | _ => false
    ([(Instr.rreq, 1, 0), (.wreq, 2, 4 * 2 ^ 32), (.areq, 3, 0x20 * 2 ^ 32), (.cred, 4, 1 * 2 ^ 128), (.rdreq, 7, (2 ^ 56 * 4) * 2 ^ 64 + 128 * 2 ^ 128)].all fun t =>
      let p := { tAsk t.2.1 t.2.2 with lines := [tLine] }
      moves t.1 (tPeer p) && moves t.1 (tPeer { p with addr := 0x210040 }) && moves t.1 (dead (tPeer p)) && !moves t.1 (tPeer { p with seq := 1 }) && !moves t.1 (tPeer { p with ptype := 13 })) = true ∧
    admits (tPeer (tAsk 1 0)) 64 .read = true ∧ admits (tPeer (tAsk 1 0)) 64 .write = true ∧ admits (tPeer (tAsk 1 0)) 16 .atomic = true ∧
    moves .areq (tPeer (tAsk 3 0)) = true ∧ moves .cred (tPeer { tAsk 4 0 with addr := 0x50048 }) = true ∧ moves .reservedPacketDiscard (tPeer (tAsk 0 0)) = true ∧
    spaceOf 0x10040 = .hbm ∧ (tPeer (tAsk 2 0)).edgeRefuses 0x10040 0 0 = .none ∧ ((tPeer (tAsk 2 0)).keyPair 0).isSome = true ∧ (tPeer (tAsk 2 0)).retiredAt 0x10040 = false := by
  decide +kernel

/-- A `cred` with a record that holds member counts for its round. -/
theorem wit_ArcadeCredRecord :
    let rec_ : List Host.Cell := [(0x10000000086, 2), (0x10000000096, 2), (0x100000000A6, 2), (0x100000000B6, 2)]
    let p := tAsk 4 ((0x10 * 2 ^ 32) + 0x60080 * 2 ^ 64)
    let q (s : State) : State := { s with arc := { s.arc with impCache := [(5, 0x1009D), (6, 0x1000000009D)] } }
    let s : State := { q (tPeer p) with mem := { cells := rec_ } }
    (match s.readRecord { pa := 0x10000000080, key := 0 } 0 with
      | .ok _ => moves .cred s
      | .error _ => false) = true ∧
    (match (q (tPeer p)).readRecord { pa := 0x10000000080, key := 0 } 0 with
      | .error _ => moves .cred (q (tPeer p))
      | .ok _ => false) = true := by
  decide +kernel

/-- Lanes of a port: one fails; a port with a healthy half, and one with none; registrations admitted and not; a watch of a peer's line. -/
theorem wit_ArcadeLanes :
    let f (l : List Nat) : State := { arc := { ports := [(2, { up := false, failed := l, kept := [(7, 5)] })] }, focus := { elem := 2, idx := 3 } }
    let g (a : W64) : State := { tPeer (tAsk 1 0) with focus := { idx := 2, aux := 9, val := a } }
    let w : State := { threads := [(0, { m := [(3, { armed := true, peer := some 4 })] })], focus := { idx := 3 } }
    moves .laneFailure {} = true ∧ moves .portRetrained (f [5]) = true ∧ moves .portRetrained (f [1]) = true ∧ moves .portRetrained (f []) = true ∧ moves .portRetrained (f [1, 5]) = false ∧
    moves .peerLineRegistration (g 0x50040) = true ∧ moves .peerLineRegistration (g 0x210040) = true ∧ moves .arcadeInvalidation w = true := by
  decide +kernel

/-- The low bits of a flit are its body's. -/
theorem flit_low (p : BitVec 96) (b : BitVec 1952) : (p ++ b).extractLsb' 0 1952 = b := by
  apply BitVec.eq_of_getLsbD_eq
  intro i hi
  refine (BitVec.getLsbD_extractLsb' ..).trans ?_
  simp only [hi, decide_true, Bool.true_and, Nat.zero_add]
  exact (BitVec.getLsbD_append (x := p) (y := b)).trans (by simp [hi])

/-- The bits of a flit below its parity are its body's. -/
theorem flit_bits (p : BitVec 96) (b : BitVec 1952) (h l : Nat) (hh : h < 1952) (hl : l ≤ h) : bitsN (p ++ b) h l = bitsN b h l := by
  simp only [bitsN, BitVec.toNat_append, Nat.shiftLeft_eq]
  have h1 : p.toNat * 2 ^ 1952 ||| b.toNat = 2 ^ 1952 * p.toNat + b.toNat := by
    rw [Nat.mul_comm]
    exact (Nat.two_pow_add_eq_or_of_lt b.isLt p.toNat).symm
  have h2 : 2 ^ 1952 * p.toNat = 2 ^ l * (2 ^ (h + 1 - l) * (2 ^ (1951 - h) * p.toNat)) := by
    rw [← Nat.mul_assoc, ← Nat.mul_assoc, ← Nat.pow_add, ← Nat.pow_add]
    congr 2
    omega
  rw [h1, h2, Nat.mul_add_div (Nat.two_pow_pos l), Nat.mul_add_mod]

/-- A CRC-64 has 64 bits. -/
theorem crc64_lt (bs : List Byte) : crc64 bs < 2 ^ 64 := by
  have hb : ∀ n c, c < 2 ^ 64 → crc64Bits n c < 2 ^ 64 := by
    intro n
    induction n with
    | zero => exact fun c h => h
    | succ n ih =>
      intro c _
      refine ih _ ?_
      have hd : c * 2 % 2 ^ 64 < 2 ^ 64 := Nat.mod_lt _ (Nat.two_pow_pos 64)
      split
      · exact Nat.xor_lt_two_pow hd (by decide)
      · exact hd
  have hr : ∀ (l : List Byte) c, c < 2 ^ 64 → crc64Run l c < 2 ^ 64 := by
    intro l
    induction l with
    | nil => exact fun c h => h
    | cons b t ih =>
      intro c h
      refine ih _ (hb 8 _ (Nat.xor_lt_two_pow h ?_))
      have := b.isLt
      omega
  exact Nat.xor_lt_two_pow (hr bs _ (by decide)) (by decide)

/-- A number below a power of two, shifted. -/
theorem mul_pow_lt (c a b : Nat) (h : c < 2 ^ a) : c * 2 ^ b < 2 ^ (a + b) := by
  rw [Nat.pow_add]
  exact (Nat.mul_lt_mul_right (Nat.two_pow_pos b)).2 h

/-- Two numbers side by side below a power of two. -/
theorem add_mul_pow_lt (b c m n : Nat) (hb : b < 2 ^ m) (hc : c < 2 ^ n) : b + c * 2 ^ m < 2 ^ (m + n) := by
  have h := Nat.mul_le_mul_right (2 ^ m) (Nat.succ_le_of_lt hc)
  rw [Nat.succ_mul, Nat.mul_comm (2 ^ n), ← Nat.pow_add] at h
  omega

/-- The fields of a flit below its CRC are those of its lower part. -/
theorem flit_lower (b c h l : Nat) (hb : b < 2 ^ 1888) (hc : c < 2 ^ 64) (hh : h < 1888) (hl : l ≤ h) :
    bitsN (BitVec.ofNat 1952 (b + c * 2 ^ 1888)) h l = b / 2 ^ l % 2 ^ (h + 1 - l) := by
  have hm : b + c * 2 ^ 1888 < 2 ^ 1952 := add_mul_pow_lt b c 1888 64 hb hc
  simp only [bitsN, BitVec.toNat_ofNat, Nat.mod_eq_of_lt hm]
  rw [show c * 2 ^ 1888 = 2 ^ l * (2 ^ (h + 1 - l) * (c * 2 ^ (1887 - h))) from by
      rw [show 1888 = l + ((h + 1 - l) + (1887 - h)) from by omega, Nat.pow_add, Nat.pow_add, Nat.mul_left_comm, Nat.mul_left_comm c],
    Nat.add_mul_div_left _ _ (Nat.two_pow_pos l), Nat.add_mul_mod_self_left]

/-- A flit is good exactly where its CRC field holds the CRC-64 of what is below. -/
theorem flit_of (b c : Nat) (hb : b < 2 ^ 1888) (hc : c < 2 ^ 64) :
    let f : BitVec 2048 := fecParity (BitVec.ofNat 1952 (b + c * 2 ^ 1888)) ++ BitVec.ofNat 1952 (b + c * 2 ^ 1888)
    (fecCorrect f).1 = f ∧ flitGood f = (crc64 (leBytes 236 b) == c) ∧ (linkHdr f).fseq = b / 2 ^ 52 % 2 ^ 12 ∧ (linkHdr f).cred = b / 2 ^ 28 % 2 ^ 8 := by
  have hm : b + c * 2 ^ 1888 < 2 ^ 1952 := add_mul_pow_lt b c 1888 64 hb hc
  have h1 : bitsN (BitVec.ofNat 1952 (b + c * 2 ^ 1888)) 1887 0 = b := by
    rw [flit_lower b c 1887 0 hb hc (by decide) (by decide), Nat.pow_zero, Nat.div_one]
    exact Nat.mod_eq_of_lt hb
  have h2 : bitsN (BitVec.ofNat 1952 (b + c * 2 ^ 1888)) 1951 1888 = c := by
    simp only [bitsN, BitVec.toNat_ofNat, Nat.mod_eq_of_lt hm]
    rw [Nat.add_mul_div_right _ _ (Nat.two_pow_pos 1888), Nat.div_eq_of_lt hb, Nat.zero_add]
    exact Nat.mod_eq_of_lt hc
  refine ⟨by simp only [fecCorrect, flit_low, if_true], ?_, ?_, ?_⟩
  · simp only [flitGood, flit_bits _ _ 1887 0 (by decide) (by decide), flit_bits _ _ 1951 1888 (by decide) (by decide), h1, h2]
  · simp only [linkHdr, flit_bits _ _ 63 52 (by decide) (by decide), flit_lower b c 63 52 hb hc (by decide) (by decide)]
  · simp only [linkHdr, flit_bits _ _ 35 28 (by decide) (by decide), flit_lower b c 35 28 hb hc (by decide) (by decide)]

/-- A received flit that is good, in order and gives a credit; one that is good and gives nothing; one that is not good. -/
theorem wit_ArcadeFlits : ∃ good bare bad : BitVec 2048, flitGood (fecCorrect good).1 = true ∧ (linkHdr (fecCorrect good).1).fseq = 0 ∧ (linkHdr (fecCorrect good).1).cred ≠ 0 ∧
    flitGood (fecCorrect bare).1 = true ∧ (linkHdr (fecCorrect bare).1).cred = 0 ∧ flitGood (fecCorrect bad).1 = false := by
  have hg := flit_of (2 ^ 28) _ (Nat.pow_lt_pow_right (by decide) (by decide)) (crc64_lt (leBytes 236 (2 ^ 28)))
  have hz := flit_of 0 _ (Nat.two_pow_pos 1888) (crc64_lt (leBytes 236 0))
  have hb := flit_of 0 ((crc64 (leBytes 236 0) + 1) % 2 ^ 64) (Nat.two_pow_pos 1888) (Nat.mod_lt _ (Nat.two_pow_pos 64))
  have hl := crc64_lt (leBytes 236 0)
  refine ⟨_, _, _, (congrArg flitGood hg.1).trans (hg.2.1.trans (by simp)), (congrArg (fun f => (linkHdr f).fseq) hg.1).trans (hg.2.2.1.trans (by decide)), ?_,
    (congrArg flitGood hz.1).trans (hz.2.1.trans (by simp)), (congrArg (fun f => (linkHdr f).cred) hz.1).trans (hz.2.2.2.trans (by decide)),
    (congrArg flitGood hb.1).trans (hb.2.1.trans (by simp only [beq_eq_false_iff_ne]; omega))⟩
  rw [congrArg (fun f => (linkHdr f).cred) hg.1, hg.2.2.2]
  decide

/-- This package with one packet outstanding under tag 9 to peer 2, and the answer. -/
def tAnswer (w : Waiter) (p : Packet) : State :=
  { arc := { en := true, pid := 1, outst := [{ tag := 9, peer := 2, hall := 0, sport := 0, cls := 0, who := w }], inbox := [{ p with src := 2, dst := 1, tag := 9 }] } }

/-- Answers of both types to each that can wait; refused ones; ones nobody waits for, and from a dead peer. -/
theorem wit_ArcadeAnswers :
    let park (s : State) : State := { s with threads := [(0, { parked := true, live := true })] }
    let q : Piece := { pa := 0, key := 0, len := 8, tag := some 9 }
    let e : Elem := { ser := 0, ctx := 0, va := 0, n := 8, idx := 0, coord := 0, kind := .read, ps := [q] }
    let st (s : State) : State := { s with stairs := [(0, { out := [.el e], unacked := 1, remw := [(9, [e])] })] }
    let dc (op : Nat) (s : State) : State := { s with disps := [(0, { cmds := [{ ticket := 1, ctx := 0, ictx := 0, region := none, word := BitVec.ofNat 128 (op * 2 ^ 120), waitAcks := 1, buf := [{ ix := 0, ps := [q] }] }] })] }
    let dead (s : State) : State := { s with arc := { s.arc with dead := [2] } }
    let r : Packet := { ptype := 5, dst := 1, lines := [tLine] }
    let no (p : Packet) : Packet := { p with body := 3 }
    let w : Packet := { ptype := 6, dst := 1 }
    ([park (tAnswer (.thread 0 0 0 8) r), { tAnswer (.load 0 0 3 0 8 false) r with threads := [(0, { loads := [3], live := true })] }, park (tAnswer (.thread 0 0 0 8) (no r)), st (tAnswer (.stairRead 0 0) r), st (tAnswer (.stairRead 0 0) (no r)), dc 2 (tAnswer (.cmd 0 1) r), dc 2 (tAnswer (.cmd 0 1) (no r)),
      dead (tAnswer (.thread 0 0 0 8) r)].all fun s => moves .rresp s) = true ∧
    ([park (tAnswer (.write 0 0) w), park (tAnswer (.amo 0 0 8) w), park (tAnswer (.amo 0 0 8) (no w)), st (tAnswer (.stairWrite 0 0) w), dc 3 (tAnswer (.cmd 0 1) w), dc 3 (tAnswer (.cmd 0 1) (no w)), dc 9 (tAnswer (.cmd 0 1) w)].all
      fun s => moves .wack s) = true ∧
    moves .rresp { tPeer { ptype := 5, dst := 1, src := 2 } with threads := [] } = true ∧ tLine.2.2.2.length = 64 ∧ tLine.2.1 = 0 := by
  decide +kernel

/-- A timeout of a parked load, and the broadcast of a bit that another hall has set. -/
theorem wit_DeadPeers :
    let s := { tAnswer (.thread 0 0 0 8) { ptype := 5, dst := 1 } with threads := [(0, { parked := true, live := true })] }
    let b (h : Nat) (l : List Nat) : State := { arc := { dead := l }, focus := { hall := h, idx := 2 } }
    s.isDead 0 2 = false ∧ moves .sourceTimeout s = true ∧ moves .deadPeerBroadcast (b 1 [2]) = true ∧ moves .deadPeerBroadcast (b 0 [2]) = false ∧ moves .deadPeerBroadcast (b 1 []) = false := by
  decide +kernel

/-- This package with one `rdfor` whose tag is 9, and a packet about it. -/
def tRdfor (r : Rdfor → Rdfor) (p : Packet) : State :=
  { arc := { en := true, pid := 1, inbox := [{ p with src := 2, dst := 1, tag := 9 }]
             rdfors := [r { hall := 0, ticket := 1, port := 3, tag := 9, owner := 2, rcpt := 4, grp := false, stat := 0x10000, statKey := 0 }] }
    disps := [(0, { cmds := [{ ticket := 1, ctx := 0, ictx := 0, region := none, word := 0, started := true }] })], focus := { idx := 0 } }

/-- A `rdfor` before and after each of its answers, for one recipient and for a group, and its timer. -/
theorem wit_RdforAnswers :
    let p (ty : Nat) : Packet := { ptype := ty, dst := 1 }
    let sent : Rdfor → Rdfor := fun r => { r with sent := true }
    let acked : Rdfor → Rdfor := fun r => { r with ackS := some 0 }
    let grp : Rdfor → Rdfor := fun r => { r with grp := true }
    let timer (f : Rdfor → Rdfor) : State := { tRdfor f (p 9) with focus := { idx := 1 } }
    ((tRdfor id (p 9)).rdfor 0 1).isSome = true ∧
    ([tRdfor id (p 9), tRdfor acked (p 9)].all fun s => moves .rdsent s) = true ∧ moves .rdflt (tRdfor id { p 10 with body := 2 }) = true ∧
    ([tRdfor id (p 11), tRdfor sent (p 11), tRdfor grp (p 11)].all fun s => moves .rdack s) = true ∧
    ([tRdfor id (p 12), tRdfor grp (p 12), tRdfor (sent ∘ grp) (p 12)].all fun s => moves .gack s) = true ∧
    moves .rdforTimeout (timer id) = true ∧ moves .rdforTimeout (timer sent) = true := by
  decide +kernel

/-- A window of four lines of scratchpad, and a packet for it. -/
def tWindow (w : RWindow → RWindow) (p : Packet) : State :=
  { arc := { en := true, pid := 1, inbox := [{ p with src := 2, dst := 1 }]
             wins := [(7, w { pa := 0x10000000000, va := 0x20000, lines := 4, adm := 0, apeer := 2, port := none, hall := 0, ctx := 0, cls := 0, region := 0, kslot := 0 })] } }
/-- A packet of one line for window 7, of a delivery of some lines, from line 1 on. -/
def tDelivery (total : Nat) : Packet := { ptype := 8, dst := 1, lines := [tLine], body := bodyPut (bodyPut (bodyPut (bodyPut 2 2 1 7) 8 4 1) 12 4 1) 16 4 total }

/-- Deliveries admitted, refused and ended, with and without a port; `wabort`; windows opened and closed. -/
theorem wit_Windows :
    let port : RWindow → RWindow := fun w => { w with port := some 3 }
    let mine : RWindow → RWindow := fun w => { w with closer := some (0, 1) }
    let del : RWindow → RWindow := fun w => { w with dels := [{ rq := 2, tag := 0, line0 := 1, nlines := 2, got := [1] }] }
    let ab : Packet := { ptype := 13, dst := 1, body := bodyPut 0 2 1 7 }
    let cmd (op imm : Nat) (s : State) : State := { s with disps := [(0, { cmds := [{ ticket := 1, ctx := 0, ictx := 0, region := none, started := true, word := BitVec.ofNat 128 (op * 2 ^ 120 + imm * 2 ^ 64) }] })], focus := { idx := 1 } }
    (tWindow id (tDelivery 1)).windowAdmits { pa := 0, va := 0, lines := 4, adm := 0, apeer := 2, port := none, hall := 0, ctx := 0, cls := 0, region := 0, kslot := 0 } 2 = true ∧
    ([tWindow id (tDelivery 1), tWindow id (tDelivery 2), tWindow id (tDelivery 9), tWindow port (tDelivery 1), { tWindow id (tDelivery 1) with arc := { (tWindow id (tDelivery 1)).arc with wins := [] } }].all fun s => moves .rdwr s) = true ∧
    ([tWindow id ab, tWindow del ab, tWindow (port ∘ del) ab].all fun s => moves .wabort s) = true ∧
    moves (.rwin 0 0 0 0 0x08000003 0) (cmd 7 0x08000003 {}) = true ∧ moves (.rwin 0 0 0 0 0x07000003 0) (cmd 7 0x07000003 (tWindow id ab)) = true ∧
    ([tWindow mine ab, tWindow (mine ∘ del) ab, tWindow id ab].all fun s => moves (.rwclose 0 0 0 0 0x07000000 0) (cmd 8 0x07000000 s)) = true := by
  decide +kernel

/-- A `rdfor` whose source and record are local, in a package that answers its own request. -/
theorem wit_RdforSent :
    let d : BitVec 512 := BitVec.ofNat 512 (0x10040 + 0x10100 * 2 ^ 192 + 64 * 2 ^ 128)
    let s : State := { mem := { cells := tTables }, focus := { idx := 1 }, disps := [(0, { cmds := [{ ticket := 1, ctx := 0, ictx := 0, region := some 0, started := true, desc := d, word := BitVec.ofNat 128 (6 * 2 ^ 120) }] })], slots := [(0, { st := .live, region := some 0 })], regions := [{ rcb := 0x10000, rroot := 64, pctx := none, hdl := 1, eff := { root := 64 } }] }
    moves (.rdfor 0 0 0 0 0 0) s = true ∧ (match exec (.rdfor 0 0 0 0 0 0) s with
      | .next v => v.arc.rdfors.length == 1
      | _ => false) = true := by
  decide +kernel

/-- Commands of `cfgload` on a slot that is live, that is empty, and that has read a granule; a placement of a region of one hall with no image;
a launch token that is refused. -/
theorem wit_ImagesAndPlacement :
    let cmd (c : DCmd → DCmd) (st : SlotSt) : State := { mem := { cells := tTables }, focus := { idx := 1 }, disps := [(0, { cmds := [c { ticket := 1, ctx := 0, ictx := 0, region := some 0, started := true, word := BitVec.ofNat 128 (0x0E * 2 ^ 120 + 2 ^ 64 + 0x10000) }] })], slots := [(0, { st := .live, region := some 0 }), (1, { st := st })], regions := [{ rcb := 0x10000, rroot := 64, pctx := none, hdl := 1, eff := { root := 64 } }] }
    let ins := Instr.cfgload 0 0 0 0 1 0x10000
    let one : DCmd → DCmd := fun c => { c with acted := true }
    let pl (pw : Nat) : State := { mem := { cells := tTables }, host := { pwr := pw, perst := false }, regions := [{ rcb := 0x10000, rroot := 64, pctx := none, hdl := 1, state := 1, own := { entry := 0x10000, image := 0x10100 }, eff := { root := 64 } }], pool := [(1, 0)] }
    let lt (v : Nat) : State := { cmd id .empty with ltoks := [(0, [{ bay := 0, ctx := 0, tok := { kind := .data, payload := BitVec.ofNat 64 v } }])] }
    moves ins (cmd id .live) = true ∧ moves ins (cmd id .empty) = true ∧ moves ins (cmd one .empty) = true ∧
    (match exec .placement (pl 0) with
      | .next v => (v.region 0).state == 2 && (v.thr ((v.region 0).hallOf 0) ((v.region 0).phys 0)).live && ((v.slot ((v.region 0).hallOf 0) ((v.region 0).phys 0)).liveAt.length == 81)
      | _ => false) = true ∧ moves .placement (pl 1) = false ∧
    moves .launchToken (lt 0x100) = true ∧ moves .launchToken (lt 0x10000000) = true := by
  decide +kernel

/-- A launch token whose RCB is good. -/
theorem wit_LaunchTokenEnqueues :
    let s : State := { tLaunch with slots := [(0, { st := .live, region := some 0 })], regions := [{ rcb := 0x10000, rroot := 64, pctx := some (0, 0), hdl := 0x1000, state := 2, eff := { root := 64, lbase := 0x10000 } }], pool := [(0, 0)], ltoks := [(0, [{ bay := 0, ctx := 0, tok := { kind := .data, payload := 0 } }])] }
    (match exec .launchToken s with
      | .next v => v.regions.length == 2 && (Tab.get v.ltoks 0 []).length == 0
      | _ => false) = true := by
  decide +kernel

/-- Switch markers at each kind of element; a switch that is ready and one that is not; a region that is complete and one that is not. -/
theorem wit_SwitchesAndCompletion :
    let m : Token := { kind := .marker, level := 1, payload := 1 }
    let gal : State := { host := { perst := false }, slots := [(0, { st := .live, liveAt := [80] })], gals := [(0, { ctxs := [(0, { words := [m] })] })], focus := { elem := 80 } }
    let sw (x : HSlot) (c : List DCmd) : State := { slots := [(0, x)], disps := [(0, { cmds := c })] }
    let r (t : Thread) : State := { mem := { cells := tTables }, threads := [(0, t)], slots := [(0, { st := .live, region := some 0 })], regions := [{ rcb := 0x10000, rroot := 64, pctx := none, hdl := 1, state := 2, smap := [0], eff := { root := 64 } }], pool := [(1, 0)] }
    moves .switchMarker { tHandler m with focus := { idx := 1 } } = true ∧ moves .switchMarker gal = true ∧
    moves .switchCompletion (sw { st := .live, switchTo := some 1 } []) = true ∧ moves .switchCompletion (sw { st := .live, switchTo := some 0 } []) = true ∧
    moves .switchCompletion (sw { st := .live, switchTo := some 1 } [{ ticket := 1, ctx := 0, ictx := 0, region := none, word := BitVec.ofNat 128 (0x0F * 2 ^ 120) }]) = false ∧
    moves .regionCompletion (r { live := true, inWfi := true }) = true ∧ moves .regionCompletion (r { live := true }) = false := by
  decide +kernel

/-- A switch marker at a stair that reads and at one that writes, at an M-bay's stream and at an S-bay. -/
theorem wit_SwitchMarkerElsewhere :
    let m : Token := { kind := .marker, level := 1, payload := 1 }
    let st (w : W64) : State := { host := { perst := false }, slots := [(0, { st := .live, liveAt := [64] })], stairs := [(0, { chans := [(3, [m])] })], cfgs := [(ckey 0 64 0, { words := [w] })], focus := { elem := 64, idx := 3 } }
    let mb : State := { host := { perst := false }, slots := [(0, { st := .live, liveAt := [mbayOf 0] })], cfgs := [(ckey 0 (mbayOf 0) 0, { words := [BitVec.ofNat 64 (2 * 2 ^ 60 + 2 ^ 58 + 2 * 2 ^ 56 + 128 * 2 ^ 25 + 2 ^ 12)], routes := [(0, 0x40000000)] })], banks := [(0, { strm := some { ticket := 1, ctx := 0, count := 4 }, chans := [(0, [m])] })], focus := { elem := mbayOf 0 } }
    let un : State := tUnit 1 [0x1400000000000000] { q := [(0, [m]), (1, [m])] }
    moves .switchMarker (st (0x15 * 2 ^ 58)) = true ∧ moves .switchMarker (st (0x15 * 2 ^ 58 + 2 ^ 56)) = true ∧ moves .switchMarker mb = true ∧
    un.unitRuns = true ∧ unitInputs un.myWords = 2 ∧ moves .switchMarker un = true := by
  decide +kernel

/-- A region of hall 0 that runs in slot 0, with its swap in a given state. -/
def tSwap (g : RSwap) (st : SlotSt) : State :=
  { slots := [(0, { st := st, region := some 0, liveAt := List.range 81 })], threads := [(0, { live := true, inWfi := true })]
    regions := [{ rcb := 0x10000, rroot := 64, pctx := none, hdl := 1, state := 2, smap := [0], swap := g }], pool := [(1, 0)], mem := { cells := tTables } }

/-- A drain that starts a swap, at a port that is busy, and of a context without a region; the halls of a swap; drains on a link and at the edge;
elements that save; a save that is complete and one that is not. -/
theorem wit_Swapping :
    let run : RSwap := { seq := some (0, 3), ctxs := [0] }
    let cmd (s : State) : State := { s with focus := { idx := 1 }, disps := [(0, { cmds := [{ ticket := 1, ctx := 0, ictx := 0, region := none, started := true, word := BitVec.ofNat 128 (0x0D * 2 ^ 120 + 3 * 2 ^ 64) }] })] }
    let ins := Instr.drain 0 0 0 0 3 0
    let t : Token := { kind := .drain, payload := 3 }
    let at_ (e d : Nat) (s : State) : State := { s with links := [(lkey 0 e d, [t])], focus := { elem := e, idx := d } }
    let inp := inKey 0 3 0 1
    let all := (List.range 81).map fun e => ckey 0 e 0
    moves ins (cmd (tSwap {} .live)) = true ∧ moves ins (cmd (tSwap run .live)) = true ∧ moves ins (cmd { tSwap {} .live with stairs := [(0, { unacked := 1 })] }) = false ∧
    (let old := { tSwap {} .live with regions := (tSwap {} .live).regions.map fun g => { g with drainSeq := some 3 } }
     (match exec ins (cmd old) with
      | .next v => (v.region 0).swap.seq.isNone && decide (v ≠ cmd old)
      | _ => false) = true) ∧
    moves ins (cmd {}) = true ∧ moves .swapStart (tSwap run .live) = true ∧ moves .swapStart (tSwap {} .live) = false ∧
    moves .drainArrival (at_ 3 1 {}) = true ∧
    moves .drainArrival (at_ 3 1 { tSwap { run with inputs := [inp] } .saving with cfgs := [(ckey 0 3 0, { routes := [(1, 0x08000000)] })] }) = true ∧
    (tSwap run .saving).passesOnly 0 3 0 = true ∧ moves .drainArrival (at_ 3 1 (tSwap { run with inputs := [inp] } .saving)) = true ∧
    moves .drainArrival (at_ 80 3 {}) = true ∧ moves .drainArrival (at_ 87 3 {}) = true ∧
    moves .drainArrival { tSwap { run with stopped := [ckey 0 3 0] } .saving with focus := { elem := 3 } } = true ∧
    moves .drainArrival { tSwap { run with toPlace := [4 * 5] } .saving with focus := { elem := portElem 5, idx := 9 } } = true ∧
    moves .saveComplete (tSwap { run with halls := [0], saved := all } .saving) = true ∧ moves .saveComplete (tSwap { run with halls := [0] } .saving) = false := by
  decide +kernel

/-- A region swapped out, with the state that was saved. -/
def tOut (f : Region → Region) (hs : Tab HallSt) : State :=
  { host := { perst := false }, hallSt := hs, mem := { cells := tTables }
    regions := [f { rcb := 0x10000, rroot := 64, pctx := none, hdl := 1, state := 3, smap := [0], own := { entry := 0x10000 }, eff := { root := 64 } }]
    saved := [{ region := 0, halls := [0], slots := [0], live := [0], threads := [(0, { live := true, pc := 0x10020 })], slotSt := [(0, { st := .saving, liveAt := [80] })] }] }

/-- It is restored where it was; its hall has been retired, and it is idempotent or not. -/
theorem wit_Restoring :
    let back (s : State) (i : Instr) : Bool := match exec i s with
      | .next v => (v.region 0).state == 2 && v.saved.length == 0 && (v.thr ((v.region 0).hallOf 0) 0).live
      | _ => false
    let gone : Tab HallSt := [(0, { retired := true })]
    back (tOut id []) .restore = true ∧ back (tOut (fun g => { g with own := { entry := 0x10000, mv := true, idem := true }, gk := 300 }) gone) .revokingRestore = true ∧
    (match exec .restore (tOut (fun g => { g with gk := 300 }) gone) with
      | .next v => (v.region 0).state == 3 && decide (v ≠ tOut (fun g => { g with gk := 300 }) gone)
      | _ => false) = true ∧
    moves .restore (tOut (fun g => { g with gk := 300 }) []) = false := by
  decide +kernel

/-- A region of lower priority is chosen where one that waits finds its slots taken. -/
theorem wit_SwapVictim :
    let g (k st prio : Nat) : Region := { rcb := 0x10000, rroot := 64, pctx := none, hdl := k, state := st, smap := [0, 1, 2, 3], own := { ns := 4, pw := 7, ph := 7, image := 0x10100 }, eff := { root := 64, prio := prio } }
    let s : State := { mem := { cells := tTables }, regions := [g 1 2 0, g 2 1 5], pool := [(1, 0), (2, 1)], slots := (List.range 256).map fun k => (k, { st := .loaded, region := some 0 }) }
    s.queueHead = some 1 := by
  decide +kernel

/-- Snapshots: of a context without a region, one that begins, one of another sequence, one in progress; on a link and at the edge; a hall's part
and the end. -/
theorem wit_Snapshots :
    let cmd (s : State) : State := { s with focus := { idx := 1 }, disps := [(0, { ins := [0], cmds := [{ ticket := 1, ctx := 0, ictx := 0, region := none, started := true, word := BitVec.ofNat 128 (0x10 * 2 ^ 120 + 3 * 2 ^ 64) }] })] }
    let ins := Instr.snapshot 0 0 0 0 3 0
    let run : RSwap := { snapSeq := some 3, snapInputs := [inKey 0 64 0 4, inKey 0 3 0 1] }
    let t : Token := { kind := .snapshot, payload := 3 }
    let at_ (e d : Nat) (s : State) : State := { s with links := [(lkey 0 e d, [t])], focus := { elem := e, idx := d } }
    let all : Tab (BitVec 512) := (List.range 82).map fun e => (ckey 0 e 0, 0)
    let part (hs : List Nat) (va : W64) : State := { tSwap { snapSeq := some 3, snapRegs := all, snapHalls := hs } .live with regions := [{ rcb := 0x10000, rroot := 64, pctx := none, hdl := 1, state := 2, smap := [0], own := { snapva := va, snaplen := 256 }, swap := { snapSeq := some 3, snapRegs := all, snapHalls := hs } }] }
    moves ins (cmd {}) = true ∧ moves ins (cmd (tSwap {} .live)) = true ∧ moves ins (cmd (tSwap run .live)) = true ∧ moves ins (cmd (tSwap { run with snapSeq := some 4 } .live)) = false ∧
    moves .snapshotArrival (at_ 3 1 {}) = true ∧ moves .snapshotArrival (at_ 3 1 (tSwap run .live)) = true ∧ moves .snapshotArrival (at_ 3 1 (tSwap { run with snapSeq := some 4 } .live)) = false ∧
    moves .snapshotArrival (at_ 80 3 {}) = true ∧ moves .snapshotArrival (at_ 87 3 {}) = true ∧
    moves .snapshotComplete (tSwap run .live) = false ∧ moves .snapshotComplete (part [] 0) = true ∧ moves .snapshotComplete (part [] 0x10100) = true ∧ moves .snapshotComplete (part [0] 0) = true := by
  decide +kernel

/-- A thread that awaits, for too long, for the first and for the second time, and one that does not; a save that takes too long. -/
theorem wit_Watchdogs :
    let s (n : Nat) (again : Bool) : State := { tSwap {} .live with threads := [(0, { live := true, inWait := 3 })], stall := [(0, n)], stalled := [(0, again)] }
    let save (n : Nat) : State := tSwap { seq := some (0, 3), ctxs := [0], halls := [0], timer := [(0, n)] } .saving
    moves .watchdogStall (s 800000 false) = true ∧ moves .watchdogStall (s 800000 true) = true ∧ moves .watchdogStall (s 799999 false) = false ∧
    moves .saveWatchdogExpiry (save 20000) = true ∧ moves .saveWatchdogExpiry (save 12800) = false := by
  decide +kernel

/-- A bay that fails, a second one, markers that are placed, and the spare switched in. -/
theorem wit_Sparing :
    let s (x : HallSt) : State := { tSwap {} .live with hallSt := [(0, x)], disps := [(0, { ins := [0, 4 * 40] })], focus := { elem := 3 }, mem := { cells := tTables, ecc := [0x1000100000] } }
    let f (x : HallSt) (p : Nat) : State := { s x with focus := { idx := p, aux := 1 } }
    moves .bayFailure (s {}) = true ∧ moves .bayFailure (s { failed := some 3 }) = true ∧ moves .bayFailure (s { spare := true }) = true ∧ moves .bayFailure (s { retired := true }) = false ∧
    moves .bayFailure (f { failed := some 3, toPlace := [0, 160] } 0) = true ∧ moves .bayFailure (f { failed := some 3, toPlace := [0, 160] } 40) = true ∧ moves .bayFailure (f { failed := some 3 } 0) = false ∧
    moves .spareSwitchIn (s { failed := some 3 }) = true ∧ moves .bayFailure { s {} with focus := { elem := 4, aux := 2 } } = true ∧ moves .spareSwitchIn (s { failed := some 3, badWords := [(12, 0, .reg 2)] }) = true ∧ moves .spareSwitchIn (s { failed := some 3, toPlace := [0] }) = false ∧ moves .spareSwitchIn (s {}) = false := by
  decide +kernel

/-- A stopped region that is told to resume, to skip and to abort, and one that still has an access under way. -/
theorem wit_Orders :
    let s (n : Nat) : State := { tSwap {} .live with mem := { cells := (0x10098, BitVec.ofNat 8 n) :: tTables }, threads := [(0, { live := true, dead := true })], bays := [(0, { trapped := true })], regions := [{ rcb := 0x10000, rroot := 64, pctx := none, hdl := 1, state := 2, smap := [0], stopped := true, fstate := 1 }] }
    moves .fcmdResume (s 1) = true ∧ moves .fcmdResume (s 2) = false ∧ moves .fcmdResumeSkip (s 2) = true ∧ moves .fcmdAbort (s 3) = true ∧ moves .fcmdAbort (s 0) = false ∧
    moves .fcmdAbort { s 3 with edge := [{ who := .thread 0 0, pa := 0x10040, key := 0, size := 1, data := [0] }] } = true := by
  decide +kernel

/-- Registers: dead peers, key slots, launches and power. -/
theorem wit_Registers :
    let f (v : W64) (i a : Nat) (s : State) : State := { s with focus := { val := v, idx := i, aux := a } }
    let k (s : Nat) : State := { host := { kslot := s, kdata := [(0, 5)], spdm := { ide := true } }, keys := [(3, { pair := 1 })] }
    let rl (s : State) : State := { s with host := { s.host with rlroot := 64 } }
    moves .arcDeadWrite (f 4 0 0 { arc := { dead := [2, 3], txSeq := [(512, 1)] } }) = true ∧ moves .arcIinv {} = true ∧ moves .sqinv {} = true ∧
    moves .hbmret (f 0x8000000000000103 0 0 {}) = true ∧ moves .hbmret (f 0x8000000000000C03 0 0 {}) = false ∧
    moves .kcmdLoad (f 0 0 1 (k 2)) = true ∧ moves .kcmdLoad (f 0 0 1 (k 3)) = true ∧ moves .kcmdLoad (f 0 0 0 (k 2)) = true ∧ moves .kcmdLoad (f 0 0 1 (k 0)) = true ∧
    moves .kcmdClear (k 3) = true ∧ moves .kcmdClear { k 3 with edge := [{ who := .thread 0 0, pa := 0x40, key := 3, size := 1, data := [0] }] } = true ∧
    (match exec .rlaunch (f 0x10000 0 0 (rl tLaunch)) with
      | .next v => v.regions.length == 3
      | _ => false) = true ∧ moves .rlaunch (f 0x10001 0 0 (rl tLaunch)) = true ∧ moves .rlaunch (f 0x50000000 0 0 (rl tLaunch)) = true ∧
    moves .pwrIdle {} = true ∧ moves .pwrRun { host := { pwr := 1 } } = true ∧ moves .pwrD3hot {} = true ∧ moves .pwrD3hot (tSwap {} .live) = false := by
  decide +kernel

/-- Ingress channels and sink queues. -/
theorem wit_ChannelsAndQueues :
    let f (v : W64) (i a : Nat) (s : State) : State := { s with focus := { val := v, idx := i, aux := a } }
    let b (g : Ingress) (st : SlotSt) : State := { tSwap {} st with host := { ingress := [(37, g)] } }
    let lc : W64 := 0xC000000000000000
    let bay : W64 := 0x8000300000000000
    let q (d : BitVec 256) (k : SinkQ) : State := { host := { sinkqs := [(5, { k with desc := some d })] } }
    let d : BitVec 256 := 2 ^ 63 + 2 ^ 62 + 2 ^ 12 + 2 ^ 127 + 2 ^ 64 + 2 ^ 140
    moves .ingbWrite (f 0x8549300000000000 37 0 {}) = true ∧ moves .ingbWrite (f 0x8549300000000001 37 0 {}) = true ∧ moves .ingbWrite (f 0x8549300000000000 0 0 {}) = false ∧
    moves .ingressWord (f 7 37 0 (b { bind := lc } .live)) = true ∧ moves .ingressWord (f 7 37 0 (b { bind := bay } .live)) = true ∧ moves .ingressWord (f 7 37 0 (b { bind := lc } .saving)) = true ∧
    moves .ingressWord (f 7 37 0 (b {} .live)) = true ∧ moves .ingressWord (f 7 37 1 (b { bind := lc, wait := [(0, 3)] } .live)) = true ∧ moves .ingressWord (f 7 37 1 (b { bind := lc } .live)) = false ∧
    moves .sinkQueueDelivery (f 0 5 0 (q d { wait := [(64, 9)] })) = true ∧ moves .sinkQueueDelivery (f 0 5 0 (q d { wait := [(16, 9)] })) = true ∧
    moves .sinkQueueDelivery (f 0 5 0 (q d { wait := [(64, 9)], prod := 2 })) = false ∧ moves .sinkQueueDelivery (f 0 5 0 (q d {})) = false ∧
    moves .sinkQueueDelivery (f 0 5 0 { host := { sinkqs := [(5, { wait := [(64, 9)] })] } }) = true ∧
    moves .consumerIndexWrite (f 1 5 0 (q d { prod := 2 })) = true ∧ moves .consumerIndexWrite (f 5 5 0 (q d { prod := 2 })) = true := by
  decide +kernel

/-- Reads and writes through the aperture. -/
theorem wit_Aperture :
    let f (v : W64) (i a : Nat) (s : State) : State := { s with focus := { val := v, idx := i, aux := a } }
    moves .bar4Access (f 0x40 7 136 {}) = true ∧ moves .bar4Access (f 0x40 7 8 {}) = true ∧ moves .bar4Access (f 0xF000000000 7 136 {}) = true ∧ moves .bar4Access (f 0xF000000000 7 8 {}) = true ∧
    moves .bar4Access (f 0x7F 7 8 {}) = false ∧ moves .resyncRequest (f 0x2000000000000001 0 0 {}) = true := by
  decide +kernel

/-- The device at each temperature, under PERST# and without it, and with and without a live region. -/
theorem wit_PowerAndTemperature :
    let f (a i : Nat) (h : HostSide) : State := { host := h, focus := { aux := a, idx := i }, mem := { cells := [(0x40, 1), (0x800000000000, 2)] } }
    moves .bringUp (f 0 0 { perst := true }) = true ∧ moves .bringUp (f 1 0 { perst := true }) = true ∧ moves .bringUp (f 0 0 {}) = false ∧ moves .perstAssertion (f 0 0 {}) = true ∧
    moves .thermalThrottle (f 0 105 {}) = true ∧ moves .thermalThrottle (f 0 104 {}) = false ∧ moves .thermalThrottle (f 0 115 {}) = false ∧
    moves .thermalRecover (f 0 99 { tst := 1 }) = true ∧ moves .thermalRecover (f 0 100 { tst := 1 }) = false ∧
    moves .thermalShutdown (f 0 115 {}) = true ∧ moves .thermalShutdown (f 0 114 {}) = false ∧ moves .thermalReset (f 0 0 { tst := 2 }) = true ∧ moves .thermalReset (f 0 0 {}) = false ∧
    moves .pciePowerStateChange (f 1 0 {}) = true ∧ moves .pciePowerStateChange (f 0 0 { d3hot := true }) = true ∧ moves .pciePowerStateChange { tSwap {} .live with focus := { aux := 1 } } = true := by
  decide +kernel

/-- Each request where what it needs has come before, and where it has not. -/
theorem wit_Attestation :
    let s (p : Spdm) : State := { host := { spdm := p }, focus := { aux := 1 } }
    let code (i : Instr) (p : Spdm) : Nat := match exec i (s p) with
      | .next v => v.host.spdm.outbox.getLastD 99
      | _ => 99
    code .getVersion {} = 1 ∧ code .getCapabilities { version := true } = 2 ∧ code .getCapabilities {} = 0 ∧ code .negotiateAlgorithms { caps := true } = 3 ∧ code .negotiateAlgorithms {} = 0 ∧
    code .getDigests { algs := true } = 4 ∧ code .getDigests {} = 0 ∧ code .getCertificate { algs := true } = 5 ∧ code .challenge { algs := true } = 6 ∧ code .getMeasurements { algs := true } = 7 ∧
    code .keyExchange { algs := true } = 8 ∧ code .finish { session := true } = 9 ∧ code .finish {} = 0 ∧ code .ideKm { secured := true } = 10 ∧ code .ideKm {} = 0 := by
  decide +kernel

/-- The words that the statement names. -/
theorem wit_WordsOfTheSpecDecode : (decodeLanding 0x08A6FFFC).toOption = some (.addi 5 6 0xFFFC) ∧ (decodeTag 0x200000000000001D).toOption = some (.tfill 0x1D) := by
  decide +kernel

/-- Bytes, slots and registers at reset. -/
theorem wit_MachineAtReset : Memory.wf State.reset.mem.cells = true ∧ Memory.byte State.reset.mem.cells 0x40 = 0 ∧ State.reset.mgmtRead 0 8 = 16000 ∧
    State.reset.mgmtRead 3 0x1030 = 0x80000C3500003200 := by decide +kernel

/-- A state that a step takes to another. -/
theorem wit_EveryStepKeepsMemoryCanonical :
    let s := State.reset.withFetchWord 32 0x08A6FFFC
    Memory.wf s.mem.cells = true ∧ (match step s with
      | .next t => decide (t ≠ s)
      | _ => false) = true := by
  decide +kernel

end Sys2Proof.Tests
end

section
/-! The long-accumulator cell (R48–R55): the fields of a cell, what a contribution does to each of them, and that the order of contributions does not matter. -/

namespace Sys2Proof.Machine
open Sys2Proof.Claims

/-! ### The fields of a cell (R48) -/

/-- A truth value as the weight of its bit. -/
theorem ite_eq_toNat_mul (b : Bool) (w : Nat) : (if b then w else 0) = b.toNat * w := by
  cases b <;> simp

/-- R48: a packed cell as a number. -/
theorem packCell_toNat (c : Cell128) :
    (packCell c).toNat = c.poison.toNat * 2 ^ 127 + c.invalid.toNat * 2 ^ 126 + c.ovr.toNat * 2 ^ 125 + c.sticky.toNat * 2 ^ 124 +
      c.anchored.toNat * 2 ^ 123 + c.acheck % 128 * 2 ^ 116 + (BitVec.ofInt 116 c.value).toNat := by
  have hv := (BitVec.ofInt 116 c.value).isLt
  have hp := c.poison.toNat_le
  have hi := c.invalid.toNat_le
  have ho := c.ovr.toNat_le
  have hs := c.sticky.toNat_le
  have ha := c.anchored.toNat_le
  simp only [packCell, ite_eq_toNat_mul, BitVec.toNat_ofNat]
  omega

/-- A bit of a word, by its value as a number. -/
theorem getLsbD_eq_of_div_mod {w : Nat} (x : BitVec w) (i : Nat) (b : Bool) (h : x.toNat / 2 ^ i % 2 = b.toNat) : x.getLsbD i = b := by
  rw [BitVec.getLsbD, Nat.testBit_eq_decide_div_mod_eq, h]
  cases b <;> rfl

/-- R48: taking a packed cell apart gives its fields, the value wrapped to 116 bits. -/
theorem unpackCell_packCell (c : Cell128) :
    unpackCell (packCell c) = { c with acheck := c.acheck % 128, value := (BitVec.ofInt 116 c.value).toInt } := by
  have hn := packCell_toNat c
  have hv := (BitVec.ofInt 116 c.value).isLt
  have hp := c.poison.toNat_le
  have hi := c.invalid.toNat_le
  have ho := c.ovr.toNat_le
  have hs := c.sticky.toNat_le
  have ha := c.anchored.toNat_le
  have hvalue : BitVec.ofNat 116 (packCell c).toNat = BitVec.ofInt 116 c.value := by
    apply BitVec.eq_of_toNat_eq
    rw [BitVec.toNat_ofNat]
    omega
  simp only [unpackCell, bitB, bitsN, hvalue, Cell128.mk.injEq, and_true]
  refine ⟨?poison, ?invalid, ?ovr, ?sticky, ?anchored, ?acheck⟩
  case acheck => omega
  all_goals
    apply getLsbD_eq_of_div_mod
    omega

/-- R48: a cell is determined by its fields. -/
theorem packCell_unpackCell (cell : BitVec 128) : packCell (unpackCell cell) = cell := by
  have bit (i : Nat) : (cell.getLsbD i).toNat = cell.toNat / 2 ^ i % 2 := by
    rw [BitVec.getLsbD, Nat.toNat_testBit]
  apply BitVec.eq_of_toNat_eq
  have hc := cell.isLt
  rw [packCell_toNat]
  simp only [unpackCell, bitB, bitsN, bit, BitVec.ofInt_toInt, BitVec.toNat_ofNat]
  omega

theorem unpackCell_injective : Function.Injective unpackCell :=
  Function.LeftInverse.injective packCell_unpackCell

theorem getLsbD_anchored (cell : BitVec 128) : cell.getLsbD 123 = (unpackCell cell).anchored := rfl

theorem cellValue_eq (cell : BitVec 128) : cellValue cell = (unpackCell cell).value := by
  simp [cellValue, unpackCell, BitVec.extractLsb']

theorem cellCheck_toNat (cell : BitVec 128) : (cellCheck cell).toNat = (unpackCell cell).acheck := by
  simp [cellCheck, unpackCell, bitsN, Nat.shiftRight_eq_div_pow]

/-! ### The integer of a contribution (R51) -/

theorem two_pow_pos (n : Nat) : (0 : Int) < 2 ^ n := Int.pow_pos (by decide)
theorem two_pow_add (m n : Nat) : (2 : Int) ^ (m + n) = 2 ^ m * 2 ^ n := Int.pow_add 2 m n

@[simp] theorem contrInt_nan (A : Int) : contrInt A .nan = (0, false, false) := rfl
@[simp] theorem contrInt_inf (A : Int) (neg : Bool) : contrInt A (.inf neg) = (if neg then -(2 ^ 99) else 2 ^ 99 - 1, true, false) := by
  cases neg <;> rfl

/-- R51: the value m × 2^e in units of 2^A is a quotient of integers, of which at least one power is 1. -/
theorem contrInt_fin (A m e : Int) :
    contrInt A (.fin m e) =
      (let n := m * 2 ^ (e - A).toNat
       let k := 2 ^ (A - e).toNat
       if 2 ^ 99 ≤ n / k then (2 ^ 99 - 1, true, false)
       else if n / k < -(2 ^ 99) ∨ (n / k = -(2 ^ 99) ∧ n % k = 0) then (-(2 ^ 99), true, false)
       else (n / k, false, decide (n % k ≠ 0))) := by
  by_cases hd : A ≤ e
  · have hk : (A - e).toNat = 0 := by omega
    simp [contrInt, hd, hk]
  · have hp : (e - A).toNat = 0 := by omega
    have hk : -(e - A) = A - e := by omega
    simp [contrInt, hd, hk, hp, Bool.beq_eq_decide_eq]

/-- R51: the saturation bound of a value in units of 2^A. -/
theorem reaches_iff (A m e : Int) : reaches m e (99 + A) ↔ 2 ^ 99 * 2 ^ (A - e).toNat ≤ m * 2 ^ (e - A).toNat := by
  -- both sides of the second inequality are those of the first times 2 ^ g
  obtain ⟨g, hg, hp⟩ : ∃ g : Nat, 99 + (A - e).toNat = (99 + A - e).toNat + g ∧ (e - A).toNat = (e - (99 + A)).toNat + g :=
    ⟨min (e - A).toNat 99, by omega, by omega⟩
  rw [← two_pow_add, hg, hp, two_pow_add, two_pow_add, ← Int.mul_assoc, Int.mul_le_mul_right (two_pow_pos g), reaches]

/-- A floor is at most -b, and exactly so if it is -b, when the quotient itself is at most -b. -/
theorem floor_le_neg_iff {n k : Int} (hk : 0 < k) (b : Int) : (n / k < -b ∨ (n / k = -b ∧ n % k = 0)) ↔ b * k ≤ -n := by
  rw [Int.ediv_lt_iff_lt_mul hk, Int.neg_mul]
  constructor
  · rintro (hlt | ⟨hq, h0⟩)
    · omega
    · have hdm := Int.ediv_mul_add_emod n k
      rw [hq, h0, Int.neg_mul] at hdm
      omega
  · intro h
    obtain hlt | heq : n < -(b * k) ∨ n = -(b * k) := by omega
    · exact .inl hlt
    · rw [heq, ← Int.neg_mul]
      exact .inr ⟨Int.mul_ediv_cancel _ (Int.ne_of_gt hk), Int.mul_emod_left _ _⟩

/-- R51: a value of at least 2^(99+A). -/
theorem contrInt_of_reaches {A m e : Int} (h : reaches m e (99 + A)) : contrInt A (.fin m e) = (2 ^ 99 - 1, true, false) := by
  have hq := (Int.le_ediv_iff_mul_le (two_pow_pos _)).2 ((reaches_iff A m e).1 h)
  rw [contrInt_fin]
  exact if_pos hq

/-- R51: a value of at most -2^(99+A). -/
theorem contrInt_of_neg_reaches {A m e : Int} (h : reaches (-m) e (99 + A)) : contrInt A (.fin m e) = (-(2 ^ 99), true, false) := by
  have hk : (0 : Int) < 2 ^ (A - e).toNat := two_pow_pos _
  have hlow := (floor_le_neg_iff hk (2 ^ 99)).2 (Int.neg_mul m _ ▸ (reaches_iff A (-m) e).1 h)
  rw [contrInt_fin]
  exact (if_neg (by omega)).trans (if_pos hlow)

/-- A floor is exact when the quotient leaves no remainder. -/
theorem floor_mul_ne_iff (n k : Int) : n / k * k ≠ n ↔ n % k ≠ 0 := by
  have := Int.ediv_mul_add_emod n k
  omega

/-- R51: any other value gives its floor. -/
theorem contrInt_of_not_reaches {A m e : Int} (hpos : ¬ reaches m e (99 + A)) (hneg : ¬ reaches (-m) e (99 + A)) :
    contrInt A (.fin m e) =
      (let n := m * 2 ^ (e - A).toNat
       let k := 2 ^ (A - e).toNat
       (n / k, false, decide (n / k * k ≠ n))) := by
  have hk : (0 : Int) < 2 ^ (A - e).toNat := two_pow_pos _
  rw [reaches_iff, ← Int.le_ediv_iff_mul_le hk] at hpos
  rw [reaches_iff, Int.neg_mul, ← floor_le_neg_iff hk] at hneg
  rw [contrInt_fin]
  simp only [hpos, hneg, if_false, floor_mul_ne_iff]

/-- R51, R55 step 2: no contribution changes the value by more than 2^99. -/
theorem contrInt_bounds (A : Int) (x : Contr) : -(2 ^ 99) ≤ (contrInt A x).1 ∧ (contrInt A x).1 ≤ 2 ^ 99 - 1 := by
  match x with
  | .nan => simp
  | .inf neg => cases neg <;> simp
  | .fin m e =>
    rw [contrInt_fin]
    dsimp only
    split
    · omega
    · split <;> omega

/-! ### What a contribution does to the fields (R51, R55 step 1) -/

/-- What a contribution with its poison mark adds to the value. -/
def contrAddend (A : Int) (x : Contr × Bool) : Int := if x.2 then 0 else (contrInt A x.1).1
/-- Whether it is a NaN that counts. -/
def contrIsNan (x : Contr × Bool) : Bool := !x.2 && decide (x.1 = .nan)
/-- Whether it counts and saturates. -/
def contrSaturates (A : Int) (x : Contr × Bool) : Bool := !x.2 && (contrInt A x.1).2.1
/-- Whether it counts and has bits below the anchor. -/
def contrInexact (A : Int) (x : Contr × Bool) : Bool := !x.2 && (contrInt A x.1).2.2

/-- The fields of a cell after a contribution. -/
def fieldsAfter (c : Cell128) (anchor : BitVec 12) (x : Contr × Bool) : Cell128 :=
  let t := c.value + contrAddend anchor.toInt x
  { poison := c.poison || x.2
    invalid := c.invalid || (c.anchored && decide (c.acheck ≠ anchor.toNat % 128)) || contrIsNan x
    ovr := c.ovr || contrSaturates anchor.toInt x || decide (2 ^ 115 ≤ t) || decide (t < -(2 ^ 115))
    sticky := c.sticky || contrInexact anchor.toInt x
    anchored := true
    acheck := if c.anchored then c.acheck else anchor.toNat % 128
    value := (BitVec.ofInt 116 t).toInt }

/-- R51: the `anchored` and `acheck` test on all the fields at once. -/
theorem anchorCell_eq (c : Cell128) (anchor : BitVec 12) :
    anchorCell c anchor = { c with
      anchored := true
      acheck := if c.anchored then c.acheck else anchor.toNat % 128
      invalid := c.invalid || (c.anchored && decide (c.acheck ≠ anchor.toNat % 128)) } := by
  obtain ⟨poison, invalid, ovr, sticky, anchored, acheck, value⟩ := c
  cases anchored
  · simp [anchorCell]
  · by_cases h : acheck = anchor.toNat % 128 <;> simp [anchorCell, h]

theorem unpackCell_acheck_lt (cell : BitVec 128) : (unpackCell cell).acheck < 128 := Nat.mod_lt _ (by decide)

/-- R51: a contribution, of whatever class and poison, enters a cell. -/
theorem enterCell_eq (cell : BitVec 128) (anchor : BitVec 12) (x : Contr × Bool) :
    enterCell cell anchor x.1 x.2 = packCell (fieldsAfter (unpackCell cell) anchor x) := by
  obtain ⟨s, p⟩ := x
  cases p
  · cases s <;> simp [enterCell, anchorCell_eq, addCell, fieldsAfter, contrAddend, contrIsNan, contrSaturates, contrInexact]
  · simp [enterCell, anchorCell_eq, addCell, fieldsAfter, contrAddend, contrIsNan, contrSaturates, contrInexact]

theorem unpackCell_enterCell (cell : BitVec 128) (anchor : BitVec 12) (x : Contr × Bool) :
    unpackCell (enterCell cell anchor x.1 x.2) = fieldsAfter (unpackCell cell) anchor x := by
  have hlt : (fieldsAfter (unpackCell cell) anchor x).acheck < 128 := by
    have := unpackCell_acheck_lt cell
    simp only [fieldsAfter]
    split <;> omega
  rw [enterCell_eq, unpackCell_packCell, Nat.mod_eq_of_lt hlt]
  simp [fieldsAfter]

/-- R51: the fields after a contribution, as the statements name them. -/
theorem cellAfter_enterCell (cell : BitVec 128) (anchor : BitVec 12) (x : Contr × Bool) :
    CellAfter cell (enterCell cell anchor x.1 x.2) anchor (contrAddend anchor.toInt x) x.2 (contrIsNan x) (contrSaturates anchor.toInt x)
      (contrInexact anchor.toInt x) := by
  have hu := unpackCell_enterCell cell anchor x
  have hcheck : cellCheck cell = anchor.extractLsb' 0 7 ↔ (unpackCell cell).acheck = anchor.toNat % 128 := by
    rw [← cellCheck_toNat, ← BitVec.toNat_inj]
    simp
  refine ⟨congrArg Cell128.anchored hu, ?acheck, ?value, congrArg Cell128.poison hu, ?invalid, ?ovr, congrArg Cell128.sticky hu⟩
  case acheck =>
    have ha := congrArg Cell128.acheck hu
    apply BitVec.eq_of_toNat_eq
    rw [cellCheck_toNat, ha, fieldsAfter, ← cellCheck_toNat, getLsbD_anchored]
    split <;> simp
  case value =>
    apply BitVec.eq_of_toInt_eq
    rw [cellValue_eq]
    exact (cellValue_eq _).trans (congrArg Cell128.value hu)
  case invalid =>
    simp only [ne_eq, hcheck]
    exact congrArg Cell128.invalid hu
  case ovr =>
    rw [cellValue_eq]
    exact congrArg Cell128.ovr hu

/-- R51: a contribution that is neither poisoned nor a NaN, by the integer and the flags that it gives. -/
theorem cellAfter_of_contrInt (cell : BitVec 128) {anchor : BitVec 12} {s : Contr} {c : Int} {sat inx : Bool} (hs : s ≠ .nan)
    (h : contrInt anchor.toInt s = (c, sat, inx)) : CellAfter cell (enterCell cell anchor s false) anchor c false false sat inx := by
  simpa [contrAddend, contrIsNan, contrSaturates, contrInexact, hs, h] using cellAfter_enterCell cell anchor (s, false)

/-- Settles O32: each clause is what a contribution does to the fields, at the integer that its class and bounds give. -/
theorem aContributionEntersACell : Obligations.AContributionEntersACell := by
  intro cell anchor
  refine ⟨fun x => ?_, ?_, ?_, ?_, fun m e => ⟨fun h => ?_, fun h => ?_, fun hpos hneg => ?_⟩⟩
  · simpa [contrAddend, contrIsNan, contrSaturates, contrInexact] using cellAfter_enterCell cell anchor (x, true)
  · simpa [contrAddend, contrIsNan, contrSaturates, contrInexact] using cellAfter_enterCell cell anchor (.nan, false)
  · exact cellAfter_of_contrInt cell nofun rfl
  · exact cellAfter_of_contrInt cell nofun rfl
  · exact cellAfter_of_contrInt cell nofun (contrInt_of_reaches h)
  · exact cellAfter_of_contrInt cell nofun (contrInt_of_neg_reaches h)
  · have hk : (0 : Int) < 2 ^ (anchor.toInt - e).toNat := two_pow_pos _
    exact ⟨_, Int.ediv_mul_le _ (Int.ne_of_gt hk), Int.lt_ediv_add_one_mul_self _ hk,
      cellAfter_of_contrInt cell nofun (contrInt_of_not_reaches hpos hneg)⟩

/-! ### Many contributions (R55 steps 2 to 4) -/

/-- R55: the fields of a cleared cell after contributions, in a form that does not name their order. -/
def fieldsOfAll (anchor : BitVec 12) (l : List (Contr × Bool)) : Cell128 :=
  { poison := l.any (·.2)
    invalid := l.any contrIsNan
    ovr := l.any (contrSaturates anchor.toInt)
    sticky := l.any (contrInexact anchor.toInt)
    anchored := !l.isEmpty
    acheck := if l.isEmpty then 0 else anchor.toNat % 128
    value := (l.map (contrAddend anchor.toInt)).sum }

/-- Integer addition does not depend on the order. -/
theorem sum_perm {l l' : List Int} (h : l.Perm l') : l.sum = l'.sum := by
  induction h with
  | nil => rfl
  | cons x _ ih => rw [List.sum_cons, List.sum_cons, ih]
  | swap x y l => simp only [List.sum_cons, Int.add_left_comm]
  | trans _ _ ih ih' => exact ih.trans ih'

theorem fieldsOfAll_perm (anchor : BitVec 12) {l l' : List (Contr × Bool)} (h : l.Perm l') : fieldsOfAll anchor l = fieldsOfAll anchor l' := by
  simp only [fieldsOfAll, h.any_eq, h.isEmpty_eq, sum_perm (h.map (contrAddend anchor.toInt))]

/-- R55 step 2: the same of what is added. -/
theorem contrAddend_bounds (A : Int) (x : Contr × Bool) : -(2 ^ 99) ≤ contrAddend A x ∧ contrAddend A x ≤ 2 ^ 99 - 1 := by
  have := contrInt_bounds A x.1
  unfold contrAddend
  split <;> omega

/-- R55 step 2: the exact sum of contributions by their number. -/
theorem sum_contrAddend_bounds (A : Int) (l : List (Contr × Bool)) :
    -(2 ^ 99) * l.length ≤ (l.map (contrAddend A)).sum ∧ (l.map (contrAddend A)).sum ≤ (2 ^ 99 - 1) * l.length := by
  induction l with
  | nil => simp
  | cons x l ih =>
    have hx := contrAddend_bounds A x
    rw [List.map_cons, List.sum_cons, List.length_cons]
    omega

/-- R55 steps 1 to 3: one more contribution keeps the form. -/
theorem fieldsAfter_fieldsOfAll (anchor : BitVec 12) (l : List (Contr × Bool)) (x : Contr × Bool) (hl : (l ++ [x]).length ≤ 65536) :
    fieldsAfter (fieldsOfAll anchor l) anchor x = fieldsOfAll anchor (l ++ [x]) := by
  have hsum : ((l ++ [x]).map (contrAddend anchor.toInt)).sum = (l.map (contrAddend anchor.toInt)).sum + contrAddend anchor.toInt x := by simp
  have hbounds := sum_contrAddend_bounds anchor.toInt (l ++ [x])
  rw [hsum] at hbounds
  obtain ⟨hlow, hhigh⟩ : -(2 ^ 115) ≤ (l.map (contrAddend anchor.toInt)).sum + contrAddend anchor.toInt x ∧
      (l.map (contrAddend anchor.toInt)).sum + contrAddend anchor.toInt x < 2 ^ 115 := by omega
  have hwrap : (BitVec.ofInt 116 ((l.map (contrAddend anchor.toInt)).sum + contrAddend anchor.toInt x)).toInt =
      (l.map (contrAddend anchor.toInt)).sum + contrAddend anchor.toInt x := BitVec.toInt_ofInt_eq_self (by decide) hlow hhigh
  simp only [fieldsAfter, fieldsOfAll, hsum, hwrap, Int.not_le.2 hhigh, Int.not_lt.2 hlow, decide_false, Bool.or_false]
  cases l <;> simp [Bool.or_assoc]

/-- R55: contributions entered one after another into a cell that holds earlier ones. -/
theorem unpackCell_enterAll_of (anchor : BitVec 12) (cell : BitVec 128) (pre l : List (Contr × Bool)) (hl : (pre ++ l).length ≤ 65536)
    (h : unpackCell cell = fieldsOfAll anchor pre) : unpackCell (enterAll cell anchor l) = fieldsOfAll anchor (pre ++ l) := by
  induction l generalizing cell pre with
  | nil => rw [List.append_nil, ← h, enterAll, List.foldl_nil]
  | cons x l ih =>
    rw [List.append_cons] at hl ⊢
    have hpre : (pre ++ [x]).length ≤ 65536 := by
      rw [List.length_append] at hl
      omega
    rw [enterAll, List.foldl_cons]
    exact ih _ _ hl (by rw [unpackCell_enterCell, h, fieldsAfter_fieldsOfAll anchor pre x hpre])

/-- R55: contributions entered one after another into a cleared cell. -/
theorem unpackCell_enterAll (anchor : BitVec 12) (l : List (Contr × Bool)) (hl : l.length ≤ 65536) :
    unpackCell (enterAll 0 anchor l) = fieldsOfAll anchor l :=
  unpackCell_enterAll_of anchor 0 [] l hl (by simp [unpackCell, fieldsOfAll, bitB, bitsN])

/-- Settles O33: the fields that contributions leave are disjunctions and a sum over them, so that they do not depend on the order, and a cell
is determined by its fields. -/
theorem contributionsEnterInAnyOrder : Obligations.ContributionsEnterInAnyOrder := by
  intro anchor l l' hperm hl
  have heq : enterAll 0 anchor l = enterAll 0 anchor l' := by
    apply unpackCell_injective
    rw [unpackCell_enterAll anchor l hl, unpackCell_enterAll anchor l' (hperm.length_eq ▸ hl), fieldsOfAll_perm anchor hperm]
  refine ⟨heq, ?_, fun fmt mode => by rw [heq]⟩
  rw [cellValue_eq, unpackCell_enterAll anchor l hl]
  rfl

end Sys2Proof.Machine
end
